-- ==== Sys2Proof/Word.lean ====
section
/-!
DEFINITION. Sys2Proof/Word.lean: the word types of the part.
A set-up register is 64 bits wide (00_scope R12); memory is byte addressed and little-endian (R8).
-/

namespace Sys2Proof

/-- A set-up register or counter image: 64 bits (R12, R420). -/
abbrev Reg := BitVec 64

/-- One byte of memory. -/
abbrev Byte := BitVec 8

/-- The generator's words (03_index_keyed_randomness R58). -/
abbrev W32 := BitVec 32

/-- A run of bytes placed at addresses, as one list of (address, byte) pairs. -/
abbrev Cells := List Host.Cell

/-- A table of entries by number, keys rising strictly (a finite map as plain data). -/
abbrev Tab (α : Type) := List (Nat × α)

end Sys2Proof
end

