-- ==== Sys2Proof/Syntax.lean ====
section
/-!
DEFINITION. Sys2Proof/Syntax.lean: the commands of the block, one constructor per row of spec/opcode_table.json.
The part takes register accesses, pin and link events, and the completion of its own operations as commands (log entry 1).
An operand is what comes from outside the model's state: an address, a value, data that host software wrote to host
memory before the part reads it, what an error-correcting code found, a measured value.
-/

namespace Sys2Proof

/-- Which part of a 64-bit register an access reaches (00_scope R12): all of it, the low or the high 32 bits. -/
inductive Half where
  | full
  | lo
  | hi
  deriving DecidableEq, Repr, Inhabited

/-- How a PCIe read of host memory ends (12 R287): data, an error status, poisoned data, no completion in time. -/
inductive RdStat where
  | ok
  | error
  | poisoned
  | timeout
  deriving DecidableEq, Repr, Inhabited

/-- What an error-correcting code finds in one stored unit (08 R178 R179, 13 R297 R298). -/
inductive Ecc where
  | clean
  | corrected
  | uncorrectable
  deriving DecidableEq, Repr, Inhabited

/-- How a Chest codeword read ends (13 R308): hard decode with its corrected bits, soft decode, uncorrectable. -/
inductive CwRead where
  | hard (bits : Nat)
  | soft (bits : Nat)
  | fail
  deriving DecidableEq, Repr, Inhabited

/-- Why an engine stalls: the causes of 09 Table 9-5, in the order of their index. -/
inductive StallCause where
  | dataLate
  | stateAbsent
  | feedSlip
  | scoreboard
  | remoteWait
  | credit
  | powerWake
  deriving DecidableEq, Repr, Inhabited

/-- The five engine classes (18 Table 18-3): Lathe, Planer, Joiner, Burnisher, Carrier. -/
inductive Cls where
  | lathe
  | planer
  | joiner
  | burnisher
  | carrier
  deriving DecidableEq, Repr, Inhabited

/-- What a Dovetail HELLO carries (15 R359), and the link index the sender sends it on (Table 15-12). -/
structure Hello where
  member : Nat
  serial : Nat
  fwMajor : Nat
  fwMinor : Nat
  digest : Nat
  epoch : Nat
  state : Nat
  seen : Nat
  link : Nat
  deriving DecidableEq, Repr, Inhabited

/-- The payload of a management message (15 Table 15-5): the spec names its contents, not its byte layout (log entry 31). -/
inductive Mgmt where
  | none
  | hello (h : Hello)
  | mask (epoch members : Nat)
  | time (t1 t2 t3 : Nat)
  | notice (code : Nat)
  deriving DecidableEq, Repr, Inhabited

/-- One Dovetail message: the header of 15 Table 15-4, its payload bytes, and a management payload. -/
structure DtMsg where
  cls : Nat
  op : Nat
  poison : Bool := false
  src : Nat
  dst : Nat
  ctx : Nat := 0
  arrival : Nat := 0
  arrivalEn : Bool := false
  len : Nat := 0
  tag : Nat := 0
  die : Nat := 0
  row : Nat := 0
  byte : Nat := 0
  epoch : Nat := 0
  data : List Byte := []
  mgmt : Mgmt := .none
  own : Nat := 0                -- the sender's own note of the task behind a WRITE; it is no part of the message
  deriving DecidableEq, Repr, Inhabited

/-- A received Dovetail flit as the link layer sees it (15 R344, Table 15-3): symbols the FEC corrected, codewords it could
not correct, whether the CRC passed, the header fields, and the messages whose last byte the flit carries. -/
structure Flit where
  fecCorr : Nat
  fecUe : Nat
  crcOk : Bool
  kind : Nat
  nak : Bool
  seq : Nat
  ack : Nat
  crClass : Nat
  crCount : Nat
  msgs : List DtMsg
  deriving DecidableEq, Repr, Inhabited

/-- A function's bits as a configuration write leaves them (12 Table 12-6): Bus Master Enable, MSI-X Enable, MSI-X Function Mask. -/
structure FnCtl where
  bme : Bool
  msix : Bool := true
  mask : Bool := false
  deriving DecidableEq, Repr, Inhabited

/-- A write of one entry of the MSI-X table (12 R277): the vector, its message address and data, its Vector Mask. -/
structure VecWrite where
  vec : Nat
  addr : Nat := 0
  data : Nat := 0
  mask : Bool := false
  deriving DecidableEq, Repr, Inhabited

/-- The commands, in the order of spec/opcode_table.json. The comment of each gives its mnemonic, its rule and its effect. -/
inductive Instr where
  /-- REG_WRITE (R10). A write to a set-up register that has no row of its own stores its fields as its access types state. -/
  | regWrite (port off : Nat) (h : Half) (v : Reg)
  /-- STAGED_HALF_WRITE (R12). A 32-bit write to the non-committing half of a paired register is staged per port until the committing half is written. -/
  | stagedHalfWrite (port off : Nat) (v : Reg)
  /-- BAD_SIZE_ACCESS (R12). A register access of a wrong size or alignment is discarded, or read as all ones, and advances CNT_HIF_BAD_ACCESS. -/
  | badSizeAccess (port off size : Nat) (write : Bool)
  /-- UNMAPPED_ACCESS (R423). An access to an unlisted offset or an unmapped BAR0 window reads 0 or is discarded and advances CNT_HIF_BAD_ACCESS. -/
  | unmappedAccess (port off : Nat) (h : Half) (write : Bool)
  /-- W1C_CLEAR (R419). A write of 1 to a W1C status bit clears it, unless its event sets it in the same cycle. -/
  | w1cClear (port off : Nat) (h : Half) (v ev : Reg)
  /-- COUNTER_WINDOW_WRITE (R420). A write to a counter window is discarded and advances CNT_HIF_BAD_ACCESS. -/
  | counterWindowWrite (port off : Nat) (h : Half) (v : Reg)
  /-- PWR_MEAS_READ (R424). A BAR0 read of PWR_MEAS returns the measurement and restarts PEAK from the next 1 ms mean. -/
  | pwrMeasRead (port : Nat) (h : Half)
  /-- GANG_FEED_STATUS_READ (R424). A read of GANG_FEED_STATUS returns the status and restarts FIFO_MIN from the present lead. -/
  | gangFeedStatusRead (port g : Nat) (h : Half)
  /-- LOW_HALF_READ (R424). A 32-bit read of the low half of DEV_TIME or of a counter latches the high half in the port's latch. -/
  | lowHalfRead (port off : Nat)
  /-- RAND_PROBE_GO (R70). A write of 1 to RAND_PROBE_CTL.GO latches the key and counter, clears DONE and starts an evaluation of G. -/
  | randProbeGo (port : Nat)
  /-- RAND_PROBE_DONE (R70). The probe evaluation ends, writes RAND_PROBE_OUT and sets DONE within 1 µs of GO. -/
  | randProbeDone
  /-- CAB_EN_WRITE (R246). A write that sets or clears CAB_CTL.EN is checked against the composition rules and refused or applied. -/
  | cabEnWrite (port b : Nat) (h : Half) (v : Reg)
  /-- SAVE (R255). A write of 1 to CAB_CMD.SAVE pre-empts the resident hold of the Cabinet, pinned or not. -/
  | save (port b : Nat)
  /-- QUIESCE (R397). A write of CAB_CMD.QUIESCE stops or resumes placing holds on the Cabinet; clearing it on a pinned Cabinet restores its hold at once. -/
  | quiesce (port b : Nat) (q : Bool)
  /-- CTX_EN_SET (R249). A write that sets CTX_CTL.EN is checked and creates the context or is refused. -/
  | ctxEnSet (port c : Nat) (h : Half) (v : Reg)
  /-- CTX_EN_CLEAR (R249). A write that clears CTX_CTL.EN tears the context down with code 0x0415 unless it is already torn down. -/
  | ctxEnClear (port c : Nat) (h : Half) (v : Reg)
  /-- TEARDOWN_DONE (R262). The last teardown step ends: saved holds are discarded, Cabinets read FREE and the context reads TORN_DOWN. -/
  | teardownDone (c : Nat)
  /-- TRANS_INVAL (R251). A write of CTX_TRANS_INVAL.INVAL drops cached translation entries and sets BUSY. -/
  | transInval (port c : Nat)
  /-- TRANS_INVAL_DONE (R251). The translation invalidation ends and BUSY reads 0, within 2 µs. -/
  | transInvalDone (c : Nat)
  /-- SQ_EN_SET (R285). A write that sets SQ_CFG.EN is checked and enables the submission ring with CONSUMED and LAST_SEQ at 0, or is refused. -/
  | sqEnSet (port r : Nat) (h : Half) (v : Reg)
  /-- SQ_EN_CLEAR (R285). A write that clears SQ_CFG.EN stops reading of the ring at once while accepted jobs run on. -/
  | sqEnClear (port r : Nat) (h : Half) (v : Reg)
  /-- CQ_EN_SET (R285). A write that sets CQ_CFG.EN is checked and enables the completion ring with CQ_POSTED at 0, or is refused. -/
  | cqEnSet (port q : Nat) (h : Half) (v : Reg)
  /-- CQ_EN_CLEAR (R285). A write that clears CQ_CFG.EN disables the completion ring unless a ring, job or waiting entry still uses it. -/
  | cqEnClear (port q : Nat) (h : Half) (v : Reg)
  /-- REGION_CFG_WRITE (R193). A write to BENCH_REGION_CFG sets up, enables with counts at 0, disables or is refused for a circular region. -/
  | regionCfgWrite (port die i : Nat) (h : Half) (v : Reg)
  /-- ARRIVAL_CFG_WRITE (R198). A write to BENCH_ARRIVAL_CFG sets up an arrival counter, and setting EN zeroes its VALUE. -/
  | arrivalCfgWrite (port die i : Nat) (h : Half) (v : Reg)
  /-- CUPBOARD_FLUSH (R219). A write of 1 to CUPBOARD_CTL.FLUSH starts invalidating every Cupboard line and sets FLUSHING. -/
  | cupboardFlush (port m : Nat)
  /-- CUPBOARD_DISABLE (R219). A write of 0 to CUPBOARD_CTL.EN invalidates every line and sends later reads to HBM. -/
  | cupboardDisable (port m : Nat)
  /-- CUPBOARD_FLUSH_DONE (R219). The Cupboard invalidation ends and FLUSHING reads 0, within 60 µs. -/
  | cupboardFlushDone (m : Nat)
  /-- HBM_MAP_WRITE (R290). A write of HBM_MAP changes the interleave mode, refused while any context is enabled. -/
  | hbmMapWrite (port : Nat) (h : Half) (v : Reg)
  /-- STACK_OFFLINE (R302). A write that clears HBM_STACK_CTL.ONLINE takes the stack offline, unless a Cabinet names it or a Chest command runs. -/
  | stackOffline (port s : Nat)
  /-- STACK_ONLINE (R302). A write that sets HBM_STACK_CTL.ONLINE returns the stack to service unless a repair is in progress. -/
  | stackOnline (port s : Nat)
  /-- REPAIR (R303). A write of 1 to HBM_STACK_CTL.REPAIR starts post-package repair, pattern test and zero fill of an offline stack. -/
  | repair (port s : Nat)
  /-- REPAIR_DONE (R303). The stack repair ends, the repair log is updated and REPAIRING reads 0 with the stack zeroed. `unspared`: candidates without a spare row; `failed`: rows that fail the test, and `rest`: how many more of them the candidates do not take in. -/
  | repairDone (s : Nat) (unspared failed : List Nat) (rest : Nat)
  /-- CHEST_LOAD (R317). A Chest LOAD command copies a Drawer's content into HBM through frame die Carriers and checks its CRC. -/
  | chestLoad (port : Nat) (h : Half) (v : Reg) (cw : List CwRead)
  /-- CHEST_WRITE (R316). A Chest WRITE command checks the source against the entry's CRC and writes the Drawer's pages. -/
  | chestWrite (port : Nat) (h : Half) (v : Reg) (fails : List Nat)
  /-- DELETE (R316). A Chest DELETE command removes a Drawer at a journal commit. -/
  | delete (port : Nat) (h : Half) (v : Reg)
  /-- LIST (R316). A Chest LIST command writes the entries of committed Drawers to HBM in ascending DRAWER_ID. -/
  | list (port : Nat) (h : Half) (v : Reg)
  /-- CHEST_CMD_DONE (R318). A Chest command ends with DONE set, BUSY clear and a result code. -/
  | chestCmdDone
  /-- RETENTION_SCRUB (R312). The retention scrub period falls due for a page, which is read and its block relocated if decoding was marginal. -/
  | retentionScrub (ch page : Nat) (cw : List CwRead)
  /-- CHANNEL_OFFLINE (R402). A write of 0 to CHEST_CH_CTL.ONLINE begins taking a Chest channel offline after any relocation finishes. -/
  | channelOffline (port ch : Nat)
  /-- CHANNEL_OFFLINE_DONE (R402). The relocation in progress ends and the Chest channel reads offline. -/
  | channelOfflineDone (ch : Nat)
  /-- CHANNEL_ONLINE (R402). A write of 1 to CHEST_CH_CTL.ONLINE retrains the Chest channel. -/
  | channelOnline (port ch : Nat)
  /-- CHANNEL_RETRAIN_DONE (R402). Channel retraining ends; the channel returns and scrubs overdue pages, or stays offline as FAILED. -/
  | channelRetrainDone (ch : Nat) (ok : Bool) (info replaced : Nat) (marked : List Nat) (cw : List CwRead)
  /-- AES_PORT_ENABLE (R339). A write that sets AES_PORT_CTL.EN is checked and starts the port with silent channels, or is refused. -/
  | aesPortEnable (port a : Nat) (h : Half) (v : Reg)
  /-- AES_PORT_DISABLE (R339). A write that clears AES_PORT_CTL.EN tapers every playing channel, then discards the FIFOs and stops the port. -/
  | aesPortDisable (port a : Nat) (h : Half) (v : Reg)
  /-- AES_REF_ENABLE (R325). A write of AES_REF_CTL enables or disables a reference input, refused while an enabled port follows it. -/
  | aesRefEnable (port ref : Nat) (h : Half) (v : Reg)
  /-- DT_LINK_ENABLE (R351). A write of 1 to DT_LINK_CTL.EN starts training the Dovetail link. -/
  | dtLinkEnable (port l : Nat)
  /-- DT_LINK_DISABLE (R350). A write of 0 to DT_LINK_CTL.EN stops new messages and waits for outstanding flits to be acknowledged. -/
  | dtLinkDisable (port l : Nat)
  /-- DT_DISABLE_DRAIN_END (R350). All flits are acknowledged or 50 µs pass, and the link goes to OFF, handling leftovers as DOWN. -/
  | dtDisableDrainEnd (l : Nat)
  /-- DT_RETRAIN_FORCE (R349). A write of 1 to DT_LINK_CTL.RETRAIN forces one retrain of the link. -/
  | dtRetrainForce (port l : Nat)
  /-- JOIN_ENABLE (R360). A write of 1 to JOIN_CTL.EN sends HELLO and moves the package from SOLO to FORMING. -/
  | joinEnable (port : Nat) (h : Half) (v : Reg)
  /-- JOIN_DISABLE (R360). A write of 0 to JOIN_CTL.EN sends a leaving NOTICE and returns the package to SOLO. -/
  | joinDisable (port : Nat) (h : Half) (v : Reg)
  /-- BOOT_HOST_GO (R386). A write of BOOT_HOST_CTL.GO starts the ROM's DMA read and check of a host-supplied firmware image. -/
  | bootHostGo (port : Nat) (h : Half) (v : Reg)
  /-- BOOT_HOST_LOAD_DONE (R386). The host firmware load ends by starting the firmware or by setting BOOT_STATUS.ERR. -/
  | bootHostLoadDone (st : RdStat) (hw : Cells)
  /-- LEAVE (R396). The LEAVE service command holds accesses to a bench die, copies its region and counter state to a stand-in and swaps their map entries. -/
  | leave (port : Nat) (h : Half) (v : Reg)
  /-- TEST (R398). The TEST service command pattern-tests the Bench store, self-tests every engine and the generator, and zero-fills the die. -/
  | test (port : Nat) (h : Half) (v : Reg)
  /-- UPDATE (R398). The UPDATE service command loads bench die management firmware from the image at SVC_FW_ADDR. -/
  | update (port : Nat) (h : Half) (v : Reg)
  /-- REJOIN (R398). The REJOIN service command self-tests the generator, zeroes the die's counters and returns it to service. -/
  | rejoin (port : Nat) (h : Half) (v : Reg)
  /-- SVC_CMD_DONE (R395). A bench die service command ends with DONE set and a result code. -/
  | svcCmdDone (rows : List Nat) (engineOk genOk : Bool)
  /-- FW_SLOT_GO (R405). A write of FW_SLOT_CTL.GO erases a SPI boot flash slot and programs the image from SVC_FW_ADDR. -/
  | fwSlotGo (port : Nat) (h : Half) (v : Reg)
  /-- FW_SLOT_DONE (R405). Slot programming ends with a result of OK, SLOT_ACTIVE, IMAGE_BAD or SPI_ERR. -/
  | fwSlotDone (spiOk : Bool)
  /-- HALLMARK_SHADOW_WRITE (R406). A write to the Hallmark window changes the shadow, refused while the page commits or LOCK is set. -/
  | hallmarkShadowWrite (port off : Nat) (h : Half) (v : Reg)
  /-- HALLMARK_COMMIT (R406). A write of HALLMARK_CTL.COMMIT starts programming page PAGE from the shadow. -/
  | hallmarkCommit (port : Nat) (h : Half) (v : Reg)
  /-- HALLMARK_COMMIT_DONE (R406). The page programming ends within 10 ms and BUSY clears, setting WORN beyond the rated commits. -/
  | hallmarkCommitDone
  /-- HALLMARK_LOCK (R407). A write of 1 to HALLMARK_CTL.LOCK blocks window writes and commits until reset. -/
  | hallmarkLock (port : Nat)
  /-- SMB_READ_PKG_IDENT (R391). SMBus command 0x00 returns PKG_IDENT. -/
  | smbReadPkgIdent
  /-- SMB_READ_BOOT_STATUS (R391). SMBus command 0x01 returns BOOT_STATUS. -/
  | smbReadBootStatus
  /-- SMB_READ_BRINGUP_STATUS (R391). SMBus command 0x02 returns BRINGUP_STATUS. -/
  | smbReadBringupStatus
  /-- SMB_READ_PWR_MEAS (R391). SMBus command 0x03 returns PWR_MEAS without clearing PEAK. -/
  | smbReadPwrMeas
  /-- SMB_READ_PWR_ENERGY (R391). SMBus command 0x04 returns PWR_ENERGY. -/
  | smbReadPwrEnergy
  /-- SMB_READ_THERM_STATUS (R391). SMBus command 0x05 returns THERM_STATUS without clearing its W1C bits. -/
  | smbReadThermStatus
  /-- SMB_READ_DIE_TEMPS (R391). SMBus command 0x06 returns the junction temperatures of the twelve dies. -/
  | smbReadDieTemps
  /-- SMB_READ_STACK_TEMPS (R391). SMBus command 0x07 returns the temperatures of the twelve stacks. -/
  | smbReadStackTemps
  /-- SMB_NACK (R391). Any other SMBus command code or any write is NACKed. -/
  | smbNack (code : Nat) (write : Bool)
  /-- POWER_ON_RESET (R383). VIN_48 rises above lockout, the AON rail and pilot clock come up and PWR_OK asserts. -/
  | powerOnReset (mv : Nat) (aonLost : Bool) (straps : Nat)
  /-- RST_N_ASSERT (R383). A low level on RST_N of 1 µs or more asserts reset in every domain. -/
  | rstNAssert (ns : Nat)
  /-- RST_N_RELEASE (R384). Reset is released at the later of the RST_N rising edge and PWR_OK, the straps are sampled and bring-up begins. -/
  | rstNRelease (straps : Nat)
  /-- BROWN_OUT (R369). VIN_48 stays below 36 V for 10 µs; PWR_OK deasserts and every rail but AON turns off. -/
  | brownOut
  /-- OVER_VOLTAGE (R370). VIN_48 stays above 62 V for 10 µs; every rail but AON turns off within 50 µs and PWR_OK deasserts. -/
  | overVoltage (mv : Nat)
  /-- OV_RECOVERY (R370). VIN_48 has stayed within 40 to 60 V for 10 ms after an over-voltage and the part restarts as at power-on. -/
  | ovRecovery (straps : Nat)
  /-- REGULATOR_FAULT (R372). A regulator die or section loses regulation and raises die-fatal fault 0x0860 against the dies it feeds. -/
  | regulatorFault (die sect : Nat)
  /-- SENSOR_POLL (R375). Every 100 µs the always-on domain reads every die and stack temperature sensor. -/
  | sensorPoll (dies stks : List Nat)
  /-- PWR_MEAS_UPDATE (R379). Every 1 ms PWR_MEAS takes the new mean, PEAK tracks it and PWR_ENERGY accumulates. -/
  | pwrMeasUpdate (power vin iin : Nat)
  /-- BLOCK_CLOCK_OFF (R373). An engine idle for ENGINE_IDLE_US stops its clock, and the Jig stops when all its die's engines are off. -/
  | blockClockOff (cls : Cls) (e : Nat)
  /-- PLL_OFF (R373). A bench die PLL whose blocks have been clock off for PLL_IDLE_US turns off. -/
  | pllOff (die : Nat)
  /-- CHEST_CLOCK_OFF (R373). A Chest channel idle for CHEST_IDLE_US stops its clock. -/
  | chestClockOff (ch : Nat)
  /-- GANG_CLOCK_RELEASE (R86). A Gang with no armed slot for IDLE_HOLD µs releases its clock. -/
  | gangClockRelease (g : Nat)
  /-- BLOCK_CLOCK_START (R381). A requested block clock starts within 2 µs, or 40 µs after a PLL relock, and a Gang then prefills its Feed. -/
  | blockClockStart (cls : Cls) (e : Nat) (lockFail : Bool)
  /-- PERST_ASSERT (R286). PERSTn_N assertion tears down every context whose traffic uses that port with code 0x0416. -/
  | perstAssert (port : Nat)
  /-- HOT_RESET (R286). A hot reset on a port tears down every context whose traffic uses it. -/
  | hotReset (port : Nat)
  /-- PCIE_LINK_DOWN (R286). Link down on a port tears down every context whose traffic uses it. -/
  | pcieLinkDown (port : Nat)
  /-- PF_FLR (R286). A function-level reset of the physical function tears down its contexts, and on port 0 every virtual function context. -/
  | pfFlr (port : Nat)
  /-- VF_ENABLE_CLEAR (R286). Clearing VF Enable or lowering NumVFs tears down the contexts of every disabled virtual function. -/
  | vfEnableClear (numVfs : Nat) (en : Bool)
  /-- VF_FLR (R286). A function-level reset of virtual function v tears down the contexts with FUNC = v. -/
  | vfFlr (vf : Nat)
  /-- D3HOT_ENTRY (R286). A function entering D3hot is handled as its function-level reset. -/
  | d3hotEntry (port fn : Nat)
  /-- WATCH_ROUND (R272). The watch interval passes and the Ring Watcher issues the function's summary bitmap read. -/
  | watchRound (fn : Nat)
  /-- SWEEP_DUE (R272). The sweep period falls due for a ring and its doorbell is read whatever the bitmap shows. -/
  | sweepDue (r : Nat)
  /-- BITMAP_READ_DONE (R272). The summary bitmap arrives and doorbells of flagged rings are read. -/
  | bitmapReadDone (fn : Nat) (st : RdStat) (hw : Cells)
  /-- DOORBELL_READ_DONE (R268). A doorbell line arrives, PRODUCER is checked and new entries are read in order. -/
  | doorbellReadDone (r : Nat) (st : RdStat) (hw : Cells)
  /-- SUBMISSION_ENTRY (R267). A submission entry arrives and is checked for ring and reserved fields, sequence and graph header. -/
  | submissionEntry (r : Nat) (st : RdStat) (hw : Cells)
  /-- GRAPH_HEADER_READ (R225). The graph header of an accepted job arrives and is checked for alignment and Cabinet. -/
  | graphHeaderRead (j : Nat) (st : RdStat) (hw : Cells)
  /-- RECORD_FETCH (R230). A fetch group of up to 8 records arrives at the home Jig and each is structure-checked. -/
  | recordFetch (j : Nat) (st : RdStat) (hw : Cells)
  /-- NOP (R228). A NOP record joins up to four predecessors and completes when its edges are met. -/
  | nop (j r : Nat)
  /-- FENCE (R229). A FENCE record holds later CARRIER tasks until it is passed in ISSUE or COMPLETE mode. -/
  | fence (j r : Nat)
  /-- COMPUTE_TASK_COMPLETE (R235). A Planer, Joiner or Burnisher task completes when every output, sidecar, Assay record and held-scale word is written. -/
  | computeTaskComplete (cls : Cls) (e : Nat)
  /-- MSIX_MOD_TIMER (R277). MOD_TIME_US passes since the first unsignalled entry and the ring signals its vector. -/
  | msixModTimer (q : Nat)
  /-- RETURN_LINE_POLL (R275). Every 1 µs while an entry waits the part reads the ring's return line. -/
  | returnLinePoll (q : Nat)
  /-- RETURN_LINE_READ_DONE (R275). The return line arrives, is checked and waiting entries are posted as room allows. -/
  | returnLineReadDone (q : Nat) (st : RdStat) (hw : Cells)
  /-- MODEL_LOAD (R241). A MODEL_LOAD task reads the image, checks the step program, derives the schedule and binds the handle to the Gang. -/
  | modelLoad (j r : Nat) (st : RdStat) (hw : Cells)
  /-- START (R106). The START stream operation checks and initialises the entry and places the stream in a slot or leaves it SWAPPED. -/
  | start (j r : Nat) (st : RdStat) (hw : Cells)
  /-- CHUNK (R112). The CHUNK stream operation checks order and marks and accepts a span of steps. -/
  | chunk (j r : Nat) (st : RdStat) (hw : Cells)
  /-- SET (R105). The SET stream operation writes its masked fields at the next step boundary. -/
  | set (j r : Nat) (st : RdStat) (hw : Cells)
  /-- PAUSE (R105). The PAUSE stream operation sets PAUSED at the next step boundary. -/
  | pause (j r : Nat) (st : RdStat) (hw : Cells)
  /-- RESUME (R105). The RESUME stream operation clears PAUSED at the next step boundary. -/
  | resume (j r : Nat) (st : RdStat) (hw : Cells)
  /-- RESET (R117). The RESET stream operation sets RESET_NEXT at the next step boundary. -/
  | reset (j r : Nat) (st : RdStat) (hw : Cells)
  /-- SWAP_OUT (R107). The SWAP_OUT stream operation starts saving a resident stream at its next step boundary. -/
  | swapOut (j r : Nat) (st : RdStat) (hw : Cells)
  /-- SWAP_IN (R107). The SWAP_IN stream operation makes a SWAPPED stream STATE_ABSENT. -/
  | swapIn (j r : Nat) (st : RdStat) (hw : Cells)
  /-- END (R105). The END stream operation ends the stream after its last accepted chunk and frees its slot. -/
  | endOp (j r : Nat) (st : RdStat) (hw : Cells)
  /-- STREAM_SAVE_DONE (R107). A stream's save completes and it becomes SWAPPED or STATE_ABSENT with SAVED set and its slot free. -/
  | streamSaveDone (c n : Nat)
  /-- STREAM_RESTORE_DONE (R107). A stream's restore completes and it becomes RESIDENT, or SWAPPING if a SWAP_OUT waits. -/
  | streamRestoreDone (c n : Nat) (st : RdStat) (hw : Cells)
  /-- STREAM_EXCHANGE (R110). In a batch context a resident stream unarmed for EXCHANGE_IDLE µs is swapped out for a waiting one. -/
  | streamExchange (g : Nat)
  /-- CHUNK_COMPLETE (R113). A chunk completes when its last step is done and its last output row is written. -/
  | chunkComplete (c n : Nat)
  /-- GANG_STEP_START (R91). At cycle 0 the Gang starts a step when at least one slot is armed. -/
  | gangStepStart (g : Nat)
  /-- FEED_ROW_ARRIVE (R82). A Bench store row read by the Weight Feed arrives in its FIFO and releases any pause. -/
  | feedRowArrive (g : Nat) (ecc : Ecc) (late : Nat)
  /-- COND_RECORD_ARRIVE (R116). A read-ahead conditioning record arrives, and a poisoned one poisons the step with fault 0x0430. -/
  | condRecordArrive (slot : Nat) (st : RdStat) (ecc : Ecc) (hw : Cells)
  /-- INIT_VECTOR_LOADED (R96). The initial vector load for a reset completes, or poisons the step with 0x0430. -/
  | initVectorLoaded (slot : Nat) (st : RdStat) (ecc : Ecc) (hw : Cells)
  /-- PUNCH_START (R87). When the last logit is in the buffer the Punch draws each slot's bands in slot order. -/
  | punchStart (g : Nat)
  /-- STEP_COMPLETE (R90). At the feedback-ready cycle the Punch writes F and the output values and the slot's step completes. -/
  | stepComplete (slot : Nat)
  /-- CONV (R127). A Planer CONV task issues and convolves its input stripe by stripe. -/
  | conv (j r : Nat) (st : RdStat) (hw : Cells)
  /-- TCONV (R124). A Planer TCONV task issues and computes a transposed convolution. -/
  | tconv (j r : Nat) (st : RdStat) (hw : Cells)
  /-- MAXPOOL (R142). A Planer MAXPOOL task issues and takes the maximum over each window. -/
  | maxpool (j r : Nat) (st : RdStat) (hw : Cells)
  /-- AVGPOOL (R143). A Planer AVGPOOL task issues and takes the mean over each window. -/
  | avgpool (j r : Nat) (st : RdStat) (hw : Cells)
  /-- S2C (R144). A Planer S2C task issues and regroups space into channels. -/
  | s2c (j r : Nat) (st : RdStat) (hw : Cells)
  /-- C2S (R144). A Planer C2S task issues and regroups channels into space. -/
  | c2s (j r : Nat) (st : RdStat) (hw : Cells)
  /-- GEMM (R152). A Joiner GEMM task issues and multiplies its token blocks against weight tiles. -/
  | gemm (j r : Nat) (st : RdStat) (hw : Cells)
  /-- AA (R153). A Joiner AA task issues and multiplies pairs of activation tensors. -/
  | aa (j r : Nat) (st : RdStat) (hw : Cells)
  /-- ATTN (R156). A Joiner ATTN task issues and computes scores, softmax and context per sequence and head. -/
  | attn (j r : Nat) (st : RdStat) (hw : Cells)
  /-- ADD (R161). A Burnisher ADD task adds two aligned operands per element. -/
  | add (j r : Nat) (st : RdStat) (hw : Cells)
  /-- MUL (R161). A Burnisher MUL task multiplies two operands per element. -/
  | mul (j r : Nat) (st : RdStat) (hw : Cells)
  /-- MAX (R161). A Burnisher MAX task takes the larger of two operands per element. -/
  | max (j r : Nat) (st : RdStat) (hw : Cells)
  /-- MIN (R161). A Burnisher MIN task takes the smaller of two operands per element. -/
  | min (j r : Nat) (st : RdStat) (hw : Cells)
  /-- CONVERT (R161). A Burnisher CONVERT task rescales one operand per element. -/
  | convert (j r : Nat) (st : RdStat) (hw : Cells)
  /-- LUT (R162). A Burnisher LUT task maps each element through a byte table or an interpolated FP32 table. -/
  | lut (j r : Nat) (st : RdStat) (hw : Cells)
  /-- RMSNORM (R164). A Burnisher RMSNORM task normalises each row by its root mean square. -/
  | rmsnorm (j r : Nat) (st : RdStat) (hw : Cells)
  /-- LAYERNORM (R164). A Burnisher LAYERNORM task normalises each row by its mean and variance. -/
  | layernorm (j r : Nat) (st : RdStat) (hw : Cells)
  /-- SOFTMAX (R163). A Burnisher SOFTMAX task computes a table-based softmax per row. -/
  | softmax (j r : Nat) (st : RdStat) (hw : Cells)
  /-- GATHER (R165). A Burnisher GATHER task copies table entries named by indices into output rows. -/
  | gather (j r : Nat) (st : RdStat) (hw : Cells)
  /-- DROPOUT (R166). A Burnisher DROPOUT task zeroes elements whose random value is not below KEEP. -/
  | dropout (j r : Nat) (st : RdStat) (hw : Cells)
  /-- FILL_UNIFORM (R167). A Burnisher FILL_UNIFORM task writes uniform random values. -/
  | fillUniform (j r : Nat) (st : RdStat) (hw : Cells)
  /-- FILL_NORMAL (R167). A Burnisher FILL_NORMAL task writes normal random values. -/
  | fillNormal (j r : Nat) (st : RdStat) (hw : Cells)
  /-- OPERAND_DATA_ARRIVE (R220). Operand data that a compute engine requested arrives and its work continues. -/
  | operandDataArrive (cls : Cls) (e : Nat) (st : RdStat) (ecc buf : Ecc) (cause : StallCause) (stall : Nat) (hw : Cells)
  /-- BENCH_READ (R172). A row read request is granted by its bank and delivers the row with correction or poison. -/
  | benchRead (die row : Nat) (ecc : Ecc)
  /-- CORRECTED_WRITEBACK (R178). The corrected row is written back in the next bank cycle granted to it. -/
  | correctedWriteback (die row : Nat)
  /-- BENCH_WRITE (R173). A row write request writes a whole row, or merges a partial one indivisibly. -/
  | benchWrite (c die row first : Nat) (data : List Byte) (poison : Bool) (arrival : Option Nat) (ecc : Ecc)
  /-- TRANSPOSED_READ (R175). A transposed read gathers 16 strided rows into an 8 KiB column-major result. -/
  | transposedRead (c die row stride width : Nat) (ecc : Ecc)
  /-- STRIDED_READ (R176). A strided read gathers one 32-byte segment from each of 16 strided rows. -/
  | stridedRead (c die row stride seg : Nat) (ecc : Ecc)
  /-- PATROL_SCRUB (R183). Patrol scrub reads the next row of the store once per SCRUB_HOURS. -/
  | patrolScrub (die : Nat) (ecc : Ecc)
  /-- SCOREBOARD_REGISTER (R185). A task's write range is registered at its owner's scoreboard and acknowledged. -/
  | scoreboardRegister (cls : Cls) (e : Nat)
  /-- REGION_RESERVE (R190). A producer's reservation takes positions from RSVD if they fit, else waits in order. -/
  | regionReserve (c die i n : Nat)
  /-- REGION_RETURN (R191). A consumer returns a position and HEAD advances over contiguous returns. -/
  | regionReturn (c die i pos : Nat)
  /-- BANK_GATE (R199). A bank idle for GATE_IDLE µs with nothing in flight commits to gating. -/
  | bankGate (die bank : Nat)
  /-- BANK_WAKE_DONE (R200). The bank wakes 2 µs later and runs its queued accesses in order. -/
  | bankWakeDone (die bank : Nat)
  /-- CARRIER (R206). A CARRIER task reads and checks its block list and starts moving bytes. -/
  | carrier (j r : Nat) (st : RdStat) (hw : Cells)
  /-- CARRIER_DATA_ARRIVE (R206). Source data for a Carrier line arrives and is written to its destination. -/
  | carrierDataArrive (e : Nat) (st : RdStat) (ecc : Ecc) (cause : StallCause) (stall : Nat) (hw : Cells)
  /-- TRANSFER_COMPLETE (R209). A transfer completes when every destination write is written at its owner. -/
  | transferComplete (e : Nat)
  /-- CUPBOARD_FILL_DONE (R219). A Cupboard line fill from HBM completes and serves the waiting misses. -/
  | cupboardFillDone (m line : Nat) (ecc : Ecc)
  /-- BATCH_SWITCH (R221). A batch engine that has waited SWITCH_NS stops its task and takes a ready one. -/
  | batchSwitch (cls : Cls) (e : Nat)
  /-- QUANTUM_EXPIRE (R252). QUANTUM_US passes since the resident hold was placed and a scheduling decision runs. -/
  | quantumExpire (b : Nat)
  /-- GRACE_EVICT (R253). A set of blocked Cabinets with runnable waiters for SCHED_GRACE µs has one hold evicted. -/
  | graceEvict
  /-- DRAIN_RESPONSE (R256). A read response for stopped work arrives and is discarded in the drain buffer. -/
  | drainResponse (b : Nat)
  /-- SAVE_COMPLETE (R255). A hold's save finishes writing the image sections and the Cabinet reads FREE. -/
  | saveComplete (b : Nat)
  /-- RESTORE_COMPLETE (R259). A hold's restore completes and the home Jig resumes fetch. -/
  | restoreComplete (b : Nat) (hw : Cells)
  /-- HBM_READ (R293). An HBM read request at the controller delivers a sector, through the Cupboard where it applies. -/
  | hbmRead (addr : Nat) (lineRead : Bool) (ecc : Ecc)
  /-- HBM_WRITE (R293). An HBM write request replaces or merges a sector and updates any Cupboard line. -/
  | hbmWrite (addr : Nat) (data : List Byte) (poison : Bool) (ecc : Ecc)
  /-- HBM_REFRESH (R294). The controller's refresh interval falls due and a bank is refreshed. -/
  | hbmRefresh (s bank : Nat)
  /-- SELF_REFRESH_ENTER (R295). A stack idle for SR_IDLE_US enters self-refresh. -/
  | selfRefreshEnter (s : Nat)
  /-- STACK_WAKE_DONE (R295). A stack woken by a request leaves self-refresh within 1 µs. -/
  | stackWakeDone (s : Nat)
  /-- ODECC_POLL (R296). Once an hour the controller reads each stack's on-die ECC log. -/
  | odeccPoll (s n : Nat)
  /-- HBM_PATROL_SCRUB (R301). HBM patrol scrub reads the next sector once per SCRUB_HOURS. -/
  | hbmPatrolScrub (s : Nat) (ecc : Ecc)
  /-- AES_FRAME (R336). Each port frame period sends one biphase-mark frame of two subframes. -/
  | aesFrame (a : Nat)
  /-- AES_SIDE_ARRIVE (R338). The side record arrives and applies from the next block, or an error sets SIDE_ERR. -/
  | aesSideArrive (a : Nat) (st : RdStat) (ecc : Ecc) (hw : Cells)
  /-- AES_FEED_ARRIVE (R323). An output row's values reach the channel FIFO and the row is returned. -/
  | aesFeedArrive (a ch : Nat) (ecc : Ecc)
  /-- AES_RAMP_END (R331). After N frames of ramp the channel enters PLAYING. -/
  | aesRampEnd (a ch : Nat)
  /-- AES_TAPER_END (R332). After N frames of taper the channel discards its FIFO and enters SILENT or RAMP_IN. -/
  | aesTaperEnd (a ch : Nat)
  /-- REF_WINDOW (R325). A 64-frame reference measurement ends and sets the input's state and OFFSET. -/
  | refWindow (ref : Nat) (ppm16 : Int)
  /-- REF_ABSENT_TIMEOUT (R325). No valid reference edge for 8 nominal periods makes the input ABSENT. -/
  | refAbsentTimeout (ref : Nat)
  /-- REF_RATE_BROADCAST (R324). Every 1 ms the reference's frame die sends its measured rate to the other frame dies. -/
  | refRateBroadcast (ref : Nat)
  /-- DOWEL_FLIT_CRC_ERR (R20). A Dowel flit that fails its CRC is replayed from the sender's buffer. -/
  | dowelFlitCrcErr (d : Nat) (again : Bool)
  /-- DOWEL_RETRAIN_DONE (R20). Dowel port retraining ends, or fails and raises die-fatal fault 0x0870. -/
  | dowelRetrainDone (d : Nat) (ok : Bool)
  /-- DT_FLIT_RECEIVE (R348). A Dovetail flit arrives and is accepted, discarded as duplicate or answered with NAK. -/
  | dtFlitReceive (l : Nat) (f : Flit)
  /-- DT_RETRAIN (R349). A flit resent 16 times without ACK retrains the link with sequences kept. -/
  | dtRetrain (l : Nat)
  /-- DT_RETRAIN_DONE (R349). Link retraining ends and replay resumes, or the link goes DOWN after three. -/
  | dtRetrainDone (l : Nat) (lanes : Nat)
  /-- DT_TRAIN_DONE (R351). Full link training ends at 8 or 4 lanes and the link enters HELLO, or stays DOWN. -/
  | dtTrainDone (l lanes : Nat)
  /-- DT_HELLO_TIMER (R352). Every 100 µs each end sends HELLO. -/
  | dtHelloTimer (l : Nat)
  /-- DT_NARROW (R353). An UP link idle for IDLE_US narrows to two lanes. -/
  | dtNarrow (l : Nat)
  /-- DT_WIDEN_DONE (R353). A narrowed link finishes widening after a non-management message is queued. -/
  | dtWidenDone (l : Nat)
  /-- READ (R356). A remote READ message at the target is checked and answered with DATA, REFUSED or FENCED. -/
  | read (l : Nat)
  /-- DATA (R358). A DATA message returns the bytes of a remote read to the requester. -/
  | data (l : Nat)
  /-- FENCED (R361). A FENCED answer makes the requester hold its read until it is JOINED. -/
  | fenced (l : Nat)
  /-- REFUSED (R356). A REFUSED answer faults the requester with the address fault. -/
  | refusedMsg (l : Nat)
  /-- WRITE (R357). A remote WRITE message is checked at the target and written to the owner die. -/
  | write (l : Nat)
  /-- HELLO (R359). A HELLO message updates the peer's identity, agreement and SEEN mask. -/
  | hello (l : Nat)
  /-- PREPARE (R360). A PREPARE from the master holds new remote accesses and sends ACK once writes are acknowledged. -/
  | prepare (l : Nat)
  /-- ACK (R360). An ACK from a member is collected by the master toward the COMMIT. -/
  | ack (l : Nat)
  /-- COMMIT (R360). A COMMIT naming the member adopts the epoch and mask and releases held accesses. -/
  | commit (l : Nat)
  /-- TIME_REQ (R363). A TIME_REQ at the master is stamped and answered with TIME_RESP. -/
  | timeReq (l : Nat)
  /-- TIME_RESP (R363). A TIME_RESP yields the offset and the package slews, steps or halves its device time. -/
  | timeResp (l : Nat)
  /-- NOTICE (R361). A NOTICE delivers a refusal or fence to the sending context or package. -/
  | notice (l : Nat)
  /-- REMOTE_READ_TIMEOUT (R358). A remote read unanswered for 50 µs times out with fault 0x04A1, or none while draining. -/
  | remoteReadTimeout (tag : Nat)
  /-- JOIN_QUIET_EXPIRE (R360). The master's agreeing set is unchanged for 2 ms and it sends PREPARE. -/
  | joinQuietExpire
  /-- JOIN_ACK_TIMEOUT (R360). 1 ms passes after PREPARE and the master commits with the members that acknowledged. -/
  | joinAckTimeout
  /-- JOIN_COMMIT_TIMEOUT (R360). A member 1 ms after ACK with no COMMIT drops the PREPARE and re-elects. -/
  | joinCommitTimeout
  /-- JOIN_HELLO_LOSS (R360). A HELLO absent for 1 ms makes a member re-elect or the master prepare a new epoch. -/
  | joinHelloLoss (member : Nat)
  /-- TIME_MEASURE_TIMER (R363). The time measurement period passes and TIME_REQ is sent to the master. -/
  | timeMeasureTimer
  /-- FAULT_IRQ_TIMER (R418). The 10 µs fault interrupt spacing ends and one MSI-X message covers new entries. -/
  | faultIrqTimer
  /-- PILOT_TICK (R382). Each pilot tick advances device time by 40 ns, or by 39, 41 or 20 while the package slews or runs at half rate. -/
  | pilotTick
  /-- BRINGUP_STAGE_END (R387). A bring-up stage (firmware start, frame dies, HBM training and fill, a bench die pair, the Chest scan) completes, sets its status bits and lets the next stage start. -/
  | bringupStageEnd (stage unit : Nat) (ok : Bool) (info : Nat) (marked : List Nat)
  /-- PERST_DEASSERT (R387). Deassertion of PERSTn_N lets its PCIe port enter Detect within 20 ms and begin link training. -/
  | perstDeassert (port : Nat)
  /-- PCIE_LINK_UP (R249). A PCIe port's link finishes training with its partner and comes up, so contexts of its functions may be enabled. -/
  | pcieLinkUp (port : Nat)
  /-- COMPLETION_TIMEOUT (R287). A PCIe read of host memory that receives no completion within the completion timeout fails, counted under R273 or faulting the context with 0x0490. -/
  | completionTimeout (kind idx : Nat)
  /-- CONFIG_WRITE (R281). A PCIe configuration write sets VF Enable or raises NumVFs, or changes Bus Master Enable of a function. The write leaves Bus Master Enable, VF Enable, NumVFs, MSI-X Enable and MSI-X Function Mask as its operands give them. -/
  | configWrite (port fn : Nat) (ctl : FnCtl) (vfEn : Bool) (numVfs : Nat)
  /-- MSIX_VECTOR_UNMASK (R277). A write to the MSI-X table or function mask that unmasks a vector with its pending bit set sends the pending message. The write gives one vector its message address, message data and Vector Mask. -/
  | msixVectorUnmask (port fn : Nat) (w : VecWrite)
  /-- REF_EDGES_PRESENT (R325). Valid frame edges appear on an enabled but ABSENT reference input, which enters ACQUIRING. -/
  | refEdgesPresent (ref : Nat)
  deriving DecidableEq, Repr, Inhabited

end Sys2Proof
end

