-- ==== Sys2Proof/Config.lean ====
section
/-!
DEFINITION. Sys2Proof/Config.lean: what an implementation fixes and the free values.
An opaque constant here has no body: nothing in Lean can evaluate it, so a claim holds whatever it is.
-/

namespace Sys2Proof.Config

/-- The value of an undefined or unstated result (00_scope R5). It is applied to `Part.fresh`, a counter that the
step reads and advances, so that each use is a value of its own. DESIGN CHOICE, log entry 7; safe. -/
opaque freeValue : Nat → BitVec 64

/-- What a byte of an undefined range reads as until it is written (13 R290 R317, 11 R258): the first argument names the
range, the second is the byte's address. Log entry 8; safe. -/
opaque freeByte : Nat → Nat → BitVec 8

/-- The DRAM row that holds a sector of a stack: its placement is not visible to host software (13 R292). Log entry 9; safe. -/
opaque hbmRow : Nat → Nat → Nat

/-- Which of the two attachment ports between a frame die and a bench die carries a transfer (01 R18 R19): the manual numbers the ports and does
not state the choice. The arguments are the bench die and the address. Log entry 73; safe. -/
opaque attachPort : Nat → Nat → Nat

/-- The transfers that save, restore and Drawer traffic has outstanding on a frame die Carrier (09 R204 states no number): the arguments are
DEV_TIME and the Carrier. Log entry 16; safe. -/
opaque moveSlots : Nat → Nat → Nat

/-- The ELEMENT under which a score of an attention is rounded (03 R64 numbers the elements of output rows only): the arguments are the query
head and the cache token. Log entry 7; safe. -/
opaque scoreElement : Nat → Nat → Nat

end Sys2Proof.Config
end

