-- ==== Sys2Proof/Machine/Tab.lean ====
section
/-!
DEFINITION. Sys2Proof/Machine/Tab.lean: finite maps as lists whose keys rise strictly.
-/

namespace Sys2Proof.Tab

/-- The entry of key `k`. -/
def find {α : Type} (k : Nat) : Tab α → Option α
  | [] => none
  | (j, v) :: t => if j = k then some v else find k t

/-- The entry of key `k`, or `d` where none is listed. -/
def getD {α : Type} (t : Tab α) (k : Nat) (d : α) : α := (find k t).getD d

/-- Stores `v` under key `k`, in place or before the first greater key. -/
def put {α : Type} (k : Nat) (v : α) : Tab α → Tab α
  | [] => [(k, v)]
  | (j, w) :: t => if k < j then (k, v) :: (j, w) :: t else if j = k then (k, v) :: t else (j, w) :: put k v t

/-- Removes the entry of key `k`. -/
def del {α : Type} (k : Nat) : Tab α → Tab α
  | [] => []
  | (j, w) :: t => if j = k then t else (j, w) :: del k t

/-- Stores `v` under `k`, or removes the entry where `v` is the value an unlisted key reads as. -/
def putD {α : Type} [DecidableEq α] (d : α) (k : Nat) (v : α) (t : Tab α) : Tab α :=
  if v = d then del k t else put k v t

/-- Changes the entry of key `k` where there is one. -/
def upd {α : Type} (k : Nat) (f : α → α) (t : Tab α) : Tab α :=
  t.map fun e => if e.1 = k then (e.1, f e.2) else e

/-- Changes every entry. -/
def mapV {α β : Type} (f : Nat → α → β) (t : Tab α) : Tab β := t.map fun e => (e.1, f e.1 e.2)

/-- Keeps the entries that `f` accepts. -/
def keep {α : Type} (f : Nat → α → Bool) (t : Tab α) : Tab α := t.filter fun e => f e.1 e.2

/-- A key beyond every listed one. -/
def next {α : Type} (t : Tab α) : Nat := t.foldl (fun n e => max n (e.1 + 1)) 0

/-- The keys. -/
def keys {α : Type} (t : Tab α) : List Nat := t.map Prod.fst

/-- The keys rise strictly. -/
def wf {α : Type} : Tab α → Bool
  | [] => true
  | [_] => true
  | (j, _) :: (k, w) :: t => decide (j < k) && wf ((k, w) :: t)

/-- The canonical form of a table whose unlisted keys read as `d`: keys rise strictly and no entry is `d`. -/
def canon {α : Type} [DecidableEq α] (d : α) (t : Tab α) : Bool :=
  wf t && t.all fun e => decide (e.2 ≠ d)

end Sys2Proof.Tab

namespace Sys2Proof

/-- Replaces element `i` of a list (no change beyond its end). -/
def setAt {α : Type} (l : List α) (i : Nat) (v : α) : List α := l.set i v

/-- Changes element `i` of a list. -/
def modAt {α : Type} (l : List α) (i : Nat) (f : α → α) : List α := l.mapIdx fun j x => if j = i then f x else x

/-- `n` copies of `v`. -/
def rep {α : Type} (n : Nat) (v : α) : List α := List.replicate n v

/-- The numbers `a, a+1, …, a+n-1`. -/
def span (a n : Nat) : List Nat := (List.range n).map (a + ·)

/-- Cuts a list into pieces of `n` elements; `fuel` bounds the number of pieces. -/
def pieces {α : Type} (n : Nat) : Nat → List α → List (List α)
  | 0, _ => []
  | fuel + 1, l => if l.isEmpty then [] else l.take n :: pieces n fuel (l.drop n)

/-- Adds a number to a rising list, once. -/
def insNat (k : Nat) : List Nat → List Nat
  | [] => [k]
  | j :: t => if k < j then k :: j :: t else if j = k then j :: t else j :: insNat k t

end Sys2Proof
end

