-- ==== Sys2Proof/Machine/Bits.lean ====
section
/-!
DEFINITION. Sys2Proof/Machine/Bits.lean: bit fields, sign extension and byte order (00_scope R7 R8), the CRC-32 of 11 R260.
-/

namespace Sys2Proof

/-- Bits [lo + w - 1 : lo] of a number (R7). -/
def bits (x lo w : Nat) : Nat := (x >>> lo) % 2 ^ w

/-- Bit `i` of a number. -/
def bit (x i : Nat) : Bool := x.testBit i

/-- Bits [lo + w - 1 : lo] replaced by `v`. -/
def setBits (x lo w v : Nat) : Nat :=
  x % 2 ^ lo + (v % 2 ^ w) * 2 ^ lo + (x >>> (lo + w)) * 2 ^ (lo + w)

def Reg.get (r : Reg) (lo w : Nat) : Nat := bits r.toNat lo w

def Reg.bit (r : Reg) (i : Nat) : Bool := r.toNat.testBit i

def Reg.put (r : Reg) (lo w v : Nat) : Reg := BitVec.ofNat 64 (setBits r.toNat lo w v)

/-- 1 for true. -/
def b2n (b : Bool) : Nat := if b then 1 else 0

/-- A `w`-bit two's complement number. -/
def signed (w x : Nat) : Int :=
  if x % 2 ^ w < 2 ^ (w - 1) then Int.ofNat (x % 2 ^ w) else Int.ofNat (x % 2 ^ w) - Int.ofNat (2 ^ w)

/-- The `w`-bit two's complement encoding of an integer. -/
def unsigned (w : Nat) (x : Int) : Nat := (x % Int.ofNat (2 ^ w)).toNat

/-- An integer clamped to `lo .. hi`. -/
def clampI (lo hi x : Int) : Int := if x < lo then lo else if hi < x then hi else x

def clampN (lo hi x : Nat) : Nat := if x < lo then lo else if hi < x then hi else x

/-- `a / b` rounded up. -/
def cdiv (a b : Nat) : Nat := (a + b - 1) / b

/-- The little-endian number of a byte list (R8). -/
def leNat : List Byte → Nat
  | [] => 0
  | b :: t => b.toNat + 256 * leNat t

/-- The low `n` bytes of a number, little-endian (R8). -/
def leBytes : Nat → Nat → List Byte
  | 0, _ => []
  | n + 1, x => BitVec.ofNat 8 x :: leBytes n (x / 256)

/-- The number of set bits among the low `w`. -/
def popCount (w x : Nat) : Nat := ((List.range w).filter fun i => x.testBit i).length

/-- The indices of the set bits among the low `w`, ascending. -/
def bitsSet (w x : Nat) : List Nat := (List.range w).filter fun i => x.testBit i

def lowestBit (w x : Nat) : Option Nat := (bitsSet w x).head?

/-- Base-2 logarithm rounded down, 0 of 0. -/
def log2 (x : Nat) : Nat := x.log2

/-- One bit step of the reflected CRC-32 of polynomial 0x04C1_1DB7 (11 R260). -/
def crcStep (c : Nat) : Nat := if c % 2 = 1 then (c / 2) ^^^ 0xEDB88320 else c / 2

def crcByte (c : Nat) (b : Byte) : Nat :=
  let c := c ^^^ b.toNat
  crcStep (crcStep (crcStep (crcStep (crcStep (crcStep (crcStep (crcStep c)))))))

/-- The IEEE 802.3 CRC-32: initial value and final inversion of all ones, bits reflected. -/
def crc32 (l : List Byte) : Nat := (l.foldl crcByte 0xFFFFFFFF) ^^^ 0xFFFFFFFF

end Sys2Proof
end

