-- ==== Sys2Proof/Machine/Numeric.lean ====
section
/-!
DEFINITION. Sys2Proof/Machine/Numeric.lean: number formats, accumulation, the output stage, Assay and Anneal (02_numeric_formats).
A binary32 value is held as an integer in units of 2^-149; no rule reads the sign of a zero operand or accumulator, so none is kept.
-/

namespace Sys2Proof

/-- A binary32 value in units of 2^-149. -/
abbrev F32 := Int

namespace Num

/-- The unit of `F32`: 1.0 is 2^149. -/
def unit : Nat := 149

/-- An integer as an `F32`. -/
def ofInt (i : Int) : F32 := i * 2 ^ 149

/-- The largest finite binary32 magnitude, (2 - 2^-23) * 2^127. -/
def maxF : Nat := (2 ^ 24 - 1) * 2 ^ 253

/-- A natural quotient rounded to nearest, ties to even. -/
def roundDiv (n d : Nat) : Nat :=
  let q := n / d
  let r := 2 * (n % d)
  if d < r then q + 1 else if r = d then q + q % 2 else q

/-- `m * 2^-sh` rounded to a 24-bit significand, nearest even, subnormal results flushed, overflow saturated (R40 steps 1, 3, 4).
The flag tells a saturation. -/
def roundMag (m sh : Nat) : Nat × Bool :=
  if m = 0 then (0, false) else
  let l := m.log2
  let q := if l ≤ 23 then m * 2 ^ (23 - l) else roundDiv m (2 ^ (l - 23))
  -- the rounded value is q * 2^(l - 23 - sh); in units of 2^-149 its exponent is l + 126 - sh
  if sh ≤ l + 126 then
    let r := q * 2 ^ (l + 126 - sh)
    if maxF < r then (maxF, true) else (r, false)
  else if sh = l + 127 ∧ q = 2 ^ 24 then (2 ^ 23, false) else (0, false)

/-- A signed `n * 2^-sh` rounded as `roundMag` rounds. -/
def roundF (n : Int) (sh : Nat) : F32 × Bool :=
  let r := roundMag n.natAbs sh
  (if n < 0 then -Int.ofNat r.1 else Int.ofNat r.1, r.2)

/-- `m * 2^-sh` rounded to binary32, nearest even, with subnormal results kept: a rule that rounds to FP32 and speaks of no flush
(04 R89, 07 R161, R162, R164, R167) rounds so. The flag tells a saturation (log entry 78). -/
def roundSub (m sh : Nat) : Nat × Bool :=
  let r := if sh ≤ 149 then m * 2 ^ (149 - sh) else roundDiv m (2 ^ (sh - 149))
  if r ≤ 2 ^ 23 then (r, false) else roundMag m sh

/-- A signed `n * 2^-sh` rounded as `roundSub` rounds. -/
def roundG (n : Int) (sh : Nat) : F32 × Bool :=
  let r := roundSub n.natAbs sh
  (if n < 0 then -Int.ofNat r.1 else Int.ofNat r.1, r.2)

/-- A rational `n / d` as `m * 2^-sh` with enough digits to round once, its last one sticky; both are numbers in one unit. -/
def ratio (n d : Nat) : Nat × Nat :=
  if n = 0 ∨ d = 0 then (0, 0) else
  let k := (d.log2 + 28) - n.log2
  (2 * (n * 2 ^ k / d) + (if n * 2 ^ k % d = 0 then 0 else 1), k + 1)

/-- A magnitude with the sign of `a * b`. -/
def signOf (a b : Int) (r : Nat) : F32 := if (a < 0) != (b < 0) then -Int.ofNat r else Int.ofNat r

/-- Sum, difference, product and quotient of binary32 values, rounded. -/
def fadd (a b : F32) : F32 := (roundG (a + b) 149).1
def fsub (a b : F32) : F32 := (roundG (a - b) 149).1
def fmul (a b : F32) : F32 := (roundG (a * b) 298).1

def fdiv (a b : F32) : F32 :=
  let x := ratio a.natAbs b.natAbs
  signOf a b (roundSub x.1 x.2).1

/-- The same with subnormal results flushed, as every step of a softmax rounds (07 R163). -/
def faddZ (a b : F32) : F32 := (roundF (a + b) 149).1
def fsubZ (a b : F32) : F32 := (roundF (a - b) 149).1
def fmulZ (a b : F32) : F32 := (roundF (a * b) 298).1

def fdivZ (a b : F32) : F32 :=
  let x := ratio a.natAbs b.natAbs
  signOf a b (roundMag x.1 x.2).1

/-- The floor of a square root, by `fuel` bits from the top. -/
def isqrtGo (n : Nat) : Nat → Nat → Nat
  | 0, r => r
  | k + 1, r => let c := r + 2 ^ k; isqrtGo n k (if c * c ≤ n then c else r)

def isqrt (n : Nat) : Nat := isqrtGo n (n.log2 / 2 + 1) 0

/-- The square root of a non-negative binary32 value, rounded. -/
def fsqrt (a : F32) : F32 :=
  if a ≤ 0 then 0 else
  let n := a.natAbs * 2 ^ 201            -- value * 2^350, an even exponent
  let r := isqrt n
  Int.ofNat (roundMag (2 * r + (if r * r = n then 0 else 1)) 176).1

/-- 1 / sqrt of a positive binary32 value, rounded. -/
def frsqrt (a : F32) : F32 :=
  if a ≤ 0 then 0 else
  -- 1/sqrt(a * 2^-149) * 2^s, floored: the root of 2^(2s + 149) / a
  let s := 160
  let n := 2 ^ (2 * s + 149)
  let r := isqrt (n / a.natAbs)
  Int.ofNat (roundMag (2 * r + (if r * r * a.natAbs = n then 0 else 1)) (s + 1)).1

/-! ### Formats -/

/-- A bfloat16 code as the engines read it (R37): NaN is 0, infinities read as the largest magnitude, subnormals as zero.
The flag tells a NaN. -/
def bf16 (c : Nat) : F32 × Bool :=
  let e := bits c 7 8
  let m := bits c 0 7
  let mag : Nat := if e = 255 then (if m = 0 then (2 ^ 8 - 1) * 2 ^ 269 else 0) else if e = 0 then 0 else (2 ^ 7 + m) * 2 ^ (e + 15)
  (if bit c 15 then -Int.ofNat mag else Int.ofNat mag, e == 255 && m != 0)

/-- An A8F (E4M3) code as read (R37, Table 2-5). -/
def a8f (c : Nat) : F32 × Bool :=
  let e := bits c 3 4
  let m := bits c 0 3
  let nan := e == 15 && m == 7
  let mag : Nat := if nan then 0 else if e = 0 then m * 2 ^ 140 else (8 + m) * 2 ^ (e + 139)
  (if bit c 7 then -Int.ofNat mag else Int.ofNat mag, nan)

/-- A W4F code value times two (Table 2-2). -/
def w4fTwice (c : Nat) : Int :=
  let m := [0, 1, 2, 3, 4, 6, 8, 12].getD (c % 8) 0
  if 8 ≤ c % 16 then -Int.ofNat m else Int.ofNat m

/-- A W4F weight: code value * 2^(E - 127) (R32). -/
def w4f (c e : Nat) : F32 := w4fTwice c * 2 ^ (e + 21)

/-- A binary32 code at its value; an exponent field of 255 reads as the largest magnitude (callers put a free value there). -/
def f32code (c : Nat) : F32 × Bool :=
  let e := bits c 23 8
  let m := bits c 0 23
  let mag : Nat := if e = 255 then maxF else if e = 0 then m else (2 ^ 23 + m) * 2 ^ (e - 1)
  (if bit c 31 then -Int.ofNat mag else Int.ofNat mag, e == 255)

/-- q16 of an escape (R35): w * 2^16, nearest even, saturated to 32 bits. -/
def q16 (w : F32) : Int :=
  let r := roundDiv w.natAbs (2 ^ 133)
  clampI (-2 ^ 31) (2 ^ 31 - 1) (if w < 0 then -Int.ofNat r else Int.ofNat r)

/-- Format codes (Table 2-1). -/
def isWeightFmt (f : Nat) : Bool := f < 4
def isActFmt (f : Nat) : Bool := f == 8 || f == 9 || f == 10 || f == 11
def isIntFmt (f : Nat) : Bool := f == 0 || f == 2 || f == 3 || f == 8 || f == 11
def hasEscapes (f : Nat) : Bool := f == 0 || f == 2

/-- Bits per element. -/
def fmtBits (f : Nat) : Nat :=
  if f == 0 || f == 1 || f == 11 then 4 else if f == 2 then 2 else if f == 10 then 16 else 8

/-- Element `i` of a packed array that starts at byte 0 of `b` (R31). -/
def elemCode (f : Nat) (b : List Byte) (i : Nat) : Nat :=
  let w := fmtBits f
  if w = 16 then leNat ((b.drop (2 * i)).take 2)
  else bits ((b.getD (i * w / 8) 0).toNat) (i * w % 8) w

/-- The integer a W4I, W2T or W8I code stands for; `none` is an escape (Tables 2-2, 2-3). -/
def weightCode (f c : Nat) : Option Int :=
  if f = 3 then some (signed 8 c)
  else if f = 0 then (if c % 16 = 8 then none else some (signed 4 c))
  else if c % 4 = 2 then none else some (signed 2 c)

/-- A weight operand: an integer code, an escape (its bfloat16 value as read), or a float weight. -/
inductive WVal where
  | code (c : Int)
  | esc (w : F32)
  | flt (w : F32)
  deriving DecidableEq, Repr

/-- An activation operand: q - z, or a float value. -/
inductive XVal where
  | int (q : Int)
  | flt (x : F32)
  deriving DecidableEq, Repr

def WVal.val : WVal → F32
  | .code c => ofInt c
  | .esc w => w
  | .flt w => w

def XVal.val : XVal → F32
  | .int q => ofInt q
  | .flt x => x

/-- One activation element as an operand (R36, R37): its format, signedness and zero point; the flag tells a NaN. -/
def actVal (f : Nat) (uns : Bool) (z : Int) (c : Nat) : XVal × Bool :=
  if f = 9 then let r := a8f c; (.flt r.1, r.2)
  else if f = 10 then let r := bf16 c; (.flt r.1, r.2)
  else if f = 11 then (.int (signed 4 c - z), false)
  else (.int ((if uns then Int.ofNat (c % 256) else signed 8 c) - z), false)

/-! ### Accumulation (R38 to R41) -/

/-- An accumulation segment: integer path (exact sum and escape term) or float path, and its exponent k_s. -/
structure Seg where
  int : Bool
  acc : Int
  e16 : Int
  k : Int
  deriving DecidableEq, Repr, Inhabited

/-- The exact product of two operands in units of 2^-298. -/
def prod (t : WVal × XVal) : Int := t.1.val * t.2.val

/-- Sums of consecutive groups of 32 products, each rounded once, added in order to an accumulator (R40). The count tells saturations. -/
def floatGroups (l : List (WVal × XVal)) (a : F32 × Nat) : F32 × Nat :=
  (pieces 32 (cdiv l.length 32) l).foldl (fun a g =>
    let s := roundF ((g.map prod).foldl (· + ·) 0) 298
    let r := roundF (a.1 + s.1) 149
    (r.1, a.2 + b2n s.2 + b2n r.2)) a

def accFloat (l : List (WVal × XVal)) : F32 × Nat := floatGroups l (0, 0)

/-- The integer path of one product: code part and escape part (R39). -/
def intTerm (t : WVal × XVal) : Int × Int :=
  match t.1, t.2 with
  | .code c, .int q => (c * q, 0)
  | .esc w, .int q => (0, q16 w * q)
  | _, _ => (0, 0)

/-- One segment over its products in reduction order, its accumulator saturated to 32 bits (R39) or rounded (R40):
the segment, saturations of the integer sum, saturations of the float sum. -/
def segOf (int : Bool) (k : Int) (l : List (WVal × XVal)) : Seg × Nat × Nat :=
  if int then
    let s := l.foldl (fun a t => let r := intTerm t; (a.1 + r.1, a.2 + r.2)) ((0, 0) : Int × Int)
    let c := clampI (-2 ^ 31) (2 ^ 31 - 1) s.1
    (⟨true, c, s.2, k⟩, b2n (c != s.1), 0)
  else
    let s := accFloat l
    (⟨false, s.1, 0, k⟩, 0, s.2)

/-! ### The output stage (R42 to R45) -/

def sat64 (x : Int) : Int := clampI (-2 ^ 63) (2 ^ 63 - 1) x

/-- Stage 1: X_s in units of 2^-16. -/
def align (s : Seg) : Int :=
  if s.int then sat64 (s.acc * 2 ^ 16 + s.e16)
  else
    let r := Int.ofNat (roundDiv s.acc.natAbs (2 ^ 133))
    sat64 (if s.acc < 0 then -r else r)

def kMin (l : List Seg) : Int := l.foldl (fun a s => if s.k < a then s.k else a) ((l.head?.map Seg.k).getD 0)

/-- Stage 2: the merged X (R42). -/
def merge (l : List Seg) : Int :=
  let k := kMin l
  sat64 (l.foldl (fun a s => a + sat64 (align s * 2 ^ (s.k - k).toNat)) 0)

/-- `n * 2^-t` rounded by a mode of Table 2-7; `rb` is the random bit of one-bit stochastic rounding. -/
def roundMode (mode : Nat) (rb : Bool) (n : Int) (t : Int) : Int :=
  if t ≤ 0 then n * 2 ^ t.natAbs else
  let sh := t.toNat
  let fl := n / 2 ^ sh
  let fr := (n % 2 ^ sh).toNat
  let up : Bool :=
    if mode = 0 then decide (2 ^ sh < 2 * fr) || (decide (2 * fr = 2 ^ sh) && decide (fl % 2 ≠ 0))
    else if mode = 1 then decide (n < 0) && decide (fr ≠ 0)
    else
      let top := if sh = 1 then 2 * fr else fr / 2 ^ (sh - 2)
      decide (top = 3) || ((decide (top = 1) || decide (top = 2)) && rb)
  if up then fl + 1 else fl

/-- Nearest-even rounding of a magnitude by `t`, for the row exponent test of R48. -/
def roundedMag (a : Nat) (t : Int) : Nat :=
  if t ≤ 0 then a * 2 ^ t.natAbs else roundDiv a (2 ^ t.toNat)

/-- R48: the row exponent for the largest magnitude `a`, where `t0` is S + 16 - k_min. -/
def rowExp (qmax : Nat) (a : Nat) (t0 : Int) : Int :=
  if a = 0 then 0 else
  match (List.range 256).find? fun i => decide (roundedMag a (t0 + Int.ofNat i - 128) ≤ qmax) with
  | some i => Int.ofNat i - 128
  | none => 127

/-- The settings of an output stage: format, unsigned, rounding mode, scale mode (0 STATIC, 1 ROW, 2 HELD), S, z_out and held K. -/
structure OutCfg where
  fmt : Nat
  uns : Bool
  rnd : Nat
  mode : Nat
  s : Nat
  z : Int
  k : Int
  deriving DecidableEq, Repr, Inhabited

/-- One output element: its code as stored, whether it was clamped, the squared error of R50, |code - z|, and whether it was 0
before the offset. -/
structure OutEl where
  code : Nat
  sat : Bool
  sse : Nat
  mag : Nat
  zero : Bool
  deriving DecidableEq, Repr, Inhabited

/-- The exponent T of stage 4 (R42) for an element whose segments have k_min `kmin`. -/
def shiftT (o : OutCfg) (kmin kout : Int) : Int := Int.ofNat o.s + 16 - kmin + kout

def outLo (o : OutCfg) : Int := if o.fmt = 11 then -8 else if o.uns then 0 else -128
def outHi (o : OutCfg) : Int := if o.fmt = 11 then 7 else if o.uns then 255 else 127

/-- e^2 of R50: the error in units of 2^-8, truncated toward zero and saturated, squared. -/
def sqErr (cz p : Int) (t : Int) : Nat :=
  let e := if t ≤ 0 then (cz - p * 2 ^ t.natAbs) * 256 else ((cz * 2 ^ t.toNat - p) * 256).tdiv (2 ^ t.toNat)
  let e := clampI (-(2 ^ 23 - 1)) (2 ^ 23 - 1) e
  e.natAbs * e.natAbs

/-- Stages 4 to 6 for an integer output (R42). -/
def outInt (o : OutCfg) (rb : Bool) (p : Int) (t : Int) : OutEl :=
  let r := roundMode o.rnd rb p t
  let z := if o.mode = 0 then o.z else 0
  let c := clampI (outLo o) (outHi o) (r + z)
  ⟨unsigned (if o.fmt = 11 then 4 else 8) c, c != r + z, sqErr (c - z) p t, (c - z).natAbs, r == 0⟩

/-- R43: `p * 2^-t` converted to a float format with `mant` mantissa bits, smallest unit exponent `umin` (none for A16B) and largest
magnitude `maxM * 2^maxE`. Answers the value as (significand, unit exponent) and the clamp flag. -/
def toFloat (mode : Nat) (rb : Bool) (p : Int) (t : Int) (mant : Nat) (umin : Option Int) (maxM : Nat) (maxE : Int) :
    Int × Int × Bool :=
  if p = 0 then (0, 0, false) else
  let e := Int.ofNat p.natAbs.log2 - t                  -- floor(log2 |value|)
  let u := e - Int.ofNat mant
  let u := match umin with
    | some m => if u < m then m else u
    | none => u
  let q := roundMode mode rb p (t + u)                  -- value / 2^u, rounded
  let ovr : Bool :=
    let d := u - maxE
    if 0 ≤ d then decide (maxM < q.natAbs * 2 ^ d.toNat) else decide (maxM * 2 ^ (-d).toNat < q.natAbs)
  if ovr then (if p < 0 then -Int.ofNat maxM else Int.ofNat maxM, maxE, true) else (q, u, false)

/-- The code of a significand and unit exponent in a format with `mant` mantissa bits, `ebits` exponent bits and bias `bias`;
below the smallest normal magnitude it is subnormal where `sub` holds, else zero. A zero keeps the sign of the value it came from (log entry 44). -/
def floatCode (mant ebits : Nat) (bias : Int) (sub neg : Bool) (q u : Int) : Nat :=
  let m := q.natAbs
  let sgn := if neg then 2 ^ (mant + ebits) else 0
  if m = 0 then sgn else
  let l := m.log2
  let e := Int.ofNat l + u + bias                       -- biased exponent
  if 1 ≤ e then
    let sig := if mant ≤ l then m / 2 ^ (l - mant) else m * 2 ^ (mant - l)
    sgn + e.toNat * 2 ^ mant + sig % 2 ^ mant
  else if sub then
    let d := u - (1 - bias - Int.ofNat mant)
    sgn + (if 0 ≤ d then m * 2 ^ d.toNat else m / 2 ^ (-d).toNat)
  else sgn

/-- R43 for A8F and A16B outputs. -/
def outFlt (o : OutCfg) (rb : Bool) (p : Int) (t : Int) : OutEl :=
  let r := if o.fmt = 9 then toFloat o.rnd rb p t 3 (some (-9)) 14 5 else toFloat o.rnd rb p t 7 none 255 120
  let c := if o.fmt = 9 then floatCode 3 4 7 true (decide (p < 0)) r.1 r.2.1 else floatCode 7 8 127 false (decide (p < 0)) r.1 r.2.1
  ⟨c, r.2.2, 0, 0, r.1 == 0⟩

/-- One element of a row: X, M and k_min of its accumulation. -/
structure Pre where
  x : Int
  m : Int
  kmin : Int
  deriving DecidableEq, Repr, Inhabited

/-- The statistics of a row (R50) and its exponent and ZERO flag. -/
structure RowStat where
  n : Nat
  sats : Nat
  sse : Nat
  maxc : Nat
  k : Int
  zero : Bool
  deriving DecidableEq, Repr, Inhabited

def RowStat.add (a b : RowStat) : RowStat :=
  ⟨a.n + b.n, a.sats + b.sats, a.sse + b.sse, if a.maxc < b.maxc then b.maxc else a.maxc, b.k, b.zero⟩

def RowStat.nil : RowStat := ⟨0, 0, 0, 0, 0, true⟩

/-- The exponent of a row (R42, R48). In ROW mode the magnitudes of the row's elements are compared at their common k_min. -/
def rowK (o : OutCfg) (l : List Pre) : Int :=
  if o.mode = 1 then
    let k0 := l.foldl (fun a p => if p.kmin < a then p.kmin else a) ((l.head?.map Pre.kmin).getD 0)
    let a := l.foldl (fun a p => max a ((p.x * p.m).natAbs * 2 ^ (p.kmin - k0).toNat)) 0
    rowExp (if o.fmt = 11 then 7 else 127) a (Int.ofNat o.s + 16 - k0)
  else if o.mode = 2 then o.k else 0

/-- One row through the output stage; `rb e` is the rounding bit of element `e`. -/
def outRow (o : OutCfg) (rb : Nat → Bool) (l : List Pre) : List OutEl × RowStat :=
  let k := rowK o l
  let els := l.mapIdx fun i p =>
    let t := shiftT o p.kmin k
    let pr := p.x * p.m
    if o.fmt = 9 || o.fmt = 10 then outFlt o (rb i) pr t else outInt o (rb i) pr t
  (els, ⟨els.length, (els.filter OutEl.sat).length, els.foldl (fun a e => a + e.sse) 0,
    els.foldl (fun a e => max a e.mag) 0, k, els.all OutEl.zero⟩)

/-- The 32-bit sidecar of a row (R49). -/
def sidecar (st : RowStat) : Nat :=
  unsigned 8 st.k + b2n st.zero * 2 ^ 8 + b2n (decide (st.sats ≠ 0)) * 2 ^ 9 + (min st.sats 8192) * 2 ^ 16

/-- The bytes of a packed element array (R31). -/
def packRow (fmt : Nat) (codes : List Nat) : List Byte :=
  let w := fmtBits fmt
  if w = 16 then codes.flatMap (leBytes 2)
  else if w = 8 then codes.map (BitVec.ofNat 8)
  else
    let per := 8 / w
    (pieces per codes.length codes).map fun g =>
      BitVec.ofNat 8 ((g.mapIdx fun i c => (c % 2 ^ w) * 2 ^ (w * i)).foldl (· + ·) 0)

/-- An Assay record after a group's statistics are added (R51). -/
def assayAdd (rec : Nat) (st : RowStat) : Nat :=
  let sse := min (bits rec 0 64 + st.sse) (2 ^ 64 - 1)
  let cnt := min (bits rec 64 32 + st.n) (2 ^ 32 - 1)
  let sat := min (bits rec 96 32 + st.sats) (2 ^ 32 - 1)
  sse + cnt * 2 ^ 64 + sat * 2 ^ 96

/-! ### Anneal (R52, R53) -/

/-- An Anneal control word is well formed (R52). -/
def annealOk (w : Nat) : Bool :=
  bits w 45 19 == 0 && decide (signed 8 (bits w 28 8) ≤ signed 8 (bits w 36 8))

/-- What an Anneal update did to its counters. -/
inductive AnnealMove where
  | none
  | up
  | down
  | clamp
  deriving DecidableEq, Repr, Inhabited

/-- The update of R53: control word, QMAX, statistics, K and DOWN_RUN. -/
def anneal (w qmax : Nat) (st : RowStat) (k : Int) (run : Nat) : Int × Nat × AnnealMove :=
  if bit w 44 = false then (k, run, .none) else
  let satUp := bits w 0 8
  let errUp := bits w 8 8
  let hold := bits w 16 12
  let kmin := signed 8 (bits w 28 8)
  let kmax := signed 8 (bits w 36 8)
  let up := (satUp != 0 && decide (satUp * st.n < st.sats * 256)) || (errUp != 0 && decide (errUp * st.n * 4096 < st.sse))
  let roomy := st.sats == 0 && decide (st.maxc ≤ qmax / 4)
  if up then (if k < kmax then (k + 1, 0, .up) else (k, 0, .clamp))
  else if roomy && hold != 0 then
    if hold ≤ run + 1 then (if kmin < k then (k - 1, 0, .down) else (k, 0, .clamp)) else (k, run + 1, .none)
  else (k, 0, .none)

/-- A held-scale word (R52). -/
def heldWord (k : Int) (run : Nat) : Nat := unsigned 8 k + (run % 4096) * 2 ^ 8

end Num

/-! ### The generator (03_index_keyed_randomness) -/

namespace Rand

def cA : List Nat := [16, 12, 8, 20]
def cB : List Nat := [24, 8, 12, 4]
def cC : List W32 := [0x9E3779B9, 0x3C6EF372, 0xDAA66D2B, 0x78DDE6E4]

/-- One round of G (R58). -/
def round (k : Nat → W32) (r : Nat) (x : W32 × W32 × W32 × W32) : W32 × W32 × W32 × W32 :=
  let (x0, x1, x2, x3) := x
  let x0 := x0 + x1
  let x1 := (x1.rotateLeft (cA.getD r 0)) ^^^ x0
  let x2 := x2 + x3
  let x3 := (x3.rotateLeft (cB.getD r 0)) ^^^ x2
  (x0 + (k ((r + 1) % 4) ^^^ cC.getD r 0), x3, x2 ^^^ k ((r + 2) % 4), x1)

/-- G(key, counter), the fixed function of R58. -/
def G (key ctr : Nat) : Nat :=
  let k := fun i => BitVec.ofNat 32 (bits key (32 * i) 32)
  let c := fun i => BitVec.ofNat 32 (bits ctr (32 * i) 32)
  let s := round k 3 (round k 2 (round k 1 (round k 0 (c 0 + k 0, c 1 + k 1, c 2 + k 2, c 3 + k 3))))
  s.1.toNat + s.2.1.toNat * 2 ^ 32 + s.2.2.1.toNat * 2 ^ 64 + s.2.2.2.toNat * 2 ^ 96

/-- A seed entry (Table 3-4): SEED and MODE. -/
structure Seed where
  seed : Nat
  mode : Bool
  deriving DecidableEq, Repr, Inhabited

/-- R62: key and counter of a purpose, stream, step and element. -/
def keyCtr (sd : Seed) (purpose strm stp el : Nat) : Nat × Nat :=
  let c := (purpose % 256) * 2 ^ 88 + (stp % 2 ^ 64) * 2 ^ 24 + el % 2 ^ 24
  if sd.mode then
    (setBits sd.seed 96 32 (bits sd.seed 96 32 ^^^ ((strm + 1) % 2 ^ 32)), c)
  else (sd.seed, (strm % 2 ^ 32) * 2 ^ 96 + c)

/-- The slice of width `w` of element `e`, `n` elements per output (R63). -/
def slice (sd : Seed) (purpose strm stp w n e : Nat) : Nat :=
  let kc := keyCtr sd purpose strm stp (e / n)
  bits (G kc.1 kc.2) (w * (e % n)) w

/-- The rounding bit of element `e` (purpose 0x00). -/
def roundBit (sd : Seed) (strm stp e : Nat) : Bool := slice sd 0 strm stp 1 128 e == 1

/-- The dropout value of element `e` (purpose 0x01). -/
def dropout (sd : Seed) (strm stp e : Nat) : Nat := slice sd 1 strm stp 16 8 e

/-- The two draws of band `b` (purpose 0x02). -/
def draws (sd : Seed) (strm stp b : Nat) : Nat × Nat :=
  let o := slice sd 2 strm stp 128 1 b
  (bits o 0 32, bits o 32 32)

/-- The uniform of element `e` of a uniform fill (purpose 0x03). -/
def uniform (sd : Seed) (strm stp e : Nat) : Nat := slice sd 3 strm stp 32 4 e

/-- The two uniforms of element `e` of a normal fill (purpose 0x03). -/
def uniform2 (sd : Seed) (strm stp e : Nat) : Nat × Nat :=
  let o := slice sd 3 strm stp 64 2 e
  (bits o 0 32, bits o 32 32)

end Rand

end Sys2Proof
end

