-- ==== Sys2Proof/Machine/RegMap.lean ====
section
/-!
DEFINITION. Sys2Proof/Machine/RegMap.lean: the set-up registers of 19_register_map as a table of rows, and the map between
BAR0 offsets and registers (R421 R422 R423). A mask names the bits that a write stores (RW) or clears (W1C); WO, RO and RSV bits stand in
neither.
-/

namespace Sys2Proof.Machine
open Sys2Proof

/-- The registers of Tables 19-1 to 19-5 by name; the index counts their instances. -/
inductive RegName where
  | pkgIdent
  | probeKeyLo
  | probeKeyHi
  | probeCtrLo
  | probeCtrHi
  | probeCtl
  | probeOutLo
  | probeOutHi
  | streamLive
  | hbmMap
  | devTime
  | bootStatus
  | bringupStatus
  | pwrMeas
  | pwrEnergy
  | thermCtl
  | thermStatus
  | temp
  | bootHostAddr
  | bootHostCtl
  | svcDieCtl
  | svcDieStatus
  | svcDieState
  | svcDieMap
  | svcFwAddr
  | fwSlotCtl
  | fwSlotStatus
  | hallmarkCtl
  | hallmarkStatus
  | hallmarkWear
  | factSerial
  | factDiemap
  | factBin
  | factBenchRepair
  | factHbmRepairLo
  | factHbmRepairHi
  | joinCtl
  | joinId
  | joinTag
  | joinStatus
  | joinEpoch
  | joinDigest
  | joinOffset
  | faultCtl
  | faultLogCount
  | faultStatus
  | hallmarkShadow
  | faultLog
  | cabCtl
  | cabGangs
  | cabPlaners
  | cabJoiners
  | cabBurnishers
  | cabCarriersLo
  | cabCarriersHi
  | cabRemote
  | cabStatus
  | cabCmd
  | cabShare
  | schedCtl
  | ctxCtl
  | ctxCabs
  | ctxStreams
  | ctxSeeds
  | ctxTrans
  | ctxTransLen
  | ctxSave
  | ctxSaveLen
  | ctxTransInval
  | ctxStatus
  | ctxSlowdown
  | watchCtl
  | hifPort
  | hifCtxPort
  | funcSummary
  | sqBase
  | sqCfg
  | sqDb
  | sqShadow
  | cqBase
  | cqCfg
  | cqReturn
  | cqPosted
  | sqLastSeq
  | sqConsumed
  | benchPwrCtl
  | gangFeedCtl
  | gangFeedStatus
  | streamCtl
  | benchCtl
  | benchStatus
  | benchSpares
  | regionCfg
  | regionTail
  | regionHead
  | regionRsvd
  | arrivalCfg
  | arrivalValue
  | stallCtl
  | jigStatus
  | hbmCtl
  | stackCtl
  | stackStatus
  | chestCtl
  | chestStatus
  | chestArg0
  | chestArg1
  | chestCmd
  | chestCmdStatus
  | chestChCtl
  | chestChStatus
  | aesPortCtl
  | aesChCfgA
  | aesChCfgB
  | aesPortSide
  | aesPortStatus
  | aesRefCtl
  | aesRefStatus
  | cupboardCtl
  | cupboardStatus
  | dtCtl
  | dtLinkCtl
  | dtLinkStatus
  | framePwrCtl
  deriving DecidableEq, Repr, Inhabited

/-- A window of BAR0: package global and host interface, bench die n, frame die m (Table 1-6). -/
inductive Win where
  | glob
  | bench
  | frame
  deriving DecidableEq, Repr, Inhabited

/-- A row of the register tables. -/
structure RegRow where
  win : Win
  base : Nat
  stride : Nat
  count : Nat
  reset : Nat
  rw : Nat
  w1c : Nat
  deriving DecidableEq, Repr, Inhabited

/-- The mask of `w` bits from bit `lo`. -/
def fm (lo w : Nat) : Nat := (2 ^ w - 1) * 2 ^ lo

/-- The register tables. CAB_SHARE_n of Cabinet b is instance 8 b + n; FUNC_SUMMARY_PF1 is instance 256 of FUNC_SUMMARY. -/
def regRow : RegName → RegRow
  | .pkgIdent => ⟨.glob, 0x0, 0x8, 1, 0xB18840, 0, 0⟩
  | .probeKeyLo => ⟨.glob, 0x400, 0x8, 1, 0x0, fm 0 64, 0⟩
  | .probeKeyHi => ⟨.glob, 0x408, 0x8, 1, 0x0, fm 0 64, 0⟩
  | .probeCtrLo => ⟨.glob, 0x410, 0x8, 1, 0x0, fm 0 64, 0⟩
  | .probeCtrHi => ⟨.glob, 0x418, 0x8, 1, 0x0, fm 0 64, 0⟩
  | .probeCtl => ⟨.glob, 0x420, 0x8, 1, 0x0, 0, 0⟩
  | .probeOutLo => ⟨.glob, 0x428, 0x8, 1, 0x0, 0, 0⟩
  | .probeOutHi => ⟨.glob, 0x430, 0x8, 1, 0x0, 0, 0⟩
  | .streamLive => ⟨.glob, 0x500, 0x8, 1, 0x0, 0, 0⟩
  | .hbmMap => ⟨.glob, 0x600, 0x8, 1, 0x1, fm 0 2, 0⟩
  | .devTime => ⟨.glob, 0x700, 0x8, 1, 0x0, 0, 0⟩
  | .bootStatus => ⟨.glob, 0x708, 0x8, 1, 0x0, 0, 0⟩
  | .bringupStatus => ⟨.glob, 0x710, 0x8, 1, 0x0, 0, 0⟩
  | .pwrMeas => ⟨.glob, 0x720, 0x8, 1, 0x0, 0, 0⟩
  | .pwrEnergy => ⟨.glob, 0x728, 0x8, 1, 0x0, 0, 0⟩
  | .thermCtl => ⟨.glob, 0x730, 0x8, 1, 0x555F, fm 0 8 + fm 8 8, 0⟩
  | .thermStatus => ⟨.glob, 0x738, 0x8, 1, 0x0, 0, fm 1 1 + fm 2 1⟩
  | .temp => ⟨.glob, 0x740, 0x8, 12, 0x0, 0, 0⟩
  | .bootHostAddr => ⟨.glob, 0x7A0, 0x8, 1, 0x0, fm 12 52, 0⟩
  | .bootHostCtl => ⟨.glob, 0x7A8, 0x8, 1, 0x0, fm 0 24, 0⟩
  | .svcDieCtl => ⟨.glob, 0x800, 0x8, 1, 0x0, fm 0 3 + fm 4 3 + fm 8 4, 0⟩
  | .svcDieStatus => ⟨.glob, 0x808, 0x8, 1, 0x0, 0, fm 1 1⟩
  | .svcDieState => ⟨.glob, 0x810, 0x8, 1, 0x0, 0, 0⟩
  | .svcDieMap => ⟨.glob, 0x818, 0x8, 1, 0x76543210, 0, 0⟩
  | .svcFwAddr => ⟨.glob, 0x820, 0x8, 1, 0x0, fm 6 58, 0⟩
  | .fwSlotCtl => ⟨.glob, 0x828, 0x8, 1, 0x0, fm 0 1, 0⟩
  | .fwSlotStatus => ⟨.glob, 0x830, 0x8, 1, 0x0, 0, fm 1 1⟩
  | .hallmarkCtl => ⟨.glob, 0x900, 0x8, 1, 0x0, fm 0 5, 0⟩
  | .hallmarkStatus => ⟨.glob, 0x908, 0x8, 1, 0x0, 0, fm 1 1 + fm 2 1⟩
  | .hallmarkWear => ⟨.glob, 0x910, 0x8, 1, 0x0, 0, 0⟩
  | .factSerial => ⟨.glob, 0xA00, 0x8, 1, 0x0, 0, 0⟩
  | .factDiemap => ⟨.glob, 0xA08, 0x8, 1, 0xFFFFFFFFFF, 0, 0⟩
  | .factBin => ⟨.glob, 0xA10, 0x8, 1, 0x1, 0, 0⟩
  | .factBenchRepair => ⟨.glob, 0xA18, 0x8, 8, 0x0, 0, 0⟩
  | .factHbmRepairLo => ⟨.glob, 0xA58, 0x8, 1, 0x0, 0, 0⟩
  | .factHbmRepairHi => ⟨.glob, 0xA60, 0x8, 1, 0x0, 0, 0⟩
  | .joinCtl => ⟨.glob, 0x2000, 0x8, 1, 0x0, fm 0 5 + fm 8 32 + fm 63 1, 0⟩
  | .joinId => ⟨.glob, 0x2008, 0x8, 1, 0x0, fm 0 32, 0⟩
  | .joinTag => ⟨.glob, 0x2010, 0x8, 1, 0x0, fm 0 64, 0⟩
  | .joinStatus => ⟨.glob, 0x2018, 0x8, 1, 0x0, 0, fm 9 3⟩
  | .joinEpoch => ⟨.glob, 0x2020, 0x8, 1, 0x0, 0, 0⟩
  | .joinDigest => ⟨.glob, 0x2028, 0x8, 1, 0x0, 0, 0⟩
  | .joinOffset => ⟨.glob, 0x2030, 0x8, 1, 0x0, 0, 0⟩
  | .faultCtl => ⟨.glob, 0x3000, 0x8, 1, 0x4000, fm 0 11 + fm 11 1 + fm 12 1 + fm 13 2 + fm 15 1, 0⟩
  | .faultLogCount => ⟨.glob, 0x3008, 0x8, 1, 0x0, 0, 0⟩
  | .faultStatus => ⟨.glob, 0x3010, 0x8, 1, 0x0, 0, fm 0 4⟩
  | .hallmarkShadow => ⟨.glob, 0x4000, 0x8, 768, 0x0, fm 0 64, 0⟩
  | .faultLog => ⟨.glob, 0x8000, 0x8, 4096, 0x0, 0, 0⟩
  | .cabCtl => ⟨.glob, 0x60000, 0x100, 32, 0x0, fm 0 1 + fm 8 8 + fm 16 1 + fm 32 12 + fm 63 1, 0⟩
  | .cabGangs => ⟨.glob, 0x60008, 0x100, 32, 0x0, fm 0 32, 0⟩
  | .cabPlaners => ⟨.glob, 0x60010, 0x100, 32, 0x0, fm 0 64, 0⟩
  | .cabJoiners => ⟨.glob, 0x60018, 0x100, 32, 0x0, fm 0 32, 0⟩
  | .cabBurnishers => ⟨.glob, 0x60020, 0x100, 32, 0x0, fm 0 64, 0⟩
  | .cabCarriersLo => ⟨.glob, 0x60028, 0x100, 32, 0x0, fm 0 64, 0⟩
  | .cabCarriersHi => ⟨.glob, 0x60030, 0x100, 32, 0x0, fm 0 64, 0⟩
  | .cabRemote => ⟨.glob, 0x60038, 0x100, 32, 0x0, fm 0 32, 0⟩
  | .cabStatus => ⟨.glob, 0x60040, 0x100, 32, 0x0, 0, 0⟩
  | .cabCmd => ⟨.glob, 0x60048, 0x100, 32, 0x0, fm 1 1, 0⟩
  | .cabShare => ⟨.glob, 0x60080, 8, 256, 0x0, fm 0 18 + fm 20 19, 0⟩
  | .schedCtl => ⟨.glob, 0x62000, 0x8, 1, 0x100C81388, fm 0 16 + fm 16 16 + fm 32 1, 0⟩
  | .ctxCtl => ⟨.glob, 0x80000, 0x80, 256, 0x100, fm 0 1 + fm 8 8 + fm 16 8 + fm 63 1, 0⟩
  | .ctxCabs => ⟨.glob, 0x80008, 0x80, 256, 0x0, fm 0 32, 0⟩
  | .ctxStreams => ⟨.glob, 0x80010, 0x80, 256, 0x0, fm 0 5 + fm 7 57, 0⟩
  | .ctxSeeds => ⟨.glob, 0x80018, 0x80, 256, 0x0, fm 9 55, 0⟩
  | .ctxTrans => ⟨.glob, 0x80020, 0x80, 256, 0x0, fm 12 52, 0⟩
  | .ctxTransLen => ⟨.glob, 0x80028, 0x80, 256, 0x0, fm 0 21, 0⟩
  | .ctxSave => ⟨.glob, 0x80030, 0x80, 256, 0x0, fm 12 52, 0⟩
  | .ctxSaveLen => ⟨.glob, 0x80038, 0x80, 256, 0x0, fm 0 40, 0⟩
  | .ctxTransInval => ⟨.glob, 0x80040, 0x80, 256, 0x0, 0, 0⟩
  | .ctxStatus => ⟨.glob, 0x80048, 0x80, 256, 0x0, 0, 0⟩
  | .ctxSlowdown => ⟨.glob, 0x80050, 0x80, 256, 0x0, 0, 0⟩
  | .watchCtl => ⟨.glob, 0x100000, 0x8, 1, 0x3E80000C350, fm 0 24 + fm 32 16, 0⟩
  | .hifPort => ⟨.glob, 0x100008, 0x8, 1, 0x0, 0, 0⟩
  | .hifCtxPort => ⟨.glob, 0x100010, 0x8, 4, 0x0, fm 0 64, 0⟩
  | .funcSummary => ⟨.glob, 0x101000, 0x8, 257, 0x0, fm 0 1 + fm 1 1 + fm 6 58, 0⟩
  | .sqBase => ⟨.glob, 0x108000, 0x20, 1024, 0x0, fm 6 58, 0⟩
  | .sqCfg => ⟨.glob, 0x108008, 0x20, 1024, 0x0, fm 0 5 + fm 8 8 + fm 16 5 + fm 22 10 + fm 32 10 + fm 63 1, 0⟩
  | .sqDb => ⟨.glob, 0x108010, 0x20, 1024, 0x0, fm 6 58, 0⟩
  | .sqShadow => ⟨.glob, 0x108018, 0x20, 1024, 0x0, fm 6 58, 0⟩
  | .cqBase => ⟨.glob, 0x110000, 0x20, 1024, 0x0, fm 6 58, 0⟩
  | .cqCfg => ⟨.glob, 0x110008, 0x20, 1024, 0x0, fm 0 5 + fm 8 8 + fm 16 11 + fm 27 1 + fm 32 8 + fm 40 16 + fm 63 1, 0⟩
  | .cqReturn => ⟨.glob, 0x110010, 0x20, 1024, 0x0, fm 6 58, 0⟩
  | .cqPosted => ⟨.glob, 0x110018, 0x20, 1024, 0x0, 0, 0⟩
  | .sqLastSeq => ⟨.glob, 0x118000, 0x10, 1024, 0x0, 0, 0⟩
  | .sqConsumed => ⟨.glob, 0x118008, 0x10, 1024, 0x0, 0, 0⟩
  | .benchPwrCtl => ⟨.bench, 0x0, 0x8, 1, 0x3E814, fm 0 8 + fm 8 16, 0⟩
  | .gangFeedCtl => ⟨.bench, 0x10000, 0x100, 4, 0x4040, fm 0 8 + fm 8 8, 0⟩
  | .gangFeedStatus => ⟨.bench, 0x10008, 0x100, 4, 0x0, 0, fm 2 2⟩
  | .streamCtl => ⟨.bench, 0x20000, 0x8, 1, 0x101F4, fm 0 16 + fm 16 1, 0⟩
  | .benchCtl => ⟨.bench, 0x40000, 0x8, 1, 0x18040A01, fm 0 1 + fm 8 8 + fm 16 4 + fm 24 8, 0⟩
  | .benchStatus => ⟨.bench, 0x40008, 0x8, 1, 0x0, 0, fm 0 5⟩
  | .benchSpares => ⟨.bench, 0x40100, 0x8, 8, 0x0, 0, 0⟩
  | .regionCfg => ⟨.bench, 0x50000, 0x20, 256, 0x0, fm 0 18 + fm 24 19 + fm 48 8 + fm 63 1, 0⟩
  | .regionTail => ⟨.bench, 0x50008, 0x20, 256, 0x0, 0, 0⟩
  | .regionHead => ⟨.bench, 0x50010, 0x20, 256, 0x0, 0, 0⟩
  | .regionRsvd => ⟨.bench, 0x50018, 0x20, 256, 0x0, 0, 0⟩
  | .arrivalCfg => ⟨.bench, 0x60000, 0x10, 1024, 0x0, fm 0 8 + fm 63 1, 0⟩
  | .arrivalValue => ⟨.bench, 0x60008, 0x10, 1024, 0x0, 0, 0⟩
  | .stallCtl => ⟨.bench, 0x70000, 0x8, 1, 0x7D0, fm 0 16, 0⟩
  | .jigStatus => ⟨.bench, 0x80000, 0x8, 1, 0x0, 0, 0⟩
  | .hbmCtl => ⟨.frame, 0x0, 0x8, 1, 0x640818, fm 0 8 + fm 8 8 + fm 16 16, 0⟩
  | .stackCtl => ⟨.frame, 0x1000, 0x100, 3, 0x1, fm 0 1, 0⟩
  | .stackStatus => ⟨.frame, 0x1008, 0x100, 3, 0x0, 0, fm 1 2 + fm 4 1⟩
  | .chestCtl => ⟨.frame, 0x100000, 0x8, 1, 0x43001F46407, fm 0 8 + fm 8 8 + fm 16 16 + fm 32 8 + fm 40 4, 0⟩
  | .chestStatus => ⟨.frame, 0x100008, 0x8, 1, 0x0, 0, fm 1 2⟩
  | .chestArg0 => ⟨.frame, 0x100100, 0x8, 1, 0x0, fm 0 64, 0⟩
  | .chestArg1 => ⟨.frame, 0x100108, 0x8, 1, 0x0, fm 0 64, 0⟩
  | .chestCmd => ⟨.frame, 0x100110, 0x8, 1, 0x0, fm 0 3 + fm 8 32, 0⟩
  | .chestCmdStatus => ⟨.frame, 0x100118, 0x8, 1, 0x0, 0, fm 1 1⟩
  | .chestChCtl => ⟨.frame, 0x101000, 0x100, 4, 0x1, fm 0 1, 0⟩
  | .chestChStatus => ⟨.frame, 0x101008, 0x100, 4, 0x0, 0, 0⟩
  | .aesPortCtl => ⟨.frame, 0x200000, 0x100, 8, 0x1000040000000812, fm 0 2 + fm 2 2 + fm 4 1 + fm 5 1 + fm 8 7 + fm 16 8 + fm 32 14 + fm 48 14 + fm 63 1, 0⟩
  | .aesChCfgA => ⟨.frame, 0x200008, 0x100, 8, 0x0, fm 0 18 + fm 18 2 + fm 20 17, 0⟩
  | .aesChCfgB => ⟨.frame, 0x200010, 0x100, 8, 0x0, fm 0 18 + fm 18 2 + fm 20 17, 0⟩
  | .aesPortSide => ⟨.frame, 0x200018, 0x100, 8, 0x0, fm 6 58, 0⟩
  | .aesPortStatus => ⟨.frame, 0x200020, 0x100, 8, 0x0, 0, fm 3 4⟩
  | .aesRefCtl => ⟨.frame, 0x201000, 0x8, 1, 0x8, fm 0 1 + fm 1 1 + fm 2 2, 0⟩
  | .aesRefStatus => ⟨.frame, 0x201008, 0x8, 1, 0x0, 0, fm 2 1⟩
  | .cupboardCtl => ⟨.frame, 0x300000, 0x8, 1, 0x1, fm 0 1, 0⟩
  | .cupboardStatus => ⟨.frame, 0x300008, 0x8, 1, 0x0, 0, fm 0 2⟩
  | .dtCtl => ⟨.frame, 0x340000, 0x8, 1, 0xA, fm 0 16, 0⟩
  | .dtLinkCtl => ⟨.frame, 0x341000, 0x100, 16, 0x0, fm 0 1, 0⟩
  | .dtLinkStatus => ⟨.frame, 0x341008, 0x100, 16, 0x0, 0, fm 5 1⟩
  | .framePwrCtl => ⟨.frame, 0x380000, 0x8, 1, 0x64, fm 0 8, 0⟩

/-- The names, in the order of the tables. -/
def allRegs : List RegName :=
  [.pkgIdent, .probeKeyLo, .probeKeyHi, .probeCtrLo, .probeCtrHi, .probeCtl, .probeOutLo, .probeOutHi, .streamLive, .hbmMap, .devTime, .bootStatus] ++
  [.bringupStatus, .pwrMeas, .pwrEnergy, .thermCtl, .thermStatus, .temp, .bootHostAddr, .bootHostCtl, .svcDieCtl, .svcDieStatus, .svcDieState, .svcDieMap] ++
  [.svcFwAddr, .fwSlotCtl, .fwSlotStatus, .hallmarkCtl, .hallmarkStatus, .hallmarkWear, .factSerial, .factDiemap, .factBin, .factBenchRepair, .factHbmRepairLo, .factHbmRepairHi] ++
  [.joinCtl, .joinId, .joinTag, .joinStatus, .joinEpoch, .joinDigest, .joinOffset, .faultCtl, .faultLogCount, .faultStatus, .hallmarkShadow, .faultLog] ++
  [.cabCtl, .cabGangs, .cabPlaners, .cabJoiners, .cabBurnishers, .cabCarriersLo, .cabCarriersHi, .cabRemote, .cabStatus, .cabCmd, .cabShare, .schedCtl] ++
  [.ctxCtl, .ctxCabs, .ctxStreams, .ctxSeeds, .ctxTrans, .ctxTransLen, .ctxSave, .ctxSaveLen, .ctxTransInval, .ctxStatus, .ctxSlowdown, .watchCtl] ++
  [.hifPort, .hifCtxPort, .funcSummary, .sqBase, .sqCfg, .sqDb, .sqShadow, .cqBase, .cqCfg, .cqReturn, .cqPosted, .sqLastSeq] ++
  [.sqConsumed, .benchPwrCtl, .gangFeedCtl, .gangFeedStatus, .streamCtl, .benchCtl, .benchStatus, .benchSpares, .regionCfg, .regionTail, .regionHead, .regionRsvd] ++
  [.arrivalCfg, .arrivalValue, .stallCtl, .jigStatus, .hbmCtl, .stackCtl, .stackStatus, .chestCtl, .chestStatus, .chestArg0, .chestArg1, .chestCmd] ++
  [.chestCmdStatus, .chestChCtl, .chestChStatus, .aesPortCtl, .aesChCfgA, .aesChCfgB, .aesPortSide, .aesPortStatus, .aesRefCtl, .aesRefStatus, .cupboardCtl, .cupboardStatus] ++
  [.dtCtl, .dtLinkCtl, .dtLinkStatus, .framePwrCtl]

/-- Whether a frame die holds the register (R423): the Chest command registers stand on frame die 0, the reference
registers on frame dies 0 and 2. -/
def onFrame (r : RegName) (m : Nat) : Bool :=
  match r with
  | .chestCtl | .chestStatus | .chestArg0 | .chestArg1 | .chestCmd | .chestCmdStatus => m == 0
  | .aesRefCtl | .aesRefStatus => m == 0 || m == 2
  | _ => true

/-- The base of a window (19): bench die n at 0x0100_0000 + n * 0x20_0000, frame die m at 0x0200_0000 + m * 0x40_0000. -/
def winBase (w : Win) (d : Nat) : Nat :=
  match w with
  | .glob => 0
  | .bench => 0x1000000 + d * 0x200000
  | .frame => 0x2000000 + d * 0x400000

/-- The offset of instance `i` within the window. -/
def instOff (r : RegName) (i : Nat) : Nat :=
  match r with
  | .cabShare => 0x60080 + (i / 8) * 0x100 + (i % 8) * 8
  | .funcSummary => if i = 256 then 0x101800 else 0x101000 + i * 8
  | _ => (regRow r).base + i * (regRow r).stride

/-- The BAR0 offset of a register: its window's die and its instance. -/
def regOff (r : RegName) (d i : Nat) : Nat := winBase (regRow r).win d + instOff r i

/-- The instance of register `r` that stands at offset `o` of its window. -/
def instAt (r : RegName) (o : Nat) : Option Nat :=
  match r with
  | .cabShare =>
    if 0x60080 ≤ o ∧ o < 0x62000 ∧ 0x80 ≤ o % 0x100 ∧ o % 0x100 < 0xC0 ∧ o % 8 = 0 then
      some ((o - 0x60000) / 0x100 * 8 + (o % 0x100 - 0x80) / 8) else none
  | .funcSummary =>
    if o = 0x101800 then some 256
    else if 0x101000 ≤ o ∧ o < 0x101800 ∧ o % 8 = 0 then some ((o - 0x101000) / 8) else none
  | _ =>
    let row := regRow r
    if row.base ≤ o ∧ (o - row.base) % row.stride = 0 ∧ (o - row.base) / row.stride < row.count then
      some ((o - row.base) / row.stride) else none

/-- A register instance: its name, the die of its window (0 for the global windows), its instance number. -/
structure RegId where
  name : RegName
  die : Nat
  idx : Nat
  deriving DecidableEq, Repr, Inhabited

/-- The window that a BAR0 offset lies in, its die and the offset within it. -/
def winOf (off : Nat) : Option (Win × Nat × Nat) :=
  if off < 0x200000 then some (.glob, 0, off)
  else if 0x1000000 ≤ off ∧ off < 0x2000000 then some (.bench, (off - 0x1000000) / 0x200000, (off - 0x1000000) % 0x200000)
  else if 0x2000000 ≤ off ∧ off < 0x3000000 then some (.frame, (off - 0x2000000) / 0x400000, (off - 0x2000000) % 0x400000)
  else none

/-- The register at a BAR0 offset (R422); none for an offset that no table lists (R423). -/
def regAt (off : Nat) : Option RegId :=
  match winOf off with
  | none => none
  | some (w, d, o) =>
    allRegs.findSome? fun r =>
      if (regRow r).win = w ∧ (w ≠ .frame ∨ onFrame r d) then (instAt r o).map fun i => ⟨r, d, i⟩ else none

/-- Whether a BAR0 offset lies in a counter window (Table 1-6). -/
def inCounterWindow (off : Nat) : Bool := decide (0x3000000 ≤ off) && decide (off < 0x3D00000)

end Sys2Proof.Machine
end

