-- ==== Sys2Proof/Machine/State.lean ====
section
/-!
DEFINITION. Sys2Proof/Machine/State.lean: everything the spec gives the part, as plain data, and the state after reset.
`State` is the queue of waiting commands and the part. A field marked "model" is the model's own bookkeeping, not the spec's.
-/

namespace Sys2Proof.Machine
open Sys2Proof

/-- Why the machine stops with a fault. -/
inductive Fault where
  /-- Raised by POWER_ON_RESET and OVER_VOLTAGE above the absolute maximum of 66 V (16 R367): no statement of the manual binds
  the part then (R4). Safe. -/
  | absoluteMaximum
  deriving DecidableEq, Repr

/-- Why a command is refused. -/
inductive Refusal where
  /-- Raised by Dispatch for a command that has no meaning yet. Safe. -/
  | notModelled (mnemonic : String)
  deriving DecidableEq, Repr

/-! ### Host interface (12) -/

/-- A completion entry without its PHASE bit (Tables 12-3, 12-4), and the context it reports for. -/
structure CqEntry where
  ctx : Nat
  img : Nat
  deriving DecidableEq, Repr, Inhabited

/-- A completion ring beside its registers: CQ_POSTED, the last return line value, the pending queue of 64, the entries that wait
beyond it, and the moderation state of R277. `reading`: a read of the return line is outstanding. -/
structure Cq where
  posted : Nat := 0
  consumed : Nat := 0
  pend : List CqEntry := []
  ovr : List CqEntry := []
  u : Nat := 0
  t0 : Nat := 0
  reading : Bool := false
  full : Bool := false                            -- model: an entry found the pending queue full in this command
  deriving DecidableEq, Repr, Inhabited

/-- A submission ring beside its registers: last valid PRODUCER (R268), CONSUMED, LAST_SEQ (R223), whether its sweep is due
(R272), whether its doorbell read or its entry reads belong to the round in progress, whether CONSUMED advanced in it (R270),
and the last job accepted from it (R225). -/
structure Sq where
  producer : Nat := 0
  consumed : Nat := 0
  lastSeq : Nat := 0
  sweep : Bool := false
  dbRead : Bool := false
  active : Bool := false
  moved : Bool := false
  prevJob : Option Nat := none
  deriving DecidableEq, Repr, Inhabited

/-- The watch loop of one function (R272): its interval I, whether a bitmap read is outstanding, whether a round runs, `found`. -/
structure Watch where
  interval : Nat := 50000
  reading : Bool := false
  round : Bool := false
  found : Bool := false
  deriving DecidableEq, Repr, Inhabited

/-- An MSI-X vector (R277): message address and data, Vector Mask and Pending bit. -/
structure Vec where
  addr : Nat := 0
  data : Nat := 0
  masked : Bool := true
  pending : Bool := false
  deriving DecidableEq, Repr, Inhabited

/-- The host interface beside its registers. Functions are numbered 0 to 255 with 256 the physical function on port 1. -/
structure Hif where
  staged : List (Nat × Nat × Nat) := []          -- R12: port, register, staged half
  latch : Tab (Nat × Nat) := []                  -- R424: per port, address and high half
  resp : Option Nat := none                      -- model: answer of the last read command
  held : List (Nat × Nat × Half × Option (Nat × Nat)) := []  -- R426: accesses held during LEAVE: port, offset, and a write's data and W1C event bits
  sq : Tab Sq := []
  cq : Tab Cq := []
  watch : Tab Watch := []
  bme : List Nat := []                           -- functions whose Bus Master Enable is 1
  d3 : List Nat := []                            -- functions in D3hot
  vfEn : Bool := false
  numVfs : Nat := 0
  perst : List Nat := [0, 1]                     -- ports held in reset
  training : List Nat := []                      -- ports in link training
  linkUp : List Nat := []                        -- ports whose link is up
  vecs : Tab Vec := []                           -- function * 2048 + vector
  msix : List Nat := []                          -- functions whose MSI-X Enable is 1
  fmask : List Nat := []                         -- functions whose MSI-X Function Mask is 1
  aer : Tab Nat := []                            -- function: bits set of AER Uncorrectable Error Status (R287)
  sent : List (Nat × Nat × Nat) := []            -- model: MSI-X messages sent, newest last: function, address, data
  deriving DecidableEq, Repr, Inhabited

/-! ### Memory (01 R24) -/

/-- A range whose content the spec leaves undefined until it is written: an unlisted byte of it reads as a free value of `id`. -/
structure OpenRange where
  base : Nat
  len : Nat
  id : Nat
  mode : Nat := 1                                 -- HBM_MAP.MODE when it was opened
  zeroed : Nat := 0                               -- mask of stacks written to zero since (13 R303)
  deriving DecidableEq, Repr, Inhabited

/-- Device memory by physical address (HBM at its device address, Bench stores by PHYSICAL die), host memory by bus address, the
open ranges (newest first), and the poisoned units: Bench rows and HBM sectors by the address of their first byte. -/
structure Memory where
  cells : Cells := []
  host : Cells := []
  opens : List OpenRange := []
  poison : List Nat := []
  deriving DecidableEq, Repr, Inhabited

/-! ### Jobs, records and engines (10) -/

/-- A job in flight: its ring, accepted sequence, context, Cabinet and completion ring, graph address, JOB_TAG and TASKS, whether its
header has been read, whether AFTER_PREV still waits for the job given, the next record to fetch, acceptance time and T_away
(11 R263). -/
structure Job where
  ring : Nat
  seq : Nat
  ctx : Nat
  cab : Nat
  cq : Nat
  graph : Nat
  tag : Nat := 0
  tasks : Nat := 0
  header : Bool := false
  after : Option Nat := none
  next : Nat := 1
  accepted : Nat := 0
  away : Nat := 0
  deriving DecidableEq, Repr, Inhabited

/-- State of a fetched record (R238). `stopped` is an issued task that a save or a switch stopped; it resumes from its task state. -/
inductive RecSt where
  | pending
  | issued
  | stopped
  | completed
  deriving DecidableEq, Repr, Inhabited

/-- A fetched record: its 64 bytes, its state, whether its issue has been reported (R227), completion status and flags, the result words
of Table 12-5, and its issue number (R238: original issue order). -/
structure Rec where
  img : Nat
  st : RecSt := .pending
  reported : Bool := false
  status : Nat := 0
  zeroOut : Bool := false
  late : Bool := false
  result : Nat := 0
  order : Nat := 0
  deriving DecidableEq, Repr, Inhabited

/-- A write range of a task (08 R185): WHOLE rows first .. first + n - 1 of a die, or n positions of a region from `pos` (APPEND). -/
structure Range where
  die : Nat
  first : Nat
  n : Nat
  region : Option Nat := none
  pos : Nat := 0
  deriving DecidableEq, Repr, Inhabited

/-- A range registered at a scoreboard: the task that owns it, the engine that holds it, the rows not yet written, bit i for row i, and
the arrival counters that rows already written advance once they are readable (08 R195): row of the range, counter. -/
structure SbRange where
  owner : Nat
  eng : Nat
  range : Range
  left : Nat
  owed : List (Nat × Nat) := []
  deriving DecidableEq, Repr, Inhabited

/-- Statistics of a row or group of rows (02 R50). -/
structure Stat where
  n : Nat := 0
  sats : Nat := 0
  sse : Nat := 0
  maxc : Nat := 0
  deriving DecidableEq, Repr, Inhabited

/-- What a task that a batch engine has set aside waits for (09 R221): its registrations, its own armed wait, a row in a registered range, a
waking bank, a sleeping stack, a position of a region, its outstanding remote reads, or nothing that the model names. -/
inductive Await where
  | reg
  | arrival
  | row (die row : Nat)
  | bank (die bank : Nat)
  | stack (s : Nat)
  | room
  | upTo (die region pos : Nat)
  | reads
  | other
  deriving DecidableEq, Repr, Inhabited

/-- An issued task on a compute engine or a Carrier: its identity, record and descriptor (or block list) as read at issue, its seed entry,
its wait, the ranges still to register, the next unit of work and their number, held exponents read at issue, statistics
per Assay group, region positions taken, and, for a Carrier, the buffered source stream and what a shared transfer still owes. -/
structure Task where
  id : Nat
  job : Nat
  rix : Nat
  ctx : Nat
  cab : Nat
  img : Nat
  desc : List Nat := []
  seed : Option (Nat × Bool) := none
  wait : Option (Nat × Nat × Nat) := none         -- physical die, counter, threshold
  toReg : List Range := []
  waitPos : List Range := []                      -- reservations that wait for room (08 R190)
  next : Nat := 0
  units : Nat := 0
  held : List Int := []
  stats : Tab Stat := []
  total : Stat := {}
  zeroOut : Bool := false
  src : List (Nat × Nat) := []                    -- Carrier: region source blocks and their first position
  dst : List (Nat × Nat × Nat) := []              -- die, destination block, first position taken
  dies : List Nat := []                           -- Carrier: destination dies of a SHARED transfer
  mcast : Bool := false
  buf : List (Byte × Bool) := []                  -- Carrier: source bytes read and not yet written, with poison
  remote : List Nat := []                         -- tags of remote reads outstanding
  got : Tab (List Byte × Bool) := []              -- remote read data by tag
  order : Nat := 0                                -- issue number of the record (R238)
  filled : Tab Nat := []                          -- bytes written of rows written in part, bit i for byte i (die * 2^18 + row)
  lineBad : Bool := false                         -- Carrier: poison has come with the line that it reads
  await : Option Await := none                    -- set aside by its batch engine, until this wait clears (09 R221)
  sbWait : Bool := false                          -- its next registration found the scoreboard full (R185)
  outs : List (Nat × Nat × Nat × Nat) := []       -- what it writes: first address, pitch, bytes of each run, runs
  kept : Tab (List Nat) := []                     -- Planer: input positions that stay in the line buffer (06 R136)
  deriving DecidableEq, Repr, Inhabited

/-- The Jigs' state: jobs by acceptance number, records by job * 32768 + index, tasks on engines (class * 256 + index), transfers on
Carriers in issue order, stopped tasks by record, counters of jobs, issues and tasks; the SHARED transfers that wait for Carriers, in order
of arrival, with the block list as read (09 R204, R217); and remote data that has come for work not yet on an engine, by its key. -/
structure Jig where
  jobs : Tab Job := []
  recs : Tab Rec := []
  eng : Tab Task := []
  xfer : Tab (List Task) := []
  stopped : Tab Task := []
  nextJob : Nat := 0
  nextIssue : Nat := 0
  nextTask : Nat := 0
  turn : Tab Nat := []                            -- home die: the job its Jig fetched last (R230)
  parked : List (Nat × List Nat) := []
  early : Tab (Tab (List Byte × Bool)) := []
  deriving DecidableEq, Repr, Inhabited

/-! ### Contexts and Cabinets (11) -/

/-- A context beside its registers: ENS and PROGRESS in ns, whether it has been in a W set or resident since its ENS last advanced
(R252), teardown in progress, fault code of its completions (R275), cached translation entries (R251), those an
invalidation in progress may still use, and the age of the invalidation. -/
structure Ctx where
  ens : Nat := 0
  progress : Nat := 0
  seen : Bool := false
  state : Nat := 0                                -- model: 0 none, 4 TEARDOWN, 5 TORN_DOWN (Table 11-8)
  clearEn : Bool := false                         -- EN reads 0 when the teardown ends
  code : Nat := 0
  bad : Option Nat := none                        -- model: device address of a control access that led nowhere in this command (01 R24)
  trans : Tab Nat := []
  old : Tab Nat := []
  pendModels : List (Nat × Nat × Nat × Nat × Nat) := []  -- die, handle, image, weight row, Cabinet (R259 step 5)
  deriving DecidableEq, Repr, Inhabited

inductive HoldSt where
  | new
  | resident
  | saving
  | saved
  | restoring
  deriving DecidableEq, Repr, Inhabited

/-- A saved Gang record (Table 11-12). -/
structure GangRec where
  gang : Nat
  die : Nat
  handle : Nat
  image : Nat
  row : Nat
  streams : List Nat
  deriving DecidableEq, Repr, Inhabited

/-- A hold (context * 32 + Cabinet): its state, when it was placed, the context to place once its save ends, drain reads outstanding,
and what its save image holds: where it lies, its open range, the Gang records and the ranges registered (R189). -/
structure Hold where
  st : HoldSt := .new
  placed : Nat := 0
  quantum : Bool := false
  next : Option Nat := none
  image : Nat := 0
  hdr : Nat := 0
  openId : Nat := 0
  gangs : List GangRec := []
  ranges : List SbRange := []
  share : List (Nat × Nat × Nat) := []            -- die, first row, rows at the save
  poisonAt : Bool := false
  deriving DecidableEq, Repr, Inhabited

/-! ### Streams, slots and Gangs (04, 05) -/

/-- An accepted chunk (05 R112): its task, first step, length and marks, the seed entry as read at its issue (03 R61), the region position of
its first record, the output rows written for it, whether its last row has been written, and its Assay statistics by record address. -/
structure Chunk where
  job : Nat
  rix : Nat
  first : Nat
  len : Nat
  marks : List Nat
  seed : Nat × Bool := (0, false)
  pos : Nat := 0
  rows : Nat := 0
  ended : Bool := false
  stats : Tab Stat := []
  deriving DecidableEq, Repr, Inhabited

/-- A stream operation (05 R111): its code, task and descriptor, and the seed entry as read at its issue (03 R61). -/
structure StrOp where
  op : Nat
  job : Nat
  rix : Nat
  desc : Nat
  seed : Nat × Bool := (0, false)
  deriving DecidableEq, Repr, Inhabited

/-- The part's copy of a live stream entry (Table 5-1): the 1,024-bit image, the image last read from or written to the table, the input
position of the next chunk, its model's COND_BYTES, accepted chunks, waiting operations, a START or SWAP_OUT in effect that has not
completed, when it was last armed. -/
structure Strm where
  ent : Nat
  wrote : Nat := 0
  inPos : Nat := 0
  cb : Nat := 64
  chunks : List Chunk := []
  ops : List StrOp := []
  cur : List StrOp := []
  armedAt : Nat := 0
  deriving DecidableEq, Repr, Inhabited

/-- A slot's step between its last layer and its feedback-ready cycle: its number, the entry as its Punch reads it, logits, what the Punch
has drawn, the carried state, K with DOWN_RUN and feedback vector before the step, to which a stop returns (04 R95), and its statistics. -/
structure Pend where
  step : Nat
  ent : Nat
  logits : List Nat
  drawn : Bool := false
  f : List Nat := []
  outs : List Nat := []
  bank : List Nat := []
  kr : Nat := 0
  fb : List Nat := []
  stat : Stat := {}
  stats : Tab Stat := []
  deriving DecidableEq, Repr, Inhabited

/-- An open entry of the accumulator file (04 R76): of a (row, segment) pair, the integer accumulator with its wrap tally, exact, and its E16
term; or the FP32 accumulator, in units of 2^-149, and the saturations it met. -/
structure Open where
  acc : Int := 0
  e16 : Int := 0
  ovf : Nat := 0
  deriving DecidableEq, Repr, Inhabited

/-- A Lathe slot (04 R76, R87, R90, R118): the stream it holds, read bank as byte codes, feedback vector, output row buffer, conditioning
records read ahead with their poison, initial vector loaded for a reset, whether the initial vector that its next step would use came
poisoned, and, in a step: armed, its number, whether a reset applied to it, its record, write bank, scratch, logits, the open entries of
the present layer by Feed-order index * 4 + segment, the codes and statistics of rows in the output stage whose group is not complete,
statistics of the state written, Assay statistics by record address; and the step whose Punch is due. -/
structure Slot where
  ctx : Nat
  strm : Nat
  bank : List Nat := []
  f : List Nat := []
  out : List Nat := []
  cond : List (List Byte × Bool) := []
  init : Option (List Nat) := none
  initBad : Bool := false
  armed : Bool := false
  step : Nat := 0
  fresh : Bool := false
  input : List Byte := []
  wr : List Nat := []
  scratch : List Nat := []
  logits : List Nat := []
  opens : Tab Open := []
  outs : List (Nat × Stat) := []
  stat : Stat := {}
  lstats : Tab Stat := []
  pend : Option Pend := none
  deriving DecidableEq, Repr, Inhabited

/-- A layer of a loaded model: its entry (Table 10-15), output descriptor, multipliers, row order and LUT. -/
structure Layer where
  img : Nat
  out : Nat
  m : List Int
  order : List Nat
  lut : List Nat
  deriving DecidableEq, Repr, Inhabited

/-- A row in the Feed's FIFO (04 R82): 0 weight codes, 1 escape directory, 2 side list, 3 exponents; its bytes, and whether it came poisoned. -/
structure FeedRow where
  kind : Nat
  data : List Byte
  poison : Bool
  deriving DecidableEq, Repr, Inhabited

/-- The Weight Feed of a Gang (04 R82 to R86): the FIFO, oldest row first, and cycles of its slack that corrections have used; the row it
fetches next: layer, code row, rows already fetched for that code row, and the directory row fetched last, by number. What the Feed
cycles use of rows already applied: directory row, exponent row, side-list bytes not yet used, escape codes met in the block. -/
structure Feed where
  fifo : List FeedRow := []
  debt : Nat := 0
  layer : Nat := 0
  row : Nat := 0
  idx : Nat := 0
  dir : Option (Nat × List Byte) := none
  dirs : List Byte := []
  exps : List Byte := []
  side : List Byte := []
  escs : Nat := 0
  deriving DecidableEq, Repr, Inhabited

/-- A Gang (04): the loaded model's binding, header, layers and schedule; the LEAD in effect; its clock; the lowest FIFO lead since its
status was read; the step in flight: its present layer and the code rows of the layer that the Lathes have taken; its Feed; when a slot
was last armed. -/
structure Gang where
  loaded : Bool := false
  ctx : Nat := 0
  cab : Nat := 0
  handle : Nat := 0
  image : Nat := 0
  row : Nat := 0
  hdr : Nat := 0
  layers : List Layer := []
  stepCycles : Nat := 0
  bubbles : Nat := 0
  lead : Nat := 64
  clock : Bool := false
  waking : Bool := false
  fifoMin : Nat := 0
  stepping : Bool := false
  layer : Nat := 0
  taken : Nat := 0
  feed : Feed := {}
  armedAt : Nat := 0
  deriving DecidableEq, Repr, Inhabited

/-! ### Bench store (08) -/

/-- A circular region's counts and its out-of-order state: positions written above TAIL, positions returned above HEAD, reservations that
wait in order (task, rows), and whether the first of them found the scoreboard full (R185). -/
structure Region where
  rsvd : Nat := 0
  tail : Nat := 0
  head : Nat := 0
  written : List Nat := []
  returned : List Nat := []
  waiting : List (Nat × Nat) := []
  sbWait : Bool := false
  drop : List Nat := []                           -- positions returned as soon as they are released (05 R116)
  deriving DecidableEq, Repr, Inhabited

/-- A row write at the store interface: context, row, first byte, data, poison, arrival counter, the task that issued it, its engine. -/
structure RowWrite where
  ctx : Nat
  row : Nat
  first : Nat
  data : List Byte
  poison : Bool
  arrival : Option Nat
  eng : Nat := 0
  src : Option (Cls × Nat) := none
  deriving DecidableEq, Repr, Inhabited

/-- A row access that waits, at a gated bank (R200) or for a scoreboard range (R186). `wait`: a request of an engine, whose read
OPERAND_DATA_ARRIVE makes once the bank is awake; `mode`: row `k` of the mode read numbered `id` (R175, R176). -/
inductive QAcc where
  | wait (row : Nat)
  | read (row : Nat) (ecc : Ecc)
  | scrub (row : Nat) (ecc : Ecc)
  | mode (id k row : Nat) (ecc : Ecc)
  | write (w : RowWrite) (ecc : Ecc)
  deriving DecidableEq, Repr, Inhabited

/-- A mode read in progress (R175 to R177): the rows it has read, and its element width (transposed) or segment (strided). -/
structure ModeRead where
  rows : List (Option (List Byte × Bool)) := []
  width : Option Nat := none
  seg : Nat := 0
  deriving DecidableEq, Repr, Inhabited

/-- A bank: gated, its gate queue of 8, accesses back-pressured behind it. -/
structure Bank where
  gated : Bool := false
  queue : List QAcc := []
  blocked : List QAcc := []
  deriving DecidableEq, Repr, Inhabited

/-- A share whose rows are saved: writes of the context to them go to the image (R202). -/
structure Redirect where
  ctx : Nat
  die : Nat
  first : Nat
  rows : Nat
  image : Nat
  deriving DecidableEq, Repr, Inhabited

/-- The Bench stores by physical die: registered ranges by (physical die), regions and banks, correction tallies from bring-up, the remap
entries in the order of their spares, rows whose first uncorrectable error or whose full tally has mapped them out (R181), corrected
rows to write back, patrol scrub position, redirects, accesses that wait for a scoreboard range by die (R186), mode reads in progress,
repair log (non-volatile, R182), one entry per field map-out. -/
structure Bench where
  sb : Tab (List SbRange) := []
  regions : Tab Region := []                      -- die * 256 + region
  banks : Tab Bank := []                          -- die * 64 + bank
  tally : Tab Nat := []                           -- die * 2^18 + row
  mapped : List Nat := []                         -- die * 2^18 + row
  ued : List Nat := []                            -- die * 2^18 + row
  retired : List Nat := []                        -- die * 2^18 + row
  wback : List Nat := []                          -- die * 2^18 + row
  scrub : Tab Nat := []
  redirects : List Redirect := []
  waits : List (Nat × QAcc) := []
  modes : Tab ModeRead := []
  feedBanks : Tab (List Nat) := []                -- Gang: banks its Feed holds powered (04 R86)
  repairLog : List Nat := []
  rowOut : Option (List Byte × Bool) := none      -- model: the row or result the last read delivered, and its poison
  deriving DecidableEq, Repr, Inhabited

/-! ### Faults (18) -/

/-- The fault log (18 R416): the entries by index, SEQ of the newest; the interrupt spacing of R418: whether 10 us run since the last
message, and whether an entry written in them awaits the next. -/
structure FaultLog where
  entries : Tab Nat := []
  seq : Nat := 0
  spacing : Bool := false
  owed : Bool := false
  packageFatal : Option Nat := none               -- R414: code to log after the restart
  deriving DecidableEq, Repr, Inhabited

/-- The random probe (03 R70): key and counter latched by the last GO. -/
structure Probe where
  key : Nat := 0
  ctr : Nat := 0
  busy : Bool := false
  deriving DecidableEq, Repr, Inhabited

/-! ### Memory stacks, Cupboards and the Chest (09 R219, 13) -/

/-- A queued request of a stack that wakes (13 R295). -/
inductive HAcc where
  | read (addr : Nat) (line : Bool) (ecc : Ecc)
  | write (addr : Nat) (data : List Byte) (poison : Bool) (ecc : Ecc)
  deriving DecidableEq, Repr, Inhabited

/-- A stack beside its registers: self-refresh, requests behind the wake, corrections per row in the scrub period, repair candidates
and field repairs (both in the non-volatile repair log), the next sector of patrol scrub, local sectors served in the period. -/
structure Stack where
  asleep : Bool := false
  waking : Bool := false
  queue : List HAcc := []
  tally : Tab Nat := []
  cands : List Nat := []
  repaired : Nat := 0
  scrub : Nat := 0
  deriving DecidableEq, Repr, Inhabited

/-- A Cupboard: its lines by number (device address / 64), the most recently used first, and the fills in flight. -/
structure Cupboard where
  lines : List Nat := []
  fills : List Nat := []
  deriving DecidableEq, Repr, Inhabited

/-- A flash page as programmed (R307): data and spare bytes, and the codewords marked unreadable (R312). -/
structure ChPage where
  data : List Byte
  spare : List Byte
  bad : List Nat := []
  deriving DecidableEq, Repr, Inhabited

/-- A flash block (R310, R311, R313): erase count, reads since the last erase, bad, pages programmed since the last erase. -/
structure ChBlk where
  erases : Nat := 0
  reads : Nat := 0
  bad : Bool := false
  used : Nat := 0
  deriving DecidableEq, Repr, Inhabited

/-- A Chest channel: what its devices' parameter pages report (targets, blocks per target, pages per block, endurance, pages of 32 KiB), pages whose
scrub fell due while it was offline, going offline, retraining, clock off. -/
structure Chan where
  targets : Nat := 0
  blocks : Nat := 0
  perBlock : Nat := 0
  endurance : Nat := 0
  large : Bool := false
  overdue : List Nat := []
  leaving : Bool := false
  training : Bool := false
  clockOff : Bool := false
  deriving DecidableEq, Repr, Inhabited

/-- A committed Drawer: its entry (Table 13-7) and, per logical page, the physical page of the first copy and of the mirror. -/
structure Drawer where
  img : Nat
  pages : List (Nat × Option Nat)
  deriving DecidableEq, Repr, Inhabited

/-- A Chest command in progress: its operation and Drawer, the result and count that it publishes when it ends, the channels it read, where
it writes and what (LOAD, LIST), the Drawer it commits (WRITE). -/
structure ChCmd where
  op : Nat
  id : Nat
  result : Nat := 0
  count : Nat := 0
  chans : List Nat := []
  addr : Nat := 0
  data : List Byte := []
  commit : Option Drawer := none
  deriving DecidableEq, Repr, Inhabited

/-- The Chest: channels, targets whose identity the journal holds (a mask per channel), blocks by (channel, target, block), pages by (block,
page), the journal's Drawers and commit counts by DRAWER_ID (non-volatile but for the channels), the command in progress. -/
structure Chest where
  chans : Tab Chan := []
  known : Tab Nat := []
  gens : Tab Nat := []
  blks : Tab ChBlk := []
  pages : Tab ChPage := []
  drawers : Tab Drawer := []
  cmd : Option ChCmd := none
  deriving DecidableEq, Repr, Inhabited

/-! ### Audio (14) -/

/-- An AES3 channel: its state of Table 14-3, frames into its ramp or taper, its input FIFO of 16-bit values, the phase of its consumption,
the stream and region it is bound to (context, stream, logical die, region), values of accepted chunks not yet taken, by
chunk, the position of the next row and the values of it already passed over, the stream ended (R333). -/
structure AesCh where
  st : Nat := 0
  n : Nat := 0
  fifo : List Nat := []
  acc : Nat := 0
  bind : Option (Nat × Nat × Nat × Nat) := none
  todo : List Nat := []
  pos : Nat := 0
  skip : Nat := 0
  ended : Bool := false
  ovr : Bool := false                            -- the taper is an overrun's (R334)
  fade : Bool := false                            -- the taper ends in SILENT until the next START (R339, R340)
  deriving DecidableEq, Repr, Inhabited

/-- An AES3 port: its channels, the frame of the block, the side record on air, the one that applies from the next block, whether a side
read is outstanding or has failed, the frequency in effect as an offset from nominal in 1/16 ppm, frames into the present pull step,
disabling, the subframes of the last frame. -/
structure AesPort where
  a : AesCh := {}
  b : AesCh := {}
  frame : Nat := 0
  side : List Byte := []
  next : Option (List Byte) := none
  reading : Bool := false
  failed : Bool := false
  off16 : Int := 0
  pull : Nat := 0
  stopping : Bool := false
  sent : Option (Nat × Nat) := none
  deriving DecidableEq, Repr, Inhabited

/-- The audio ports, and the offset of each LOCKED reference as each frame die last heard it (R324): reference * 4 + frame die. -/
structure Audio where
  ports : Tab AesPort := []
  heard : Tab Int := []
  deriving DecidableEq, Repr, Inhabited

/-! ### Dovetail links and the Join (15) -/

/-- A link beside its registers: next SEQ to send, SEQ expected, the unacknowledged flits with the messages that end in each, messages that
wait for credit or for the link, credits per class, retrains without an accepted flit, whether a NAK
stands, received messages not yet executed, the peer's last HELLO, EN cleared and draining, widening, full training failed,
whether the peer's HELLO has been heard within the last 1 ms (R360). -/
structure Link where
  seq : Nat := 0
  expect : Nat := 0
  replay : List (Nat × List DtMsg) := []
  wait : List DtMsg := []
  credits : List Nat := [0, 0, 0, 0]
  resent : List Nat := []                         -- how often each flit of `replay` has been sent again
  retrains : Nat := 0
  nak : Bool := false
  rx : List DtMsg := []
  peer : Option Hello := none
  drain : Bool := false
  widening : Bool := false
  dead : Bool := false
  heard : Bool := false
  back : Nat := 0                                 -- state that RETRAIN returns to
  full : Nat := 0                                 -- WIDTH as trained
  given : List Nat := [0, 0, 0, 0]                -- credits returned to the peer since the entry to UP (R347), per class
  deriving DecidableEq, Repr, Inhabited

/-- A remote read outstanding (R358): the message, the task that waits for it, whether it drains (R256), whether it waits to be sent again
(R361). -/
structure RdReq where
  msg : DtMsg
  task : Nat
  cab : Nat
  drain : Bool := false
  held : Bool := false
  deriving DecidableEq, Repr, Inhabited

/-- A change of the bundle to a member whose held rows are not over (R355): the bundle before it, and per link of it the last flit then
unacknowledged. -/
structure Move where
  member : Nat
  old : List Nat
  marks : List (Nat × Nat)
  deriving DecidableEq, Repr, Inhabited

/-- The Join: bundles that changed (R355), the PREPARE a master collects ACKs for (epoch, mask) and the members that acknowledged, the PREPARE a
member answers (epoch, mask, master) and whether its ACK has gone, t1 of the TIME_REQ outstanding, half rate and the ns still to slew (R363), ticks
since the last slewing tick, reads outstanding by tag, messages held for the Join or for a changed route, fencing notices, and the reads that timed
out while they drained, by Cabinet and (from 32) by context (11 R264). -/
structure Join where
  moves : List Move := []
  prep : Option (Nat × Nat) := none
  acks : Nat := 0
  answer : Option (Nat × Nat × Nat) := none
  acked : Bool := false
  t1 : Option Nat := none
  half : Bool := false
  slew : Int := 0
  slewWait : Nat := 0
  reads : Tab RdReq := []
  nextTag : Nat := 0
  writes : List DtMsg := []
  notices : List (Nat × Nat) := []                -- member, device time of the last fencing notice
  drained : Tab Nat := []
  deriving DecidableEq, Repr, Inhabited

/-! ### Supply, clocks, bring-up (16) -/

/-- An internal rail (Table 16-2), the always-on one apart. -/
inductive Rail where
  | benchSram
  | benchCore
  | frameCore
  | io
  | serdes
  | hbmVpp
  | hbmVdd
  | hbmVddq
  deriving DecidableEq, Repr, Inhabited

/-- The rails of a unit in the order in which the sequencer turns them on (R371). Units are numbered as their regulator dies: bench dies 0 to 7,
frame dies 8 to 11, the stacks of a frame die 12 to 15. -/
def railOrder (u : Nat) : List Rail :=
  if u < 8 then [.benchSram, .benchCore] else if u < 12 then [.frameCore, .io, .serdes] else [.hbmVpp, .hbmVdd, .hbmVddq]

/-- The supply and reset: power for the rails, PWR_OK, RST_N low, the always-on rail, the AON section in use (standby) and recorded switches
(non-volatile), AON sections that failed, CLK_MODE as sampled at power-on, the straps of the last release, what the next release shows as CAUSE, a
trip that keeps the part off until it restarts (its CAUSE), for a thermal one whether RST_N has been asserted and released since (R377), whether
bring-up runs, whether it stopped at stage 2 (R389), the units whose rails the sequencer turns on or keeps on, and per unit how many of its rails, in
their order, are in regulation (R371); stacks that throttle, whether a sensor last read 85 C or more, input energy beyond whole mJ in 1/8 mJ (R379).
-/
structure Power where
  rails : Bool := true
  pwrOk : Bool := true
  held : Bool := true
  aon : Bool := true
  standby : Bool := false
  switches : Nat := 0
  aonFailed : List Nat := []
  clkMode : Option Nat := none
  straps : Nat := 0
  cause : Nat := 0
  trip : Option Nat := none
  armed : Bool := false
  released : Bool := false
  started : Bool := false
  stuck : Bool := false
  railsOn : List Nat := []
  lit : Tab Nat := []
  heat : List Nat := []
  hot : Bool := false
  eighths : Nat := 0
  deriving DecidableEq, Repr, Inhabited

/-- Block clocks (Table 16-3): engines (class * 256 + index), Jigs and PLLs that are off, starts requested. -/
structure Clocks where
  off : List Nat := []
  jigOff : List Nat := []
  pllOff : List Nat := []
  waking : List Nat := []
  deriving DecidableEq, Repr, Inhabited

/-! ### Service, firmware and the Hallmark area (17) -/

/-- A service command in progress: operation, physical die, logical stand-in, result so far. -/
structure SvcCmd where
  op : Nat
  die : Nat
  standin : Nat
  result : Nat
  deriving DecidableEq, Repr, Inhabited

/-- A SPI boot flash slot (R385): MAGIC and LENGTH good, CRC good, versions. Non-volatile; log entry 42 names the initial content. -/
structure FwSlot where
  head : Bool := true
  crc : Bool := true
  major : Nat := 2
  minor : Nat := 0
  deriving DecidableEq, Repr, Inhabited

/-- Service state: the command in progress, the logical die whose accesses LEAVE holds, physical dies whose TEST has passed since the last
LEAVE or UPDATE, bench die firmware minor versions, the flash slots, the slot being programmed, and a host load in progress. -/
structure Svc where
  cmd : Option SvcCmd := none
  holding : Option Nat := none
  passed : List Nat := []
  minors : Tab Nat := []
  slots : List FwSlot := [{}, {}]
  slotGo : Option (Nat × Nat × Nat × Nat) := none  -- slot, result known at GO, major, minor
  hostLoad : Bool := false
  deriving DecidableEq, Repr, Inhabited

/-- The Hallmark area: the programmed pages as bytes 0 to 6143 and the commits per page (non-volatile), the shadow, LOCK, the page being
programmed. -/
structure Hallmark where
  nv : Cells := []
  wear : Tab Nat := []
  shadow : Cells := []
  lock : Bool := false
  busy : Option Nat := none
  deriving DecidableEq, Repr, Inhabited

/-- A Dowel port (01 R20): failed replays of the flit at its head, retraining. -/
structure Dowel where
  fails : Nat := 0
  training : Bool := false
  deriving DecidableEq, Repr, Inhabited

/-- The part. Registers and counters are kept by BAR0 offset, with physical dies in the bench die windows of registers. -/
structure Part where
  fresh : Nat := 0                                -- model: the counter free values are drawn from
  time : Nat := 0                                 -- DEV_TIME (16 R382)
  regs : Tab Reg := []
  ctrs : Tab Nat := []
  hif : Hif := {}
  mem : Memory := {}
  jig : Jig := {}
  ctxs : Tab Ctx := []
  holds : Tab Hold := []
  strms : Tab Strm := []                          -- context * 2^18 + stream
  slots : Tab Slot := []
  gangs : Tab Gang := []
  bench : Bench := {}
  flog : FaultLog := {}
  probe : Probe := {}
  stks : Tab Stack := []
  cups : Tab Cupboard := []
  chest : Chest := {}
  audio : Audio := {}
  links : Tab Link := []
  join : Join := {}
  power : Power := {}
  clocks : Clocks := {}
  svc : Svc := {}
  mark : Hallmark := {}
  dowels : Tab Dowel := []
  cars : Tab Nat := []                            -- sidecars of HELD tensors: held-scale word * 2^48 + row (02 R49, log entry 77)
  deriving DecidableEq, Repr, Inhabited

end Sys2Proof.Machine

namespace Sys2Proof.Machine

/-- The machine: the commands that wait, first in first out, and the part. -/
structure State where
  pending : List Instr
  part : Part
  deriving DecidableEq, Repr, Inhabited

/-- The part with reset asserted (16 R383, log entry 3): supply up, CAUSE POWER_ON, RST_N low; every register at its reset value, no counter
advanced, nothing listed in memory. RST_N_RELEASE begins bring-up. -/
def Part.initial : Part := {}

/-- The machine right after reset. -/
def State.reset : State := ⟨[], Part.initial⟩

end Sys2Proof.Machine
end

