-- ==== Sys2Proof/Machine/Regs.lean ====
section
/-!
DEFINITION. Sys2Proof/Machine/Regs.lean: reading and writing register fields and counters inside the part.
-/

namespace Sys2Proof.Machine
open Sys2Proof

namespace Part

/-- The stored image of a register (its reset value where nothing is stored, R422). -/
def reg (p : Part) (r : RegName) (d i : Nat) : Reg :=
  (Tab.find (regOff r d i) p.regs).getD (BitVec.ofNat 64 (regRow r).reset)

/-- The stored image as a number. -/
def rv (p : Part) (r : RegName) (d i : Nat) : Nat := (p.reg r d i).toNat

/-- A field of a register's stored image: `w` bits from bit `lo`. -/
def rf (p : Part) (r : RegName) (d i lo w : Nat) : Nat := bits (p.rv r d i) lo w

def rb (p : Part) (r : RegName) (d i b : Nat) : Bool := bit (p.rv r d i) b

def setReg (p : Part) (r : RegName) (d i v : Nat) : Part :=
  { p with regs := Tab.put (regOff r d i) (BitVec.ofNat 64 v) p.regs }

def setRf (p : Part) (r : RegName) (d i lo w v : Nat) : Part :=
  p.setReg r d i (setBits (p.rv r d i) lo w v)

def setRb (p : Part) (r : RegName) (d i b : Nat) (v : Bool) : Part := p.setRf r d i b 1 (b2n v)

/-- The physical die behind logical bench die `n` (17 R394). -/
def phys (p : Part) (n : Nat) : Nat := p.rf .svcDieMap 0 0 (4 * n) 3

/-- The logical index that reaches physical die `m`; `m` itself where none does. -/
def logi (p : Part) (m : Nat) : Nat := ((List.range 8).find? fun n => p.phys n == m).getD m

/-! ### Counters (18 R420, R421) -/

def ctr (p : Part) (a : Nat) : Nat := Tab.getD p.ctrs a 0

/-- A counter advances by `n`, saturating at 2^64 - 1 (R420). -/
def bump (p : Part) (a n : Nat) : Part :=
  if n = 0 then p else { p with ctrs := Tab.put a (min (p.ctr a + n) (2 ^ 64 - 1)) p.ctrs }

end Part

/-- Counter addresses (R421): group, instance, event of a bench die (logical), frame die or the package. -/
def benchCtr (n g i e : Nat) : Nat := 0x3000000 + n * 0x100000 + g * 0x10000 + i * 0x100 + e * 8
def frameCtr (m g i e : Nat) : Nat := 0x3800000 + m * 0x100000 + g * 0x10000 + i * 0x100 + e * 8
def pkgCtr (g i e : Nat) : Nat := 0x3C00000 + g * 0x10000 + i * 0x100 + e * 8

/-- The bench die of a global engine index (00_scope Table 0-4). -/
def engDie (c : Cls) (e : Nat) : Nat :=
  match c with
  | .lathe => e / 32
  | .planer => e / 8
  | .joiner => e / 4
  | .burnisher => e / 8
  | .carrier => e / 16

/-- How many engines of a class the part has. -/
def engCount (c : Cls) : Nat :=
  match c with
  | .lathe => 256
  | .planer => 64
  | .joiner => 32
  | .burnisher => 64
  | .carrier => 160

/-- The class code of 18 Table 18-3. -/
def clsCode (c : Cls) : Nat :=
  match c with
  | .lathe => 0
  | .planer => 1
  | .joiner => 2
  | .burnisher => 3
  | .carrier => 4

/-- The instance of an engine in counter group 2 of its die (Table 18-8). -/
def engInst (c : Cls) (e : Nat) : Nat :=
  match c with
  | .lathe => e % 32
  | .planer => 32 + e % 8
  | .joiner => 40 + e % 4
  | .burnisher => 44 + e % 8
  | .carrier => 52 + e % 16

namespace Part

/-- An engine's event: its own counter and its context's on that die (groups 2 and 3 to 7). -/
def bumpEng (p : Part) (c : Cls) (e ctx ev n : Nat) : Part :=
  (p.bump (benchCtr (engDie c e) 2 (engInst c e) ev) n).bump (benchCtr (engDie c e) (3 + clsCode c) ctx ev) n

/-- A frame die Carrier's event: its own counter, and its context's on the lowest bench die `die` of the Cabinet (Table 18-8). -/
def bumpFrameCarrier (p : Part) (e die ctx ev n : Nat) : Part :=
  (p.bump (frameCtr ((e - 128) / 8) 7 ((e - 128) % 8) ev) n).bump (benchCtr die 7 ctx ev) n

/-- A Carrier's event, on a bench or a frame die. -/
def bumpCarrier (p : Part) (e die ctx ev n : Nat) : Part :=
  if e < 128 then p.bumpEng .carrier e ctx ev n else p.bumpFrameCarrier e die ctx ev n

/-- A Gang's event: its own counter (instances 68 to 71) and its context's in group 3. -/
def bumpGang (p : Part) (g ctx ev n : Nat) : Part :=
  (p.bump (benchCtr (g / 4) 2 (68 + g % 4) ev) n).bump (benchCtr (g / 4) 3 ctx ev) n

/-- A stream or Jig event: the die's counter (group 0, instance 2 or 1) and the context's (group 8). -/
def bumpStream (p : Part) (die ctx ev n : Nat) : Part :=
  (p.bump (benchCtr die 0 2 ev) n).bump (benchCtr die 8 ctx ev) n

def bumpJig (p : Part) (die ctx ev n : Nat) : Part :=
  (p.bump (benchCtr die 0 1 ev) n).bump (benchCtr die 8 ctx (8 + ev)) n

/-- An Anneal event of a die and a context (Table 18-8): 0 UP, 1 DOWN, 2 CLAMP, 3 RACE. -/
def bumpAnneal (p : Part) (die ctx ev : Nat) : Part :=
  (p.bump (benchCtr die 0 3 ev) 1).bump (benchCtr die 8 ctx (20 + ev)) 1

/-- A host interface event of a context (Table 12-15 context rows, 0 to 6) and of the package totals. -/
def bumpHif (p : Part) (c ev n : Nat) : Part :=
  (p.bump (pkgCtr 3 c ev) n).bump (pkgCtr 0 5 ev) n

/-- CNT_HIF_BAD_ACCESS (00_scope R12, R14). -/
def badAccess (p : Part) : Part := p.bump (pkgCtr 0 0 0) 1

/-- A fresh free value: the counter advances and the value is unconstrained (log entry 7). -/
def free (p : Part) : BitVec 64 × Part := (Config.freeValue p.fresh, { p with fresh := p.fresh + 1 })

end Part

end Sys2Proof.Machine
end

