-- ==== Sys2Proof/Machine/Flags.lean ====
section
/-!
DEFINITION. Sys2Proof/Machine/Flags.lean: status bits, MSI-X vectors, the fault log (18_errors_and_counters, 12 R277 R281).
-/

namespace Sys2Proof.Machine
open Sys2Proof

/-- The PCIe port of a function key (0 to 255; 256 is the physical function on port 1). -/
def portOfFn (fn : Nat) : Nat := if fn = 256 then 1 else 0

namespace Part

/-- A function counter (12 Table 12-15): 0 WATCH_READS, 1 BME_DROP. -/
def bumpFn (p : Part) (fn ev : Nat) : Part :=
  if fn = 256 then p.bump (pkgCtr 0 4 ev) 1 else p.bump (pkgCtr 2 fn ev) 1

/-- A port counter: 0 HOST_RD_ERR, 1 RESET_EVENTS. -/
def bumpPort (p : Part) (port ev : Nat) : Part := p.bump (pkgCtr 0 (2 + port) ev) 1

/-- A request of a function passes the port only while its Bus Master Enable is 1; else it is discarded and counted (12 R281). -/
def masters (p : Part) (fn : Nat) : Bool := p.hif.bme.contains fn

def vec (p : Part) (fn v : Nat) : Vec := Tab.getD p.hif.vecs (fn * 2048 + v) {}

def setVec (p : Part) (fn v : Nat) (x : Vec) : Part :=
  { p with hif := { p.hif with vecs := Tab.put (fn * 2048 + v) x p.hif.vecs } }

/-- A request of a function for host memory (12 R281): discarded and counted while its Bus Master Enable is 0. -/
def request (p : Part) (fn : Nat) : Part := if p.masters fn then p else p.bumpFn fn 1

/-- Sends an MSI-X message, or discards it at the port (12 R281). -/
def sendMsi (p : Part) (fn v : Nat) : Part :=
  if p.masters fn then { p with hif := { p.hif with sent := p.hif.sent ++ [(fn, (p.vec fn v).addr, (p.vec fn v).data)] } } else p.bumpFn fn 1

/-- A vector sends no message now: its Vector Mask or its function's Function Mask is 1, or MSI-X Enable is 0 (log entry 15). -/
def vecShut (p : Part) (fn v : Nat) : Bool := (p.vec fn v).masked || p.hif.fmask.contains fn || !p.hif.msix.contains fn

/-- Signals a vector (12 R277): a message, or the pending bit while the vector is masked. -/
def signal (p : Part) (fn v : Nat) : Part :=
  if p.vecShut fn v then p.setVec fn v { p.vec fn v with pending := true } else p.sendMsi fn v

/-- A vector whose pending bit is set sends its message once nothing masks it (12 R277). -/
def sendPending (fn : Nat) (p : Part) (v : Nat) : Part :=
  if (p.vec fn v).pending && !p.vecShut fn v then (p.setVec fn v { p.vec fn v with pending := false }).sendMsi fn v else p

/-- A failed read of host memory is counted for its port (12 R287) and noted in AER: a poisoned completion in bit 12 of Uncorrectable Error Status,
a timeout in bit 14 (log entry 15). -/
def hostReadErr (p : Part) (fn : Nat) (st : RdStat) : Part :=
  let b := match st with
    | .poisoned => 2 ^ 12
    | .timeout => 2 ^ 14
    | _ => 0
  { p with hif := { p.hif with aer := Tab.put fn (Tab.getD p.hif.aer fn 0 ||| b) p.hif.aer } }.bumpPort (portOfFn fn) 0

end Part

/-- UNIT_KIND of a fault log entry (18 Table 18-3). -/
inductive UKind where
  | none
  | benchDie
  | frameDie
  | stack
  | chestCh
  | dtLink
  | dowel
  | regulator
  | engine
  | pciePort
  deriving DecidableEq, Repr, Inhabited

def UKind.code : UKind → Nat
  | .none => 0
  | .benchDie => 1
  | .frameDie => 2
  | .stack => 3
  | .chestCh => 4
  | .dtLink => 5
  | .dowel => 6
  | .regulator => 7
  | .engine => 8
  | .pciePort => 9

/-- UNIT of an engine (Table 18-3). -/
def engUnit (c : Cls) (e : Nat) : Nat := clsCode c * 256 + e

/-- The class rank that FAULT_CTL.IRQ_CLASS compares (Table 18-6): 0 corrected, 1 deferred, 2 context-fatal, 3 die-fatal and above. -/
def classRank (code : Nat) : Nat :=
  let h := code / 256
  if h = 1 then 0 else if h = 2 then 1 else if h = 4 then 2 else 3

/-- A fault as the fault logic sees it. -/
structure FaultRec where
  code : Nat
  kind : UKind := .none
  unit : Nat := 0
  ctx : Option Nat := none
  detail : Nat := 0
  deriving DecidableEq, Repr, Inhabited

/-- The low 64 bits of an entry of Table 18-3 without REPEAT: what R417 compares, and CTX_VALID. -/
def faultHead (f : FaultRec) : Nat :=
  f.code % 2 ^ 16 + f.kind.code * 2 ^ 16 + (f.unit % 4096) * 2 ^ 20 +
    (match f.ctx with
     | some c => (c % 256) * 2 ^ 32 + 2 ^ 40
     | none => 0)

namespace Part

/-- R418: a new entry signals the fault vector, at most one message per 10 us. -/
def faultIrq (p : Part) (code : Nat) : Part :=
  if p.rb .faultCtl 0 0 12 && decide (p.rf .faultCtl 0 0 13 2 ≤ classRank code) then
    if p.flog.spacing then { p with flog := { p.flog with owed := true } }
    else
      let q := p.signal (if p.rb .faultCtl 0 0 11 then 256 else 0) (p.rf .faultCtl 0 0 0 11)
      { q with flog := { q.flog with spacing := true } }
  else p

/-- The newest entry of the fault log. -/
def newestFault (p : Part) : Option Nat :=
  if p.flog.seq = 0 then none else Tab.find ((p.flog.seq - 1) % 1024) p.flog.entries

/-- Writes a new entry (R416), or merges into the newest one (R417). -/
def logFault (p : Part) (f : FaultRec) : Part :=
  let merge := classRank f.code != 2 && (match p.newestFault with
    | some e => e % 2 ^ 40 == faultHead f % 2 ^ 40 && decide (p.time ≤ bits e 64 64 + 1000000)
    | none => false)
  if merge then
    let i := (p.flog.seq - 1) % 1024
    let e := Tab.getD p.flog.entries i 0
    let e := setBits e 48 16 (min (bits e 48 16 + 1) 0xFFFF)
    ({ p with flog := { p.flog with entries := Tab.put i e p.flog.entries } }).bump (pkgCtr 0 0 4) 1
  else
    let s := p.flog.seq + 1
    let e := faultHead f + (p.time % 2 ^ 64) * 2 ^ 64 + (f.detail % 2 ^ 64) * 2 ^ 128 + (s % 2 ^ 64) * 2 ^ 192
    let q := { p with flog := { p.flog with seq := s, entries := Tab.put ((s - 1) % 1024) e p.flog.entries } }
    (q.setRf .faultStatus 0 0 16 16 f.code).faultIrq f.code

/-- A fault reaches the fault logic (R410 to R413): its status bit is set; a corrected fault is logged only while LOG_CE is 1. -/
def recordFault (p : Part) (f : FaultRec) : Part :=
  let q := p.setRb .faultStatus 0 0 (classRank f.code) true
  if f.code / 256 = 1 && !(p.rb .faultCtl 0 0 15) then q else q.logFault f

end Part

end Sys2Proof.Machine
end

