-- ==== Sys2Proof/Machine/Mem.lean ====
section
/-!
DEFINITION. Sys2Proof/Machine/Mem.lean: bytes of device and host memory, poison, and open ranges (01 R24, 08 R184, 13 R300).
Cells rise strictly by address and list no byte equal to what an unlisted address reads as; inside an open range a cell holds the
difference (exclusive or) from the free byte, so that form is one rule everywhere.
-/

namespace Sys2Proof.Machine
open Sys2Proof

namespace Cells

/-- The byte listed at an address, 0 where none is. -/
def get (c : Cells) (a : Nat) : Byte := Tab.getD c a 0

/-- `n` bytes from address `a`. -/
def read (c : Cells) (a n : Nat) : List Byte := (List.range n).map fun i => get c (a + i)

/-- The cells of a run of bytes from address `a`, zeros left out. -/
def run (a : Nat) : List Byte → Cells
  | [] => []
  | b :: t => if b = 0 then run (a + 1) t else (a, b) :: run (a + 1) t

/-- The cells with the bytes from `a` replaced by `bs`. -/
def write (c : Cells) (a : Nat) (bs : List Byte) : Cells :=
  c.filter (fun e => decide (e.1 < a)) ++ run a bs ++ c.filter (fun e => decide (a + bs.length ≤ e.1))

/-- The cells with a range removed: it reads as unlisted. -/
def clear (c : Cells) (a n : Nat) : Cells := c.filter fun e => decide (e.1 < a) || decide (a + n ≤ e.1)

/-- Canonical form: addresses rise strictly and no listed byte is 0. -/
def wf (c : Cells) : Bool := Tab.canon 0 c

end Cells

namespace Memory

/-- The form every memory operation keeps: device and host cells canonical. -/
def wf (m : Memory) : Bool := Cells.wf m.cells && Cells.wf m.host

end Memory

/-- The stack of a device address in HBM by interleave mode (13 Table 13-1). -/
def stackAt (mode a : Nat) : Nat :=
  if mode = 0 then a / 0x900000000
  else if mode = 2 then a / 4096 % 12
  else 3 * (a / 0x1B00000000) + (a % 0x1B00000000) / 4096 % 3

/-- An open range leaves a byte undefined: it covers the address, and the address's stack has not been zeroed since. -/
def OpenRange.has (o : OpenRange) (a : Nat) : Bool :=
  decide (o.base ≤ a) && decide (a < o.base + o.len) && !o.zeroed.testBit (stackAt o.mode a)

namespace Memory

/-- What an unlisted byte of device memory reads as: 0 (08 R184, 13 R300), or the free byte of the newest open range over it. -/
def base (m : Memory) (a : Nat) : Byte :=
  match m.opens.find? fun o => o.has a with
  | some o => Config.freeByte o.id a
  | none => 0

def get (m : Memory) (a : Nat) : Byte := Cells.get m.cells a ^^^ m.base a

def read (m : Memory) (a n : Nat) : List Byte := (List.range n).map fun i => m.get (a + i)

def write (m : Memory) (a : Nat) (bs : List Byte) : Memory :=
  { m with cells := Cells.write m.cells a (bs.mapIdx fun i b => b ^^^ m.base (a + i)) }

/-- A range's content becomes undefined until written (R290, R317). -/
def openRange (m : Memory) (a n id mode : Nat) : Memory :=
  { m with cells := Cells.clear m.cells a n, opens := ⟨a, n, id, mode, 0⟩ :: m.opens }

/-- A stack's whole content becomes zero without poison (13 R300, R303). -/
def zeroStack (m : Memory) (mode s : Nat) : Memory :=
  { m with
    cells := m.cells.filter fun e => decide (0x6C00000000 ≤ e.1) || stackAt mode e.1 != s
    opens := m.opens.map fun o => { o with zeroed := o.zeroed ||| 2 ^ s }
    poison := m.poison.filter fun u => decide (0x6C00000000 ≤ u) || stackAt mode u != s }

def hostRead (m : Memory) (a n : Nat) : List Byte := Cells.read m.host a n

def hostWrite (m : Memory) (a : Nat) (bs : List Byte) : Memory := { m with host := Cells.write m.host a bs }

/-- Bytes that host software made visible in host memory before a read (12 R269), in the order given. -/
def hostPut (m : Memory) (hw : Cells) : Memory :=
  { m with host := hw.foldl (fun h e => Cells.write h e.1 [e.2]) m.host }

/-- The unit that carries a poison bit: a Bench row of 512 bytes (08 R180) or an HBM sector of 32 (13 R298). -/
def unitOf (a : Nat) : Nat := if 0x100000000000 ≤ a then a / 512 * 512 else a / 32 * 32

def poisoned (m : Memory) (a : Nat) : Bool := m.poison.contains (unitOf a)

/-- The units that a range touches. -/
def unitsOf (a n : Nat) : List Nat :=
  if n = 0 then [] else
  let g := if 0x100000000000 ≤ a then 512 else 32
  (span (a / g) ((a + n - 1) / g - a / g + 1)).map (· * g)

def anyPoison (m : Memory) (a n : Nat) : Bool := (unitsOf a n).any m.poison.contains

def setPoison (m : Memory) (u : Nat) (v : Bool) : Memory :=
  { m with poison := if v then insNat u m.poison else m.poison.filter (· != u) }

end Memory

/-- The end of HBM, 432 GiB (01 Table 1-7). -/
def hbmEnd : Nat := 0x6C00000000

/-- The physical address of byte `o` of the Bench store of physical die `d`. -/
def benchAt (d o : Nat) : Nat := 0x100000000000 + d * 0x100000000 + o

namespace Part

/-- The physical address behind a local device address: Bench windows follow the die map (17 R394). -/
def physAddr (p : Part) (a : Nat) : Nat :=
  if a < 0x100000000000 then a
  else let o := a - 0x100000000000; benchAt (p.phys (o / 0x100000000)) (o % 0x100000000)

def onMem (p : Part) (f : Memory → Memory) : Part := { p with mem := f p.mem }

/-- `n` bytes of HBM from a device address. -/
def hbmBytes (p : Part) (a n : Nat) : List Byte := p.mem.read a n

/-- A number of `n` bytes at a local device address, little-endian. -/
def devNat (p : Part) (a n : Nat) : Nat := leNat (p.mem.read (p.physAddr a) n)

/-- Writes HBM bytes without poison: whole sectors written clear their poison, a partly written poisoned sector keeps it (13 R298). -/
def hbmPut (p : Part) (a : Nat) (bs : List Byte) (poison : Bool) : Part :=
  let m := p.mem.write a bs
  let whole := fun u => decide (a ≤ u) && decide (u + 32 ≤ a + bs.length)
  p.onMem fun _ => (Memory.unitsOf a bs.length).foldl
    (fun m u => if poison then m.setPoison u true else if whole u then m.setPoison u false else m) m

/-- Host bytes a command says were made visible before its read. -/
def hostSees (p : Part) (hw : Cells) : Part := p.onMem fun m => m.hostPut hw

/-- A posted write to host memory by function `fn`, discarded while its Bus Master Enable is 0 (12 R281). -/
def hostPost (p : Part) (fn a : Nat) (bs : List Byte) : Part :=
  if p.masters fn then p.onMem fun m => m.hostWrite a bs else p.bumpFn fn 1

end Part

end Sys2Proof.Machine
end

