-- ==== Sys2Proof/Machine/AesFeed.lean ====
section
/-!
DEFINITION. Sys2Proof/Machine/AesFeed.lean: what streams and contexts tell the AES3 channels bound to them (14 R322 R323 R333 R340).
Port a = 0 to 31; channel 0 is A, 1 is B.
-/

namespace Sys2Proof.Machine
open Sys2Proof

namespace Part

def aesPort (p : Part) (a : Nat) : AesPort := Tab.getD p.audio.ports a {}
def setPort (p : Part) (a : Nat) (x : AesPort) : Part := { p with audio := { p.audio with ports := Tab.put a x p.audio.ports } }

/-- A field of AES_PORT_CTL of port `a`. -/
def aesCtl (p : Part) (a lo w : Nat) : Nat := p.rf .aesPortCtl (a / 8) (a % 8) lo w
def aesEn (p : Part) (a : Nat) : Bool := p.aesCtl a 63 1 == 1
def aesCtx (p : Part) (a : Nat) : Nat := p.aesCtl a 16 8

/-- A field of the channel's AES_CH_CFG. -/
def aesCfg (p : Part) (a ch lo w : Nat) : Nat := p.rf (if ch = 0 then .aesChCfgA else .aesChCfgB) (a / 8) (a % 8) lo w
def aesSrc (p : Part) (a ch : Nat) : Nat := p.aesCfg a ch 18 2

def aesCh (p : Part) (a ch : Nat) : AesCh := let x := p.aesPort a; if ch = 0 then x.a else x.b
def setAesCh (p : Part) (a ch : Nat) (y : AesCh) : Part :=
  p.setPort a (if ch = 0 then { p.aesPort a with a := y } else { p.aesPort a with b := y })

/-- A channel event (Table 18-9): 0 OUT_SAT, 1 UNDERRUN, 2 OVERRUN, 3 DROPPED, 4 END_DRAIN, 5 BIND_ERR. -/
def bumpAes (p : Part) (a ch ev n : Nat) : Part := p.bump (frameCtr (a / 8) 5 (2 * (a % 8) + ch) ev) n

/-- The ports and channels, ascending. -/
def aesAll : List (Nat × Nat) := (List.range 32).flatMap fun a => [(a, 0), (a, 1)]

/-- The channels set to take a stream of a context (R322). -/
def aesOf (p : Part) (c n : Nat) : List (Nat × Nat) :=
  aesAll.filter fun x => p.aesCtx x.1 == c && p.aesSrc x.1 x.2 == 1 && p.aesCfg x.1 x.2 0 18 == n

/-- The channels bound to a stream. -/
def aesBound (p : Part) (c n : Nat) : List (Nat × Nat) :=
  aesAll.filter fun x => match (p.aesCh x.1 x.2).bind with
    | some b => b.1 == c && b.2.1 == n
    | none => false

/-- A START whose region is not enabled or belongs to another context (R323): the channel takes nothing. -/
def aesBindErr (p : Part) (c n : Nat) : Part :=
  (p.aesOf c n).foldl (fun p x =>
    let p := p.setAesCh x.1 x.2 { p.aesCh x.1 x.2 with bind := none, todo := [], skip := 0, ended := false }
    if p.aesEn x.1 then (p.setRb .aesPortStatus (x.1 / 8) (x.1 % 8) 6 true).bumpAes x.1 x.2 5 1 else p) p

/-- A START of a stream: its channels read the entry, `die` (logical) and `i` its output region (R322). The next position is kept where the
region is the one bound before. -/
def aesStart (p : Part) (c n die i : Nat) : Part :=
  let r : Region := Tab.getD p.bench.regions (p.phys die * 256 + i) {}
  (p.aesOf c n).foldl (fun p x =>
    let y := p.aesCh x.1 x.2
    let same := y.bind == some (c, n, die, i) && decide (r.head ≤ y.pos) && decide (y.pos ≤ r.rsvd)
    let t := if same then y.todo else []
    let q := if same then y.pos else r.head
    let s := if same then y.skip else 0
    p.setAesCh x.1 x.2 { y with bind := some (c, n, die, i), todo := t, pos := q, skip := s, ended := false, fade := false }) p

/-- A chunk of `n` values is accepted (R323). -/
def aesChunk (p : Part) (c n values : Nat) : Part :=
  (p.aesBound c n).foldl (fun p x => p.setAesCh x.1 x.2 { p.aesCh x.1 x.2 with todo := (p.aesCh x.1 x.2).todo ++ [values] }) p

/-- The stream reads ENDED (R333). -/
def aesEnded (p : Part) (c n : Nat) : Part :=
  (p.aesBound c n).foldl (fun p x => p.setAesCh x.1 x.2 { p.aesCh x.1 x.2 with ended := true }) p

/-- A channel that is not SILENT tapers, then stays SILENT (R339, R340). -/
def aesFadeCh (y : AesCh) : AesCh :=
  if y.st = 0 then { y with fade := true } else if y.st = 3 then { y with fade := true, ovr := false }
  else { y with st := 3, n := 0, fade := true, ovr := false }

/-- A context is torn down (R340). -/
def aesFade (p : Part) (c : Nat) : Part :=
  let fade := fun (y : AesCh) => { aesFadeCh y with todo := [], bind := none }
  let f := fun (k : Nat) (x : AesPort) => if p.aesCtx k = c then { x with a := fade x.a, b := fade x.b } else x
  { p with audio := { p.audio with ports := Tab.mapV f p.audio.ports } }

end Part

end Sys2Proof.Machine
end

