-- ==== Sys2Proof/Machine/Ops.lean ====
section
/-!
DEFINITION. Sys2Proof/Machine/Ops.lean: the shared operations of contexts, Cabinets, rings, jobs and streams: posting completions
(12 R274 R275), ending records and jobs (10 R236), context-fatal faults and teardown (11 R261 R262, 18 R412).
-/

namespace Sys2Proof.Machine
open Sys2Proof

/-- The key of a record: its job and index. -/
def recKey (j r : Nat) : Nat := j * 32768 + r

/-- The key of a stream: its context and logical number. -/
def strmKey (c n : Nat) : Nat := c * 2 ^ 18 + n

/-- The key of an engine: class and global index. -/
def engKey (c : Cls) (e : Nat) : Nat := clsCode c * 256 + e

/-- The scoreboard owner of a reservation made by a command on behalf of context `c` rather than by a task. -/
def rawOwner (c : Nat) : Nat := 2 ^ 32 + c

/-- The scoreboard owner of a stream's output row. -/
def strmOwner (c n : Nat) : Nat := 2 ^ 40 + strmKey c n

/-- The key of a hold: context and Cabinet. -/
def holdKey (c b : Nat) : Nat := c * 32 + b

/-- The DETAIL of a task's fault (18 Table 18-4): record index and submission ring. -/
def recDetail (rix ring : Nat) : Nat := rix % 2 ^ 15 + (ring % 1024) * 2 ^ 15

/-- The interleave set of a device address as a mask of stacks (Table 13-1). -/
def stackSet (mode a : Nat) : Nat :=
  if mode = 0 then 2 ^ stackAt 0 a else if mode = 2 then 0xFFF else 7 * 2 ^ (3 * (a / 0x1B00000000))

/-! Fields of a stream table entry (Table 5-1). -/

namespace Ent

def state (e : Nat) : Nat := bits e 0 3
def paused (e : Nat) : Bool := bit e 3
def resetNext (e : Nat) : Bool := bit e 4
def saved (e : Nat) : Bool := bit e 7
def seedIdx (e : Nat) : Nat := bits e 8 4
def k (e : Nat) : Int := signed 8 (bits e 32 8)
def step (e : Nat) : Nat := bits e 64 64
def rate (e : Nat) : Nat := bits e 128 15
def cab (e : Nat) : Nat := bits e 144 5
def model (e : Nat) : Nat := bits e 160 16
def savePtr (e : Nat) : Nat := bits e 384 64
def initPtr (e : Nat) : Nat := bits e 448 64
def inDie (e : Nat) : Nat := bits e 512 3
def inRegion (e : Nat) : Nat := bits e 520 8
def outDie (e : Nat) : Nat := bits e 528 3
def outRegion (e : Nat) : Nat := bits e 536 8
def queued (e : Nat) : Nat := bits e 576 64

/-- deadline(n) (04 R91). -/
def deadline (e n : Nat) : Int :=
  Int.ofNat (bits e 192 64) + (Int.ofNat n - Int.ofNat (bits e 256 64)) * 1000000000 / Int.ofNat (rate e)

end Ent

namespace Part

/-! ### Units in service (13 R302, 17 R396) -/

def hbmMode (p : Part) : Nat := p.rf .hbmMap 0 0 0 2

/-- Whether a frame die is in service (Table 16-12). -/
def frameUp (p : Part) (m : Nat) : Bool := p.rb .bringupStatus 0 0 m

def ready (p : Part) : Bool := p.rb .bringupStatus 0 0 26

def svcState (p : Part) (k : Nat) : Nat := p.rf .svcDieState 0 0 (3 * k) 3
def setSvcState (p : Part) (k st : Nat) : Part := p.setRf .svcDieState 0 0 (3 * k) 3 st

/-- Whether physical bench die `k` serves accesses (17 R396, R398). -/
def benchUp (p : Part) (k : Nat) : Bool := p.rb .bringupStatus 0 0 (8 + k) && decide (p.svcState k ≤ 1)

/-- Whether a stack serves accesses (R302, R304). -/
def stackOn (p : Part) (s : Nat) : Bool :=
  p.frameUp (s / 3) && p.rb .stackCtl (s / 3) (s % 3) 0 && !p.rb .stackStatus (s / 3) (s % 3) 5

/-! ### Contexts -/

def ctx (p : Part) (c : Nat) : Ctx := Tab.getD p.ctxs c {}

def setCtx (p : Part) (c : Nat) (x : Ctx) : Part := { p with ctxs := Tab.put c x p.ctxs }

def ctxEn (p : Part) (c : Nat) : Bool := p.rb .ctxCtl 0 c 63

def realTime (p : Part) (c : Nat) : Bool := p.rb .ctxCtl 0 c 0

/-- A context that may run: enabled, not in teardown and not torn down. -/
def ctxRuns (p : Part) (c : Nat) : Bool := p.ctxEn c && (p.ctx c).state == 0

/-- The PCIe function of a context (12 R281). -/
def fnOf (p : Part) (c : Nat) : Nat :=
  let f := p.rf .ctxCtl 0 c 16 8
  if f = 0 then (if p.rb .hifCtxPort 0 (c / 64) (c % 64) then 256 else 0) else f

def portOf (p : Part) (c : Nat) : Nat := portOfFn (p.fnOf c)

/-- A function that R249 and R286 count as enabled: a virtual function within NumVFs while VF Enable is set, or a physical function
whose port is out of reset with its link up. -/
def fnEnabled (p : Part) (fn : Nat) : Bool :=
  if fn = 0 || fn = 256 then p.hif.linkUp.contains (portOfFn fn) && !p.hif.perst.contains (portOfFn fn)
  else p.hif.vfEn && decide (fn ≤ p.hif.numVfs)

/-! ### Cabinets (11 R246, R247) -/

def cabEn (p : Part) (b : Nat) : Bool := p.rb .cabCtl 0 b 63
def cabPinned (p : Part) (b : Nat) : Bool := p.rb .cabCtl 0 b 0

/-- The engines of a class in a Cabinet, ascending; Lathes by Gang. -/
def cabEngines (p : Part) (b : Nat) (c : Cls) : List Nat :=
  match c with
  | .lathe => bitsSet 32 (p.rv .cabGangs 0 b)
  | .planer => bitsSet 64 (p.rv .cabPlaners 0 b)
  | .joiner => bitsSet 32 (p.rv .cabJoiners 0 b)
  | .burnisher => bitsSet 64 (p.rv .cabBurnishers 0 b)
  | .carrier => bitsSet 64 (p.rv .cabCarriersLo 0 b) ++ (bitsSet 64 (p.rv .cabCarriersHi 0 b)).map (· + 64)

def cabGangs (p : Part) (b : Nat) : List Nat := p.cabEngines b .lathe

/-- First row and rows of a Cabinet's share on a die (Table 11-3). -/
def share (p : Part) (b n : Nat) : Nat × Nat := (p.rf .cabShare 0 (8 * b + n) 0 18, p.rf .cabShare 0 (8 * b + n) 20 19)

/-- The bench dies that hold an engine of the Cabinet. -/
def cabEngineDies (p : Part) (b : Nat) : List Nat :=
  (List.range 8).filter fun n =>
    (p.cabGangs b).any (fun g => g / 4 == n) || (p.cabEngines b .planer).any (fun e => e / 8 == n) ||
    (p.cabEngines b .joiner).any (fun e => e / 4 == n) || (p.cabEngines b .burnisher).any (fun e => e / 8 == n) ||
    (p.cabEngines b .carrier).any (fun e => e / 16 == n)

/-- The bench dies of the grant (R247). -/
def cabDies (p : Part) (b : Nat) : List Nat :=
  (List.range 8).filter fun n => (p.cabEngineDies b).contains n || decide ((p.share b n).2 ≠ 0)

/-- The home Jig: the lowest bench die that holds an engine of the Cabinet (01 R27). -/
def homeDie (p : Part) (b : Nat) : Nat := (p.cabEngineDies b).head?.getD 0

/-- The Cabinet that holds a Gang, among the enabled ones. -/
def gangCab (p : Part) (g : Nat) : Option Nat := (List.range 32).find? fun b => p.cabEn b && (p.cabGangs b).contains g

def hold (p : Part) (c b : Nat) : Option Hold := Tab.find (holdKey c b) p.holds

def setHold (p : Part) (c b : Nat) (h : Hold) : Part := { p with holds := Tab.put (holdKey c b) h p.holds }

/-- The context whose hold occupies a Cabinet: resident, being saved or being restored. -/
def occupant (p : Part) (b : Nat) : Option (Nat × Hold) :=
  (p.holds.find? fun e => e.1 % 32 == b && (e.2.st == .resident || e.2.st == .saving || e.2.st == .restoring)).map
    fun e => (e.1 / 32, e.2)

/-- Row `r` of logical die `n` lies in the share of Cabinet `b`. -/
def inShare (p : Part) (b n r : Nat) : Bool := decide ((p.share b n).1 ≤ r) && decide (r < (p.share b n).1 + (p.share b n).2)

def residentCtx (p : Part) (b : Nat) : Option Nat :=
  match p.occupant b with
  | some (c, h) => if h.st = .resident then some c else none
  | none => none

def residentOn (p : Part) (c b : Nat) : Bool := p.residentCtx b == some c

/-- The Cabinets a context holds, resident or not. -/
def heldCabs (p : Part) (c : Nat) : List Nat := (p.holds.filter fun e => e.1 / 32 == c).map fun e => e.1 % 32

/-- The Cabinets whose shares a context may reach: those it holds resident or saved (R247), not those it still waits to be placed on. -/
def shareCabs (p : Part) (c : Nat) : List Nat := (p.holds.filter fun e => e.1 / 32 == c && e.2.st != .new).map fun e => e.1 % 32

/-- The rows of a context's grant: the share of a Cabinet that it holds, resident or saved (R247). `n` is logical. -/
def rowGranted (p : Part) (c n r : Nat) : Bool := (p.shareCabs c).any fun b => p.cabEn b && p.inShare b n r

/-- The stacks that the Cabinets of a context grant it (R247), as a mask. -/
def ctxStacks (p : Part) (c : Nat) : Nat := (p.heldCabs c).foldl (fun m b => if p.cabEn b then m ||| p.rf .cabCtl 0 b 32 12 else m) 0

/-! ### Host rings -/

def cq (p : Part) (q : Nat) : Cq := Tab.getD p.hif.cq q {}
def setCq (p : Part) (q : Nat) (x : Cq) : Part := { p with hif := { p.hif with cq := Tab.put q x p.hif.cq } }
def sq (p : Part) (r : Nat) : Sq := Tab.getD p.hif.sq r {}
def setSq (p : Part) (r : Nat) (x : Sq) : Part := { p with hif := { p.hif with sq := Tab.put r x p.hif.sq } }

/-- Signals a completion ring's vector and clears u (R277). -/
def cqSignal (p : Part) (q : Nat) : Part :=
  let c := p.rf .cqCfg 0 q 8 8
  let p := p.setCq q { p.cq q with u := 0 }
  (p.bumpHif c 6 1).signal (p.fnOf c) (p.rf .cqCfg 0 q 16 11)

/-- Moderation on each entry written (R277). -/
def cqModerate (p : Part) (q : Nat) : Part :=
  if p.rb .cqCfg 0 q 27 then
    let x := p.cq q
    let p := p.setCq q { x with u := x.u + 1, t0 := if x.u = 0 then p.time else x.t0 }
    if p.rf .cqCfg 0 q 32 8 ≤ x.u + 1 then p.cqSignal q else p
  else p

/-- Posts entry CQ_POSTED of a ring: slot and PHASE of R274, written for the context's function (R276). -/
def cqPost (p : Part) (q : Nat) (e : CqEntry) : Part :=
  let x := p.cq q
  let n := 2 ^ p.rf .cqCfg 0 q 0 5
  let phase := 1 - (x.posted / n) % 2
  let a := p.rv .cqBase 0 q / 64 * 64 + (x.posted % n) * 32
  let p := p.hostPost (p.fnOf e.ctx) a (leBytes 32 (setBits e.img 0 1 phase))
  let p := p.setCq q { x with posted := x.posted + 1 }
  (p.bumpHif e.ctx 3 1).cqModerate q

/-- Whether the next entry fits the ring (R275). -/
def cqRoom (p : Part) (q : Nat) : Bool :=
  decide ((p.cq q).posted < (p.cq q).consumed + 2 ^ p.rf .cqCfg 0 q 0 5)

/-- An entry with its STATUS replaced (R275). -/
def withStatus (e : CqEntry) (code : Nat) : CqEntry := { e with img := setBits e.img 16 16 code }

/-- A read of a completion ring's return line is issued (R275), unless one is outstanding. -/
def readReturn (p : Part) (q : Nat) : Part :=
  let fn := p.fnOf (p.rf .cqCfg 0 q 8 8)
  if (p.cq q).reading then p else if p.masters fn then p.setCq q { p.cq q with reading := true } else p.request fn

/-- An entry to be posted (R275): at once where it fits, into the pending queue of 64, or behind it. -/
def post (p : Part) (q : Nat) (e : CqEntry) : Part :=
  let x := p.cq q
  if x.pend = [] && x.ovr = [] && p.cqRoom q then p.cqPost q e
  else if x.ovr = [] && decide (x.pend.length < 64) then
    ((p.setCq q { x with pend := x.pend ++ [e] }).bumpHif e.ctx 4 1).readReturn q
  else
    let code := if (p.ctx e.ctx).state = 0 then 0x0491 else (p.ctx e.ctx).code
    p.setCq q { x with ovr := x.ovr ++ [withStatus e code], full := true }

/-- Posts waiting entries while room lasts (R275); entries beyond the 64 enter the pending queue in turn. -/
def cqDrain (q : Nat) : Nat → Part → Part
  | 0, p => p
  | fuel + 1, p =>
    let x := p.cq q
    match x.pend with
    | [] => p
    | e :: rest =>
      if p.cqRoom q then
        let p := (p.setCq q { x with pend := rest }).cqPost q e
        match x.ovr with
        | [] => cqDrain q fuel p
        | f :: more =>
          let y := p.cq q
          cqDrain q fuel ((p.setCq q { y with pend := y.pend ++ [f], ovr := more }).bumpHif f.ctx 4 1)
      else p

/-! ### Jobs and records -/

def job (p : Part) (j : Nat) : Option Job := Tab.find j p.jig.jobs
def setJob (p : Part) (j : Nat) (x : Job) : Part := { p with jig := { p.jig with jobs := Tab.put j x p.jig.jobs } }
def rec' (p : Part) (j r : Nat) : Option Rec := Tab.find (recKey j r) p.jig.recs
def setRec (p : Part) (j r : Nat) (x : Rec) : Part :=
  { p with jig := { p.jig with recs := Tab.put (recKey j r) x p.jig.recs } }

/-- The fetched records of a job, by index. -/
def jobRecs (p : Part) (j : Nat) : List (Nat × Rec) :=
  (p.jig.recs.filter fun e => e.1 / 32768 == j).map fun e => (e.1 % 32768, e.2)

/-- SLOWDOWN (11 R263), unsigned Q8.8. -/
def slowdown (wall away foreign : Nat) : Nat :=
  if wall ≤ away + foreign then 0xFFFF else min (wall * 256 / (wall - away - foreign)) 0xFFFF

/-- RESULT of a stream operation's completion, and of a chunk's (12 Table 12-5). -/
def opResult (n : Nat) (o : StrOp) : Nat := n + o.op * 2 ^ 18
def chunkResult (n : Nat) (h : Chunk) : Nat := n + 1 * 2 ^ 18 + h.first * 2 ^ 32 + (h.len - 1) * 2 ^ 96 + h.rows * 2 ^ 112

/-- A task completion entry (Table 12-3). -/
def taskEntry (x : Job) (r : Nat) (rc : Rec) (status : Nat) : CqEntry :=
  ⟨x.ctx, 1 * 2 + bits rc.img 0 4 * 2 ^ 4 + b2n rc.zeroOut * 2 ^ 8 + b2n rc.late * 2 ^ 9 + (status % 2 ^ 16) * 2 ^ 16 +
    bits rc.img 32 32 * 2 ^ 32 + (x.ring % 1024) * 2 ^ 64 + (r % 2 ^ 15) * 2 ^ 80 + rc.result * 2 ^ 96⟩

/-- Ends a job (R236): the job completion is posted, SLOWDOWN recorded, the job and its records leave the Jig. T_foreign is timing that the
model does not hold: 0 where no other context is enabled, else a free value of at most T_wall - T_away (log entry 43). -/
def endJob (p : Part) (j status : Nat) : Part :=
  match p.job j with
  | none => p
  | some x =>
    let wall := p.time - x.accepted
    let shared := (List.range 256).any fun c => c != x.ctx && p.ctxEn c
    let f := p.free
    let p := if shared then f.2 else p
    let foreign := if shared then f.1.toNat % (wall - x.away + 1) else 0
    let sl := slowdown wall x.away foreign
    let img := 2 * 2 + (status % 2 ^ 16) * 2 ^ 16 + x.tag * 2 ^ 32 + (x.ring % 1024) * 2 ^ 64 + sl * 2 ^ 80 +
      (x.seq % 2 ^ 64) * 2 ^ 96 + (p.time % 2 ^ 64) * 2 ^ 160
    let p := p.post x.cq ⟨x.ctx, img⟩
    let p := p.setRf .ctxSlowdown 0 x.ctx 0 16 sl
    let p := (p.bump (pkgCtr 3 x.ctx 13) x.away).bump (pkgCtr 3 x.ctx 14) foreign
    let p := p.bumpJig (p.homeDie x.cab) x.ctx 0 1
    { p with jig := { p.jig with
        jobs := Tab.del j p.jig.jobs
        recs := p.jig.recs.filter fun e => e.1 / 32768 != j } }

/-- Whether every record of a job has completed. -/
def jobDone (p : Part) (j : Nat) (x : Job) : Bool :=
  x.header && decide (x.tasks < x.next) && (p.jobRecs j).all fun e => e.2.st == .completed

/-- Completes a record (R235, R236): its state, its completion entry where NOTIFY is 1, and the job's end. A refusal code also counts
under CNT_JIG_REFUSED. -/
def completeRec (p : Part) (j r status : Nat) (zero late : Bool) (result : Nat) : Part :=
  match p.job j, p.rec' j r with
  | some x, some rc =>
    if rc.st = .completed then p else
    let rc := { rc with st := .completed, reported := true, status := status, zeroOut := zero, late := late, result := result }
    let p := p.setRec j r rc
    let p := if status = 0 then p else p.bumpJig (p.homeDie x.cab) x.ctx 6 1
    let p := p.setCtx x.ctx { p.ctx x.ctx with progress := 0 }
    let p := if bit rc.img 4 then p.post x.cq (taskEntry x r rc status) else p
    if p.jobDone j x then p.endJob j 0 else p
  | _, _ => p

/-! ### Translation and control structures (11 R251) -/

/-- A device address lies in HBM, in a stack that serves (13 R302). -/
def hbmServes (p : Part) (a : Nat) : Bool := decide (a < 0x6C00000000) && p.stackOn (stackAt p.hbmMode a)

/-- A local range may be reached for a context (01 R24, 11 R247): Table 1-7 maps it, its stacks or rows are in the grant of the Cabinets that
the context holds, and they serve. -/
def ctlReach (p : Part) (c a n : Nat) : Bool :=
  if a + n ≤ 0x6C00000000 then
    (span (a / 4096) ((a + n - 1) / 4096 - a / 4096 + 1)).all fun k =>
      p.hbmServes (k * 4096) && p.ctxStacks c &&& stackSet p.hbmMode (k * 4096) == stackSet p.hbmMode (k * 4096)
  else
    let m := (a - 0x100000000000) / 2 ^ 32
    decide (0x100000000000 ≤ a) && decide (a < 0x100800000000) && decide (a % 2 ^ 32 + n ≤ 2 ^ 27) && p.benchUp (p.phys m) &&
      (span (a % 2 ^ 32 / 512) ((a % 2 ^ 32 + n - 1) / 512 - a % 2 ^ 32 / 512 + 1)).all (p.rowGranted c m)

/-- An access to a control structure of a context leads nowhere: its context takes the address fault (R24) when the command ends. -/
def ctlBad (p : Part) (c a : Nat) : Part := p.setCtx c { p.ctx c with bad := some a }

/-- The translation of a device address with bit 63 set for a context: the bus address, or none for the address fault. A valid entry is
cached; while an invalidation runs, a cached old entry or the present one is used, which is undefined. -/
def translate (p : Part) (c a : Nat) (write : Bool) : Option Nat × Part :=
  let i := bits a 21 42
  if p.rf .ctxTransLen 0 c 0 21 ≤ i then (none, p) else
  let x := p.ctx c
  let stale := (Tab.find i x.old).isSome
  let fr := p.free
  let p := if stale then fr.2 else p
  let useOld := stale && fr.1.toNat % 2 == 1
  let ea := p.rv .ctxTrans 0 c / 4096 * 4096 + 8 * i
  let e? : Option Nat :=
    if useOld then Tab.find i x.old
    else match Tab.find i x.trans with
      | some e => some e
      | none => if !p.hbmServes ea || p.mem.anyPoison ea 8 then none else some (p.devNat ea 8)
  match e? with
  | none => (none, p)
  | some e =>
    if bit e 0 = false then (none, p) else
    let p := if useOld then p else p.setCtx c { x with trans := Tab.put i e x.trans }
    if write && !(bit e 1) then (none, p) else (some (bits e 21 43 * 2 ^ 21 + a % 2 ^ 21), p)

/-- A write of the part to a control structure of a context, in device memory of its grant or in host memory. -/
def ctlWrite (p : Part) (c a : Nat) (bs : List Byte) : Part :=
  if bit a 63 then
    let t := p.translate c a true
    match t.1 with
    | some h => t.2.hostPost (p.fnOf c) h bs
    | none => t.2.ctlBad c a
  else if !p.ctlReach c a bs.length then p.ctlBad c a
  else if a < hbmEnd then p.hbmPut a bs false
  else p.onMem fun m => m.write (p.physAddr a) bs

/-- A read of a control structure of a context: its bytes and whether it was poisoned. None: it leads nowhere, or its function may not read
host memory, where the request is discarded and counted (12 R281). -/
def ctlRead (p : Part) (c a n : Nat) : Option (List Byte × Bool) × Part :=
  if bit a 63 then
    let t := p.translate c a false
    match t.1 with
    | some h => if t.2.masters (t.2.fnOf c) then (some (t.2.mem.hostRead h n, false), t.2) else (none, t.2.bumpFn (t.2.fnOf c) 1)
    | none => (none, t.2.ctlBad c a)
  else if !p.ctlReach c a n then (none, p.ctlBad c a)
  else
    let pa := p.physAddr a
    (some (p.mem.read pa n, p.mem.anyPoison pa n), p)

/-! ### Stream entries (05 R100, R101) -/

/-- The device address of a stream table entry (R98). -/
def strmAddr (p : Part) (c n : Nat) : Nat := p.rv .ctxStreams 0 c / 128 * 128 + n * 128

def strm (p : Part) (c n : Nat) : Option Strm := Tab.find (strmKey c n) p.strms
def mapStrm (p : Part) (c n : Nat) (f : Strm → Strm) : Part := { p with strms := Tab.upd (strmKey c n) f p.strms }
def setStrm (p : Part) (c n : Nat) (s : Strm) : Part := { p with strms := Tab.put (strmKey c n) s p.strms }

/-- The bits of an entry that the part writes (Table 5-1), the deadline fields of an ANCHOR included. -/
def strmMask : Nat :=
  fm 0 6 + fm 7 1 + fm 32 20 + fm 64 64 + fm 176 16 + fm 192 128 + fm 576 96 + fm 672 352

/-- The fields of an entry that host software writes (Table 5-1). -/
def strmHost : Nat := 2 ^ 1024 - 1 - strmMask + fm 4 1 + fm 192 128

/-- Writes an entry back (R101). Where host software has changed a field of the live entry, whether that survives is undefined (R102): a
free bit decides for each 64-bit word. -/
def strmBack (p : Part) (c n : Nat) : Part :=
  match p.strm c n with
  | none => p
  | some s =>
    let r := p.ctlRead c (p.strmAddr c n) 128
    match r.1 with
    | none => r.2
    | some (bs, _) =>
      let m := leNat bs
      let changed := (m ^^^ s.wrote) &&& strmHost
      let f := r.2.free
      let p := if changed = 0 then r.2 else f.2
      let kept := ((List.range 16).filter fun i => f.1.toNat.testBit i).foldl (fun k i => k + fm (64 * i) 64) 0
      let e := s.ent ^^^ ((s.ent ^^^ m) &&& changed &&& kept)
      (p.setStrm c n { s with wrote := e }).ctlWrite c (p.strmAddr c n) (leBytes 128 e)

/-- Sets STATE and T_STATE (R107) and writes the entry back. -/
def strmState (p : Part) (c n st : Nat) : Part :=
  match p.strm c n with
  | none => p
  | some s =>
    let valid := st == 1 || st == 2 || st == 5
    let e := setBits (setBits (setBits s.ent 0 3 st) 191 1 (b2n valid)) 704 64 p.time
    (p.setStrm c n { s with ent := e }).strmBack c n

/-- The live streams of a context. -/
def liveOf (p : Part) (c : Nat) : List Nat := (p.strms.filter fun e => e.1 / 2 ^ 18 == c).map fun e => e.1 % 2 ^ 18

/-- The slot that holds a stream. -/
def slotOf (p : Part) (c n : Nat) : Option Nat := (p.slots.find? fun e => e.2.ctx == c && e.2.strm == n).map Prod.fst

def freeSlot (p : Part) (k : Nat) : Part := { p with slots := Tab.del k p.slots }

def slot (p : Part) (k : Nat) : Option Slot := Tab.find k p.slots
def mapSlot (p : Part) (k : Nat) (f : Slot → Slot) : Part := { p with slots := Tab.upd k f p.slots }
def setSlot (p : Part) (k : Nat) (s : Slot) : Part := { p with slots := Tab.put k s p.slots }

/-- R119: a live stream ends with a teardown: ENDED, SLOT_VALID = 0, LAST_CODE, its slot freed without saving. -/
def strmEnd (p : Part) (c n : Nat) (code : Option Nat) : Part :=
  match p.strm c n with
  | none => p
  | some s =>
    let e := match code with
      | some k => setBits s.ent 640 16 k
      | none => s.ent
    let p := (p.setStrm c n { s with ent := e }).strmState c n 6
    let p := match p.slotOf c n with
      | some k => p.freeSlot k
      | none => p
    ({ p with strms := Tab.del (strmKey c n) p.strms }).aesEnded c n

/-! ### Scoreboards and regions at a teardown (08 R189) -/

def sbOf (p : Part) (d : Nat) : List SbRange := Tab.getD p.bench.sb d []
def setSb (p : Part) (d : Nat) (l : List SbRange) : Part := { p with bench := { p.bench with sb := Tab.put d l p.bench.sb } }
def region (p : Part) (d i : Nat) : Region := Tab.getD p.bench.regions (d * 256 + i) {}
def setRegion (p : Part) (d i : Nat) (x : Region) : Part :=
  { p with bench := { p.bench with regions := Tab.put (d * 256 + i) x p.bench.regions } }

/-- TAIL advances over written positions (R187, R191); `fuel` bounds the advance. -/
def tailGo (w : List Nat) : Nat → Nat → Nat
  | 0, t => t
  | fuel + 1, t => if w.contains t then tailGo w fuel (t + 1) else t

/-- Positions are returned: HEAD advances over every contiguous one (R191). -/
def regionReturned (x : Region) (ps : List Nat) : Region :=
  let w := ps.foldl (fun l q => insNat q l) x.returned
  let h := tailGo w w.length x.head
  { x with head := h, returned := w.filter fun q => decide (h ≤ q) }

/-- Positions become written: TAIL advances over every contiguous one. Positions that nothing will read any more are returned as they are
released (05 R116). -/
def regionWritten (x : Region) (ps : List Nat) : Region :=
  let w := ps.foldl (fun l q => insNat q l) x.written
  let t := tailGo w w.length x.tail
  let y := { x with tail := t, written := w.filter fun q => decide (t ≤ q), drop := x.drop.filter fun q => decide (t ≤ q) }
  regionReturned y (x.drop.filter fun q => decide (q < t))

/-- An arrival counter of a physical die advances by 1 (R195). -/
def arrive (p : Part) (d : Nat) (k : Option Nat) : Part :=
  match k with
  | none => p
  | some k => p.setReg .arrivalValue d k ((p.rv .arrivalValue d k + 1) % 2 ^ 32)

/-- The waiting reservations of owners are withdrawn. -/
def dropWaits (p : Part) (ids : List Nat) : Part :=
  { p with bench := { p.bench with regions := Tab.mapV (fun _ (x : Region) =>
    { x with waiting := x.waiting.filter fun w => !ids.contains w.1 }) p.bench.regions } }

/-- A range is released with its rows as left: APPEND positions count as written, and rows that were written advance the counters that waited
for the release. -/
def releaseRange (p : Part) (s : SbRange) : Part :=
  let d := s.range.die
  let p := s.owed.foldl (fun p (o : Nat × Nat) => p.arrive d (some o.2)) p
  match s.range.region with
  | some i => p.setRegion d i (regionWritten (p.region d i) (span s.range.pos s.range.n))
  | none => p

/-- Releases the ranges that tasks of `ids` registered. -/
def releaseRanges (p : Part) (ids : List Nat) : Part :=
  let p := (p.bench.sb.flatMap fun e => e.2.filter fun s => ids.contains s.owner).foldl releaseRange p
  let p := { p with bench := { p.bench with sb := Tab.mapV (fun _ (l : List SbRange) => l.filter fun s => !ids.contains s.owner) p.bench.sb } }
  p.dropWaits ids

/-! ### Teardown (11 R261, R262) -/

/-- The tasks of a context on engines, Carriers or stopped. -/
def tasksOf (p : Part) (c : Nat) : List Task :=
  ((p.jig.eng.map Prod.snd) ++ (p.jig.xfer.flatMap Prod.snd) ++ (p.jig.stopped.map Prod.snd)).filter fun t => t.ctx == c

/-- A slot's step in flight and the step whose Punch is due are discarded (04 R95): the stream stands again before the earlier of the two.
A reset that applied to the later step is kept as a mark of its chunk. -/
def dropSlot (p : Part) (k : Nat) : Part :=
  match Tab.find k p.slots with
  | none => p
  | some s =>
    let clean := { s with armed := false, fresh := false, input := [], wr := [], scratch := [], logits := [], opens := [], outs := [], stat := {},
                              lstats := [], pend := none }
    match s.pend with
    | none => p.setSlot k { clean with cond := if s.armed then [] else s.cond }
    | some q =>
      let p := p.setSlot k { clean with bank := q.bank, f := q.fb, cond := [], init := none }
      match p.strm s.ctx s.strm with
      | none => p
      | some x =>
        let mark := fun (h : Chunk) => if s.armed && s.fresh && decide (h.first ≤ s.step) && decide (s.step < h.first + h.len) then
          { h with marks := insNat (s.step - h.first) h.marks } else h
        p.setStrm s.ctx s.strm { x with ent := setBits x.ent 32 20 q.kr, chunks := x.chunks.map mark }

/-- A Gang's step in flight is discarded, and what its Feed has read (04 R95). -/
def dropStep (p : Part) (g : Nat) : Part :=
  let p := ((p.slots.map Prod.fst).filter fun k => k / 128 == g).foldl dropSlot p
  { p with gangs := Tab.upd g (fun (x : Gang) => { x with stepping := false, layer := 0, taken := 0, feed := {} }) p.gangs }

/-- The context of the work that remote data came for: a record by job, a stream by its key (the keys of Operands). -/
def earlyCtx (p : Part) (k : Nat) : Option Nat :=
  if 2 ^ 51 ≤ k then some ((k - 2 ^ 51) / 2 ^ 18) else (p.job ((k - 2 ^ 50) / 32768)).map Job.ctx

/-- Steps 2 and 3 of Table 11-15: every engine of the context's resident holds stops and partial work is discarded. -/
def stopCtx (p : Part) (c : Nat) : Part :=
  let gs := (p.slots.filter fun e => e.2.ctx == c).map fun e => e.1 / 128
  let p := gs.foldl dropStep p
  { p with jig := { p.jig with
      eng := Tab.keep (fun _ t => t.ctx != c) p.jig.eng
      xfer := Tab.mapV (fun _ (l : List Task) => l.filter fun t => t.ctx != c) p.jig.xfer
      stopped := Tab.keep (fun _ t => t.ctx != c) p.jig.stopped
      parked := p.jig.parked.filter fun e => (p.job (e.1 / 32768)).all fun x => x.ctx != c
      early := Tab.keep (fun k _ => p.earlyCtx k != some c) p.jig.early } }

/-- The ranges that a context's saved holds keep in their images are released as well (step 4 of Table 11-15). -/
def releaseSaved (p : Part) (c : Nat) : Part :=
  let l := (p.holds.filter fun e => e.1 / 32 == c).flatMap fun e => e.2.ranges
  let p := l.foldl releaseRange p
  { p with holds := Tab.mapV (fun k (h : Hold) => if k / 32 = c then { h with ranges := [] } else h) p.holds }

/-- The remote reads of a context that stops drain (step 2 of Table 11-15, R256). -/
def drainCtx (p : Part) (c : Nat) : Part :=
  { p with join := { p.join with reads := Tab.mapV (fun _ (r : RdReq) => if r.msg.ctx = c then { r with drain := true } else r) p.join.reads } }

/-- The fault completion of a record in flight. STREAM and OP of a stream operation that has not issued stand in a descriptor that is not yet read,
and are a free value (log entry 85). -/
def faultRec (p : Part) (x : Job) (r : Nat) (y : Rec) (code : Nat) : Part :=
  if bits y.img 0 4 = 8 ∧ y.st = .pending then
    let f := p.free
    f.2.post x.cq (taskEntry x r { y with result := f.1.toNat % 2 ^ 22 } code)
  else p.post x.cq (taskEntry x r y code)

/-- Step 6 of Table 11-15 (R237): in-flight records with NOTIFY and in-flight jobs report the fault code. -/
def faultJobs (p : Part) (c code : Nat) : Part :=
  (p.jig.jobs.filter fun e => e.2.ctx == c).foldl (fun p e =>
    let p := (p.jobRecs e.1).foldl (fun p r =>
      if r.2.st != .completed && bit r.2.img 4 then p.faultRec e.2 r.1 r.2 code else p) p
    p.endJob e.1 code) p

/-- The chunk tasks of a stream that ends report what they stand at (12 Table 12-5), and LATE_STEP. -/
def noteChunks (p : Part) (c n : Nat) : Part :=
  match p.strm c n with
  | none => p
  | some x =>
    let p := x.chunks.foldl (fun p h =>
      match p.rec' h.job h.rix with
      | some y => p.setRec h.job h.rix { y with result := chunkResult n h, late := bit x.ent 5 }
      | none => p) p
    x.ops.foldl (fun p o =>
      match p.rec' o.job o.rix with
      | some y => if o.op = 1 then p.setRec o.job o.rix { y with late := bit x.ent 5 } else p
      | none => p) p

/-- A cause of teardown (R261) with its code: steps 1 to 6 of Table 11-15. Steps 7 and 8 are TEARDOWN_DONE. -/
def teardown (p : Part) (c code : Nat) : Part :=
  if !p.ctxEn c then p
  else if (p.ctx c).state = 5 then p
  else if (p.ctx c).state = 4 then p.bump (pkgCtr 3 c 15) 1
  else
    let p := (p.setCtx c { p.ctx c with state := 4, code := code }).setRf .ctxStatus 0 c 16 16 code
    let ids := rawOwner c :: (p.tasksOf c).map Task.id ++ (p.liveOf c).map (strmOwner c)
    let p := (((p.stopCtx c).drainCtx c).releaseRanges ids).releaseSaved c
    let p := (p.liveOf c).foldl (fun p n => (p.noteChunks c n).strmEnd c n (some code)) p
    (p.aesFade c).faultJobs c code

/-- A context-fatal fault (18 R412): logged, then its context is torn down with the code. -/
def ctxFault (p : Part) (c : Nat) (f : FaultRec) : Part :=
  (p.recordFault { f with ctx := some c }).teardown c f.code

/-- The end of a command: the contexts of control accesses that led nowhere take the address fault (R24), and those whose entry found a
pending queue full are faulted with 0x0491 (12 R275): once, a context in teardown for another cause too, where the fault is logged and counted
(R261); entries that wait after it raise it no more (log entry 85). -/
def settle (p : Part) : Part :=
  let bad := p.ctxs.filterMap fun e => e.2.bad.map fun a => (e.1, a)
  let p := bad.foldl (fun p e =>
    let p := p.setCtx e.1 { p.ctx e.1 with bad := none }
    let p := if (p.ctx e.1).state = 0 then p.ctxFault e.1 ⟨0x0402, .none, 0, none, e.2⟩ else p
    p.setCtx e.1 { p.ctx e.1 with bad := none }) p
  let qs := (p.hif.cq.filter fun e => e.2.full).map Prod.fst
  qs.foldl (fun p q =>
    let p := p.setCq q { p.cq q with full := false }
    let c := p.rf .cqCfg 0 q 8 8
    if (p.ctx c).state = 0 ∨ (p.ctx c).code ≠ 0x0491 then
      let p := p.ctxFault c ⟨0x0491, .none, 0, none, q⟩
      p.setCq q { p.cq q with full := false }
    else p) p

end Part

/-- A command's effect on the part, leaving the queue alone. -/
def onPart (s : State) (f : Part → Part) : Host.Outcome State Fault Refusal := .next { s with part := f s.part }

end Sys2Proof.Machine
end

