-- ==== Sys2Proof/Machine/Dies.lean ====
section
/-!
DEFINITION. Sys2Proof/Machine/Dies.lean: dies and stacks in and out of service: the address map of the stacks (13 R289 to R292), which
units serve, and the die-fatal faults of bench dies, stacks and Chest channels (18 R413).
-/

namespace Sys2Proof.Machine
open Sys2Proof

/-- The local address in its stack (Table 13-1). -/
def localAt (mode a : Nat) : Nat :=
  if mode = 0 then a % 0x900000000
  else if mode = 2 then a / 4096 / 12 * 4096 + a % 4096
  else (a % 0x1B00000000) / 4096 / 3 * 4096 + a % 4096

/-- The device address of a local address of a stack. -/
def deviceAt (mode s l : Nat) : Nat :=
  if mode = 0 then s * 0x900000000 + l
  else if mode = 2 then (l / 4096 * 12 + s) * 4096 + l % 4096
  else s / 3 * 0x1B00000000 + (l / 4096 * 3 + s % 3) * 4096 + l % 4096

/-- The pseudo-channel of a local address (R292). -/
def pseudoChannel (l : Nat) : Nat := bits l 8 5 ^^^ bits l 13 5

namespace Part

def stack (p : Part) (s : Nat) : Stack := Tab.getD p.stks s {}
def setStack (p : Part) (s : Nat) (x : Stack) : Part := { p with stks := Tab.put s x p.stks }
def cup (p : Part) (m : Nat) : Cupboard := Tab.getD p.cups m {}
def setCup (p : Part) (m : Nat) (x : Cupboard) : Part := { p with cups := Tab.put m x p.cups }

/-! ### The Dowel fabric (01 R17 to R20) -/

def dowel (p : Part) (d : Nat) : Dowel := Tab.getD p.dowels d {}
def setDowel (p : Part) (d : Nat) (x : Dowel) : Part := { p with dowels := Tab.put d x p.dowels }

end Part

/-- An end of a transfer: a bench die at its position in the mesh, or a frame die. -/
inductive Fab where
  | bench (d : Nat)
  | frame (m : Nat)
  deriving DecidableEq, Repr, Inhabited

namespace Fab

/-- Mesh hops between two bench dies. -/
def hops (a b : Nat) : Nat := (max (a % 4) (b % 4) - min (a % 4) (b % 4)) + b2n (a / 4 != b / 4)

/-- The bench dies at which a transfer with this end enters or leaves the mesh. -/
def doors : Fab → List Nat
  | .bench d => [d]
  | .frame m => [2 * m, 2 * m + 1]

/-- The die of `l` with the fewest hops to any of `to'`, the lower one on a tie (R19). -/
def nearest (l to' : List Nat) : Nat :=
  let dist := fun a => to'.foldl (fun n b => min n (hops a b)) 8
  l.foldl (fun m a => if dist a < dist m then a else m) (l.headD 0)

/-- The mesh ports from bench die `a` to `b`: column first along the source row, then row (R19). Ports are numbered as in 18 Table 18-1. -/
def mesh (a b : Nat) : List Nat :=
  let lo := min (a % 4) (b % 4)
  let across := (span lo (max (a % 4) (b % 4) - lo)).map (3 * (a / 4) + ·)
  (if a % 4 ≤ b % 4 then across else across.reverse) ++ (if a / 4 = b / 4 then [] else [6 + b % 4])

/-- The attachment port at bench die `d`: one of two, and which of them carries a transfer is not stated (log entry 73). -/
def attach (e : Fab) (d key : Nat) : List Nat :=
  match e with
  | .bench _ => []
  | .frame _ => [10 + 2 * d + Config.attachPort d key % 2]

/-- The ports of a transfer's route, in order (R19); `key` tells transfers between the same ends apart. -/
def route (src dst : Fab) (key : Nat) : List Nat :=
  if src = dst then [] else
  let a := nearest src.doors dst.doors
  let b := nearest dst.doors [a]
  src.attach a key ++ mesh a b ++ dst.attach b key

end Fab

namespace Part

/-- A port on the route retrains and holds its traffic (R20). -/
def fabricHeld (p : Part) (src dst : Fab) (key : Nat) : Bool := (Fab.route src dst key).any fun d => (p.dowel d).training

/-- Every Cupboard line of a stack is invalidated (R401). -/
def dropLines (p : Part) (s : Nat) : Part :=
  let x := p.cup (s / 3)
  p.setCup (s / 3) { x with lines := x.lines.filter fun l => stackAt p.hbmMode (l * 64) != s }

/-- HBM bytes written by the part: every write passes its controller, which keeps the Cupboards current; a poisoned write invalidates the
lines it touches (09 R219). -/
def hbmStore (p : Part) (a : Nat) (bs : List Byte) (poison : Bool) : Part :=
  let p := p.hbmPut a bs poison
  if poison then
    { p with cups := Tab.mapV (fun _ (x : Cupboard) =>
      { x with lines := x.lines.filter fun l => decide (l * 64 + 64 ≤ a) || decide (a + bs.length ≤ l * 64) }) p.cups }
  else p

def chan (p : Part) (ch : Nat) : Chan := Tab.getD p.chest.chans ch {}
def setChan (p : Part) (ch : Nat) (x : Chan) : Part := { p with chest := { p.chest with chans := Tab.put ch x p.chest.chans } }

def chOnline (p : Part) (ch : Nat) : Bool :=
  p.frameUp (ch / 4) && p.rb .chestChCtl (ch / 4) (ch % 4) 0 && decide ((p.chan ch).targets ≠ 0) && !(p.chan ch).training &&
    !p.rb .chestChStatus (ch / 4) (ch % 4) 4

/-- After a die fails, CAB_CTL.EN of each Cabinet with an engine or share on it clears once no hold of it is left (Table 18-2). -/
def clearDeadCabs (p : Part) : Part :=
  (List.range 32).foldl (fun p b =>
    if p.cabEn b && (p.cabDies b).any (fun n => p.svcState (p.phys n) == 6) && p.holds.all (fun e => e.1 % 32 != b) then
      p.setRb .cabCtl 0 b 63 false else p) p

/-- Tears down each context that `f` names, lowest first. -/
def teardownAll (p : Part) (f : Part → Nat → Bool) (code : Nat) : Part :=
  ((List.range 256).filter (f p)).foldl (fun p c => p.teardown c code) p

/-- The sequencer turns the rails of a unit on, or off in the reverse order (16 R371). -/
def railsUp (p : Part) (u : Nat) : Part := { p with power := { p.power with railsOn := insNat u p.power.railsOn } }
def railsDown (p : Part) (u : Nat) : Part := { p with power := { p.power with railsOn := p.power.railsOn.filter (· != u) } }

/-- A die-fatal fault of physical bench die `k` (Table 18-2, R398, R399): FAILED, rails off, the contexts that hold a Cabinet on it torn
down. During a LEAVE of the die the swap completes instead; one of its stand-in ends the LEAVE with STANDIN_BAD. -/
def benchDieFatal (p : Part) (k code : Nat) : Part :=
  let n := p.logi k
  let p := p.recordFault ⟨code, .benchDie, n, none, 0⟩
  let leaving := match p.svc.cmd with
    | some x => x.op == 1 && x.die == k && x.result == 0
    | none => false
  let p := match p.svc.cmd with
    | some x => if x.op = 1 ∧ p.phys x.standin = k ∧ x.result = 0 then
        { p with svc := { p.svc with cmd := some { x with result := 3 } } } else p
    | none => p
  let p := p.setSvcState k 6
  let p := p.setRb .bringupStatus 0 0 (8 + k) false
  let p := { p.railsDown k with svc := { p.svc with passed := p.svc.passed.filter (· != k) } }
  if leaving then p
  else (p.teardownAll (fun p c => (p.heldCabs c).any fun b => (p.cabDies b).contains n) code).clearDeadCabs

/-- A stack leaves service as FAILED (R304), without a fault of its own. -/
def stackDown (p : Part) (s : Nat) : Part :=
  ((p.setRb .stackStatus (s / 3) (s % 3) 5 true).setRb .stackCtl (s / 3) (s % 3) 0 false).dropLines s

/-- A die-fatal fault of a stack (Table 18-2). -/
def stackFatal (p : Part) (s code : Nat) : Part := (p.recordFault ⟨code, .stack, s, none, 0⟩).stackDown s

/-- A Chest channel leaves service as FAILED (R313). -/
def chanDown (p : Part) (ch : Nat) : Part :=
  (p.setRb .chestChStatus (ch / 4) (ch % 4) 4 true).setRb .chestChCtl (ch / 4) (ch % 4) 0 false

/-- A die-fatal fault of a Chest channel (Table 18-2). -/
def chanFatal (p : Part) (ch code : Nat) : Part := (p.recordFault ⟨code, .chestCh, ch, none, 0⟩).chanDown ch

/-- Nanoseconds of `n` engine cycles of a physical bench die (16 R376): 1.25 ns each while it is throttled. -/
def cyclesNs (p : Part) (k n : Nat) : Nat := if p.rb .thermStatus 0 0 (8 + k) then n * 5 / 4 else n * 5 / 8

/-- Nanoseconds of `n` frame fabric cycles of a frame die (16 R376). -/
def frameNs (p : Part) (m n : Nat) : Nat := if p.rb .thermStatus 0 0 (16 + m) then n * 5 / 3 else n * 5 / 6

end Part

end Sys2Proof.Machine
end

