-- ==== Sys2Proof/Machine/Bench.lean ====
section
/-!
DEFINITION. Sys2Proof/Machine/Bench.lean: the shared operations of the Bench stores (08_bench_store): rows and banks, protection and map-out,
the scoreboard, circular regions, arrival counters, gating, redirected writes. A die is physical here.
-/

namespace Sys2Proof.Machine
open Sys2Proof

/-- The bank of a row (R171). -/
def bankOf (r : Nat) : Nat := bits r 0 6 ^^^ bits r 6 6 ^^^ bits r 12 6

/-- The bank row of a row (R171). -/
def bankRow (r : Nat) : Nat := bits r 6 12

def rowKey (d r : Nat) : Nat := d * 2 ^ 18 + r

namespace Part

/-- A Bench store event of physical die `d` (Table 8-10), counted under its logical index (R394). -/
def bumpBench (p : Part) (d ev n : Nat) : Part := p.bump (benchCtr (p.logi d) 0 0 ev) n

/-- A fault of a row: its die and device address (Table 18-4). -/
def rowFault (p : Part) (code d r : Nat) : Part :=
  p.recordFault ⟨code, .benchDie, p.logi d, none, benchAt (p.logi d) (512 * r)⟩

def sparesUsed (p : Part) (d b : Nat) : Nat := p.rf .benchSpares d (b / 8) (8 * (b % 8)) 7

/-- Map-out of a row to the lowest free spare (R181, R182): its content copied, or zero and poisoned after an uncorrectable error. -/
def mapOut (p : Part) (d r : Nat) (ue : Bool) : Part :=
  let b := bankOf r
  let used := p.sparesUsed d b
  if 64 ≤ used then p.benchDieFatal d 0x0840 else
  let a := benchAt d (512 * r)
  let p := if ue then p.onMem fun m => (m.write a (rep 512 0)).setPoison a true else p
  let p := p.setRf .benchSpares d (b / 8) (8 * (b % 8)) 7 (used + 1)
  let p := { p with bench := { p.bench with
    mapped := p.bench.mapped ++ [rowKey d r]
    repairLog := p.bench.repairLog ++ [rowKey d r]
    wback := p.bench.wback.filter (· != rowKey d r) } }
  let p := ((p.bumpBench d 4 1).setRb .benchStatus d 0 2 true).rowFault 0x0111 d r
  if 64 ≤ used + 1 + 4 then (p.setRb .benchStatus d 0 3 true).rowFault 0x0112 d r else p

/-- One row read at its bank (R173, R178 to R181): the row, whether it is delivered poisoned, and what the error-correcting code found. A row
is mapped out at its first uncorrectable error and when its tally comes to RETIRE_CE. -/
def rowRead (p : Part) (d r : Nat) (ecc : Ecc) : (List Byte × Bool) × Part :=
  let a := benchAt d (512 * r)
  let bs := p.mem.read a 512
  let p := p.bumpBench d 0 1
  if p.mem.poisoned a then ((bs, true), p) else
  match ecc with
  | .clean => ((bs, false), p)
  | .corrected =>
    let p := ((p.bumpBench d 2 1).setRb .benchStatus d 0 0 true).rowFault 0x0110 d r
    let t := min (Tab.getD p.bench.tally (rowKey d r) 0 + 1) 15
    let p := { p with bench := { p.bench with tally := Tab.put (rowKey d r) t p.bench.tally } }
    if p.rf .benchCtl d 0 16 4 ≤ t ∧ !p.bench.retired.contains (rowKey d r) then
      ((bs, false), ({ p with bench := { p.bench with retired := insNat (rowKey d r) p.bench.retired } }).mapOut d r false)
    else ((bs, false), { p with bench := { p.bench with wback := insNat (rowKey d r) p.bench.wback } })
  | .uncorrectable =>
    let p := ((p.bumpBench d 3 1).setRb .benchStatus d 0 1 true).rowFault 0x0210 d r
    if p.bench.ued.contains (rowKey d r) then ((bs, true), p)
    else ((bs, true), ({ p with bench := { p.bench with ued := insNat (rowKey d r) p.bench.ued } }).mapOut d r true)

/-! ### Scoreboard (R185 to R189) -/

/-- The place of a row in a registered range. -/
def rangeIdx (p : Part) (d : Nat) (g : Range) (r : Nat) : Option Nat :=
  match g.region with
  | none => if g.first ≤ r ∧ r < g.first + g.n then some (r - g.first) else none
  | some i =>
    let base := p.rf .regionCfg d i 0 18
    let size := p.rf .regionCfg d i 24 19
    if size = 0 ∨ r < base ∨ base + size ≤ r then none else
    let k := (r - base + size - g.pos % size) % size
    if k < g.n then some k else none

/-- Whether a range has released its row `k` (R187): a WHOLE range once all are written, an APPEND range once it and all below are. -/
def released (s : SbRange) (k : Nat) : Bool :=
  match s.range.region with
  | none => s.left == 0
  | some _ => s.left % 2 ^ (k + 1) == 0

/-- Whether an access of engine `eng` to a row waits at the owner (R186). -/
def rowBusy (p : Part) (d r eng : Nat) : Bool :=
  (p.sbOf d).any fun s => s.eng != eng && (match p.rangeIdx d s.range r with
    | some k => !released s k
    | none => false)

/-- Row `k` of a range is written, in full or in part, by a write that names counter `arr`: the range as it then stands, and the counters
whose rows are readable now (R187, R195). -/
def wrote (s : SbRange) (k : Nat) (full : Bool) (arr : Option Nat) : SbRange × List Nat :=
  let t := { s with
    left := if full && s.left.testBit k then s.left - 2 ^ k else s.left
    owed := s.owed ++ (arr.map fun a => (k, a)).toList }
  ({ t with owed := t.owed.filter fun o => !released t o.1 }, (t.owed.filter fun o => released t o.1).map Prod.snd)

/-- A row has been written by `owner`, in full or in part: its ranges mark it and release what they can, regions advance TAIL (R187, R191),
and the counter that the write names advances once the row is readable (R195). -/
def rowDone (p : Part) (d r owner : Nat) (full : Bool) (arr : Option Nat) : Part :=
  let hit := fun (s : SbRange) => if s.owner = owner then p.rangeIdx d s.range r else none
  let app := if full then (p.sbOf d).filterMap fun s =>
    match s.range.region, hit s with
    | some i, some k => if s.left.testBit k then some (i, s.range.pos + k) else none
    | _, _ => none else []
  let x := (p.sbOf d).foldl (fun (a : List SbRange × List Nat × Option Nat) s =>
    match hit s with
    | some k => let y := wrote s k full a.2.2; (a.1 ++ [y.1], a.2.1 ++ y.2, none)
    | none => (a.1 ++ [s], a.2.1, a.2.2)) ([], [], arr)
  let p := p.setSb d (x.1.filter fun s => s.left != 0)
  let p := app.foldl (fun p e => p.setRegion d e.1 (regionWritten (p.region d e.1) [e.2])) p
  (x.2.1 ++ x.2.2.toList).foldl (fun p k => p.arrive d (some k)) p

/-- Registers a range (R185). -/
def register (p : Part) (owner eng : Nat) (g : Range) : Part :=
  p.setSb g.die (p.sbOf g.die ++ [⟨owner, eng, g, 2 ^ g.n - 1, []⟩])

/-! ### Circular regions (R190 to R194) -/

def regionEn (p : Part) (d i : Nat) : Bool := p.rb .regionCfg d i 63
def regionCtx (p : Part) (d i : Nat) : Nat := p.rf .regionCfg d i 48 8
def regionBase (p : Part) (d i : Nat) : Nat := p.rf .regionCfg d i 0 18
def regionSize (p : Part) (d i : Nat) : Nat := p.rf .regionCfg d i 24 19

/-- The row of a position. -/
def regionRow (p : Part) (d i pos : Nat) : Nat := p.regionBase d i + pos % (max (p.regionSize d i) 1)

/-- A job of context `c` on Cabinet `b` may access a row (R247): its die is granted to `b`, and it lies in the share of `b` or of another
Cabinet that the context holds, resident or saved. -/
def rowInGrant (p : Part) (c b n r : Nat) : Bool := (p.cabDies b).contains n && (p.inShare b n r || p.rowGranted c n r)

/-- Rows `a` up to `e` of logical die `n` lie in a context's grant, one share after the other; `fuel` bounds the shares. -/
def spanGranted (p : Part) (c n e : Nat) : Nat → Nat → Bool
  | 0, a => decide (e ≤ a)
  | fuel + 1, a =>
    if e ≤ a then true else
    match (p.shareCabs c).find? fun b => p.cabEn b && p.inShare b n a with
    | none => false
    | some b => spanGranted p c n e fuel ((p.share b n).1 + (p.share b n).2)

/-- The region may be named by context `c` (R194): enabled, of the context, its rows in the grant. -/
def regionOk (p : Part) (c n i : Nat) : Bool :=
  let d := p.phys n
  p.regionEn d i && p.regionCtx d i == c && p.spanGranted c n (p.regionBase d i + p.regionSize d i) 32 (p.regionBase d i)

/-- A region that a stream of the context on Cabinet `b` may name (05 Table 5-4): its die is granted to the Cabinet. -/
def strmRegionOk (p : Part) (c b n i : Nat) : Bool := (p.cabDies b).contains n && p.regionOk c n i

/-- Changes the task of a number wherever it stands: on an engine, on a Carrier, stopped. -/
def mapTask (p : Part) (id : Nat) (f : Task → Task) : Part :=
  let g := fun (t : Task) => if t.id = id then f t else t
  { p with jig := { p.jig with
    eng := Tab.mapV (fun _ t => g t) p.jig.eng
    xfer := Tab.mapV (fun _ (l : List Task) => l.map g) p.jig.xfer
    stopped := Tab.mapV (fun _ t => g t) p.jig.stopped } }

/-- The engine key that holds a task; for an owner on no engine, a key of its own. -/
def engOf (p : Part) (id : Nat) : Nat :=
  match p.jig.eng.find? fun e => e.2.id == id with
  | some e => e.1
  | none => match p.jig.xfer.find? fun e => e.2.any fun t => t.id == id with
    | some e => engKey .carrier e.1
    | none => 0x10000 + id

/-- A task's waiting reservation in a region gets its first position. -/
def Task.gotPos (t : Task) (d i pos : Nat) : Task :=
  match t.waitPos.find? fun g => g.die == d && g.region == some i with
  | none => t
  | some g => { t with dst := t.dst ++ [(d, g.first, pos)], waitPos := t.waitPos.erase g }

/-- The tasks on engines, on Carriers and stopped. -/
def allTasks (p : Part) : List Task := p.jig.eng.map Prod.snd ++ p.jig.xfer.flatMap Prod.snd ++ p.jig.stopped.map Prod.snd

/-- The task of a number. -/
def taskOf (p : Part) (id : Nat) : Option Task := p.allTasks.find? fun t => t.id == id

/-- The context behind a scoreboard owner. -/
def ownerCtx (p : Part) (owner : Nat) : Nat :=
  if 2 ^ 40 ≤ owner then (owner - 2 ^ 40) / 2 ^ 18 else if 2 ^ 32 ≤ owner then owner - 2 ^ 32
  else ((p.taskOf owner).map Task.ctx).getD 0

/-- The engine reports the issue of its task once every registration is acknowledged (R185, 10 R227). -/
def reportIssued (p : Part) (id : Nat) : Part :=
  match p.taskOf id with
  | none => p
  | some t =>
    if !t.toReg.isEmpty ∨ !t.waitPos.isEmpty then p else
    match p.rec' t.job t.rix with
    | some rc => p.setRec t.job t.rix { rc with reported := true }
    | none => p

/-- A reservation takes its positions (R190): RSVD advances, the APPEND range is registered, its task learns the position. -/
def takeRows (p : Part) (d i owner n : Nat) : Part :=
  let x := p.region d i
  let p := p.setRegion d i { x with rsvd := x.rsvd + n }
  let p := p.register owner (p.engOf owner) ⟨d, 0, n, some i, x.rsvd⟩
  (p.mapTask owner fun t => Task.gotPos t d i x.rsvd).reportIssued owner

/-- A registration finds the scoreboard of its die full (R185, R203). -/
def sbFull (p : Part) (d c : Nat) : Part := (p.bumpBench d 5 1).bump (benchCtr (p.logi d) 8 c 16) 1

/-- Waiting reservations are served strictly in order while they fit (R190) and the scoreboard takes their ranges (R185). -/
def serveRegion (d i : Nat) : Nat → Part → Part
  | 0, p => p
  | fuel + 1, p =>
    let x := p.region d i
    match x.waiting with
    | [] => p
    | w :: rest =>
      if x.rsvd + w.2 ≤ x.head + p.regionSize d i then
        if (p.sbOf d).length < 8192 then
          serveRegion d i fuel ((p.setRegion d i { x with waiting := rest, sbWait := false }).takeRows d i w.1 w.2)
        else if x.sbWait then p
        else (p.setRegion d i { x with sbWait := true }).sbFull d (p.ownerCtx w.1)
      else p

/-- A reservation of `n` rows reaches the owner: served at once or waiting in order (R190). -/
def reserve (p : Part) (d i owner n : Nat) : Part :=
  let x := p.region d i
  let p := p.setRegion d i { x with waiting := x.waiting ++ [(owner, n)] }
  serveRegion d i (x.waiting.length + 1) p

/-- Reservations that a HEAD moved by dropped positions lets through (05 R116). -/
def serveDie (p : Part) (d : Nat) : Part :=
  (p.bench.regions.filter fun e => e.1 / 256 == d && !e.2.waiting.isEmpty).foldl (fun p e => serveRegion d (e.1 % 256) e.2.waiting.length p) p

/-- A consumer returns a position (R191). -/
def returnPos (p : Part) (d i pos : Nat) : Part :=
  let x := p.region d i
  if pos < x.head ∨ x.returned.contains pos ∨ x.tail ≤ pos then p.bumpBench d 11 1 else
  serveRegion d i (x.waiting.length) (p.setRegion d i (regionReturned x [pos]))

/-! ### Writes (R173, R180, R195, R196, R202, R207) -/

def arrivalEn (p : Part) (d k : Nat) : Bool := p.rb .arrivalCfg d k 63

/-- A wait is satisfied (R197): VALUE - threshold, modulo 2^32 as a signed number, is 0 or more. -/
def arrived (p : Part) (d k thresh : Nat) : Bool :=
  decide ((p.rf .arrivalValue d k 0 32 + 2 ^ 32 - thresh % 2 ^ 32) % 2 ^ 32 < 2 ^ 31)

/-- A task has written bytes of a row, set in `mask`: the row counts as written at its owner (R187) once all 512 are. -/
def noteFill (p : Part) (id d r mask : Nat) (arr : Option Nat) : Part :=
  let now := mask ||| (match p.taskOf id with
    | some t => Tab.getD t.filled (rowKey d r) 0
    | none => 0)
  if now = fm 0 512 then (p.mapTask id fun t => { t with filled := Tab.del (rowKey d r) t.filled }).rowDone d r id true arr
  else (p.mapTask id fun t => { t with filled := Tab.put (rowKey d r) now t.filled }).rowDone d r id false arr

/-- A write supplies a whole row. -/
def RowWrite.whole (w : RowWrite) : Bool := w.first == 0 && w.data.length == 512

/-- A write has reached its row: whole rows, and writes by no task, count as written at once, part rows of a task when they are full. -/
def rowFilled (p : Part) (d : Nat) (w : RowWrite) : Part :=
  if RowWrite.whole w || (p.taskOf w.eng).isNone then p.rowDone d w.row w.eng true w.arrival
  else p.noteFill w.eng d w.row (fm w.first w.data.length) w.arrival

/-- A row write at its bank: whole, or merged as one indivisible operation; poison as R180 says; ranges and counter advance. -/
def bankWrite (p : Part) (d : Nat) (w : RowWrite) (ecc : Ecc) : Part :=
  let a := benchAt d (512 * w.row)
  let whole := RowWrite.whole w
  let p := if whole then p else (p.rowRead d w.row ecc).2
  let p := p.onMem fun m =>
    let m := m.write (a + w.first) w.data
    if w.poison then m.setPoison a true else if whole then m.setPoison a false else m
  ((p.bumpBench d 1 1).rowFilled d w).serveDie d

def bank (p : Part) (d b : Nat) : Bank := Tab.getD p.bench.banks (d * 64 + b) {}
def setBank (p : Part) (d b : Nat) (x : Bank) : Part :=
  { p with bench := { p.bench with banks := Tab.put (d * 64 + b) x p.bench.banks } }

/-- An access reaches a gated bank (R200, R201): into the gate queue of 8, or back-pressured behind it. -/
def gateQueue (p : Part) (d b : Nat) (acc : QAcc) : Part :=
  let x := p.bank d b
  if (match acc with
    | .wait _ => x.queue.contains acc || x.blocked.contains acc
    | _ => false) then p
  else if x.queue.length < 8 then
    let p := p.setBank d b { x with queue := x.queue ++ [acc] }
    match acc with
    | .write _ _ => (p.bumpBench d 9 1).setRb .benchStatus d 0 4 true
    | _ => p
  else p.setBank d b { x with blocked := x.blocked ++ [acc] }

/-- The context whose hold on an enabled Cabinet owns the row, by logical die. -/
def rowOwner (p : Part) (n r : Nat) : Option Nat :=
  ((List.range 32).find? fun b => p.cabEn b && decide ((p.share b n).1 ≤ r) && decide (r < (p.share b n).1 + (p.share b n).2) &&
    (p.occupant b).isSome).bind fun b => (p.occupant b).map Prod.fst

/-- The redirection of a context's write to a row of its saved share (R202). -/
def redirectOf (p : Part) (c d r : Nat) : Option Redirect :=
  p.bench.redirects.find? fun x => x.ctx == c && x.die == d && decide (x.first ≤ r) && decide (r < x.first + x.rows)

/-- The address fault of a write, raised by the engine that issued it. -/
def writeFault (p : Part) (d : Nat) (w : RowWrite) : FaultRec :=
  let addr := benchAt (p.logi d) (512 * w.row + w.first)
  match w.src with
  | some (c, e) => ⟨0x0402, .engine, engUnit c e, none, addr⟩
  | none => ⟨0x0402, .none, 0, none, addr⟩

/-- The row belongs to a share that another context's hold occupies, and not to the writer's grant. -/
def foreignRow (p : Part) (d : Nat) (w : RowWrite) : Bool :=
  match p.rowOwner (p.logi d) w.row with
  | some o => o != w.ctx && !p.rowGranted w.ctx (p.logi d) w.row
  | none => false

/-- A write lands (R202): in the save image of its context's share, in its row, or nowhere where the die is granted to another context. -/
def rowLand (p : Part) (d : Nat) (w : RowWrite) (ecc : Ecc) : Part :=
  match p.redirectOf w.ctx d w.row with
  | some x => ((p.hbmStore (x.image + 512 * (w.row - x.first) + w.first) w.data w.poison).rowFilled d w).serveDie d
  | none => if p.foreignRow d w then p.ctxFault w.ctx (p.writeFault d w) else p.bankWrite d w ecc

/-- The row of an access, and the engine whose own ranges it does not wait on (R186). -/
def accRow (a : QAcc) : Nat :=
  match a with
  | .wait r => r
  | .read r _ => r
  | .scrub r _ => r
  | .mode _ _ r _ => r
  | .write w _ => w.row

def accKey (p : Part) (a : QAcc) : Nat :=
  match a with
  | .write w _ => p.engOf w.eng
  | _ => 0xFFFE

/-- The 8 KiB of a transposed read with element width `w` (R175). -/
def transpose (w : Nat) (rows : List (List Byte)) : List Byte :=
  (List.range (512 / w)).flatMap fun c => rows.flatMap fun r => (r.drop (c * w)).take w

/-- The row of a strided read of segment `seg` (R176). -/
def gatherSeg (seg : Nat) (rows : List (List Byte)) : List Byte := rows.flatMap fun r => (r.drop (32 * seg)).take 32

/-- What a read delivered. -/
def deliver (p : Part) (x : List Byte × Bool) : Part := { p with bench := { p.bench with rowOut := some x } }

/-- Row `k` of mode read `id` is read; the last of the 16 delivers the result. -/
def modeRow (p : Part) (d id k r : Nat) (ecc : Ecc) : Part :=
  match Tab.find id p.bench.modes with
  | none => p
  | some m =>
    let x := p.rowRead d r ecc
    let rows := setAt m.rows k (some x.1)
    if rows.all Option.isSome then
      let l := rows.filterMap fun y => y
      let out := match m.width with
        | some w => transpose w (l.map Prod.fst)
        | none => gatherSeg m.seg (l.map Prod.fst)
      ({ x.2 with bench := { x.2.bench with modes := Tab.del id x.2.bench.modes } }).deliver (out, l.any Prod.snd)
    else { x.2 with bench := { x.2.bench with modes := Tab.put id { m with rows := rows } x.2.bench.modes } }

/-- An access is granted by its bank (R200). -/
def runAcc (p : Part) (d : Nat) (acc : QAcc) : Part :=
  match acc with
  | .wait _ => p
  | .read r ecc => let x := p.rowRead d r ecc; x.2.deliver x.1
  | .scrub r ecc => (p.rowRead d r ecc).2
  | .mode id k r ecc => p.modeRow d id k r ecc
  | .write w ecc => p.rowLand d w ecc

/-- An access that no range holds back reaches its bank: the gate queue where it is gated (R200, R201). -/
def access (p : Part) (d : Nat) (acc : QAcc) : Part :=
  if (p.bank d (bankOf (accRow acc))).gated then p.gateQueue d (bankOf (accRow acc)) acc else p.runAcc d acc

/-- A LEAVE holds every new access to a die (17 R396). -/
def dieHeld (p : Part) (d : Nat) : Bool := p.svc.holding.any fun n => p.phys n == d

/-- An access arrives at its owner die: in a registered range not yet released it waits there (R186), as at a die whose LEAVE holds it. -/
def rowRequest (p : Part) (d : Nat) (acc : QAcc) : Part :=
  if p.dieHeld d || p.rowBusy d (accRow acc) (p.accKey acc) then { p with bench := { p.bench with waits := p.bench.waits ++ [(d, acc)] } }
  else p.access d acc

/-- A write request reaches its owner die: the rules that discard it first (R196, R202), then redirection, the scoreboard, the gate queue or the bank.
-/
def rowWrite (p : Part) (d : Nat) (w : RowWrite) (ecc : Ecc) : Part :=
  let bad := match w.arrival with
    | some k => !(p.arrivalEn d k && p.rf .arrivalCfg d k 0 8 == w.ctx)
    | none => false
  if p.dieHeld d then p.rowRequest d (.write w ecc)
  else if bad then
    ((p.bumpBench d 6 1).bump (benchCtr (p.logi d) 8 w.ctx 17) 1).ctxFault w.ctx (p.writeFault d w)
  else if (p.redirectOf w.ctx d w.row).isSome || p.foreignRow d w then p.rowLand d w ecc
  else p.rowRequest d (.write w ecc)

/-- Accesses whose rows have been released go on, in the order in which they arrived (R186, R187). -/
def serveWaits : Nat → Part → Part
  | 0, p => p
  | fuel + 1, p =>
    match p.bench.waits.find? fun e => !p.dieHeld e.1 && !p.rowBusy e.1 (accRow e.2) (p.accKey e.2) with
    | none => p
    | some e =>
      let p := { p with bench := { p.bench with waits := p.bench.waits.erase e } }
      serveWaits fuel (match e.2 with
        | .write w ecc => p.rowWrite e.1 w ecc
        | acc => p.access e.1 acc)

def runWaits (p : Part) : Part := serveWaits p.bench.waits.length p

/-- A wake completes: the queued accesses run in order, then the back-pressured ones (R200, R201). -/
def wakeBank (p : Part) (d b : Nat) : Part :=
  let x := p.bank d b
  let p := (p.setBank d b { gated := false, queue := [], blocked := [] }).bumpBench d 8 1
  (x.queue ++ x.blocked).foldl (fun p a => p.runAcc d a) p

/-- Writes a run of bytes to a store row by row (R173), each row as one request of an engine. -/
def storeRows (p : Part) (d c eng : Nat) (o : Nat) (bs : List Byte) (poison : Bool) (arrival : Option Nat) (ecc : Ecc) (src : Option (Cls × Nat)) :
    Part :=
  let rows := if bs.isEmpty then [] else span (o / 512) ((o + bs.length - 1) / 512 - o / 512 + 1)
  rows.foldl (fun p r =>
    let lo := max o (512 * r)
    let hi := min (o + bs.length) (512 * r + 512)
    p.rowWrite d ⟨c, r, lo - 512 * r, (bs.drop (lo - o)).take (hi - lo), poison, arrival, eng, src⟩ ecc) p

/-! ### Output rows of streams (05 R118) -/

/-- A write of an owner to a row is on its way: queued at a gated bank, or waiting for a range. -/
def writeQueued (p : Part) (d owner r : Nat) : Bool :=
  let mine := fun (a : QAcc) => match a with
    | .write w _ => w.eng == owner && w.row == r
    | _ => false
  (p.bench.banks.any fun e => e.1 / 64 == d && (e.2.queue ++ e.2.blocked).any mine) || p.bench.waits.any fun e => e.1 == d && mine e.2

/-- The position that a stream has been given in its output region and has not yet written to. -/
def outRange (p : Part) (d i owner : Nat) : Option SbRange :=
  (p.sbOf d).find? fun s => s.owner == owner && s.range.region == some i && !p.writeQueued d owner (p.regionRow d i s.range.pos)

/-- The slot's full row buffer is written to the stream's output region: at the position it has been given, or after it asks for one in the
region's order of arrival (08 R190). -/
def flush (p : Part) (k : Nat) : Part :=
  match p.slot k with
  | none => p
  | some s =>
    if s.out.length < 256 then p else
    match p.strm s.ctx s.strm with
    | none => p
    | some x =>
      let n := Ent.outDie x.ent
      let d := p.phys n
      let i := Ent.outRegion x.ent
      let owner := strmOwner s.ctx s.strm
      if !p.benchUp d || !p.ctxRuns s.ctx || !p.residentOn s.ctx (Ent.cab x.ent) || Ent.state x.ent != 1 then p
      else if !p.strmRegionOk s.ctx (Ent.cab x.ent) n i then
        p.ctxFault s.ctx ⟨0x0402, .engine, engUnit .lathe (k / 16), none, benchAt n (512 * p.regionBase d i)⟩
      else
        let p := if (p.outRange d i owner).isSome || (p.region d i).waiting.any (fun w => w.1 == owner) then p else p.reserve d i owner 1
        match p.outRange d i owner with
        | none => p
        | some g =>
          let w : RowWrite := ⟨s.ctx, p.regionRow d i g.range.pos, 0, s.out.flatMap (leBytes 2), false, none, owner, some (.lathe, k / 16)⟩
          let p := (p.rowWrite d w .clean).mapSlot k fun s => { s with out := [] }
          let done := Ent.step x.ent
          p.mapStrm s.ctx s.strm fun x => { x with chunks := x.chunks.map fun h =>
            if h.first < done ∧ done ≤ h.first + h.len then { h with rows := h.rows + 1, ended := done == h.first + h.len } else h }

/-- Full row buffers whose region has room now. -/
def flushAll (p : Part) : Part := ((p.slots.filter fun e => decide (256 ≤ e.2.out.length)).map Prod.fst).foldl flush p

/-- An armed wait that is satisfied is over, whatever its counter does afterwards (R197). -/
def Task.rested (p : Part) (t : Task) : Task :=
  match t.wait with
  | some (d, k, th) => if p.residentOn t.ctx t.cab && p.arrived d k th then { t with wait := none } else t
  | none => t

/-- The armed waits of the tasks of resident holds are checked. -/
def restWaits (p : Part) : Part :=
  { p with jig := { p.jig with
    eng := Tab.mapV (fun _ (t : Task) => Task.rested p t) p.jig.eng
    xfer := Tab.mapV (fun _ (l : List Task) => l.map fun (t : Task) => Task.rested p t) p.jig.xfer
    stopped := Tab.mapV (fun _ (t : Task) => Task.rested p t) p.jig.stopped } }

/-- What a command sets going: accesses whose rows have been released, full row buffers whose region has a free row, and tasks whose armed wait
is satisfied. -/
def proceed (p : Part) : Part := p.runWaits.flushAll.runWaits.restWaits

end Part

end Sys2Proof.Machine
end

