-- ==== Sys2Proof/Machine/Stacks.lean ====
section
/-!
DEFINITION. Sys2Proof/Machine/Stacks.lean: reads and writes of memory stacks (13 R293 to R304) and their Cupboards (09 R219).
-/

namespace Sys2Proof.Machine
open Sys2Proof

/-- Sectors of a stack: 36 GiB of 32 bytes. -/
def sectorsPerStack : Nat := 0x900000000 / 32

namespace Part

/-- A stack event (Table 13-15): 0 CE, 1 UE, 2 ODECC, 3 SR_EXIT, 4 REPAIRED. -/
def bumpStack (p : Part) (s ev n : Nat) : Part := p.bump (frameCtr (s / 3) 1 (s % 3) ev) n

def bumpCup (p : Part) (m ev : Nat) : Part := p.bump (frameCtr m 0 0 ev) 1

/-- A row becomes a repair candidate, kept in the repair log. -/
def candidate (p : Part) (s row : Nat) : Part :=
  let x := p.stack s
  p.setStack s { x with cands := insNat row x.cands }

/-- One sector read at its controller (R297, R298): its bytes and whether it is delivered poisoned. -/
def sectorRead (p : Part) (a : Nat) (ecc : Ecc) : (List Byte × Bool) × Part :=
  let u := a / 32 * 32
  let s := stackAt p.hbmMode u
  let sector := localAt p.hbmMode u / 32
  let bs := p.mem.read u 32
  if p.mem.poisoned u then ((bs, true), p) else
  match ecc with
  | .clean => ((bs, false), p)
  | .corrected =>
    let p := ((p.bumpStack s 0 1).setRb .stackStatus (s / 3) (s % 3) 1 true).recordFault ⟨0x0120, .stack, s, none, sector⟩
    let row := Config.hbmRow s sector
    let x := p.stack s
    let t := Tab.getD x.tally row 0 + 1
    let p := p.setStack s { x with tally := Tab.put row t x.tally }
    ((bs, false), if p.rf .hbmCtl (s / 3) 0 8 8 ≤ t then p.candidate s row else p)
  | .uncorrectable =>
    let p := ((p.bumpStack s 1 1).setRb .stackStatus (s / 3) (s % 3) 2 true).recordFault ⟨0x0220, .stack, s, none, sector⟩
    ((bs, true), (p.onMem fun m => m.setPoison u true).candidate s (Config.hbmRow s sector))

/-- The set of a line's address (R219). -/
def cupSet (line : Nat) : Nat := bits (line * 64) 6 16 ^^^ bits (line * 64) 22 16

/-- A line used last, at most 16 per set. -/
def cupTouch (x : Cupboard) (line : Nat) : Cupboard :=
  let l := x.lines.filter (· != line)
  let same := l.filter fun y => cupSet y == cupSet line
  let l := if 16 ≤ same.length then l.filter fun y => some y != same.getLast? else l
  { x with lines := line :: l }

def cupEn (p : Part) (m : Nat) : Bool := p.rb .cupboardCtl m 0 0

/-- What a present line's own code finds (R219). -/
def cupEcc (p : Part) (m line : Nat) (ecc : Ecc) : Part :=
  match ecc with
  | .clean => p
  | .corrected => ((p.bumpCup m 2).setRb .cupboardStatus m 0 0 true).recordFault ⟨0x0121, .frameDie, m, none, 0⟩
  | .uncorrectable =>
    let x := p.cup m
    let p := p.setCup m { x with lines := x.lines.filter (· != line) }
    ((p.bumpCup m 3).setRb .cupboardStatus m 0 1 true).recordFault ⟨0x0121, .frameDie, m, none, 0⟩

/-- Sectors read in turn, the first with the finding: their bytes, each with its sector's poison. -/
def sectorsRead (p : Part) (us : List Nat) (ecc : Ecc) : List (Byte × Bool) × Part :=
  us.foldl (fun (x : List (Byte × Bool) × Part) u =>
    let y := x.2.sectorRead (u * 32) (if us.head? = some u then ecc else .clean)
    (x.1 ++ y.1.1.map fun v => (v, y.1.2), y.2)) ([], p)

/-- The sectors `us` of one line read through its Cupboard (R219): a hit meets the line's own code and takes the data as HBM holds it; a line
whose fill is in flight comes with that fill; a miss reads HBM, and fills the line where it allocates and no sector came poisoned. -/
def lineRead (p : Part) (line : Nat) (us : List Nat) (alloc : Bool) (ecc : Ecc) : List (Byte × Bool) × Part :=
  let m := stackAt p.hbmMode (line * 64) / 3
  if !p.cupEn m then p.sectorsRead us ecc
  else if (p.cup m).lines.contains line then
    ((((p.setCup m (cupTouch (p.cup m) line)).bumpCup m 0).cupEcc m line ecc)).sectorsRead us .clean
  else if (p.cup m).fills.contains line then (p.bumpCup m 0).sectorsRead us .clean
  else
    let x := (p.bumpCup m 1).sectorsRead us ecc
    (x.1, if alloc && !x.1.any Prod.snd then x.2.setCup m (cupTouch (x.2.cup m) line) else x.2)

/-- Reads `n` bytes of HBM through the Cupboards, each with its poison: `ecc` is what the first line's or sector's code finds. -/
def hbmFetch (p : Part) (a n : Nat) (alloc : Bool) (ecc : Ecc) : List (Byte × Bool) × Part :=
  if n = 0 then ([], p) else
  let last := (a + n - 1) / 32
  let r := (span (a / 64) ((a + n - 1) / 64 - a / 64 + 1)).foldl (fun (x : List (Byte × Bool) × Part) line =>
    let us := [2 * line, 2 * line + 1].filter fun u => decide (a / 32 ≤ u) && decide (u ≤ last)
    let y := x.2.lineRead line us alloc (if line = a / 64 then ecc else .clean)
    (x.1 ++ y.1, y.2)) ([], p)
  ((r.1.drop (a % 32)).take n, r.2)

/-- A further copy of the same data is read through the Cupboards (R216): its lines hit, or miss and are read again. -/
def readAgain (p : Part) (a n : Nat) : Part := (p.hbmFetch a n true .clean).2

/-- One sector written (R293, R299): whole, or merged after a read that its code checks. -/
def sectorWrite (p : Part) (a : Nat) (data : List Byte) (poison : Bool) (ecc : Ecc) : Part :=
  let whole := a % 32 == 0 && data.length == 32
  let p := if whole then p else (p.sectorRead a ecc).2
  p.hbmStore a data poison

/-- A request meets its stack: queued while the stack sleeps (R295), else run. -/
def stackReq (p : Part) (s : Nat) (acc : HAcc) (run : Part → Part) : Part :=
  if !p.stackOn s then p
  else if (p.stack s).asleep then
    let x := p.stack s
    p.setStack s { x with waking := true, queue := x.queue ++ [acc] }
  else run p

/-- A read request of a line or sector (R219, R293). -/
def hbmReadRun (p : Part) (a : Nat) (line : Bool) (ecc : Ecc) : Part :=
  let m := stackAt p.hbmMode a / 3
  let ln := a / 64
  let x := p.cup m
  let give := fun (y : (List Byte × Bool) × Part) => ({ y.2 with bench := { y.2.bench with rowOut := some y.1 } } : Part)
  if !p.cupEn m then give (p.sectorRead a ecc)
  else if x.lines.contains ln then
    let p := (p.setCup m (cupTouch x ln)).bumpCup m 0
    give ((p.cupEcc m ln ecc).sectorRead a .clean)
  else if x.fills.contains ln then p.bumpCup m 0
  else if line then (p.setCup m { x with fills := x.fills ++ [ln] }).bumpCup m 1
  else give ((p.bumpCup m 1).sectorRead a ecc)

def runHAcc (p : Part) (acc : HAcc) : Part :=
  match acc with
  | .read a line ecc => p.hbmReadRun a line ecc
  | .write a data poison ecc => p.sectorWrite a data poison ecc

def hbmRead (p : Part) (a : Nat) (line : Bool) (ecc : Ecc) : Part :=
  p.stackReq (stackAt p.hbmMode a) (.read a line ecc) fun p => p.hbmReadRun a line ecc

def hbmWrite (p : Part) (a : Nat) (data : List Byte) (poison : Bool) (ecc : Ecc) : Part :=
  p.stackReq (stackAt p.hbmMode a) (.write a data poison ecc) fun p => p.sectorWrite a data poison ecc

/-- Refresh keeps every row's content (R294): the stack's state does not change. -/
def hbmRefresh (p : Part) (_s _bank : Nat) : Part := p

def trained (p : Part) (s : Nat) : Bool :=
  p.frameUp (s / 3) && p.rb .stackStatus (s / 3) (s % 3) 0 && !p.rb .stackStatus (s / 3) (s % 3) 5

def selfRefreshEnter (p : Part) (s : Nat) : Part :=
  let x := p.stack s
  if p.trained s && p.rf .hbmCtl (s / 3) 0 16 16 != 0 && !x.asleep && !p.rb .stackStatus (s / 3) (s % 3) 3 then
    p.setStack s { x with asleep := true } else p

def stackWakeDone (p : Part) (s : Nat) : Part :=
  let x := p.stack s
  if x.asleep && x.waking then
    let p := (p.setStack s { x with asleep := false, waking := false, queue := [] }).bumpStack s 3 1
    x.queue.foldl runHAcc p
  else p

def odeccPoll (p : Part) (s n : Nat) : Part := if p.trained s then p.bumpStack s 2 n else p

/-- The next sector of patrol scrub (R301, R302); a new period starts with empty tallies. -/
def hbmPatrolScrub (p : Part) (s : Nat) (ecc : Ecc) : Part :=
  let x := p.stack s
  if p.trained s && !x.asleep && !p.rb .stackStatus (s / 3) (s % 3) 3 then
    let last := x.scrub + 1 == sectorsPerStack
    let p := (p.sectorRead (deviceAt p.hbmMode s (x.scrub * 32)) ecc).2
    let y := p.stack s
    p.setStack s { y with scrub := if last then 0 else x.scrub + 1, tally := if last then [] else y.tally }
  else p

/-- A Cupboard line's fill ends (R219): the line is present, and the error-correcting code's finding is its first sector's. -/
def cupboardFillDone (p : Part) (m line : Nat) (ecc : Ecc) : Part :=
  let x := p.cup m
  if x.fills.contains line then
    let p := p.setCup m { x with fills := x.fills.filter (· != line) }
    let a := p.sectorRead (line * 64) ecc
    let b := a.2.sectorRead (line * 64 + 32) .clean
    let p := b.2
    let p := if p.cupEn m && !(a.1.2 || b.1.2) then p.setCup m (cupTouch (p.cup m) line) else p
    { p with bench := { p.bench with rowOut := some (a.1.1 ++ b.1.1, a.1.2 || b.1.2) } }
  else p

def cupboardFlushDone (p : Part) (m : Nat) : Part := p.setRb .cupboardStatus m 0 2 false

/-- The candidates of a stack after a repair (R303): those whose bank had no spare row, and the rows that failed the test. -/
def candsLeft (x : Stack) (unspared failed : List Nat) : List Nat :=
  failed.foldl (fun l r => insNat r l) (x.cands.filter unspared.contains)

/-- A repair ends (R303): `unspared` are candidates whose bank has no spare row, `failed` rows that fail the test, `rest` how many more do. The
repaired candidates leave the log, the stack is zero; a test that fails in more than 64 rows fails the stack (R304). -/
def repairDone (p : Part) (s : Nat) (unspared failed : List Nat) (rest : Nat) : Part :=
  let m := s / 3
  let j := s % 3
  if !p.rb .stackStatus m j 3 then p else
  let x := p.stack s
  let left := candsLeft x unspared failed
  let n := (x.cands.filter fun r => !left.contains r).length
  let p := p.setStack s { x with cands := left, repaired := x.repaired + n, tally := [] }
  let p := if left.isEmpty then p else p.setRb .stackStatus m j 4 true
  let p := (p.onMem fun mem => mem.zeroStack p.hbmMode s).bumpStack s 4 n
  let p := p.setRb .stackStatus m j 3 false
  if failed.eraseDups.length + rest ≤ 64 then p else p.stackFatal s 0x0850

end Part

def execHbmRead (addr : Nat) (lineRead : Bool) (ecc : Ecc) (s : State) : Host.Outcome State Fault Refusal :=
  onPart s fun p => p.hbmRead addr lineRead ecc

def execHbmWrite (addr : Nat) (data : List Byte) (poison : Bool) (ecc : Ecc) (s : State) : Host.Outcome State Fault Refusal :=
  onPart s fun p => p.hbmWrite addr data poison ecc

def execHbmRefresh (st bank : Nat) (s : State) : Host.Outcome State Fault Refusal := onPart s fun p => p.hbmRefresh st bank

def execSelfRefreshEnter (st : Nat) (s : State) : Host.Outcome State Fault Refusal := onPart s fun p => p.selfRefreshEnter st

def execStackWakeDone (st : Nat) (s : State) : Host.Outcome State Fault Refusal := onPart s fun p => p.stackWakeDone st

def execOdeccPoll (st n : Nat) (s : State) : Host.Outcome State Fault Refusal := onPart s fun p => p.odeccPoll st n

def execHbmPatrolScrub (st : Nat) (ecc : Ecc) (s : State) : Host.Outcome State Fault Refusal :=
  onPart s fun p => p.hbmPatrolScrub st ecc

def execCupboardFillDone (m line : Nat) (ecc : Ecc) (s : State) : Host.Outcome State Fault Refusal :=
  onPart s fun p => p.cupboardFillDone m line ecc

def execCupboardFlushDone (m : Nat) (s : State) : Host.Outcome State Fault Refusal := onPart s fun p => p.cupboardFlushDone m

def execRepairDone (st : Nat) (unspared failed : List Nat) (rest : Nat) (s : State) : Host.Outcome State Fault Refusal :=
  onPart s fun p => p.repairDone st unspared failed rest

end Sys2Proof.Machine
end

