-- ==== Sys2Proof/Machine/Links.lean ====
section
/-!
DEFINITION. Sys2Proof/Machine/Links.lean: the link and message layers of Dovetail links (15 R343 to R358) and the join protocol's own
operations (R359 to R363): sending, routing, election, commit.
-/

namespace Sys2Proof.Machine
open Sys2Proof

/-- Notice codes (log entry 31): the address fault of a refusal is its own code. -/
def noticeFence : Nat := 1
def noticeLeave : Nat := 2

/-- Credits of 64 bytes that a message consumes (R347). -/
def msgCredits (m : DtMsg) : Nat := cdiv (16 + m.len) 64

/-- Flits that a message occupies: its 16-byte header and payload in 240-byte flits (R345; log entry 32). -/
def msgFlits (m : DtMsg) : Nat := cdiv (16 + m.data.length) 240

/-- The words of a message's header (Table 15-4) and of a flit's (Table 15-3), by their lowest bits. -/
def fieldsWord (l : List (Nat × Nat × Nat)) : Nat := l.foldl (fun w e => w + e.2.2 % 2 ^ e.2.1 * 2 ^ e.1) 0

def DtMsg.header (m : DtMsg) : Nat :=
  fieldsWord [(0, 2, m.cls), (2, 4, m.op), (6, 1, b2n m.poison), (8, 5, m.src), (13, 5, m.dst), (18, 8, m.ctx), (26, 10, m.arrival),
    (36, 1, b2n m.arrivalEn), (37, 10, m.len), (48, 16, m.tag), (64, 3, m.die), (67, 18, m.row), (85, 9, m.byte), (96, 32, m.epoch)]

/-- The header of a flit in which the first message header starts at slot `first` (15 if none does). -/
def Flit.header (f : Flit) (first : Nat) : Nat :=
  fieldsWord [(0, 2, f.kind), (2, 1, b2n f.nak), (8, 16, f.seq), (24, 16, f.ack), (40, 2, f.crClass), (42, 10, f.crCount), (52, 4, first)]

/-- The bytes of a flit with 240 bytes of message stream: header, stream, CRC-32 (R345). -/
def Flit.bytes (f : Flit) (first : Nat) (stream : List Byte) : List Byte :=
  let l := leBytes 12 (Flit.header f first) ++ stream
  l ++ leBytes 4 (crc32 l)

namespace Part

def link (p : Part) (l : Nat) : Link := Tab.getD p.links l {}
def setLink (p : Part) (l : Nat) (x : Link) : Part := { p with links := Tab.put l x p.links }

/-- DT_LINK_STATUS.STATE and WIDTH. -/
def linkSt (p : Part) (l : Nat) : Nat := p.rf .dtLinkStatus (l / 16) (l % 16) 0 3
def linkWidth (p : Part) (l : Nat) : Nat := p.rf .dtLinkStatus (l / 16) (l % 16) 3 2
def setLinkWidth (p : Part) (l w : Nat) : Part := p.setRf .dtLinkStatus (l / 16) (l % 16) 3 2 w
def linkEn (p : Part) (l : Nat) : Bool := p.rb .dtLinkCtl (l / 16) (l % 16) 0

/-- A link event (Table 15-13). -/
def bumpLink (p : Part) (l ev n : Nat) : Part := p.bump (frameCtr (l / 16) 3 (l % 16) ev) n

def joinSt (p : Part) : Nat := p.rf .joinStatus 0 0 0 3
def setJoinSt (p : Part) (st : Nat) : Part := p.setRf .joinStatus 0 0 0 3 st
def member (p : Part) : Nat := p.rf .joinCtl 0 0 0 5
def membersNow (p : Part) : Nat := p.rf .joinStatus 0 0 16 32
def epoch (p : Part) : Nat := p.rf .joinEpoch 0 0 0 32
def fwMajor (p : Part) : Nat := p.rf .pkgIdent 0 0 32 8
def timeOk (p : Part) : Bool := p.rb .joinStatus 0 0 8

/-- The configuration digest (R359). -/
def digest (p : Part) : Nat :=
  crc32 (leBytes 8 (p.rv .joinTag 0 0) ++ leBytes 4 (p.rf .joinId 0 0 0 32) ++ [BitVec.ofNat 8 p.hbmMode, 0, 0, 0])

/-! ### Bundles (R355) -/

/-- The UP links of the bundle to a member, ascending. -/
def bundle (p : Part) (j : Nat) : List Nat :=
  (List.range 64).filter fun l => p.linkSt l == 4 && (match (p.link l).peer with
    | some h => h.member == j
    | none => false)

/-- Messages that wait at links, but for management, wait at the Join again, before those that wait there. -/
def unsend (p : Part) (ls : List Nat) : Part :=
  let back := ls.flatMap fun l => (p.link l).wait.filter fun m => m.cls != 3
  let p := ls.foldl (fun p l => p.setLink l { p.link l with wait := (p.link l).wait.filter fun m => m.cls == 3 }) p
  { p with join := { p.join with writes := back ++ p.join.writes } }

/-- After a change from `q`, a bundle with other links than before: its rows that change their link wait until the link that carried them has
acknowledged what it had sent (R355). -/
def rebundle (p q : Part) : Part :=
  (List.range 32).foldl (fun p j =>
    let old := q.bundle j
    if p.bundle j = old then p else
    let marks := old.filterMap fun l => (q.link l).replay.getLast?.map fun f => (l, f.1)
    let p := p.unsend old
    { p with join := { p.join with moves := p.join.moves ++ [⟨j, old, marks⟩] } }) p

/-- What of a change is still unacknowledged: its link still keeps the marked flit. -/
def openMarks (p : Part) (v : Move) : List (Nat × Nat) := v.marks.filter fun k => (p.link k.1).replay.any fun f => f.1 == k.2

def settleMoves (p : Part) : Part :=
  let l := p.join.moves.map fun v => { v with marks := p.openMarks v }
  { p with join := { p.join with moves := l.filter fun v => !v.marks.isEmpty } }

/-- The link of a row in a bundle: h = ROW XOR (DIE * 2^15). -/
def rowLink (b : List Nat) (m : DtMsg) : Option Nat := b[(m.row ^^^ (m.die * 2 ^ 15)) % b.length]?

/-- The row of a message still stands on a link that carried it before a change. -/
def rowMoves (p : Part) (l : Nat) (m : DtMsg) : Bool :=
  p.join.moves.any fun v => v.member == m.dst && (match rowLink v.old m with
    | some k => k != l && (p.openMarks v).any fun e => e.1 == k
    | none => false)

def setLinkSt (p : Part) (l st : Nat) : Part := (p.setRf .dtLinkStatus (l / 16) (l % 16) 0 3 st).rebundle p

/-! ### Sending -/

/-- Whether a link in its state carries a message (Table 15-6, R352, R350). -/
def carries (p : Part) (l : Nat) (m : DtMsg) : Bool :=
  let st := p.linkSt l
  !(p.link l).drain && (st == 4 || (m.cls == 3 && (st == 3 || (st == 5 && (m.op == 0 || 4 ≤ m.op)))))

/-- Puts a message into DATA flits (R345, R347, R348): credit taken, flits numbered and kept until acknowledged; a READ or WRITE takes the
epoch of its sending (R361). -/
def putFlits (p : Part) (l : Nat) (m : DtMsg) : Part :=
  let x := p.link l
  let m := { m with epoch := p.epoch }
  let n := msgFlits m
  let fl := (List.range n).map fun i => ((x.seq + i) % 65536, if i + 1 = n then [m] else [])
  let p := p.setLink l { x with
    seq := (x.seq + n) % 65536
    replay := x.replay ++ fl
    resent := x.resent ++ List.replicate n 0
    credits := modAt x.credits m.cls (· - msgCredits m) }
  p.bumpLink l 0 n

/-- A remote READ or WRITE leaves only while the package is JOINED (R361). -/
def sendsNow (p : Part) (m : DtMsg) : Bool := m.cls == 1 || m.cls == 3 || p.joinSt == 2

/-- Whether a message can go now: the link carries it, the Join allows it, it has credit, the replay buffer of 4,096 flits has room (R347, R348). -/
def canSend (p : Part) (l : Nat) (m : DtMsg) : Bool :=
  let x := p.link l
  p.carries l m && p.sendsNow m && decide (msgCredits m ≤ x.credits.getD m.cls 0) && decide (x.replay.length + msgFlits m ≤ 4096)

/-- Sends what waits at a link, each class in its own order. -/
def pump (p : Part) (l : Nat) : Part :=
  let w := (p.link l).wait
  (w.foldl (fun (a : Part × List Nat) m =>
    if !a.2.contains m.cls && a.1.canSend l m then
      let x := a.1.link l
      ((a.1.setLink l { x with wait := x.wait.erase m }).putFlits l m, a.2)
    else (a.1, m.cls :: a.2)) (p, [])).1

/-- Queues a message at a link and sends it as soon as it may go; a narrowed link starts to widen for one that is not management (R353). -/
def sendOn (p : Part) (l : Nat) (m : DtMsg) : Part :=
  let x := p.link l
  let p := p.setLink l { x with wait := x.wait ++ [m], widening := x.widening || (m.cls != 3 && p.linkWidth l == 1) }
  p.pump l

/-- The links that reach a member with management messages: UP ones, else those that carry HELLO. -/
def mgmtLink (p : Part) (j : Nat) : Option Nat := (p.bundle j).head?

def header (p : Part) (cls op dst : Nat) : DtMsg := { cls := cls, op := op, src := p.member, dst := dst, epoch := p.epoch }

/-- A management message to a member over the lowest-numbered link of its bundle (R355). -/
def sendMgmt (p : Part) (j op : Nat) (ctx : Nat) (x : Mgmt) : Part :=
  match p.mgmtLink j with
  | some l => p.sendOn l { p.header 3 op j with ctx := ctx, mgmt := x }
  | none => p

/-- Sends a message of the classes 0 to 2 on its link of the bundle (R355), or holds it: for the Join (R361), while the row's former link still
carries it, and behind a message of its class and row that is held already. -/
def route (p : Part) (m : DtMsg) : Part :=
  let before := fun (y : DtMsg) => y.cls == m.cls && y.dst == m.dst && y.die == m.die && y.row == m.row
  match rowLink (p.bundle m.dst) m with
  | some l =>
    if p.sendsNow m && !p.rowMoves l m && !p.join.writes.any before then p.sendOn l m
    else { p with join := { p.join with writes := p.join.writes ++ [m] } }
  | none => { p with join := { p.join with writes := p.join.writes ++ [m] } }

/-- Held messages are routed again. -/
def reroute (p : Part) : Part :=
  let p := p.settleMoves
  p.join.writes.foldl Part.route { p with join := { p.join with writes := [] } }

/-! ### Agreement, election, commit (R359, R360) -/

/-- Peers by member, each with the last HELLO over a link that is UP. -/
def peers (p : Part) : List Hello :=
  (List.range 64).filterMap fun l => if p.linkSt l = 4 ∧ (p.link l).heard then (p.link l).peer else none

/-- Another package that claims this member's index with a lower serial number (R359). -/
def dupHere (p : Part) : Bool :=
  (List.range 64).any fun l => match (p.link l).peer with
    | some h => h.member == p.member && decide (h.serial < p.rv .factSerial 0 0)
    | none => false

/-- The package agrees with a peer (R359). -/
def agrees (p : Part) (h : Hello) : Bool :=
  h.digest == p.digest && h.fwMajor == p.fwMajor && h.member != p.member && !p.dupHere

def agreeing (p : Part) : List Hello := p.peers.filter p.agrees

/-- SEEN: the members it agrees with over an UP link. -/
def seenMask (p : Part) : Nat := (p.agreeing.map Hello.member).foldl (fun m j => m ||| 2 ^ j) 0

/-- The elected master: the highest epoch, ties to the lowest member (R360). -/
def elect (p : Part) : Nat :=
  (p.agreeing.foldl (fun (a : Nat × Nat) h =>
    if a.1 < h.epoch ∨ (h.epoch = a.1 ∧ h.member < a.2) then (h.epoch, h.member) else a) (p.epoch, p.member)).2

/-- Sets JOIN_STATUS.MASTER from the election. -/
def electNow (p : Part) : Part := p.setRf .joinStatus 0 0 3 5 p.elect

def isMaster (p : Part) : Bool := p.elect == p.member

/-- The members that the master admits, in ascending index (R360); a HELLO's state carries TIME_OK in bit 3 (log entry 31). -/
def admitted (p : Part) : Nat :=
  let me := 2 ^ p.member
  (List.range 32).foldl (fun mask j =>
    match p.agreeing.find? fun h => h.member == j with
    | some h =>
      if bit (p.rf .joinCtl 0 0 8 32) j && h.seen &&& mask == mask && h.state.testBit 3 then mask ||| 2 ^ j else mask
    | none => mask) me

/-- What a HELLO of this package carries on link `l`. -/
def ownHello (p : Part) (l : Nat) : Hello :=
  ⟨p.member, p.rv .factSerial 0 0, p.fwMajor, p.rf .pkgIdent 0 0 40 8, p.digest, p.epoch, p.joinSt + 8 * b2n p.timeOk, p.seenMask, l⟩

def sendHello (p : Part) (l : Nat) : Part :=
  let j := match (p.link l).peer with
    | some h => h.member
    | none => 0
  p.sendOn l { p.header 3 0 j with mgmt := .hello (p.ownHello l) }

/-- Every remote WRITE that this package has sent is acknowledged (R360). -/
def writesAcked (p : Part) : Bool := (List.range 64).all fun l => (p.link l).replay.all fun f => f.2.all fun m => m.cls != 2

/-- A member sends its ACK once its writes are acknowledged. -/
def ackNow (p : Part) : Part :=
  match p.join.answer with
  | some (e, mask, j) =>
    if !p.join.acked && p.writesAcked then
      let p := p.sendMgmt j 2 0 (.mask e mask)
      { p with join := { p.join with acked := true } }
    else p
  | none => p

/-- The READ with a tag has not left: it waits at the Join or at a link. -/
def unsent (p : Part) (tag : Nat) : Bool :=
  let q := fun (m : DtMsg) => m.cls == 0 && m.tag == tag && m.src == p.member
  p.join.writes.any q || p.links.any fun l => l.2.wait.any q

/-- The context of a held message or read takes a fault (R360: 0x04A2). -/
def joinFault (p : Part) (c code : Nat) : Part := p.ctxFault c ⟨code, .none, 0, none, 0x7FFF⟩

/-- The package adopts an epoch and mask (R360): JOINED, held accesses released, those to a member outside the mask fault. -/
def adopt (p : Part) (e mask : Nat) : Part :=
  let p := (p.setRf .joinEpoch 0 0 0 32 e).setRf .joinStatus 0 0 16 32 mask
  let p := ((p.setJoinSt 2).electNow).bump (pkgCtr 0 1 0) 1
  let p := { p with join := { p.join with answer := none, acked := false, prep := none, acks := 0 } }
  let p := p.unsend (List.range 64)
  let out := fun (m : DtMsg) => m.cls != 1 && !mask.testBit m.dst
  let held := fun (r : RdReq) => r.held || p.join.writes.any fun m => m.cls == 0 && m.tag == r.msg.tag
  let bad := (p.join.writes.filter fun m => m.cls == 2 && out m).map DtMsg.ctx ++
    (p.join.reads.filter fun r => held r.2 && out r.2.msg).map fun r => r.2.msg.ctx
  let p := { p with join := { p.join with
    writes := p.join.writes.filter (fun m => !out m)
    reads := p.join.reads.filter (fun r => !(held r.2 && out r.2.msg)) } }
  let p := bad.foldl (fun p c => p.joinFault c 0x04A2) p
  let again := p.join.reads.filter fun r => r.2.held
  let p := { p with join := { p.join with reads := Tab.mapV (fun _ (r : RdReq) => { r with held := false }) p.join.reads } }
  (again.foldl (fun p r => p.route r.2.msg) p).reroute

/-- The master ends its collection: COMMIT to the members that acknowledged, adopted by itself too. -/
def commitNow (p : Part) : Part :=
  match p.join.prep with
  | some (e, mask) =>
    let got := (p.join.acks &&& mask) ||| 2 ^ p.member
    let p := (bitsSet 32 got).foldl (fun p j => if j = p.member then p else p.sendMgmt j 3 0 (.mask e got)) p
    p.adopt e got
  | none => p

/-- Whether every member of the mask has acknowledged. -/
def allAcked (p : Part) : Bool :=
  match p.join.prep with
  | some (_, mask) => (p.join.acks ||| 2 ^ p.member) &&& mask == mask
  | none => false

/-- The master sends PREPARE to the members it admits (R360). -/
def prepareNow (p : Part) : Part :=
  let mask := p.admitted
  let e := p.epoch + 1
  let p := { p with join := { p.join with prep := some (e, mask), acks := 0 } }
  let p := (bitsSet 32 mask).foldl (fun p j => if j = p.member then p else p.sendMgmt j 1 0 (.mask e mask)) p
  if p.allAcked then p.commitNow else p

/-- A JOINED master whose admitted set differs from the present members prepares at once. -/
def reviewMembers (p : Part) : Part :=
  if p.joinSt = 2 && p.isMaster && p.join.prep.isNone && p.admitted != p.membersNow then p.prepareNow else p

/-- A member is lost (Table 15-7): its HELLO absent for 1 ms, or every link to it DOWN. -/
def memberLost (p : Part) (j : Nat) : Part :=
  let mute := fun (_ : Nat) (x : Link) => match x.peer with
    | some h => if h.member = j then { x with heard := false } else x
    | none => x
  let p := { p with links := Tab.mapV mute p.links }
  if p.joinSt = 2 then
    if p.rf .joinStatus 0 0 3 5 = j then (p.setJoinSt 1).electNow else p.reviewMembers
  else if p.joinSt = 1 then p.electNow
  else p

/-- JOINED meets a message at a higher epoch or a NOTICE of fencing: FENCED (Table 15-7). -/
def fenceSelf (p : Part) : Part := if p.joinSt = 2 then p.setJoinSt 3 else p

/-! ### DOWN (R350) -/

/-- The contexts with a WRITE among a link's unacknowledged flits. -/
def lostWriters (x : Link) : List Nat := (((x.replay.flatMap Prod.snd).filter fun m => m.cls == 2).map DtMsg.ctx).eraseDups

/-- A link goes DOWN: contexts with a WRITE among its unacknowledged flits fault, its messages are handled as R350 says. -/
def linkDown (p : Part) (l : Nat) : Part :=
  let x := p.link l
  let ctxs := lostWriters x
  let p := (p.setLinkSt l 7).setLink l { x with replay := [], wait := [], resent := [], retrains := 0, nak := false, drain := false, widening := false }
  let p := (p.setRb .dtLinkStatus (l / 16) (l % 16) 5 true).setLinkWidth l 0
  let p := (p.bumpLink l 8 1).recordFault ⟨0x0240, .dtLink, l, none, 0⟩
  let p := ctxs.foldl (fun p c => p.ctxFault c ⟨0x04A0, .dtLink, l, none, 0x7FFF⟩) p
  let p := match x.peer with
    | some h => if p.bundle h.member = [] then p.memberLost h.member else p
    | none => p
  p.reroute

/-- A link in OFF: nothing kept but the peer's identity fields of its status. -/
def linkOff (p : Part) (l : Nat) : Part := ((p.setLinkSt l 0).setLink l {}).setLinkWidth l 0

end Part

end Sys2Proof.Machine
end

