-- ==== Sys2Proof/Machine/Jobs.lean ====
section
/-!
DEFINITION. Sys2Proof/Machine/Jobs.lean: the edges, fences and readiness of records (10 R227 to R232).
-/

namespace Sys2Proof.Machine
open Sys2Proof

/-- KIND of a record (Table 10-3). -/
def kindOf (img : Nat) : Nat := bits img 0 4

/-- The engine class of a record kind. -/
def clsOf (kind : Nat) : Option Cls :=
  if kind = 3 then some .carrier else if kind = 4 then some .planer else if kind = 5 then some .joiner
  else if kind = 6 then some .burnisher else none

/-- The four edges of a record: DIST and whether the mode is ISSUED. -/
def edgesOf (img : Nat) : List (Nat × Bool) := (List.range 4).map fun i => (bits img (64 + 16 * i) 15, bit img (79 + 16 * i))

/-- A compute task for the passing of a fence (R229). -/
def isCompute (kind : Nat) : Bool := decide (4 ≤ kind) && decide (kind ≤ 8)

namespace Part

/-- An edge is met (R227): its predecessor completed, or reported its issue where no DONE edge names the same one. -/
def edgeMet (p : Part) (j r : Nat) (es : List (Nat × Bool)) (e : Nat × Bool) : Bool :=
  e.1 == 0 || (match p.rec' j (r - e.1) with
    | some y => y.st == .completed || (e.2 && y.reported && !es.contains (e.1, false))
    | none => false)

def edgesMet (p : Part) (j r img : Nat) : Bool := (edgesOf img).all (p.edgeMet j r (edgesOf img))

/-- Every fence before record `r` has been passed (R229). -/
def fencesPassed (p : Part) (j r : Nat) : Bool :=
  (p.jobRecs j).all fun y => decide (r ≤ y.1) || kindOf y.2.img != 2 || y.2.st == .completed

/-- A fence is passed (R213): each compute task before it has issued, or completed. -/
def fencePasses (p : Part) (j r img : Nat) : Bool :=
  (p.jobRecs j).all fun y => decide (r ≤ y.1) || !isCompute (kindOf y.2.img) ||
    (if bit img 8 then y.2.st == .completed else y.2.st != .pending)

/-- A task's armed wait is satisfied, or it has none (08 R197). -/
def waitOver (p : Part) (t : Task) : Bool :=
  match t.wait with
  | some (d, k, th) => p.arrived d k th
  | none => true

/-- What a task set aside by its batch engine waits for is over (09 R221); another stopped task has only its armed wait. -/
def awaitOver (p : Part) (t : Task) : Bool :=
  match t.await with
  | none => p.waitOver t
  | some .reg => t.toReg.head?.all fun g => decide ((p.sbOf g.die).length < 8192)
  | some .arrival => p.waitOver t
  | some (.row d r) => !p.rowBusy d r (0x10000 + t.id)
  | some (.bank d b) => !(p.bank d b).gated
  | some (.stack s) => !(Tab.getD p.stks s {}).asleep
  | some .room => t.waitPos.isEmpty
  | some (.upTo d i pos) => decide (pos < (p.region d i).tail)
  | some .reads => p.join.reads.all fun r => r.2.task != t.id
  | some .other => true

/-- The stopped task of a record. -/
def stoppedTask (p : Part) (j r : Nat) : Option Task := Tab.find (recKey j r) p.jig.stopped

/-- The job's AFTER_PREV wait is over (R225): it has none, or the job before has ended. -/
def afterOver (p : Part) (x : Job) : Bool :=
  match x.after with
  | some k => (p.job k).isNone
  | none => true

/-- A record that may issue, residence and a free engine apart (R232, R238). -/
def recReady (p : Part) (j : Nat) (x : Job) (r : Nat) (y : Rec) : Bool :=
  match y.st with
  | .pending => p.edgesMet j r y.img && p.afterOver x && (kindOf y.img != 3 || p.fencesPassed j r) &&
      (kindOf y.img != 2 || p.fencePasses j r y.img)
  | .stopped => (match p.stoppedTask j r with
    | some t => p.awaitOver t
    | none => false)
  | _ => false

/-- The jobs of a hold. -/
def jobsOn (p : Part) (c b : Nat) : List (Nat × Job) := p.jig.jobs.filter fun e => e.2.ctx == c && e.2.cab == b

/-- The jobs whose home is the Jig of a die, and their records in flight (R224, R230). -/
def jigJobs (p : Part) (die : Nat) : List (Nat × Job) := p.jig.jobs.filter fun e => p.homeDie e.2.cab == die

def inFlight (p : Part) (die : Nat) : Nat :=
  ((p.jigJobs die).map fun e => ((p.jobRecs e.1).filter fun y => y.2.st != .completed).length).foldl (· + ·) 0

/-- An accepted job with unfetched records. -/
def Job.unfetched (x : Job) : Bool := !x.header || decide (x.next ≤ x.tasks)

end Part

end Sys2Proof.Machine
end

