-- ==== Sys2Proof/Machine/Sched.lean ====
section
/-!
DEFINITION. Sys2Proof/Machine/Sched.lean: the scheduler of holds (11 R252 R253): idle and runnable holds, the decision, placing and the start
of a save; and the lift of commands after which a decision may fall due.
-/

namespace Sys2Proof.Machine
open Sys2Proof

namespace Part

def ctxShare (p : Part) (c : Nat) : Nat := p.rf .ctxCtl 0 c 8 8

/-- VT[a] < VT[c], compared exactly. -/
def vtLess (p : Part) (a c : Nat) : Bool := decide ((p.ctx a).ens * p.ctxShare c < (p.ctx c).ens * p.ctxShare a)

/-- A resident hold is idle: no accepted job on it has not ended. -/
def holdIdle (p : Part) (c b : Nat) : Bool := (p.jobsOn c b).isEmpty

/-- A saved or new hold is runnable (R252). -/
def runnable (p : Part) (c b : Nat) : Bool :=
  (p.jobsOn c b).any (fun e => Part.Job.unfetched e.2 || (p.jobRecs e.1).any fun y => p.recReady e.1 e.2 y.1 y.2) ||
    p.strms.any fun s => s.1 / 2 ^ 18 == c && bits s.2.ent 0 3 == 4 && bits s.2.ent 144 5 == b

/-- The hold of context `c` on `b` is not resident: saved or new. -/
def holdOut (p : Part) (c b : Nat) : Bool :=
  match p.hold c b with
  | some h => h.st == .saved || h.st == .new
  | none => false

/-- The set W of R252. -/
def wset (p : Part) (b : Nat) : List Nat :=
  (p.holds.filter fun e => e.1 % 32 == b && p.ctxRuns (e.1 / 32) && p.rb .ctxCabs 0 (e.1 / 32) b && p.holdOut (e.1 / 32) b &&
    p.runnable (e.1 / 32) b).map fun e => e.1 / 32

/-- The member of a set with the least VT; ties to the lower context. -/
def leastVt (p : Part) (l : List Nat) : Option Nat :=
  l.foldl (fun a c => match a with
    | none => some c
    | some m => if p.vtLess c m || (!p.vtLess m c && decide (c < m)) then some c else some m) none

/-- A context that joins W has its ENS raised to SHARE * VTmin (R252); `seen` is then set. -/
def joinW (p : Part) (b c : Nat) : Part :=
  let x := p.ctx c
  if x.seen then p else
  let others := (p.wset b ++ (p.residentCtx b).toList).filter (· != c)
  let ens := match p.leastVt others with
    | some m => max x.ens (p.ctxShare c * (p.ctx m).ens / max (p.ctxShare m) 1)
    | none => x.ens
  p.setCtx c { x with ens := ens, seen := true }

/-- Places a hold: a new one becomes resident, a saved one is restored (R259). -/
def place (p : Part) (c b : Nat) : Part :=
  match p.hold c b with
  | none => p
  | some h =>
    let h := { h with placed := p.time, quantum := false, next := none }
    let p := p.setCtx c { p.ctx c with seen := true }
    p.setHold c b { h with st := if h.st = .saved then .restoring else .resident }

/-- The remote reads of a hold's tasks drain (R256). -/
def drainReads (p : Part) (c b : Nat) : Part :=
  { p with join := { p.join with reads := Tab.mapV (fun _ (r : RdReq) =>
    if r.msg.ctx = c ∧ r.cab = b then { r with drain := true } else r) p.join.reads } }

/-- The Gang records of a hold (Table 11-12): its bound models and the streams in their slots. -/
def gangRecs (p : Part) (c b : Nat) : List GangRec :=
  (p.cabGangs b).filterMap fun g =>
    let x := Tab.getD p.gangs g {}
    if x.loaded && x.ctx == c then
      some ⟨g, g / 4, x.handle, x.image, x.row, (p.slots.filter fun e => e.1 / 128 == g).map fun e => e.2.strm⟩
    else none

/-- The resident streams of a hold become SWAPPING (Table 5-5). -/
def swapHold (p : Part) (c b : Nat) : Part :=
  ((p.slots.filter fun e => e.2.ctx == c && (p.cabGangs b).contains (e.1 / 128)).map fun e => e.2.strm).foldl (fun p n =>
    match p.strm c n with
    | some x => if bits x.ent 0 3 = 1 then p.strmState c n 2 else p
    | none => p) p

/-- A save begins (Table 11-9 steps 1 and 2): the hold's work stops; `next` is placed once it ends. -/
def startSave (p : Part) (c b : Nat) (next : Option Nat) : Part :=
  match p.hold c b with
  | none => p
  | some h =>
    if h.st ≠ .resident then p else
    let p := p.setHold c b { h with st := .saving, next := next, gangs := p.gangRecs c b }
    (((p.cabGangs b).foldl dropStep p).swapHold c b).drainReads c b

/-- One decision for a Cabinet (R252). -/
def decideCab (p : Part) (b : Nat) : Part :=
  if !p.cabEn b || p.cabPinned b || p.rb .cabCmd 0 b 1 then p else
  match p.leastVt (p.wset b) with
  | none => p
  | some w =>
    match p.occupant b with
    | none => p.place w b
    | some (r, h) =>
      if h.st ≠ .resident then p
      else if p.holdIdle r b then p.startSave r b (some w)
      else if h.quantum && p.vtLess w r then p.startSave r b (some w)
      else p

/-- The holds of `p` that are idle and resident, or runnable and out. -/
def due (p : Part) (c b : Nat) : Bool :=
  if p.holdOut c b then p.runnable c b else p.residentOn c b && p.holdIdle c b

/-- The decision points of R252 between two parts: each Cabinet where a hold became idle or runnable takes its decision. -/
def react (before p : Part) : Part :=
  let now := (p.holds.filter fun e => p.due (e.1 / 32) (e.1 % 32) &&
    !(before.due (e.1 / 32) (e.1 % 32) && before.holdOut (e.1 / 32) (e.1 % 32) == p.holdOut (e.1 / 32) (e.1 % 32)))
  let p := now.foldl (fun p e => if p.holdOut (e.1 / 32) (e.1 % 32) then p.joinW (e.1 % 32) (e.1 / 32) else p) p
  (now.map fun e => e.1 % 32).eraseDups.foldl decideCab p

end Part

/-- A command that may release rows, post completions, fault contexts, end jobs or make holds runnable: accesses whose rows it released go on,
contexts whose ring was found full are faulted, and the decisions that fall due are taken. -/
def onWork (s : State) (f : Part → Part) : Host.Outcome State Fault Refusal :=
  onPart s fun p => Part.react p (f p).proceed.settle

end Sys2Proof.Machine
end

