-- ==== Sys2Proof/Machine/Operands.lean ====
section
/-!
DEFINITION. Sys2Proof/Machine/Operands.lean: the accesses of engines, Carriers and Jigs to the device address space (01 R24, 11 R247,
13 R291, 15 R356): where an address leads, what makes an access wait, what faults it, its read and its write.
-/

namespace Sys2Proof.Machine
open Sys2Proof

/-- Where a device address leads (Table 1-7). -/
inductive Loc where
  | hbm
  | bench (n o : Nat)
  | remote (j n o : Nat)
  | host
  | none
  deriving DecidableEq, Repr, Inhabited

/-- The place of an address for a package of member index `me`: its own window is its local store (R356). -/
def locOf (me a : Nat) : Loc :=
  if bit a 63 then .host
  else if a < hbmEnd then .hbm
  else if 0x100000000000 ≤ a ∧ a < 0x100800000000 ∧ a % 2 ^ 32 < 2 ^ 27 then .bench ((a - 0x100000000000) / 2 ^ 32) (a % 2 ^ 32)
  else if 0x200000000000 ≤ a ∧ a < 0x220000000000 ∧ (a - 0x200000000000) % 0x1000000000 < 0x800000000 ∧ a % 2 ^ 32 < 2 ^ 27 then
    let j := (a - 0x200000000000) / 0x1000000000
    let n := (a - 0x200000000000) % 0x1000000000 / 2 ^ 32
    if j = me then .bench n (a % 2 ^ 32) else .remote j n (a % 2 ^ 32)
  else .none

/-- Who accesses: the context and Cabinet of the job, the engine (none for a Jig), the task, its record and ring. -/
structure Who where
  ctx : Nat
  cab : Nat
  eng : Option (Cls × Nat)
  task : Nat
  rix : Nat
  ring : Nat
  deriving DecidableEq, Repr, Inhabited

/-- The scoreboard identity: an engine does not wait on its own ranges (08 R186). -/
def Who.key (w : Who) : Nat :=
  match w.eng with
  | some (c, e) => engKey c e
  | none => 0xFFFE

/-- The key of the remote data that comes for a record not yet on an engine, or for the restore of a stream. -/
def earlyKey (k : Nat) : Nat := 2 ^ 50 + k
def earlyStrm (c n : Nat) : Nat := 2 ^ 51 + c * 2 ^ 18 + n

/-- A fault of the access, raised by the engine (18 Table 18-4). -/
def Who.fault (w : Who) (code detail : Nat) : FaultRec :=
  match w.eng with
  | some (c, e) => ⟨code, .engine, engUnit c e, some w.ctx, detail⟩
  | none => ⟨code, .none, 0, some w.ctx, detail⟩

/-- A fault that reports the record, or, of a restore, the Cabinet; the codes of Table 18-1 without a unit name none. -/
def Who.recFault (w : Who) (code : Nat) : FaultRec :=
  if code = 0x0411 ∨ code = 0x0412 ∨ code = 0x0413 then ⟨code, .none, 0, some w.ctx, w.cab⟩
  else if code = 0x0480 ∨ code = 0x04A2 then ⟨code, .none, 0, some w.ctx, recDetail w.rix w.ring⟩
  else w.fault code (recDetail w.rix w.ring)

/-- The address fault of R24. -/
def Who.addrFault (w : Who) (a : Nat) : FaultRec := w.fault 0x0402 a

/-- Why work stops short: it waits for a cause of Table 9-5, on what the model names, having made the request given; or its context faults. -/
inductive Stop where
  | wait (cause : StallCause) (on : Await) (req : Part → Part)
  | fault (f : FaultRec)

/-- What is threaded through an engine's work: the part, what the error-correcting code finds in its first local read, how its
first host read ends. -/
structure RS where
  p : Part
  ecc : Ecc
  st : RdStat

/-- Work of an engine that reads and writes device addresses. -/
abbrev Rd (α : Type) := ReaderT Who (ExceptT Stop (StateM RS)) α

/-- The pieces of a range between multiples of `g`. -/
def chop (g a n : Nat) : List (Nat × Nat) :=
  if n = 0 then [] else
  (span (a / g) ((a + n - 1) / g - a / g + 1)).map fun k =>
    let lo := max a (k * g)
    (lo, min (a + n) (k * g + g) - lo)

/-- Bench rows and remote rows are accessed row by row, HBM and host memory by 4 KiB. -/
def granule (a : Nat) : Nat := if bit a 63 = false ∧ hbmEnd ≤ a then 512 else 4096

namespace Part

/-- The row of position `pos` of a region of logical die `n`, as a device address. -/
def posAddr (p : Part) (n i pos : Nat) : Nat := benchAt n (512 * p.regionRow (p.phys n) i pos)

/-- A stack that sleeps is woken by the request (13 R295). -/
def wakeStack (s : Nat) (p : Part) : Part := p.setStack s { p.stack s with waking := true }

/-- Where an access starts on the fabric: the die of the engine, by its physical position, or of the home Jig. -/
def fabOf (p : Part) (w : Who) : Fab :=
  match w.eng with
  | some (.carrier, e) => if 128 ≤ e then .frame ((e - 128) / 8) else .bench (p.phys (e / 16))
  | some (c, e) => .bench (p.phys (engDie c e))
  | none => .bench (p.phys (p.homeDie w.cab))

/-- A line of an HBM read is being filled into its Cupboard: the read waits for the fill (09 R219). -/
def lineComing (p : Part) (a n : Nat) : Bool :=
  n != 0 && (span (a / 64) ((a + n - 1) / 64 - a / 64 + 1)).any fun line =>
    let m := stackAt p.hbmMode (line * 64) / 3
    p.cupEn m && (p.cup m).fills.contains line

/-- What an access to HBM meets first: the grant, stacks out of service, a Dowel port that holds its traffic (01 R20), a stack asleep, and
for a read of `n` bytes a line in flight. -/
def hbmGate (p : Part) (w : Who) (a n : Nat) : Option Stop :=
  let set := stackSet p.hbmMode a
  let s := stackAt p.hbmMode a
  if p.rf .cabCtl 0 w.cab 32 12 &&& set ≠ set ∨ !p.stackOn s then some (.fault (w.addrFault a))
  else if p.fabricHeld (p.fabOf w) (.frame (s / 3)) a then some (.wait .dataLate .other id)
  else if (p.stack s).asleep then some (.wait .powerWake (.stack s) (wakeStack s))
  else if p.lineComing a n then some (.wait .dataLate .other id)
  else none

/-- What an access to a row of logical die `n` meets first: the grant, a die out of service, a LEAVE, a Dowel port that holds its traffic
(01 R20), a registered range (R186), a gated bank (R201; a write is queued there instead). -/
def benchGate (p : Part) (w : Who) (a n o : Nat) (write : Bool) : Option Stop :=
  let d := p.phys n
  let r := o / 512
  if !p.rowInGrant w.ctx w.cab n r ∨ !p.benchUp d then some (.fault (w.addrFault a))
  else if p.svc.holding = some n then some (.wait .powerWake .other id)
  else if p.fabricHeld (p.fabOf w) (.bench d) a then some (.wait .dataLate .other id)
  else if p.rowBusy d r w.key then some (.wait .scoreboard (.row d r) id)
  else if !write && (p.bank d (bankOf r)).gated then some (.wait .powerWake (.bank d (bankOf r)) fun p => p.gateQueue d (bankOf r) (.wait r))
  else none

/-- The sender's checks of a remote access (R356). -/
def remoteGate (p : Part) (w : Who) (a j : Nat) : Option Stop :=
  if !p.rb .cabRemote 0 w.cab j then some (.fault (w.addrFault a))
  else if p.joinSt = 2 ∧ !bit p.membersNow j then some (.fault (w.recFault 0x04A2))
  else none

/-- A remote READ leaves (R358), or is held until the package is JOINED (R361); one whose TAG is still in use waits. -/
def askRemote (w : Who) (j n o len : Nat) (p : Part) : Part :=
  let tag := p.join.nextTag
  if (Tab.find tag p.join.reads).isSome then p else
  let m : DtMsg := { p.header 0 0 j with ctx := w.ctx, tag := tag, die := n, row := o / 512, byte := o % 512, len := len }
  let held := p.joinSt ≠ 2
  let p := { p with join := { p.join with nextTag := (tag + 1) % 65536, reads := Tab.put tag ⟨m, w.task, w.cab, false, held⟩ p.join.reads } }
  let p := p.mapTask w.task fun t => { t with remote := t.remote ++ [tag] }
  if held then p else p.route m

/-- The data of a remote read that has arrived, for a task or for work not yet on an engine. -/
def remoteGot (p : Part) (w : Who) (a len : Nat) : Option (List Byte × Bool) :=
  let all := (p.jig.eng.map Prod.snd) ++ p.jig.xfer.flatMap Prod.snd
  let got := match all.find? fun t => t.id == w.task with
    | some t => t.got
    | none => Tab.getD p.jig.early w.task []
  (Tab.find a got).bind fun x => if x.1.length = len then some x else none

def remoteAsked (p : Part) (w : Who) (j n o : Nat) : Bool :=
  p.join.reads.any fun r => r.2.task == w.task && !r.2.drain && r.2.msg.dst == j && r.2.msg.die == n && r.2.msg.row == o / 512 &&
    r.2.msg.byte == o % 512

/-- A row as a context reads it: a row of its saved share stands in the save image, where its writes go as well (R202; log entry 86). -/
def rowOf (p : Part) (c d r : Nat) (ecc : Ecc) : (List Byte × Bool) × Part :=
  match p.redirectOf c d r with
  | some x => let y := p.hbmFetch (x.image + 512 * (r - x.first)) 512 false ecc; ((y.1.map Prod.fst, y.1.any Prod.snd), y.2)
  | none => p.rowRead d r ecc

/-- A READ asked for stands at its link for want of credit (R347). -/
def noCredit (p : Part) (w : Who) (j n o : Nat) : Bool :=
  p.links.any fun l => l.2.wait.any fun m => m.cls == 0 && m.dst == j && m.die == n && m.row == o / 512 && m.byte == o % 512 && m.ctx == w.ctx &&
    decide (l.2.credits.getD 0 0 < msgCredits m)

/-- One piece of a read: its bytes, each with whether its unit of protection came poisoned, or why not. `st` is how a host read ends. -/
def readPiece (p : Part) (w : Who) (a n : Nat) (alloc : Bool) (ecc : Ecc) (st : RdStat) : Except Stop (List (Byte × Bool)) × Part :=
  match locOf p.member a with
  | .none => (.error (.fault (w.addrFault a)), p)
  | .hbm =>
    match p.hbmGate w a n with
    | some s => (.error s, p)
    | none => let x := p.hbmFetch a n alloc ecc; (.ok x.1, x.2)
  | .bench d o =>
    match p.benchGate w a d o false with
    | some s => (.error s, p)
    | none =>
      let x := p.rowOf w.ctx (p.phys d) (o / 512) ecc
      (.ok (((x.1.1.drop (o % 512)).take n).map fun v => (v, x.1.2)), x.2)
  | .remote j d o =>
    match p.remoteGate w a j with
    | some s => (.error s, p)
    | none =>
      match p.remoteGot w a n with
      | some x => (.ok (x.1.map fun v => (v, x.2)), p)
      | none =>
        if p.remoteAsked w j d o then
          (.error (.wait (if p.joinSt ≠ 2 then .remoteWait else if p.noCredit w j d o then .credit else .dataLate) .reads id), p)
        else (.error (.wait (if p.joinSt = 2 then .dataLate else .remoteWait) .reads (askRemote w j d o n)), p)
  | .host =>
    let t := p.translate w.ctx a false
    match t.1 with
    | none => (.error (.fault (w.addrFault a)), t.2)
    | some h =>
      let fn := t.2.fnOf w.ctx
      if t.2.fabricHeld (t.2.fabOf w) (.frame (2 * portOfFn fn)) a then (.error (.wait .dataLate .other id), t.2)
      else if !t.2.masters fn then (.error (.wait .dataLate .other fun p => p.bumpFn fn 1), t.2)
      else if st ≠ .ok then
        (.error (.fault ⟨0x0490, .pciePort, portOfFn fn, some w.ctx, w.ring⟩), t.2.hostReadErr fn st)
      else (.ok ((t.2.mem.hostRead h n).map fun v => (v, false)), t.2)

/-- What a write of one piece meets first. -/
def writeGate (p : Part) (w : Who) (a : Nat) : Option Stop :=
  match locOf p.member a with
  | .none => some (.fault (w.addrFault a))
  | .hbm => p.hbmGate w a 0
  | .bench d o => p.benchGate w a d o true
  | .remote j _ _ => p.remoteGate w a j
  | .host =>
    if (p.translate w.ctx a true).1.isNone then some (.fault (w.addrFault a))
    else if p.fabricHeld (p.fabOf w) (.frame (2 * portOfFn (p.fnOf w.ctx))) a then some (.wait .dataLate .other id)
    else none

/-- A task writes no more: the rows it wrote in part count as written. -/
def releaseFills (p : Part) (id : Nat) : Part :=
  match p.taskOf id with
  | some t =>
    let p := p.mapTask id fun t => { t with filled := [] }
    t.filled.foldl (fun p e => p.rowDone (e.1 / 2 ^ 18) (e.1 % 2 ^ 18) id true none) p
  | none => p

/-- One piece of a write, as it reaches its owner (R207); `ecc` is what the code finds in the row that a partial write merges into. -/
def writePiece (p : Part) (w : Who) (a : Nat) (bs : List Byte) (poison : Bool) (arrival : Option Nat) (ecc : Ecc) : Part :=
  match locOf p.member a with
  | .none => p
  | .hbm => p.hbmStore a bs poison
  | .bench n o => p.storeRows (p.phys n) w.ctx w.task o bs poison arrival ecc w.eng
  | .remote j n o =>
    let m : DtMsg := { p.header 2 0 j with
      ctx := w.ctx, own := w.task, poison := poison, arrival := arrival.getD 0, arrivalEn := arrival.isSome
      die := n, row := o / 512, byte := o % 512, len := bs.length, data := bs }
    p.route m
  | .host =>
    let t := p.translate w.ctx a true
    match t.1 with
    | none => t.2
    | some h => t.2.hostPost (t.2.fnOf w.ctx) h bs

end Part

namespace Rd

def part : Rd Part := fun _ => do return (← get).p

def onPart (f : Part → Part) : Rd Unit := fun _ => modify fun s => { s with p := f s.p }

def who : Rd Who := fun w => pure w

def stop {α : Type} (s : Stop) : Rd α := fun _ => throw s

/-- The context faults with a code that reports the record. -/
def fault {α : Type} (code : Nat) : Rd α := fun w => throw (.fault (w.recFault code))

def addrFault {α : Type} (a : Nat) : Rd α := fun w => throw (.fault (w.addrFault a))

/-- A check whose failure is the malformed-record fault. -/
def need (b : Bool) : Rd Unit := if b then pure () else fault 0x0401

/-- One piece read; the first local read takes the finding, the first host read the completion status. -/
def piece (a n : Nat) (alloc : Bool) : Rd (List (Byte × Bool)) := fun w => do
  let s ← get
  let host := bit a 63
  let r := s.p.readPiece w a n alloc (if host then .clean else s.ecc) s.st
  set { s with p := r.2, ecc := if host then s.ecc else .clean, st := if host then .ok else s.st }
  match r.1 with
  | .ok x => return x
  | .error e => throw e

/-- Reads `n` bytes from a device address, each with its poison. -/
def readEach (a n : Nat) (alloc : Bool := false) : Rd (List (Byte × Bool)) := do
  (chop (granule a) a n).foldlM (fun x c => do return x ++ (← piece c.1 c.2 alloc)) []

/-- Reads `n` bytes from a device address: the bytes, and whether any came poisoned. -/
def read (a n : Nat) : Rd (List Byte × Bool) := do
  let l ← readEach a n
  return (l.map Prod.fst, l.any Prod.snd)

/-- Reads an operand; poison or an uncorrectable error faults the context with the class's code (R85, R137, R169). -/
def operand (code a n : Nat) : Rd (List Byte) := do
  let x ← read a n
  if x.2 then fault code else return x.1

/-- Reads a control structure, whose poison is fault 0x0480 (R226). -/
def control (a n : Nat) : Rd (List Byte) := operand 0x0480 a n

/-- A little-endian number of a control structure. -/
def controlNat (a n : Nat) : Rd Nat := do return leNat (← control a n)

/-- Checks that a range can be written now. -/
def canWrite (a n : Nat) : Rd Unit := do
  (chop (granule a) a n).forM fun c => fun w => do
    match (← get).p.writeGate w c.1 with
    | some s => throw s
    | none => return ()

/-- Writes bytes at a device address. A write that merges part of a row reads it first (08 R173), so it takes a finding not yet taken. -/
def write (a : Nat) (bs : List Byte) (poison : Bool := false) (arrival : Option Nat := none) : Rd Unit := do
  (chop (granule a) a bs.length).forM fun c => fun w =>
    modify fun s =>
      let merges := granule a == 512 && c.2 != 512
      { s with p := s.p.writePiece w c.1 ((bs.drop (c.1 - a)).take c.2) poison arrival s.ecc, ecc := if merges then .clean else s.ecc }

/-- A write that is checked first. -/
def store (a : Nat) (bs : List Byte) : Rd Unit := do
  canWrite a bs.length
  write a bs

/-- Checks every write of a list before the first is made. -/
def storeAll (l : List (Nat × List Byte)) : Rd Unit := do
  l.forM fun x => canWrite x.1 x.2.length
  l.forM fun x => write x.1 x.2

end Rd

namespace Part

/-- Remote data that came for work not on an engine is no longer wanted. -/
def forget (p : Part) (key : Nat) : Part := { p with jig := { p.jig with early := Tab.del key p.jig.early } }

/-- Where work of an engine would wait if it went on now. -/
def wouldWait (p : Part) (w : Who) (m : Rd Unit) : Option Await :=
  match (m w).run ⟨p, .clean, .ok⟩ with
  | (.error (.wait _ on _), _) => some on
  | _ => none

/-- Runs work of an engine: its effect, or, where it waits, only the request it made; a fault keeps what happened before it and tears its
context down. `after` says what a wait does (stall counts, R221). -/
def engage (p : Part) (w : Who) (ecc : Ecc) (st : RdStat) (after : StallCause → Part → Part) (m : Rd Unit) : Part :=
  match (m w).run ⟨p, ecc, st⟩ with
  | (.ok _, s) => s.p.forget w.task
  | (.error (.wait c _ req), _) => after c (req p)
  | (.error (.fault f), s) => (s.p.ctxFault w.ctx f).forget w.task

end Part

end Sys2Proof.Machine
end

