-- ==== Sys2Proof/Machine/BlockList.lean ====
section
/-!
DEFINITION. Sys2Proof/Machine/BlockList.lean: block lists (09 R205, R206, R210, R215): their lines, rules and billed bytes, and the Carriers that
a transfer takes (R204, R208, R215 to R217).
-/

namespace Sys2Proof.Machine
open Sys2Proof

/-- A block of a block list (Table 9-3). -/
structure Blk where
  addr : Nat
  len : Nat
  count : Nat
  stride : Int
  region : Bool
  arrival : Option Nat
  deriving DecidableEq, Repr, Inhabited

def Blk.of (b : Nat) : Blk :=
  ⟨bits b 0 64, bits b 64 24, bits b 96 16, signed 64 (bits b 128 64), bit b 192, if bit b 193 then some (bits b 194 10) else none⟩

/-- The fields of a block in range (R206). -/
def blkOk (src : Bool) (b : Nat) : Bool :=
  let x := Blk.of b
  bits b 88 8 == 0 && bits b 112 16 == 0 && bits b 204 52 == 0 && x.len != 0 && x.count != 0 && !(src && bit b 193) &&
    (!x.region || (x.count == 1 && bits x.addr 3 5 == 0 && bits x.addr 16 48 == 0))

/-- The device address of line `i`. -/
def Blk.line (b : Blk) (i : Nat) : Nat := unsigned 64 (Int.ofNat b.addr + Int.ofNat i * b.stride)

def Blk.bytes (b : Blk) : Nat := b.len * b.count

/-- A block's units of work on the source side: its lines, or the rows of a region. -/
def Blk.units (b : Blk) : Nat := if b.region then cdiv b.len 512 else b.count

def Blk.regionDie (b : Blk) : Nat := bits b.addr 0 3
def Blk.regionIdx (b : Blk) : Nat := bits b.addr 8 8

def srcBlks (desc : List Nat) : List Blk := ((desc.drop 1).take (bits (desc.headD 0) 0 9)).map Blk.of
def dstBlks (desc : List Nat) : List Blk := ((desc.drop (1 + bits (desc.headD 0) 0 9))).map Blk.of

def listTotal (desc : List Nat) : Nat := bits (desc.headD 0) 64 40
def listShared (desc : List Nat) : Bool := bit (desc.headD 0) 32
def listMask (desc : List Nat) : Nat := bits (desc.headD 0) 40 8
def listLow (desc : List Nat) : Nat := (lowestBit 8 (listMask desc)).getD 0

/-- The rules of R206 and R215 on a whole list: every line of a SHARED transfer's destination starts in the lowest die's store, the first and
the last one bounding the rest. -/
def listOk (desc : List Nat) : Bool :=
  let h := desc.headD 0
  let s := (desc.drop 1).take (bits h 0 9)
  let d := desc.drop (1 + bits h 0 9)
  let low := listLow desc
  s.all (blkOk true) && d.all (blkOk false) && listTotal desc != 0 &&
    ((s.map fun b => (Blk.of b).bytes).foldl (· + ·) 0) == listTotal desc &&
    ((d.map fun b => (Blk.of b).bytes).foldl (· + ·) 0) == listTotal desc &&
    (listMask desc != 0) == listShared desc &&
    (!listShared desc || d.all fun b =>
      let x := Blk.of b
      if x.region then x.regionDie == low
      else [0, x.count - 1].all fun (i : Nat) =>
        decide (Int.ofNat (benchAt low 0) ≤ Int.ofNat x.addr + Int.ofNat i * x.stride) &&
          decide (Int.ofNat x.addr + Int.ofNat i * x.stride < Int.ofNat (benchAt low (2 ^ 27))))

/-- The block and the unit within it of a source unit number. -/
def unitAt : List Blk → Nat → Option (Nat × Blk × Nat)
  | [], _ => none
  | b :: t, u => if u < b.units then some (0, b, u) else (unitAt t (u - b.units)).map fun x => (x.1 + 1, x.2)

/-- The unit at which line `i` of block `k` starts, or the end of the list. -/
def unitOf (l : List Blk) (k i : Nat) : Nat :=
  ((l.take k).map Blk.units).foldl (· + ·) 0 + (match l[k]? with
    | some b => if b.region then 0 else min i b.count
    | none => 0)

/-- The block and line that hold a stream offset. -/
def lineAt : List Blk → Nat → Nat × Nat
  | [], _ => (0, 0)
  | b :: t, o => if o < b.bytes then (0, if b.region then 0 else o / max b.len 1) else let x := lineAt t (o - b.bytes); (x.1 + 1, x.2)

/-- The stream offset at which a source unit starts. -/
def unitOffset : List Blk → Nat → Nat
  | [], _ => 0
  | b :: t, u => if u < b.units then u * (if b.region then 512 else b.len) else b.bytes + unitOffset t (u - b.units)

/-- The destination block, line and offset in the line of a stream offset. -/
def dstAt : List Blk → Nat → Option (Nat × Blk × Nat × Nat)
  | [], _ => none
  | b :: t, o => if o < b.bytes then some (0, b, o / max b.len 1, o % max b.len 1) else (dstAt t (o - b.bytes)).map fun x => (x.1 + 1, x.2)

/-- The bytes billed for a line of `n` bytes at `a` (Table 9-4). -/
def billed (a n : Nat) (dst : Bool) : Nat :=
  let touched := fun g => (a + n - 1) / g - a / g + 1
  let part := fun g => touched g - ((a + n) / g - (a + g - 1) / g)
  if n = 0 then 0
  else if bit a 63 then 64 * touched 64
  else if a < hbmEnd then 64 * touched 64 + (if dst then 64 * part 32 else 0)
  else 512 * touched 512 + (if dst then 512 * part 512 else 0)

def Blk.billed (b : Blk) (dst : Bool) : Nat :=
  if b.region then 512 * cdiv b.len 512
  else ((List.range b.count).map fun i => Machine.billed (b.line i) b.len dst).foldl (· + ·) 0

/-- B of R210. -/
def listBilled (desc : List Nat) : Nat :=
  max (((srcBlks desc).map fun b => b.billed false).foldl (· + ·) 0) (((dstBlks desc).map fun b => b.billed true).foldl (· + ·) 0)

/-- First positions of the source REGION blocks (R206): a region's first block starts at its HEAD, a later one after the one before.
`seen` holds the next position by (die, region). -/
def srcStarts (head : Nat → Nat → Nat) : List Blk → Nat → List (Nat × Nat × Nat) → List (Nat × Nat)
  | [], _, _ => []
  | b :: t, k, seen =>
    if b.region then
      let pos := match seen.find? fun s => s.1 == b.regionDie && s.2.1 == b.regionIdx with
        | some s => s.2.2
        | none => head b.regionDie b.regionIdx
      (k, pos) :: srcStarts head t (k + 1) ((b.regionDie, b.regionIdx, pos + cdiv b.len 512) :: seen)
    else srcStarts head t (k + 1) seen

/-- The frame die whose Carriers multicast a list: the one that serves its first source byte (R217). -/
def listFrame (mode : Nat) (desc : List Nat) : Nat := stackAt mode (((srcBlks desc).head?.map Blk.addr).getD 0) / 3

/-- The dies whose stores a transfer writes, beside its own addresses: the logical dies of a SHARED transfer. -/
def sharedDies (desc : List Nat) : List Nat := if listShared desc then bitsSet 8 (listMask desc) else []

/-- The destination regions of a transfer: block, logical die, region, rows. -/
def dstRegions (desc : List Nat) : List (Nat × Nat × Nat × Nat) :=
  ((dstBlks desc).mapIdx fun k b => (k, b)).flatMap fun x =>
    if x.2.region then
      (if listShared desc then sharedDies desc else [x.2.regionDie]).map fun n => (x.1, n, x.2.regionIdx, cdiv x.2.len 512)
    else []

/-- The write ranges of a transfer: those its record declares and its destination regions, on one die where it is SHARED. -/
def listRanges (img : Nat) (desc : List Nat) : Nat :=
  bits img 24 7 + ((dstRegions desc).filter fun g => !listShared desc || g.2.1 == listLow desc).length

/-- A transfer's task with what its block list says: its units, its dies, and whether the Carrier it takes first is a frame die's. -/
def Task.onList (t : Task) (e : Nat) (desc : List Nat) : Task :=
  { t with
    desc := desc, dies := sharedDies desc, mcast := decide (128 ≤ e), units := ((srcBlks desc).map Blk.units).foldl (· + ·) 0 }

/-- The stream offset of the first source byte that is not written. -/
def Task.wroteTo (t : Task) : Nat :=
  (if t.next < t.units then unitOffset (srcBlks t.desc) t.next else listTotal t.desc) - t.buf.length

namespace Part

/-- The consumers of region `i` of physical die `d` (08 R192): transfers that read it and have not returned its rows, streams with a chunk to read
from it, and AES3 channels that take it. -/
def consumers (p : Part) (d i : Nat) : Nat :=
  let reads := fun (t : Task) => (srcBlks t.desc).any fun b => b.region && b.regionIdx == i && p.phys b.regionDie == d
  let ts := (p.jig.xfer.flatMap Prod.snd ++ p.jig.stopped.map Prod.snd).filter fun t => kindOf t.img == 3 && reads t
  let ss := p.strms.filter fun e => !e.2.chunks.isEmpty && Ent.inRegion e.2.ent == i && p.phys (Ent.inDie e.2.ent) == d
  let cs := aesAll.filter fun x => p.aesEn x.1 && (match (p.aesCh x.1 x.2).bind with
    | some (_, _, n, k) => p.phys n == d && k == i
    | none => false)
  ((ts.map Task.id).eraseDups).length + ss.length + cs.length

/-- A region has more consumers than one: the content that each reads is undefined (08 R192, 09 R206, 14 R322). -/
def crowded (p : Part) (d i : Nat) : Bool := decide (1 < p.consumers d i)

/-- `n` values that nothing states, of `w` bits. -/
def frees (p : Part) (n w : Nat) : List Nat × Part :=
  ((List.range n).map fun j => (Config.freeValue (p.fresh + j)).toNat % 2 ^ w, { p with fresh := p.fresh + n })

/-- Save, restore or Drawer traffic or the feed of an AES3 channel runs, which frame die Carriers carry (R204, 14 R323). -/
def moving (p : Part) : Bool :=
  aesAll.any (fun x => p.aesEn x.1 && (p.aesCh x.1 x.2).bind.isSome) ||
  p.holds.any (fun e => e.2.st == .saving || e.2.st == .restoring) || p.strms.any (fun e => Ent.state e.2.ent == 2 || Ent.state e.2.ent == 5) ||
    p.chest.cmd.any fun c => c.op == 1

/-- The transfers outstanding on a Carrier; how many of them are save, restore or Drawer traffic is not stated (log entry 16). -/
def carrierLoad (p : Part) (e : Nat) : Nat :=
  (Tab.getD p.jig.xfer e []).length + (if decide (128 ≤ e) && p.moving then Config.moveSlots p.time e else 0)

/-- A free engine (10 R233): a compute engine without an issued task, a Carrier with fewer than 6 transfers. -/
def engFree (p : Part) (c : Cls) (e : Nat) : Bool :=
  match c with
  | .carrier => decide (p.carrierLoad e < 6)
  | _ => (Tab.find (engKey c e) p.jig.eng).isNone

/-- The lowest Carrier with a free slot among those that `f` names. -/
def freeCarrier (p : Part) (l : List Nat) : Option Nat := l.find? fun e => p.engFree .carrier e

/-- A SHARED transfer of Cabinet `b` runs in multicast mode (R217). -/
def multicast (p : Part) (b : Nat) (desc : List Nat) : Bool :=
  listShared desc && p.rb .cabCtl 0 b 16 && (srcBlks desc).all fun x => !x.region && decide (x.addr < hbmEnd)

/-- The record of a key belongs to a job whose hold is resident. -/
def parkedLive (p : Part) (k : Nat) : Option Job :=
  match p.job (k / 32768) with
  | some x => if p.ctxRuns x.ctx && p.residentOn x.ctx x.cab then some x else none
  | none => none

/-- A transfer that reached frame die `m` before record `k` waits there for a Carrier: the die serves waiting work in arrival order (R204). -/
def frameQueued (p : Part) (m k : Nat) : Bool :=
  (p.jig.parked.takeWhile fun e => e.1 != k).any fun e => match p.parkedLive e.1 with
    | some x => p.multicast x.cab e.2 && listFrame p.hbmMode e.2 == m
    | none => false

/-- The Carriers that run the SHARED transfer of record `k` (R216, R217); none while one of them has no free slot. -/
def carriersFor (p : Part) (b k : Nat) (desc : List Nat) : Option (List Nat) :=
  if p.multicast b desc then
    let m := listFrame p.hbmMode desc
    if p.frameQueued m k then none else (p.freeCarrier (span (128 + 8 * m) 8)).map fun n => [n]
  else (bitsSet 8 (listMask desc)).mapM fun n => p.freeCarrier ((p.cabEngines b .carrier).filter fun k => engDie .carrier k == n)

/-- A range of a SHARED transfer on a die other than its first: counted once, with the first die's (log entry 83). -/
def extraOn (p : Part) (t : Task) (d : Nat) : Bool := t.dies.tail.any fun n => p.phys n == d

/-- The ranges of a task: registered, still to register, and owed by its reservations. -/
def taskRanges (p : Part) (t : Task) : Nat :=
  ((p.bench.sb.map fun e => if p.extraOn t e.1 then 0 else (e.2.filter fun s => s.owner == t.id).length)).foldl (· + ·) 0 +
    ((t.toReg ++ t.waitPos).filter fun g => !p.extraOn t g.die).length

/-- The ranges an engine holds or will register (08 R185), those of task `but` apart. -/
def heldRanges (p : Part) (key but : Nat) : Nat :=
  let mine := ((p.jig.eng.filter fun e => e.1 == key).map Prod.snd ++
    (p.jig.xfer.filter fun e => engKey .carrier e.1 == key).flatMap Prod.snd).filter fun t => t.id != but
  ((p.bench.sb.map fun e => (e.2.filter fun s => s.eng == key && s.owner != but &&
    !(p.taskOf s.owner).any fun t => p.extraOn t e.1).length)).foldl (· + ·) 0 +
    (mine.map fun t => ((t.toReg ++ t.waitPos).filter fun g => !p.extraOn t g.die).length).foldl (· + ·) 0

/-- The block list of a transfer that waits for Carriers. -/
def parkedList (p : Part) (j r : Nat) : Option (List Nat) := (p.jig.parked.find? fun e => e.1 == recKey j r).map Prod.snd

/-- A SHARED transfer's declared ranges on its lowest die are registered on every die it writes (R215). -/
def sharedRanges (p : Part) (desc : List Nat) (rs : List Range) : List Range :=
  if !listShared desc then rs else
  (rs.flatMap fun (g : Range) =>
    if g.die = p.phys (listLow desc) then (sharedDies desc).map fun n => { g with die := p.phys n } else [g]).eraseDups

end Part

end Sys2Proof.Machine
end

