-- ==== Sys2Proof/Machine/Functions.lean ====
section
/-!
DEFINITION. Sys2Proof/Machine/Functions.lean: the functions of values that softmax, the Punch and the fills need, correctly rounded to binary32:
powers of two, exponential, logarithm and cosine (04 R88 R89, 07 R163 R167). Series are summed in fixed point with 192 fraction bits,
far beyond what any binary32 argument needs to settle its rounding.
-/

namespace Sys2Proof.Num

/-- Fraction bits of the fixed point. -/
def fb : Nat := 192

/-- An F32 times a power of two, rounded. -/
def fscale (x : F32) (e : Int) : F32 :=
  if 0 ≤ e then (roundG (x * 2 ^ e.toNat) 149).1 else (roundG x (149 + (-e).toNat)).1

/-- The same with a subnormal result flushed (R163). -/
def fscaleZ (x : F32) (e : Int) : F32 :=
  if 0 ≤ e then (roundF (x * 2 ^ e.toNat) 149).1 else (roundF x (149 + (-e).toNat)).1

/-- An integer converted to binary32. -/
def fint (i : Int) : F32 := (roundF i 0).1

/-- The floor of an F32, as an integer. -/
def ffloor (x : F32) : Int := x / 2 ^ 149

/-- A fixed-point number rounded to an F32; `inexact` says that digits below its last were dropped. -/
def ofFixed (v : Int) (inexact : Bool) : F32 :=
  let r := (roundMag (2 * v.natAbs + b2n inexact) (fb + 1)).1
  if v < 0 then -Int.ofNat r else Int.ofNat r

/-- `k` further square roots, each floored. -/
def rootGo : Nat → Nat → Nat
  | 0, n => n
  | k + 1, n => rootGo k (isqrt n)

/-- E2[j], 2^(j/256) rounded to binary32 (R163). -/
def e2 (j : Nat) : F32 :=
  if j % 256 = 0 then 2 ^ (149 + j / 256) else
  Int.ofNat (roundMag (2 * rootGo 8 (2 ^ (j + 256 * 30)) + 1) 31).1

/-- atanh of n / d in fixed point, `k` terms from exponent `i`; `p` is the running power. -/
def atanhGo (n d : Int) : Nat → Nat → Int → Int
  | 0, _, _ => 0
  | k + 1, i, p => p / Int.ofNat i + atanhGo n d k (i + 2) (p * n * n / (d * d))

def atanhFix (n d : Int) : Int := atanhGo n d 70 1 (n * 2 ^ fb / d)

def ln2Fix : Int := 2 * atanhFix 1 3

/-- The natural logarithm of a positive F32 in fixed point. -/
def lnFix (x : F32) : Int :=
  let l := x.natAbs.log2
  2 * atanhFix (x - 2 ^ l) (x + 2 ^ l) + (Int.ofNat l - 149) * ln2Fix

/-- ln of a positive F32, rounded. -/
def fln (x : F32) : F32 := if x = 2 ^ 149 then 0 else ofFixed (lnFix x) true

/-- Taylor terms of e^x, cos x or sin x: the next term is the last times `x^s / ((i+1) … (i+s))`, with sign `sg`. -/
def taylorGo (y : Int) (s : Nat) (sg : Int) : Nat → Nat → Int → Int
  | 0, _, _ => 0
  | k + 1, i, t =>
    let d := if s = 1 then Int.ofNat (i + 1) else Int.ofNat ((i + 1) * (i + 2))
    t + taylorGo y s sg k (i + s) (sg * (t * y / 2 ^ fb) / d)

/-- e^x of an F32, rounded; far outside binary32's range it saturates or is 0 as a rounding does. -/
def fexp (x : F32) : F32 :=
  if x = 0 then 2 ^ 149 else
  if (2 ^ 149 * 100 : Int) < x then Int.ofNat maxF else
  if x < (-(2 ^ 149 * 100) : Int) then 0 else
  let v := if 149 ≤ fb then x * 2 ^ (fb - 149) else x
  let n := v / ln2Fix
  let r := taylorGo (v - n * ln2Fix) 1 1 60 0 (2 ^ fb)
  let m := 2 * r.natAbs + 1
  Int.ofNat (if 0 ≤ n then (roundMag (m * 2 ^ n.toNat) (fb + 1)).1 else (roundMag m (fb + 1 + (-n).toNat)).1)

/-- atan of 1 / d in fixed point. -/
def atanGo (d : Int) : Nat → Nat → Int → Int
  | 0, _, _ => 0
  | k + 1, i, p => p / Int.ofNat i - atanGo d k (i + 2) (p / (d * d))

def piFix : Int := 16 * atanGo 5 50 1 (2 ^ fb / 5) - 4 * atanGo 239 20 1 (2 ^ fb / 239)

/-- cos(pi n / m) in fixed point, for 0 ≤ n ≤ m. -/
def cosFix (n m : Nat) : Int :=
  let up := 2 * n ≤ m
  let y : Int := Int.ofNat (if up then n else m - n) * piFix / Int.ofNat (max 1 m)
  let v := taylorGo (y * y / 2 ^ fb) 2 (-1) 40 0 (2 ^ fb)
  if up then v else -v

/-- cos(pi x) of an F32 between 0 and 2, rounded. -/
def fcospi (x : F32) : F32 :=
  let one : Int := 2 ^ 149
  let t := if one < x then 2 * one - x else x             -- cos is even about 1
  let neg := decide (one < 2 * t)
  let u := if neg then one - t else t                     -- 0 .. 1/2
  let v : Int :=
    if 4 * u ≤ one then
      let y := u * 2 ^ (fb - 149) * piFix / 2 ^ fb
      taylorGo (y * y / 2 ^ fb) 2 (-1) 40 0 (2 ^ fb)
    else
      let y := (one - 2 * u) * 2 ^ (fb - 150) * piFix / 2 ^ fb
      taylorGo (y * y / 2 ^ fb) 2 (-1) 40 1 y
  let r := if u = 0 then one else if 2 * u = one then 0 else ofFixed v true
  if neg then -r else r

/-- log2(e) as binary32, 0x3FB8_AA3B (R163). -/
def log2e : F32 := (f32code 0x3FB8AA3B).1

/-- 2^u of R163 for u not above 0, by table and interpolation, 0 below -126. -/
def softExp (u : F32) : F32 :=
  if u < -126 * 2 ^ 149 then 0 else
  let p := ffloor u
  let y := (u - p * 2 ^ 149) * 256
  let j := (ffloor y).toNat
  let f := y - Int.ofNat j * 2 ^ 149
  fscaleZ (faddZ (e2 j) (fmulZ f (fsubZ (e2 (j + 1)) (e2 j)))) p

/-- The largest of a list. -/
def fmax (l : List F32) : F32 := l.foldl (fun a x => if a < x then x else a) (l.headD 0)

/-- A sum accumulated as R40 says, with its saturations. -/
def fsum (l : List F32) : F32 × Nat := accFloat (l.map fun x => (.flt (2 ^ 149), .flt x))

/-- The softmax of R163 over scaled values, all unmasked, with the saturations of its sum. -/
def softmax (l : List F32) : List F32 × Nat :=
  let m := fmax l
  let es := l.map fun x => softExp (fmulZ (fsubZ x m) log2e)
  let s := fsum es
  (es.map fun e => fdivZ e s.1, s.2)

/-- A value rounded to A16B, nearest even, as it reads back. -/
def toA16b (x : F32) : F32 :=
  let r := toFloat 0 false x 149 7 none 255 120
  (bf16 (floatCode 7 8 127 false (decide (x < 0)) r.1 r.2.1)).1

end Sys2Proof.Num
end

