-- ==== Sys2Proof/Machine/Audio.lean ====
section
/-!
DEFINITION. Sys2Proof/Machine/Audio.lean: AES3 ports, their feed, framing and Taper, and the reference inputs (14 R321 to R342). The converter
is not bit-exact (R328): its words are free values.
-/

namespace Sys2Proof.Machine
open Sys2Proof

/-- Nominal frame rates (Table 14-1). -/
def aesRate (r : Nat) : Nat := [32000, 44100, 48000, 96000].getD r 48000

/-- The CRCC of bytes 0 to 22 of a professional channel status block (R337): x^8 + x^4 + x^3 + x^2 + 1 from all ones, bits in sending
order. PRESUMED, log entry 40: AES3's own order of the check bits. -/
def aesCrcStep (c : Nat) : Nat := if c % 2 = 1 then (c / 2) ^^^ 0xB8 else c / 2
def aesCrcByte (c : Nat) (b : Byte) : Nat :=
  aesCrcStep (aesCrcStep (aesCrcStep (aesCrcStep (aesCrcStep (aesCrcStep (aesCrcStep (aesCrcStep (c ^^^ b.toNat))))))))
def aesCrcc (l : List Byte) : Nat := l.foldl aesCrcByte 0xFF

/-- The 24-byte block at byte `o` of a side record; an absent record is all 0. -/
def sideBlock (side : List Byte) (o : Nat) : List Byte := (List.range 24).map fun i => side.getD (o + i) 0

/-- Channel status as sent: byte 23 replaced where the format is professional. -/
def statusBlock (side : List Byte) (o : Nat) : List Byte :=
  let l := sideBlock side o
  if bit (l.getD 0 0).toNat 0 then l.take 23 ++ [BitVec.ofNat 8 (aesCrcc (l.take 23))] else l

/-- Bit `j` of a block. -/
def blockBit (l : List Byte) (j : Nat) : Bool := bit (l.getD (j / 8) 0).toNat (j % 8)

/-- A subframe (Table 14-4): preamble in bits 3:0 (0 X, 1 Y, 2 Z), slot n in bit n, even parity over slots 4 to 31. -/
def subframe (pre word : Nat) (v u c : Bool) : Nat :=
  let x := pre + (word % 2 ^ 24) * 2 ^ 4 + b2n v * 2 ^ 28 + b2n u * 2 ^ 29 + b2n c * 2 ^ 30
  x + popCount 27 (x / 16) % 2 * 2 ^ 31

/-- The ramp's word under BYPASS (R331, R335): v × 256 times g(n) = 0.5 (1 - cos(pi n / m)), rounded to nearest with ties to even. -/
def rampWord (v : Int) (n m : Nat) : Int :=
  let w := Int.ofNat (Num.roundDiv (v.natAbs * 128 * (2 ^ Num.fb - Num.cosFix n m).toNat) (2 ^ Num.fb))
  if v < 0 then -w else w

/-- The frame die and offset register of a reference input. -/
def refDie (ref : Nat) : Nat := 2 * ref

namespace Part

/-- A port event (Table 18-9): 0 FRAMES, 1 SIDE_LATE, 2 SIDE_ERR, 3 HOLDOVER. -/
def bumpPortAes (p : Part) (a ev : Nat) : Part := p.bump (frameCtr (a / 8) 4 (a % 8) ev) 1

def aesNominal (p : Part) (a : Nat) : Nat := aesRate (p.aesCtl a 0 2)
def aesBypass (p : Part) (a : Nat) : Bool := p.aesCtl a 5 1 == 1

/-- Q, the taper reserve in values, and N, the taper length in frames. -/
def aesQ (p : Part) (a ch : Nat) : Nat := cdiv (p.aesCtl a 8 7 * p.aesCfg a ch 20 17) 1000 + 32
def aesN (p : Part) (a : Nat) : Nat := p.aesCtl a 8 7 * p.aesNominal a / 1000

def aesRunning (p : Part) (a : Nat) : Bool := p.rb .aesPortStatus (a / 8) (a % 8) 0
def aesFlag (p : Part) (a bit : Nat) (v : Bool) : Part := p.setRb .aesPortStatus (a / 8) (a % 8) bit v

/-! ### Reference inputs (R324, R325) -/

def refEn (p : Part) (ref : Nat) : Bool := p.frameUp (refDie ref) && p.rb .aesRefCtl (refDie ref) 0 0
def refState (p : Part) (ref : Nat) : Nat := p.rf .aesRefStatus (refDie ref) 0 0 2

/-- What port `a` hears of its reference: the offset of a LOCKED one, at once on its own frame die and by broadcast elsewhere. -/
def heardBy (p : Part) (a : Nat) : Option Int :=
  let ref := p.aesCtl a 2 2 - 1
  if a / 8 = refDie ref then
    if p.refState ref = 2 then some (signed 16 (p.rf .aesRefStatus (refDie ref) 0 16 16)) else none
  else Tab.find (ref * 4 + a / 8) p.audio.heard

/-- A port meets the present state of its reference (R326): holdover when it is not LOCKED, the end of holdover when it is again. -/
def portHears (p : Part) (a : Nat) : Part :=
  if p.aesCtl a 2 2 = 0 ∨ !p.aesRunning a then p else
  let hold := p.rb .aesPortStatus (a / 8) (a % 8) 2
  match p.heardBy a with
  | none => if hold then p else ((p.aesFlag a 2 true).aesFlag a 1 false).bumpPortAes a 3
  | some o =>
    if hold then p.aesFlag a 2 false
    else if p.rb .aesPortStatus (a / 8) (a % 8) 1 then p.setPort a { p.aesPort a with off16 := o } else p

def allHear (p : Part) : Part := (List.range 32).foldl portHears p

/-- A change of a reference's state; leaving LOCKED sets LOST and counts. -/
def setRefState (p : Part) (ref st : Nat) : Part :=
  let d := refDie ref
  let lost := p.refState ref == 2 && st != 2
  let p := p.setRf .aesRefStatus d 0 0 2 st
  if lost then (p.setRb .aesRefStatus d 0 2 true).bump (frameCtr d 6 0 0) 1 else p

def refEdgesPresent (p : Part) (ref : Nat) : Part :=
  if p.refEn ref && p.refState ref == 0 then p.setRefState ref 1 else p

/-- REF_WINDOW: a 64-frame measurement of `ppm16` sixteenths of a ppm. -/
def refWindow (p : Part) (ref : Nat) (ppm16 : Int) : Part :=
  if !p.refEn ref || p.refState ref == 0 then p else
  let p := p.setRf .aesRefStatus (refDie ref) 0 16 16 (unsigned 16 (clampI (-32768) 32767 ppm16))
  (p.setRefState ref (if -3200 ≤ ppm16 ∧ ppm16 ≤ 3200 then 2 else 3)).allHear

def refAbsentTimeout (p : Part) (ref : Nat) : Part :=
  if p.refEn ref && p.refState ref != 0 then (p.setRefState ref 0).allHear else p

/-- REF_RATE_BROADCAST: the other frame dies hear the measured rate, or that the reference is not LOCKED. -/
def refRateBroadcast (p : Part) (ref : Nat) : Part :=
  let o := signed 16 (p.rf .aesRefStatus (refDie ref) 0 16 16)
  let ds := (List.range 4).filter fun m => m != refDie ref && p.frameUp m
  let h := ds.foldl (fun t m => if p.refState ref = 2 && p.refEn ref then Tab.put (ref * 4 + m) o t else Tab.del (ref * 4 + m) t) p.audio.heard
  ({ p with audio := { p.audio with heard := h } }).allHear

/-- A write of AES_REF_CTL (R325): clearing EN is refused while an enabled port follows the input. -/
def aesRefWrite (p : Part) (ref v : Nat) : Part :=
  let d := refDie ref
  let follows := (List.range 32).any fun a => p.aesEn a && p.aesCtl a 2 2 == ref + 1
  if bit v 0 = false && p.rb .aesRefCtl d 0 0 && follows then p.badAccess
  else
    let p := p.setReg .aesRefCtl d 0 v
    if bit v 0 then p else (p.setRefState ref 0).allHear

/-! ### Enabling and disabling (R339) -/

/-- Whether a write that sets EN is refused, by the value written. -/
def aesRefused (p : Part) (a v : Nat) : Bool :=
  let rate := aesRate (bits v 0 2)
  let src := bits v 2 2
  let bound := [0, 1].filter fun ch => p.aesSrc a ch == 1
  let inRate := fun (ch : Nat) => p.aesCfg a ch 20 17
  let q := fun (ch : Nat) => cdiv (bits v 8 7 * inRate ch) 1000 + 32
  let start := bits v 32 14
  !p.ctxEn (bits v 16 8) || (src != 0 && !p.refEn (src - 1)) ||
    bound.any (fun ch => decide (inRate ch < 8000) || decide (96000 < inRate ch)) ||
    (bit v 5 && bound.any fun ch => inRate ch != rate) ||
    bound.any (fun ch => decide (start < 2 * q ch)) || decide (8192 < start) || decide (bits v 48 14 < start + 512) || bits v 8 7 == 0

/-- The binding outlives the port's enable unless CONTEXT or AES_CH_CFG name another stream. -/
def keptBind (p : Part) (a ch : Nat) : AesCh :=
  let y := p.aesCh a ch
  let keep := match y.bind with
    | some b => p.aesSrc a ch == 1 && b.1 == p.aesCtx a && b.2.1 == p.aesCfg a ch 0 18
    | none => false
  if keep then { bind := y.bind, todo := y.todo, pos := y.pos, skip := y.skip, ended := y.ended } else {}

/-- A write of AES_PORT_CTL with EN = 1 while EN is 0. -/
def aesEnable (p : Part) (a v : Nat) : Part :=
  if p.aesRefused a v then p.badAccess else
  let p := p.setReg .aesPortCtl (a / 8) (a % 8) v
  let p := p.setPort a { a := p.keptBind a 0, b := p.keptBind a 1 }
  let p := ((p.aesFlag a 0 true).aesFlag a 1 false).aesFlag a 2 false
  if p.aesCtl a 2 2 = 0 then p else
  match p.heardBy a with
  | some o => (p.setPort a { p.aesPort a with off16 := o }).aesFlag a 1 true
  | none => (p.aesFlag a 2 true).bumpPortAes a 3

/-- A stopping port whose channels are SILENT discards its FIFOs and stops. -/
def aesStop (p : Part) (a : Nat) : Part :=
  let x := p.aesPort a
  if x.stopping && x.a.st == 0 && x.b.st == 0 then
    let p := p.setPort a { a := p.keptBind a 0, b := p.keptBind a 1 }
    ((p.aesFlag a 0 false).aesFlag a 1 false).aesFlag a 2 false
  else p

/-- EN cleared: every channel that is not SILENT tapers, then the port stops. -/
def aesDisable (p : Part) (a : Nat) : Part :=
  let x := p.aesPort a
  ((p.setRb .aesPortCtl (a / 8) (a % 8) 63 false).setPort a { x with a := aesFadeCh x.a, b := aesFadeCh x.b, stopping := true }).aesStop a

/-! ### Feed, fill, underrun, overrun (R323, R331 to R335) -/

/-- Rows of a region that are released and not yet taken by a channel, as values: of `rows` rows, chunk by chunk. -/
def valuesIn : Nat → List Nat → Nat → Nat
  | _, [], _ => 0
  | rows, v :: t, skip =>
    -- the values left of a chunk fill this many rows of 256, the first of which has `skip` values passed over
    let n := cdiv (v + skip) 256
    if rows < n then rows * 256 - min (rows * 256) skip else v + valuesIn (rows - n) t 0

/-- Released values of the stream's region not yet taken. -/
def aesWaiting (p : Part) (a ch : Nat) : Nat :=
  let y := p.aesCh a ch
  match y.bind with
  | none => 0
  | some (_, _, die, i) => valuesIn ((p.region (p.phys die) i).tail - y.pos) y.todo y.skip

def aesBacklog (p : Part) (a ch : Nat) : Nat := (p.aesCh a ch).fifo.length + p.aesWaiting a ch

/-- SILENT enters RAMP_IN at START_FILL values (R331). -/
def rampIn (p : Part) (a ch : Nat) : Part :=
  let y := p.aesCh a ch
  if y.st = 0 ∧ !y.fade ∧ !(p.aesPort a).stopping ∧ p.aesCtl a 32 14 ≤ y.fifo.length then p.setAesCh a ch { y with st := 1, n := 0 } else p

/-- The conditions of PLAYING: end without a taper (R333), underrun (R332), overrun (R334). -/
def playChecks (p : Part) (a ch : Nat) : Part :=
  let y := p.aesCh a ch
  if y.st ≠ 2 then p
  else if y.ended && y.todo.isEmpty then
    if y.fifo.isEmpty then (p.setAesCh a ch { y with st := 0, n := 0 }).bumpAes a ch 4 1 else p
  else if y.fifo.length ≤ p.aesQ a ch ∧ p.aesWaiting a ch = 0 then
    ((p.setAesCh a ch { y with st := 3, n := 0, ovr := false }).aesFlag a 3 true).bumpAes a ch 1 1
  else if p.aesCtl a 48 14 < p.aesBacklog a ch then
    ((p.setAesCh a ch { y with st := 3, n := 0, ovr := true }).aesFlag a 4 true).bumpAes a ch 2 1
  else p

/-- AES_RAMP_END: the ramp's N frames are done. -/
def aesRampEnd (p : Part) (a ch : Nat) : Part :=
  let y := p.aesCh a ch
  if y.st = 1 ∧ p.aesN a ≤ y.n then (p.setAesCh a ch { y with st := 2, n := 0 }).playChecks a ch else p

/-- The next row's values are passed over or taken: the channel after `k` values of it, and whether the row is finished. -/
def passRow (y : AesCh) (k : Nat) : AesCh × Bool :=
  match y.todo with
  | [] => (y, false)
  | v :: t =>
    if v ≤ k then ({ y with todo := t, pos := y.pos + 1, skip := 0 }, true)
    else if 256 ≤ y.skip + k then ({ y with todo := (v - k) :: t, pos := y.pos + 1, skip := 0 }, true)
    else ({ y with todo := (v - k) :: t, skip := y.skip + k }, false)

/-- Values of the next row that a channel has still to take. -/
def rowLeft (y : AesCh) : Nat :=
  match y.todo with
  | [] => 0
  | v :: _ => min v (256 - y.skip)

/-- Values are returned untaken until the backlog is at most START_FILL (R334); `fuel` bounds the rows. -/
def dropValues (a ch : Nat) : Nat → Part → Part
  | 0, p => p
  | fuel + 1, p =>
    let y := p.aesCh a ch
    let extra := p.aesBacklog a ch - p.aesCtl a 32 14
    let k := min extra (min (rowLeft y) (p.aesWaiting a ch))
    match y.bind with
    | none => p
    | some (_, _, die, i) =>
      if k = 0 then p else
      let z := passRow y k
      let p := (p.setAesCh a ch z.1).bumpAes a ch 3 k
      dropValues a ch fuel (if z.2 then p.returnPos (p.phys die) i y.pos else p)

/-- AES_TAPER_END (R332, R334, R335, R339, R340). -/
def aesTaperEnd (p : Part) (a ch : Nat) : Part :=
  let y := p.aesCh a ch
  if y.st ≠ 3 ∨ y.n < p.aesN a then p else
  let p := p.setAesCh a ch { y with st := 0, n := 0, fifo := [], acc := 0, ovr := false }
  if (p.aesPort a).stopping then p.aesStop a
  else if y.fade then p
  else
    let p := p.bumpAes a ch 3 y.fifo.length
    let again := !y.ovr && decide (p.aesCtl a 48 14 < p.aesBacklog a ch)
    let p := if again then (p.aesFlag a 4 true).bumpAes a ch 2 1 else p
    if y.ovr || again then
      let p := dropValues a ch (p.aesBacklog a ch + 1) p
      p.setAesCh a ch { p.aesCh a ch with st := 1, n := 0 }
    else p

/-- AES_FEED_ARRIVE: the next row's values reach the FIFO, and the row is returned (R323). Values that come poisoned, or from a region with another
consumer (R322), are free. -/
def aesFeedArrive (p : Part) (a ch : Nat) (ecc : Ecc) : Part :=
  let y := p.aesCh a ch
  match y.bind with
  | none => p
  | some (c, _, die, i) =>
    let d := p.phys die
    let r := p.region d i
    if !p.aesEn a || !p.aesRunning a || !p.benchUp d || !p.regionEn d i || p.regionCtx d i != c || rowLeft y == 0 ||
      decide (r.tail ≤ y.pos) || decide (8192 < y.fifo.length + 256) then p
    else
      let row := p.regionRow d i y.pos
      if (p.bank d (bankOf row)).gated then p.gateQueue d (bankOf row) (.wait row) else
      let x := p.rowRead d row ecc
      let k := rowLeft y
      let f := x.2.frees k 16
      let undef := x.1.2 || decide (y.pos < r.head) || p.crowded d i
      let vs := if undef then f.1 else (span y.skip k).map fun j => leNat ((x.1.1.drop (2 * j)).take 2)
      let z := passRow y k
      let p := (if undef then f.2 else x.2).setAesCh a ch { z.1 with fifo := y.fifo ++ vs }
      let p := if z.2 then p.returnPos d i y.pos else p
      (p.rampIn a ch).playChecks a ch

/-! ### Side area (R337, R338) -/

def sidePtr (p : Part) (a : Nat) : Nat := p.rv .aesPortSide (a / 8) (a % 8) / 64 * 64

/-- Frame 0 of a block: the record that has arrived applies, or the last one is sent again; then the next read begins, discarded at the port where
its function may not read host memory (12 R281). -/
def sideBlockStart (p : Part) (a : Nat) : Part :=
  let x := p.aesPort a
  let on := p.sidePtr a != 0
  let p := if bit (p.sidePtr a) 63 then p.request (p.fnOf (p.aesCtx a)) else p
  match x.next with
  | some s => p.setPort a { x with side := if on then s else [], next := none, reading := on, failed := false }
  | none =>
    let late := x.reading || x.failed
    let p := p.setPort a { x with side := if on then x.side else [], reading := on, failed := false }
    if late then p.bumpPortAes a 1 else p

/-- Bytes of the side area in the port's context, none where the read fails. -/
def sideRead (p : Part) (a at' n : Nat) (ecc : Ecc) : Option (List Byte) × Part :=
  let c := p.aesCtx a
  if bit at' 63 then
    let t := p.translate c at' false
    match t.1 with
    | some h => (some (t.2.mem.hostRead h n), t.2)
    | none => (none, t.2)
  else if at' < hbmEnd then
    let s := stackAt p.hbmMode at'
    if !p.stackOn s then (none, p) else
    let r := p.hbmFetch at' n true ecc
    (if r.1.any Prod.snd then none else some (r.1.map Prod.fst), r.2)
  else
    let o := at' - 0x100000000000
    let d := p.phys (o / 0x100000000)
    if at' < 0x100000000000 ∨ 8 ≤ o / 0x100000000 ∨ 0x8000000 ≤ o % 0x100000000 ∨ !p.benchUp d then (none, p) else
    let r := p.rowRead d (o % 0x100000000 / 512) ecc
    (if r.1.2 then none else some ((r.1.1.drop (o % 512)).take n), r.2)

/-- AES_SIDE_ARRIVE: the header and the record whose GEN is higher. -/
def aesSideArrive (p : Part) (a : Nat) (st : RdStat) (ecc : Ecc) (hw : Cells) : Part :=
  let x := p.aesPort a
  let ptr := p.sidePtr a
  if !x.reading || (bit ptr 63 && !p.masters (p.fnOf (p.aesCtx a))) then p else
  let p := p.hostSees hw
  let fail := fun (p : Part) => ((p.setPort a { x with reading := false, failed := true }).aesFlag a 5 true).bumpPortAes a 2
  if bit ptr 63 && st != .ok then fail (p.hostReadErr (p.fnOf (p.aesCtx a)) st) else
  let h := p.sideRead a ptr 64 ecc
  match h.1 with
  | none => fail h.2
  | some hd =>
    let g0 := leNat (hd.take 8)
    let g1 := leNat ((hd.drop 8).take 8)
    let r := h.2.sideRead a (ptr + (if g0 < g1 then 192 else 64)) 128 .clean
    match r.1 with
    | none => fail r.2
    | some bs => r.2.setPort a { x with reading := false, failed := false, next := some bs }

/-! ### Frames (R326 to R328, R330, R336) -/

/-- The pull toward the reference (R326): 1/16 ppm in rate / 320 frames is 20 ppm per second; once the frequency matches, when the phase is
aligned is open: a free bit decides at each block (log entry 41). -/
def aesPull (p : Part) (a : Nat) : Part :=
  if p.aesCtl a 2 2 = 0 then p else
  match p.heardBy a with
  | none => p
  | some o =>
    let x := p.aesPort a
    if p.rb .aesPortStatus (a / 8) (a % 8) 1 then p.setPort a { x with off16 := o }
    else if x.off16 ≠ o then
      if x.pull + 1 < p.aesNominal a / 320 then p.setPort a { x with pull := x.pull + 1 }
      else p.setPort a { x with pull := 0, off16 := if x.off16 < o then x.off16 + 1 else x.off16 - 1 }
    else if x.frame = 0 then
      let f := p.free
      if f.1.toNat % 2 = 1 then f.2.aesFlag a 1 true else f.2
    else p

/-- Values a channel takes in one frame, with the phase left: IN_RATE per second of device time against the port's frame rate (R330), one
value per frame under BYPASS. -/
def aesTake (p : Part) (a ch : Nat) : Nat × Nat :=
  if p.aesBypass a then (1, 0) else
  let d := (Int.ofNat (p.aesNominal a) * (16000000 + (p.aesPort a).off16)).toNat
  let s := (p.aesCh a ch).acc + p.aesCfg a ch 20 17 * 16000000
  (s / max 1 d, s % max 1 d)

/-- The audio word of a channel in this frame and the channel after it. Under BYPASS it is exact but for taper frames (R328); words of the
converter and of taper frames are free. -/
def aesWord (p : Part) (a ch : Nat) : Nat × Part :=
  let y := p.aesCh a ch
  if y.st = 0 then (0, p) else
  let t := p.aesTake a ch
  let q := p.setAesCh a ch { y with fifo := y.fifo.drop t.1, acc := t.2, n := if y.st = 2 then 0 else y.n + 1 }
  let exact : Option Nat := if p.aesBypass a && y.st != 3 then y.fifo.head?.map fun v =>
    unsigned 24 (if y.st = 2 then signed 16 v * 256 else rampWord (signed 16 v) y.n (p.aesN a)) else none
  match exact with
  | some w => (w, q)
  | none =>
    let f := q.free
    -- whether the converter's word saturated is open too
    (f.1.toNat % 2 ^ 24, if !p.aesBypass a && f.1.toNat.testBit 24 then f.2.bumpAes a ch 0 1 else f.2)

/-- AES_FRAME: one frame of two subframes; it does nothing while the port does not run. -/
def aesFrame (p : Part) (a : Nat) : Part :=
  if !p.aesRunning a || !p.frameUp (a / 8) then p else
  let p := ([0, 1].foldl (fun p ch => ((p.rampIn a ch).aesRampEnd a ch).aesTaperEnd a ch) p)
  if !p.aesRunning a then p else
  let p := p.aesPull a
  let p := if (p.aesPort a).frame = 0 then p.sideBlockStart a else p
  let copy := p.aesSrc a 1 == 2
  let mute := p.aesCtl a 4 1 == 1
  let vA := (p.aesCh a 0).st == 0 && mute
  let vB := if copy then vA else (p.aesCh a 1).st == 0 && mute
  let wa := p.aesWord a 0
  let wb := if copy then wa else wa.2.aesWord a 1
  let p := wb.2
  let x := p.aesPort a
  let j := x.frame
  let sa := subframe (if j = 0 then 2 else 0) wa.1 vA (blockBit (sideBlock x.side 48) j) (blockBit (statusBlock x.side 0) j)
  let sb := subframe 1 wb.1 vB (blockBit (sideBlock x.side 72) j) (blockBit (statusBlock x.side 24) j)
  let p := (p.setPort a { x with sent := some (sa, sb), frame := (j + 1) % 192 }).bumpPortAes a 0
  [0, 1].foldl (fun p ch => ((p.aesRampEnd a ch).aesTaperEnd a ch).playChecks a ch) p

/-- STATE and FILL as AES_PORT_STATUS shows them. -/
def aesStatus (p : Part) (a : Nat) : Nat :=
  let x := p.aesPort a
  let stB := if p.aesSrc a 1 = 2 then x.a.st else x.b.st
  bits (p.rv .aesPortStatus (a / 8) (a % 8)) 0 7 + x.a.st * 2 ^ 8 + stB * 2 ^ 10 + x.a.fifo.length * 2 ^ 16 + x.b.fifo.length * 2 ^ 32

end Part

def execAesFrame (a : Nat) (s : State) : Host.Outcome State Fault Refusal := onPart s fun p => p.aesFrame a
def execAesSideArrive (a : Nat) (st : RdStat) (ecc : Ecc) (hw : Cells) (s : State) : Host.Outcome State Fault Refusal :=
  onWork s fun p => p.aesSideArrive a st ecc hw
def execAesFeedArrive (a ch : Nat) (ecc : Ecc) (s : State) : Host.Outcome State Fault Refusal :=
  onWork s fun p => p.aesFeedArrive a ch ecc
def execAesRampEnd (a ch : Nat) (s : State) : Host.Outcome State Fault Refusal := onPart s fun p => p.aesRampEnd a ch
def execAesTaperEnd (a ch : Nat) (s : State) : Host.Outcome State Fault Refusal := onPart s fun p => p.aesTaperEnd a ch
def execRefWindow (ref : Nat) (ppm16 : Int) (s : State) : Host.Outcome State Fault Refusal := onPart s fun p => p.refWindow ref ppm16
def execRefAbsentTimeout (ref : Nat) (s : State) : Host.Outcome State Fault Refusal := onPart s fun p => p.refAbsentTimeout ref
def execRefRateBroadcast (ref : Nat) (s : State) : Host.Outcome State Fault Refusal := onPart s fun p => p.refRateBroadcast ref
def execRefEdgesPresent (ref : Nat) (s : State) : Host.Outcome State Fault Refusal := onPart s fun p => p.refEdgesPresent ref

end Sys2Proof.Machine
end

