-- ==== Sys2Proof/Machine/BenchStore.lean ====
section
/-!
DEFINITION. Sys2Proof/Machine/BenchStore.lean: the commands of the Bench stores (08_bench_store). A die operand is logical (17 R394); an
access to a die that does not serve changes nothing (log entry 1).
-/

namespace Sys2Proof.Machine
open Sys2Proof

namespace Part

/-- Runs `f` on the physical die behind logical die `n` where it serves. -/
def onDie (p : Part) (n : Nat) (f : Part → Nat → Part) : Part := if p.benchUp (p.phys n) then f p (p.phys n) else p

def benchRead (p : Part) (n r : Nat) (ecc : Ecc) : Part := p.onDie n fun p d => p.rowRequest d (.read r ecc)

def correctedWriteback (p : Part) (n r : Nat) : Part :=
  p.onDie n fun p d =>
    if p.bench.wback.contains (rowKey d r) then
      ({ p with bench := { p.bench with wback := p.bench.wback.filter (· != rowKey d r) } }).bumpBench d 1 1
    else p

/-- The range of a task or stream of context `c` that has registered the row and not released it. -/
def rangeFor (p : Part) (c d r : Nat) : Option SbRange :=
  (p.sbOf d).find? fun s => p.ownerCtx s.owner == c && (match p.rangeIdx d s.range r with
    | some k => s.left.testBit k
    | none => false)

/-- BENCH_WRITE names a context and no engine: it is the write of the engine whose registered range of that context holds the row, where one
does, and else of no engine that holds ranges (DESIGN CHOICE, log entry 72). -/
def benchWrite (p : Part) (c n r first : Nat) (data : List Byte) (poison : Bool) (arrival : Option Nat) (ecc : Ecc) : Part :=
  p.onDie n fun p d => p.rowWrite d ⟨c, r, first, data, poison, arrival, ((p.rangeFor c d r).map SbRange.owner).getD 0, none⟩ ecc

/-- A mode read of context `c` (R177): outside the store or the grant the address fault; else 16 row accesses. The error-correcting code's
finding is the first row's. `width` is the element width of a transposed read, none for a strided one. -/
def modeRead (p : Part) (c n r step : Nat) (ecc : Ecc) (width : Option Nat) (seg : Nat) : Part :=
  p.onDie n fun p d =>
    let rows := (List.range 16).map fun i => r + i * step
    match rows.find? fun x => decide (262144 ≤ x) || !p.rowGranted c n x with
    | some x => p.ctxFault c ⟨0x0402, .none, 0, none, benchAt n (512 * x)⟩
    | none =>
      let id := Tab.next p.bench.modes
      let p := { p with bench := { p.bench with modes := Tab.put id ⟨rep 16 none, width, seg⟩ p.bench.modes } }
      (List.range 16).foldl (fun p i => p.rowRequest d (.mode id i (r + i * step) (if i = 0 then ecc else .clean))) p

/-- A patrol scrub read (R183) of the next row; a gated bank is woken for it. -/
def patrolScrub (p : Part) (n : Nat) (ecc : Ecc) : Part :=
  p.onDie n fun p d =>
    let r := Tab.getD p.bench.scrub d 0
    ({ p with bench := { p.bench with scrub := Tab.put d ((r + 1) % 262144) p.bench.scrub } }).access d (.scrub r ecc)

/-- The next range of a task is registered at its owner, or finds the scoreboard full and waits (R185); the last one lets the engine
report the issue (R227). -/
def registerNext (p : Part) (t : Task) (eng : Nat) : Part :=
  match t.toReg with
  | [] => p
  | g :: rest =>
    if (p.sbOf g.die).length < 8192 then
      ((p.register t.id eng g).mapTask t.id fun t => { t with toReg := rest, sbWait := false }).reportIssued t.id
    else if t.sbWait then p
    else (p.sbFull g.die t.ctx).mapTask t.id fun t => { t with sbWait := true }

/-- SCOREBOARD_REGISTER: an engine's next registration is tried at its owner; where only reservations wait for their APPEND entries, these
are tried again (R185, R190). -/
def scoreboardRegister (p : Part) (cls : Cls) (e : Nat) : Part :=
  match cls with
  | .carrier => match (Tab.getD p.jig.xfer e []).find? fun t => !t.toReg.isEmpty with
    | some t => p.registerNext t (engKey .carrier e)
    | none => ((Tab.getD p.jig.xfer e []).flatMap Task.waitPos).foldl (fun p g => match g.region with
      | some i => serveRegion g.die i (p.region g.die i).waiting.length p
      | none => p) p
  | _ => match Tab.find (engKey cls e) p.jig.eng with
    | some t => p.registerNext t (engKey cls e)
    | none => p

/-- A producer's reservation on behalf of context `c` (R190, R194). -/
def regionReserve (p : Part) (c n i rows : Nat) : Part :=
  p.onDie n fun p d =>
    if !p.ctxRuns c ∨ rows = 0 then p
    else if !p.regionOk c n i then p.ctxFault c ⟨0x0402, .none, 0, none, benchAt n (512 * p.regionBase d i)⟩
    else if p.regionSize d i < rows then p.ctxFault c ⟨0x0401, .none, 0, none, 0x7FFF⟩
    else p.reserve d i (rawOwner c) rows

def regionReturn (p : Part) (c n i pos : Nat) : Part :=
  p.onDie n fun p d => if p.regionEn d i && p.regionCtx d i == c then p.returnPos d i pos else p

/-- A bank commits to gating where R199 lets it. -/
def bankGate (p : Part) (n b : Nat) : Part :=
  p.onDie n fun p d =>
    let fed := p.bench.feedBanks.any fun g => g.1 / 4 == n && g.2.contains b
    let asked := p.bench.waits.any fun e => e.1 == d && bankOf (accRow e.2) == b
    if p.rb .benchCtl d 0 0 && !(p.bank d b).gated && !fed && !asked then (p.setBank d b { p.bank d b with gated := true }).bumpBench d 7 1 else p

/-- The wake ends where a queued access asked for it (R200). -/
def bankWakeDone (p : Part) (n b : Nat) : Part :=
  p.onDie n fun p d =>
    let x := p.bank d b
    if x.gated && !x.queue.isEmpty then p.wakeBank d b else p

end Part

def execBenchRead (die row : Nat) (ecc : Ecc) (s : State) : Host.Outcome State Fault Refusal :=
  onWork s fun p => p.benchRead die row ecc

def execCorrectedWriteback (die row : Nat) (s : State) : Host.Outcome State Fault Refusal :=
  onPart s fun p => p.correctedWriteback die row

def execBenchWrite (c die row first : Nat) (data : List Byte) (poison : Bool) (arrival : Option Nat) (ecc : Ecc) (s : State) :
    Host.Outcome State Fault Refusal :=
  onWork s fun p => p.benchWrite c die row first data poison arrival ecc

def execTransposedRead (c die row stride width : Nat) (ecc : Ecc) (s : State) : Host.Outcome State Fault Refusal :=
  onWork s fun p => p.modeRead c die row stride ecc (some width) 0

def execStridedRead (c die row stride seg : Nat) (ecc : Ecc) (s : State) : Host.Outcome State Fault Refusal :=
  onWork s fun p => p.modeRead c die row stride ecc none seg

def execPatrolScrub (die : Nat) (ecc : Ecc) (s : State) : Host.Outcome State Fault Refusal :=
  onWork s fun p => p.patrolScrub die ecc

def execScoreboardRegister (cls : Cls) (e : Nat) (s : State) : Host.Outcome State Fault Refusal :=
  onPart s fun p => p.scoreboardRegister cls e

def execRegionReserve (c die i n : Nat) (s : State) : Host.Outcome State Fault Refusal :=
  onWork s fun p => p.regionReserve c die i n

def execRegionReturn (c die i pos : Nat) (s : State) : Host.Outcome State Fault Refusal :=
  onWork s fun p => p.regionReturn c die i pos

def execBankGate (die bank : Nat) (s : State) : Host.Outcome State Fault Refusal :=
  onPart s fun p => p.bankGate die bank

def execBankWakeDone (die bank : Nat) (s : State) : Host.Outcome State Fault Refusal :=
  onWork s fun p => p.bankWakeDone die bank

end Sys2Proof.Machine
end

