-- ==== Sys2Proof/Machine/Jig.lean ====
section
/-!
DEFINITION. Sys2Proof/Machine/Jig.lean: the Jig (10_graphs_and_the_jig): fetch and the structure check of records, NOP and FENCE, placement
and issue of tasks on engines, completion.
-/

namespace Sys2Proof.Machine
open Sys2Proof

/-! ### Fetch (R226, R227, R230) -/

/-- The fields that a record of a kind without an engine uses (Table 10-3). -/
def usedMask (kind : Nat) : Nat :=
  fm 0 5 + fm 32 32 + (if kind = 2 then fm 8 1 else fm 64 64) + (if kind = 7 ∨ kind = 8 then fm 128 64 else 0)

/-- The structure of record `r` by itself (Table 10-2, R227). -/
def recFormOk (r img : Nat) : Bool :=
  let k := kindOf img
  decide (1 ≤ k) && decide (k ≤ 8) && bits img 9 3 == 0 && !bit img 31 && bits img 333 51 == 0 && bits img 448 64 == 0 &&
    bits img 6 2 != 3 && decide (bits img 24 7 ≤ 64) && !(k == 2 && bit img 4) && (k == 2 || !bit img 8) &&
    (edgesOf img).all (fun e => decide (e.1 < r)) && bits img 128 64 % 64 == 0 &&
    (bits img 24 7 == 0 || bits img 192 64 % 64 == 0) && ((clsOf k).isSome || img &&& usedMask k == img)

namespace Part

/-- The engines that a record may be placed on (R233). -/
def eligible (p : Part) (b : Nat) (c : Cls) (img : Nat) : List Nat :=
  let i := bits img 16 8
  (p.cabEngines b c).filter fun e =>
    if bits img 6 2 = 1 then engDie c e == i else if bits img 6 2 = 2 then e == i else true

/-- The structure check of R226: form, and a PLACE that some engine of the Cabinet satisfies. -/
def recOk (p : Part) (b r img : Nat) : Bool :=
  recFormOk r img && (match clsOf (kindOf img) with
    | some c => bits img 6 2 == 0 || !(p.eligible b c img).isEmpty
    | none => true)

/-- Whether the home Jig may fetch the next record of a job (R225, R230). -/
def canFetch (p : Part) (x : Job) : Bool :=
  x.header && p.ctxRuns x.ctx && p.residentOn x.ctx x.cab && p.afterOver x && decide (x.next ≤ x.tasks) &&
    decide (p.inFlight (p.homeDie x.cab) < 2048)

/-- A fetched record enters the Jig; a fence that no compute task precedes is passed at once (R229). -/
def addRec (p : Part) (j : Nat) (x : Job) (img : Nat) : Part :=
  let passed := kindOf img == 2 && (p.jobRecs j).all fun y => !isCompute (kindOf y.2.img)
  let y : Rec := { img := img, st := if passed then .completed else .pending, reported := passed }
  let p := ((p.setRec j x.next y).setJob j { x with next := x.next + 1 }).bumpJig (p.homeDie x.cab) x.ctx 1 1
  match p.job j with
  | some z => if p.jobDone j z then p.endJob j 0 else p
  | none => p

/-- Fetches up to `fuel` records in order; the first that fails its check or read stops the group. -/
def fetchGo (j : Nat) (st : RdStat) : Nat → Part → Part
  | 0, p => p
  | fuel + 1, p =>
    match p.job j with
    | none => p
    | some x =>
      if !p.canFetch x then p else
      let w : Who := ⟨x.ctx, x.cab, none, earlyKey (recKey j x.next), x.next, x.ring⟩
      match ((Rd.controlNat (x.graph + 64 * x.next) 64) w).run ⟨p, .clean, st⟩ with
      | (.ok img, s) =>
        if p.recOk x.cab x.next img then fetchGo j .ok fuel ((s.p.forget w.task).addRec j x img)
        else s.p.ctxFault x.ctx (w.recFault 0x0401)
      | (.error (.wait _ _ req), _) => req p
      | (.error (.fault f), s) => s.p.ctxFault x.ctx f

/-- The job whose records a Jig fetches next: its jobs take turns in the order of their acceptance (R230). -/
def fetchTurn (p : Part) (die : Nat) : Option Nat :=
  let l := ((p.jigJobs die).filter fun e => p.canFetch e.2).map Prod.fst
  match l.find? fun j => decide (Tab.getD p.jig.turn die 0 < j) with
  | some j => some j
  | none => l.head?

/-- RECORD_FETCH: one fetch group of up to 8 records of the job whose turn it is. -/
def recordFetch (p : Part) (j : Nat) (st : RdStat) (hw : Cells) : Part :=
  match p.job j with
  | none => p
  | some x =>
    let die := p.homeDie x.cab
    if p.fetchTurn die ≠ some j then p
    else fetchGo j st 8 (({ p with jig := { p.jig with turn := Tab.put die j p.jig.turn } }).hostSees hw)

/-! ### Records that run on nothing (R228, R229) -/

/-- A record of a job that runs now: its context and hold let the Jig work. -/
def liveRec (p : Part) (j r : Nat) : Option (Job × Rec) :=
  match p.job j, p.rec' j r with
  | some x, some y => if p.ctxRuns x.ctx && p.residentOn x.ctx x.cab then some (x, y) else none
  | _, _ => none

def nop (p : Part) (j r : Nat) : Part :=
  match p.liveRec j r with
  | some (x, y) => if kindOf y.img = 1 ∧ p.recReady j x r y ∧ y.st = .pending then p.completeRec j r 0 false false 0 else p
  | none => p

def fence (p : Part) (j r : Nat) : Part :=
  match p.liveRec j r with
  | some (_, y) => if kindOf y.img = 2 ∧ y.st = .pending ∧ p.fencePasses j r y.img then p.completeRec j r 0 false false 0 else p
  | none => p

/-! ### Placement and issue (R231 to R234, R238) -/

/-- The ranges that a record brings to its engine (08 R185), and the task whose registered ranges they are where it resumes: what it holds and
has still to register, or what its block list or its record declares. -/
def need (p : Part) (j r img : Nat) : Nat × Nat :=
  match p.stoppedTask j r with
  | some t => (t.id, p.taskRanges t)
  | none => (0, match p.parkedList j r with
    | some l => listRanges img l
    | none => bits img 24 7)

/-- Room on an engine for the ranges of a record. -/
def rangeRoom (p : Part) (key j r img : Nat) : Bool := decide (p.heldRanges key (p.need j r img).1 + (p.need j r img).2 ≤ 64)

/-- The free eligible engine of lowest index with room for the task's ranges. -/
def freeEngine (p : Part) (b : Nat) (c : Cls) (j r img : Nat) : Option Nat :=
  (p.eligible b c img).find? fun e => p.engFree c e && p.rangeRoom (engKey c e) j r img

/-- The block list of a Carrier record, where a Carrier has read it: of a stopped transfer, or of one that waits for Carriers. -/
def knownList (p : Part) (j r : Nat) : Option (List Nat) :=
  match p.stoppedTask j r with
  | some t => some t.desc
  | none => p.parkedList j r

/-- The Carriers on which a transfer whose list is known runs now (09 R213, R215 to R217); a transfer that is not SHARED takes the first free
eligible one. -/
def carriersNow (p : Part) (b j r img : Nat) (l : List Nat) : Option (List Nat) :=
  if listShared l then
    (p.carriersFor b (recKey j r) l).bind fun es => es.head?.bind fun e => if p.rangeRoom (engKey .carrier e) j r img then some es else none
  else (p.freeEngine b .carrier j r img).map fun e => [e]

/-- The engine that a ready record takes now, if it can be placed. A Carrier task whose list is not yet known is placed to be read: by a free
Carrier, else by one whose transfers go on. -/
def placeable (p : Part) (b : Nat) (cls : Cls) (j r img : Nat) : Option Nat :=
  match cls with
  | .carrier =>
    match p.knownList j r with
    | some l => (p.carriersNow b j r img l).bind List.head?
    | none => match p.freeEngine b .carrier j r img with
      | some e => some e
      | none => (p.eligible b .carrier img).head?
  | _ => p.freeEngine b cls j r img

/-- Records of a hold of one class that are ready, in the Jig's order: the order of acceptance of their jobs, then of the records (R232);
before them those that resume, in the order in which they were first issued (R238). -/
def readyRecs (p : Part) (c b : Nat) (cls : Cls) : List (Nat × Nat × Rec) :=
  let l := (p.jobsOn c b).flatMap fun e => (p.jobRecs e.1).filterMap fun y =>
    if clsOf (kindOf y.2.img) = some cls ∧ p.recReady e.1 e.2 y.1 y.2 then some (e.1, y.1, y.2) else none
  let back : Tab (Nat × Nat × Rec) := (l.filter fun x => x.2.2.st == .stopped).foldl (fun (t : Tab (Nat × Nat × Rec)) x => Tab.put x.2.2.order x t) []
  back.map Prod.snd ++ l.filter fun x => x.2.2.st != .stopped

/-- The task that the Jig issues next on a class of a Cabinet, and its engine. -/
def pick (p : Part) (c b : Nat) (cls : Cls) : Option (Nat × Nat × Nat) :=
  (p.readyRecs c b cls).findSome? fun x => (p.placeable b cls x.1 x.2.1 x.2.2.img).map fun n => (x.1, x.2.1, n)

/-- Whether the rows from `f` to `l` all lie in shares that the context holds, share by share. -/
def covered (p : Part) (c n l : Nat) : Nat → Nat → Bool
  | 0, _ => false
  | fuel + 1, f =>
    if l < f then true else
    match (p.heldCabs c).find? fun b => p.cabEn b && decide ((p.share b n).1 ≤ f) && decide (f < (p.share b n).1 + (p.share b n).2) with
    | some b => p.covered c n l fuel ((p.share b n).1 + (p.share b n).2)
    | none => false

/-- A clock that is off is requested (16 R373). -/
def wantClock (p : Part) (key : Nat) : Part :=
  if p.clocks.off.contains key then { p with clocks := { p.clocks with waking := insNat key p.clocks.waking } } else p

end Part

namespace Rd

/-- The command is not the one that this record's operation calls for: nothing happens. -/
def cancel {α : Type} : Rd α := stop (.wait .dataLate .other id)

/-- The declared write ranges (R231): each WHOLE range checked against the grant, by physical die. -/
def writeList (img : Nat) : Rd (List Range) := do
  let n := bits img 24 7
  let bs ← control (bits img 192 64) (8 * n)
  let w ← who
  (pieces 8 n bs).mapM fun b => do
    let e := leNat b
    let (f, l, d) := (bits e 0 18, bits e 18 18, bits e 36 3)
    need (bits e 39 25 == 0 && decide (f ≤ l))
    let p ← part
    if !p.covered w.ctx d l 34 f then addrFault (benchAt d (512 * f)) else
    return { die := p.phys d, first := f, n := l + 1 - f }

/-- The wait of a record (R232): its counter must be enabled for the context. -/
def armWait (img : Nat) : Rd (Option (Nat × Nat × Nat)) := do
  if !bit img 5 then return none else
  let p ← part
  let w ← who
  let d := p.phys (bits img 330 3)
  let k := bits img 320 10
  if p.arrivalEn d k && p.rf .arrivalCfg d k 0 8 == w.ctx then return some (d, k, bits img 288 32)
  else addrFault (benchAt (bits img 330 3) 0)

/-- A read of a table of the context in HBM (03 R61, 11 R251): no grant applies, a stack out of service or asleep does. -/
def table (a n : Nat) : Rd (List Byte) := do
  let p ← part
  let s := stackAt p.hbmMode a
  if hbmEnd < a + n ∨ !p.stackOn s then addrFault a
  else if (p.stack s).asleep then stop (.wait .powerWake (.stack s) (Part.wakeStack s))
  else
    let x := p.hbmFetch a n false .clean
    onPart fun _ => x.2
    if x.1.any Prod.snd then fault 0x0480 else return x.1.map Prod.fst

/-- A seed entry of the context (Table 3-4): SEED and MODE. -/
def seed (idx : Nat) : Rd (Nat × Bool) := do
  let p ← part
  let w ← who
  let e := leNat (← table (p.rv .ctxSeeds 0 w.ctx / 512 * 512 + 32 * idx) 32)
  need (bits e 129 127 == 0)
  return (bits e 0 128, bit e 128)

end Rd

namespace Part

/-- A task placed on an engine: its record issued, counters advanced, its clock requested, its issue reported if it registers nothing. -/
def install (p : Part) (x : Job) (cls : Cls) (e : Nat) (t : Task) : Part :=
  let jg := p.jig
  let jg := match cls with
    | .carrier => { jg with xfer := Tab.put e (Tab.getD jg.xfer e [] ++ [t]) jg.xfer }
    | _ => { jg with eng := Tab.put (engKey cls e) t jg.eng }
  let k := recKey t.job t.rix
  let p := { p with jig := { jg with
    stopped := Tab.del k jg.stopped
    parked := jg.parked.filter fun e => e.1 != k } }
  let p := match p.rec' t.job t.rix with
    | some y => p.setRec t.job t.rix { y with st := .issued, order := t.order, reported := y.reported || t.toReg.isEmpty }
    | none => p
  let home := p.homeDie x.cab
  let p := p.bumpJig home x.ctx 2 1
  let p := if engDie cls e = home then p else p.bumpJig home x.ctx 3 1
  p.wantClock (engKey cls e)

/-- A stopped task resumes on an engine (R238, R221), which takes over its ranges. -/
def resumeTask (p : Part) (x : Job) (cls : Cls) (e : Nat) (t : Task) : Part :=
  let p := { p with bench := { p.bench with sb := Tab.mapV (fun _ (l : List SbRange) =>
    l.map fun (s : SbRange) => if s.owner = t.id then { s with eng := engKey cls e } else s) p.bench.sb } }
  p.install x cls e { t with await := none }

/-- The issue of record (j, r) on class `cls`: the engine reads the descriptor, as `f` says, the write list and the wait; `f` answers the
task, or cancels where the operation belongs to another command. -/
def issue (p : Part) (cls : Cls) (j r : Nat) (st : RdStat) (hw : Cells) (f : Nat → Job → Nat → Rd Task) : Part :=
  match p.liveRec j r with
  | none => p
  | some (x, y) =>
    match p.pick x.ctx x.cab cls with
    | none => p
    | some (j', r', e) =>
      if j' ≠ j ∨ r' ≠ r then p else
      match p.stoppedTask j r with
      | some t => p.resumeTask x cls e t
      | none =>
        let id := p.jig.nextTask + 1
        (p.hostSees hw).engage ⟨x.ctx, x.cab, some (cls, e), earlyKey (recKey j r), r, x.ring⟩ .clean st (fun _ p => p) do
          let t ← f e x y.img
          let rs ← Rd.writeList y.img
          let wt ← Rd.armWait y.img
          Rd.onPart fun p =>
            let n := p.jig.nextIssue
            let p := { p with jig := { p.jig with nextTask := id, nextIssue := n + 1 } }
            p.install x cls e { t with
              id := id, job := j, rix := r, ctx := x.ctx, cab := x.cab, img := y.img, wait := wt, toReg := rs ++ t.toReg, order := n }

/-! ### Work on engines (09 R220, R221) -/

/-- Stall causes in the order of Table 9-5. -/
def stallOrder : List StallCause := [.powerWake, .feedSlip, .stateAbsent, .scoreboard, .remoteWait, .dataLate, .credit]

/-- The index of a cause (Table 9-5). -/
def stallIdx (c : StallCause) : Nat :=
  match c with
  | .dataLate => 0 | .stateAbsent => 1 | .feedSlip => 2 | .scoreboard => 3 | .remoteWait => 4 | .credit => 5 | .powerWake => 6

/-- The causes that the part's state shows for an engine's task: its clock, its registrations, its wait, its reservations. -/
def causesNow (p : Part) (key : Nat) (t : Task) : List StallCause :=
  (if p.clocks.off.contains key then [.powerWake] else []) ++ (if t.toReg.isEmpty then [] else [.scoreboard]) ++
    (if p.waitOver t then [] else [.remoteWait]) ++ (if t.waitPos.isEmpty then [] else [.credit])

/-- A Carrier's next source unit is a region position at or above RSVD: the one wait for data that is a Carrier's stall (Table 9-5). -/
def sourceLate (p : Part) (t : Task) : Bool :=
  match unitAt (srcBlks t.desc) t.next with
  | some (k, b, u) =>
    b.region && decide ((p.region (p.phys b.regionDie) b.regionIdx).rsvd ≤ ((t.src.find? fun s => s.1 == k).map Prod.snd).getD 0 + u)
  | none => false

/-- The cause that a stalled engine counts (R220): the first, in the table's order, of those that its state shows and the one that was
measured, where the engine can have it. -/
def stallOf (p : Part) (cls : Cls) (key : Nat) (t : Task) (measured : StallCause) : Option StallCause :=
  let l := measured :: p.causesNow key t
  stallOrder.find? fun c => l.contains c && c != .feedSlip && c != .stateAbsent && (c != .dataLate || cls != .carrier || p.sourceLate t)

/-- Stall cycles of an engine (R221): counted for real-time contexts, in cycles per engine and in ns per context. -/
def stall (p : Part) (cls : Cls) (e : Nat) (t : Task) (measured : StallCause) (n : Nat) : Part :=
  if n = 0 ∨ !p.realTime t.ctx then p else
  match p.stallOf cls (engKey cls e) t measured with
  | none => p
  | some cause =>
    let k := 16 + stallIdx cause
    let c := t.ctx
    if cls = .carrier ∧ 128 ≤ e then
      (p.bump (frameCtr ((e - 128) / 8) 7 ((e - 128) % 8) k) n).bump (benchCtr ((p.cabDies t.cab).head?.getD 0) 7 c k) (p.frameNs ((e - 128) / 8) n)
    else
      (p.bump (benchCtr (engDie cls e) 2 (engInst cls e) k) n).bump (benchCtr (engDie cls e) (3 + clsCode cls) c k)
        (p.cyclesNs (p.phys (engDie cls e)) n)

/-- What holds an issued task back before it may work: its clock, its registrations, its wait. -/
def taskGate (p : Part) (key : Nat) (t : Task) : Option Stop :=
  if p.clocks.off.contains key then some (.wait .powerWake .other fun p => p.wantClock key)
  else if !t.toReg.isEmpty then some (.wait .scoreboard .reg id)
  else if !p.waitOver t then some (.wait .remoteWait .arrival id)
  else none

/-- One unit of work of a compute engine's task, as `f` says: it answers the task after it. -/
def runUnit (p : Part) (cls : Cls) (e : Nat) (st : RdStat) (ecc : Ecc) (cause : StallCause) (n : Nat) (hw : Cells)
    (f : Task → Rd Task) : Part :=
  match Tab.find (engKey cls e) p.jig.eng with
  | none => p
  | some t =>
    match p.job t.job with
    | none => p
    | some x =>
      if !(p.ctxRuns t.ctx && p.residentOn t.ctx t.cab) || decide (t.units ≤ t.next) then p else
      let p := (p.hostSees hw).stall cls e t cause n
      p.engage ⟨t.ctx, t.cab, some (cls, e), t.id, t.rix, x.ring⟩ ecc st (fun _ p => p) do
        match (← Rd.part).taskGate (engKey cls e) t with
        | some s => Rd.stop s
        | none =>
          let u ← f t
          Rd.onPart fun p => p.mapTask t.id fun v => { u with waitPos := v.waitPos, dst := v.dst, filled := v.filled, got := [] }
          if u.units ≤ u.next then Rd.onPart fun p => p.releaseFills t.id

/-- A write of a task has not reached its owner: it stands in a gate queue or waits for a range, or its remote message is unacknowledged or
held (09 R209). -/
def writesOpen (p : Part) (id : Nat) : Bool :=
  let q := fun (a : QAcc) => match a with
    | .write w _ => w.eng == id
    | _ => false
  let m := fun (m : DtMsg) => m.cls == 2 && m.own == id
  p.bench.banks.any (fun b => b.2.queue.any q || b.2.blocked.any q) || p.bench.waits.any (fun e => q e.2) ||
    p.links.any (fun l => l.2.wait.any m || l.2.replay.any fun f => f.2.any m) || p.join.writes.any m

/-- COMPUTE_TASK_COMPLETE (R235): every unit of the task is done, no region position is owed, and what it wrote has reached its owners. -/
def computeTaskComplete (p : Part) (cls : Cls) (e : Nat) : Part :=
  match Tab.find (engKey cls e) p.jig.eng with
  | none => p
  | some t =>
    if t.next < t.units ∨ !t.toReg.isEmpty ∨ !t.waitPos.isEmpty ∨ p.writesOpen t.id ∨ !(p.ctxRuns t.ctx && p.residentOn t.ctx t.cab) then p else
    let p := { p with jig := { p.jig with eng := Tab.del (engKey cls e) p.jig.eng } }
    let p := p.bumpEng cls e t.ctx 8 1
    let p := if t.zeroOut && cls == .planer then p.bumpEng cls e t.ctx 12 1 else p
    p.completeRec t.job t.rix 0 t.zeroOut false 0

/-- A ready task of the same context for the class, one that the engine could take. -/
def otherReady (p : Part) (t : Task) (cls : Cls) (e : Nat) : Bool :=
  (p.jobsOn t.ctx t.cab).any fun x => (p.jobRecs x.1).any fun y =>
    clsOf (kindOf y.2.img) == some cls && p.recReady x.1 x.2 y.1 y.2 && (p.eligible t.cab cls y.2.img).contains e

end Part

def execRecordFetch (j : Nat) (st : RdStat) (hw : Cells) (s : State) : Host.Outcome State Fault Refusal :=
  onWork s fun p => p.recordFetch j st hw
def execNop (j r : Nat) (s : State) : Host.Outcome State Fault Refusal := onWork s fun p => p.nop j r
def execFence (j r : Nat) (s : State) : Host.Outcome State Fault Refusal := onWork s fun p => p.fence j r
def execComputeTaskComplete (cls : Cls) (e : Nat) (s : State) : Host.Outcome State Fault Refusal :=
  onWork s fun p => p.computeTaskComplete cls e

end Sys2Proof.Machine
end

