-- ==== Sys2Proof/Machine/Tensors.lean ====
section
/-!
DEFINITION. Sys2Proof/Machine/Tensors.lean: what the three compute engines share: tensor, weight and output descriptors (10 Tables 10-7 to 10-9),
reading operands and weights (02 R31 to R41), the output stage with its statistics, sidecars, Assay and Anneal (02 R42 to R55), and
the writing of whole rows (06 R129, 07 R150).
-/

namespace Sys2Proof.Machine
open Sys2Proof

/-- A tensor descriptor (Table 10-7). -/
structure Tens where
  base : Nat
  fmt : Nat
  uns : Bool
  mode : Nat
  c16 : Bool
  zp : Int
  scale : Nat
  pitch : Nat
  line : Nat
  seq : Nat
  deriving DecidableEq, Repr, Inhabited

namespace Tens

def of (b : Nat) : Tens :=
  let uns := !bit b 68 && bits b 64 4 == 8
  { base := bits b 0 64
    fmt := bits b 64 4
    uns := uns
    mode := bits b 69 2
    c16 := bit b 71
    zp := if uns then Int.ofNat (bits b 72 8) else signed 8 (bits b 72 8)
    scale := bits b 128 64
    pitch := bits b 192 32
    line := bits b 224 40
    seq := bits b 264 40 }

def isInt (t : Tens) : Bool := Num.isIntFmt t.fmt

/-- Bytes of `n` packed elements. -/
def bytes (t : Tens) (n : Nat) : Nat := cdiv (n * Num.fmtBits t.fmt) 8

/-- The code that stands for the zero point, or +0. -/
def zeroCode (t : Tens) : Nat := if t.fmt = 11 then unsigned 4 t.zp else if t.fmt = 8 then unsigned 8 t.zp else 0

/-- The fields of any tensor descriptor: an activation format (A4I on the Joiner alone), a scale mode, a zero point in range, and zeros
where the table asks for them. -/
def fieldsOk (c : Cls) (b : Nat) : Bool :=
  let t := of b
  bits b 80 48 == 0 && bits b 304 208 == 0 && Num.isActFmt t.fmt && (t.fmt != 11 || c == .joiner) && t.mode != 3 &&
    (t.fmt != 11 || (decide (-8 ≤ t.zp) && decide (t.zp ≤ 7))) && (t.mode != 0 || t.scale == 0) && (c == .planer || !t.c16)

/-- An output: a float tensor is STATIC, a ROW or HELD one has no zero point (R47). -/
def outputOk (c : Cls) (b : Nat) : Bool :=
  let t := of b
  fieldsOk c b && (t.mode == 0 || (t.isInt && t.zp == 0))

/-- The output stage's settings for a tensor and the held-scale word read at issue. -/
def cfg (t : Tens) (s rnd : Nat) (word : Int) : Num.OutCfg :=
  { fmt := t.fmt, uns := t.uns, rnd := rnd, mode := t.mode, s := s, z := t.zp, k := signed 8 (unsigned 8 word) }

end Tens

/-- Whether an address lies in a Bench store, which is accessed by whole rows. -/
def inBench (a : Nat) : Bool := granule a == 512

/-- An output descriptor (Table 10-9). -/
structure OutDesc where
  m : Nat
  s : Nat
  rnd : Nat
  anneal : Nat
  assay : Nat
  group : Nat
  tensor : Bool
  deriving DecidableEq, Repr, Inhabited

def OutDesc.of (b : Nat) : OutDesc :=
  ⟨bits b 0 64, bits b 64 6, bits b 70 2, bits b 128 64, bits b 192 64, bits b 256 5, bit b 261⟩

/-- The fields of an output descriptor (R45, R50, R52): it goes with output tensor `t`. -/
def OutDesc.ok (t : Tens) (b : Nat) : Bool :=
  let d := OutDesc.of b
  bits b 72 56 == 0 && bits b 262 250 == 0 && d.rnd != 3 && decide (d.group ≤ 16) && d.m % 64 == 0 && Num.annealOk d.anneal &&
    (t.mode == 2 || d.anneal == 0) && (d.assay == 0 || t.isInt)

/-- A weight descriptor (Table 10-8). -/
structure WDesc where
  codes : Nat
  dir : Nat
  side : Nat
  exp : Nat
  fmt : Nat
  deriving DecidableEq, Repr, Inhabited

def WDesc.of (b : Nat) : WDesc := ⟨bits b 0 64, bits b 64 64, bits b 128 64, bits b 192 64, bits b 256 4⟩

/-- Its form and the alignment of R31. -/
def WDesc.ok (b : Nat) : Bool :=
  let w := WDesc.of b
  bits b 260 252 == 0 && Num.isWeightFmt w.fmt && w.codes % (if inBench w.codes then 512 else 64) == 0

namespace Part

/-- The edges between two records of a job, direct or through others, order them (10 R227). -/
def ordered (p : Part) (j r s : Nat) : Bool :=
  let lo := min r s
  let hi := max r s
  let reach := (List.range (hi - lo)).foldl (fun (set : List Nat) i =>
    if set.contains (hi - i) then
      match p.rec' j (hi - i) with
      | some y => set ++ ((edgesOf y.img).filter fun e => e.1 != 0).map fun e => hi - i - e.1
      | none => set
    else set) [hi]
  lo == hi || reach.contains lo

end Part

/-- Whether a task writes in the `n` bytes at `a`. -/
def Task.writesIn (t : Task) (a n : Nat) : Bool :=
  t.outs.any fun (b, pitch, len, c) =>
    let i := if a < b + len then 0 else (a - b - len) / pitch + 1
    decide (i < c) && decide (b + i * pitch < a + n)

namespace Part

/-- A compute task in flight that no edge orders with task `id` writes in the `n` bytes at `a`. -/
def races (p : Part) (id a n : Nat) : Bool :=
  match p.taskOf id with
  | some t => p.jig.eng.any fun e => e.2.id != id && e.2.writesIn a n && !(e.2.job == t.job && p.ordered t.job t.rix e.2.rix)
  | none => false

end Part

/-- A unit of work sees a task's descriptor block `i`. -/
def Task.blk (t : Task) (i : Nat) : Nat := t.desc.getD i 0

/-- The blocks of an output tensor and its descriptor, by record kind (Table 10-6). -/
def outBlocks (kind : Nat) : Nat × Nat := if kind = 5 then (9, 10) else (2, 3)

namespace Rd

/-- Counts an event of the engine at work and of its context. -/
def count (ev n : Nat) : Rd Unit := do
  let w ← who
  match w.eng with
  | some (c, e) => onPart fun p => p.bumpEng c e w.ctx ev n
  | none => return ()

/-- A free value. -/
def free : Rd (BitVec 64) := do
  let p ← part
  onPart fun p => p.free.2
  return p.free.1

/-- A binary32 parameter; one that is no number stands for a free value. -/
def f32 (c : Nat) : Rd F32 :=
  if bits c 23 8 = 255 then do return (Num.f32code (← free).toNat).1 else return (Num.f32code (c % 2 ^ 32)).1

/-- 1 / sqrt; of a number that is not positive, a free value. -/
def rsqrt (x : F32) : Rd F32 :=
  if x ≤ 0 then do return (Num.f32code (← free).toNat).1 else return Num.frsqrt x

/-- The `n` descriptor blocks of a record. -/
def blocks (img n : Nat) : Rd (List Nat) := do return (pieces 64 n (← control (bits img 128 64) (64 * n))).map leNat

/-- The operation named by a descriptor is the command's; another listed one belongs to another command, the rest are reserved. -/
def opIs (op last named : Nat) : Rd Unit :=
  if named = op then return () else if named ≤ last then cancel else fault 0x0401

/-- The seed entry of a task that uses random bits. -/
def seedIf (img : Nat) (used : Bool) : Rd (Option (Nat × Bool)) := do
  if used then return some (← seed (bits img 12 4)) else return none

/-- The held-scale word of an integer HELD tensor, read at issue (R239); a float tensor has no exponent (R41). -/
def heldWord (code : Nat) (t : Tens) : Rd Int := do
  if t.mode = 2 ∧ t.isInt then return Int.ofNat (leNat (← operand code t.scale 4)) else return 0

/-- The exponent k_s of row `r` of an input; 0 for a float tensor (R41). -/
def rowExp (code : Nat) (t : Tens) (word : Int) (r : Nat) : Rd Int := do
  if !t.isInt then return 0
  else if t.mode = 1 then return signed 8 (leNat (← operand code (t.scale + 4 * r) 4))
  else if t.mode = 2 then return signed 8 (unsigned 8 word)
  else return 0

/-- `n` packed codes from an address. -/
def codes (code fmt a n : Nat) : Rd (List Nat) := do
  let b ← operand code a (cdiv (n * Num.fmtBits fmt) 8)
  return (List.range n).map (Num.elemCode fmt b)

/-- `n` free bytes. -/
def freeBytes (n : Nat) : Rd (List Byte) := (List.range n).mapM fun _ => do return (← free).setWidth 8

/-- An operand that an unordered task in flight may be writing: the values read are then undefined, that is free (07 R158, R165). -/
def raced (code a n : Nat) : Rd (List Byte) := do
  let b ← operand code a n
  if (← part).races (← who).task a n then freeBytes n else return b

/-- Codes as operands, NaNs counted. -/
def decode (t : Tens) (l : List Nat) : Rd (List Num.XVal) := do
  let v := l.map (Num.actVal t.fmt t.uns t.zp)
  count 2 (v.filter Prod.snd).length
  return v.map Prod.fst

/-- `n` operands of a token-major row. -/
def row (code : Nat) (t : Tens) (r n : Nat) : Rd (List Num.XVal) := do
  decode t (← codes code t.fmt (t.base + r * t.pitch) n)

/-- BF16 values, read as A16B inputs are. -/
def bf16s (code a n : Nat) : Rd (List F32) := do
  let l ← codes code 10 a n
  let v := l.map Num.bf16
  count 2 (v.filter Prod.snd).length
  return v.map Prod.fst

/-- The M array of an output, one signed 32-bit number per channel. -/
def mArr (a n : Nat) : Rd (List Int) := do return (pieces 4 n (← control a (4 * n))).map fun b => signed 32 (leNat b)

/-- The escape values of the blocks of 4,096 codes (R33), from block `k` on. -/
def escapes (code : Nat) (w : WDesc) : Nat → List (List Nat) → Rd (List F32)
  | _, [] => return []
  | k, b :: rest => do
    let e := leNat (← operand code (w.dir + 8 * k) 8)
    let n := bits e 40 13
    if (b.filter fun c => (Num.weightCode w.fmt c).isNone).length ≠ n then fault 0x0420
    let v ← bf16s code (w.side + 2 * bits e 0 40) n
    return v ++ (← escapes code w (k + 1) rest)

/-- Codes with their escapes filled in, in order. -/
def fillEscapes (fmt : Nat) : List Nat → List F32 → List Num.WVal
  | [], _ => []
  | c :: t, es =>
    match Num.weightCode fmt c with
    | some v => .code v :: fillEscapes fmt t es
    | none => .esc (es.headD 0) :: fillEscapes fmt t es.tail

/-- Codes of a weight array, from its start, as operands (R31 to R35), and the escapes beyond the second of each beat (R34). -/
def weightsOf (code : Nat) (w : WDesc) (l : List Nat) : Rd (List Num.WVal × Nat) := do
  let n := l.length
  if w.fmt = 1 then
    let es ← operand code w.exp (cdiv n 32)
    if es.contains 0xFF then fault 0x0420
    return (l.mapIdx fun i c => .flt (Num.w4f c (es.getD (i / 32) 0).toNat), 0)
  else if Num.hasEscapes w.fmt then
    let es ← escapes code w 0 (pieces 4096 (cdiv n 4096) l)
    let beats := (pieces 64 (cdiv n 64) l).map fun b => (b.filter fun c => (Num.weightCode w.fmt c).isNone).length - 2
    return (fillEscapes w.fmt l es, beats.foldl (· + ·) 0)
  else return (l.map fun c => .code ((Num.weightCode w.fmt c).getD 0), 0)

/-- The first `n` weights of an array. -/
def weights (code : Nat) (w : WDesc) (n : Nat) : Rd (List Num.WVal × Nat) := do weightsOf code w (← codes code w.fmt w.codes n)

/-- One accumulation segment, its saturations counted (R39, R40). -/
def seg (int : Bool) (k : Int) (l : List (Num.WVal × Num.XVal)) : Rd Num.Seg := do
  let s := Num.segOf int k l
  count 0 s.2.1
  count 1 s.2.2
  return s.1

end Rd

/-- A task's statistics with a row's added, under the Assay group of the row (R50, R51). -/
def Task.addStat (t : Task) (d : OutDesc) (row : Nat) (s : Num.RowStat) : Task :=
  let add := fun (a : Stat) => { a with n := a.n + s.n, sats := a.sats + s.sats, sse := a.sse + s.sse, maxc := max a.maxc s.maxc }
  let g := if d.tensor then 0 else row / 2 ^ d.group
  { t with
    total := add t.total
    stats := if d.assay = 0 then t.stats else Tab.put g (add (Tab.getD t.stats g {})) t.stats }

/-- The rounding bit of an element of a row of the task's output (03 R63, R64). -/
def Task.roundBit (t : Task) (row e : Nat) : Bool :=
  match t.seed with
  | some (s, m) => Rand.roundBit ⟨s, m⟩ (bits t.img 256 32) (bits t.img 384 64 + row) e
  | none => false

namespace Rd

/-- One row through the output stage: its codes and its sidecar; `idx` numbers its elements for the rounding bits (03 R64). -/
def emit (t : Task) (o : Num.OutCfg) (d : OutDesc) (row : Nat) (idx : Nat → Nat) (l : List Num.Pre) : Rd (Task × List Nat × Nat) := do
  let r := Num.outRow o (fun i => t.roundBit row (idx i)) l
  count 3 r.2.sats
  return (t.addStat d row r.2, r.1.map Num.OutEl.code, Num.sidecar r.2)

end Rd

/-- Joins writes that follow one another. -/
def coalesce (l : List (Nat × List Byte)) : List (Nat × List Byte) :=
  l.foldr (fun x acc => match acc with
    | y :: rest => if x.1 + x.2.length = y.1 then (x.1, x.2 ++ y.2) :: rest else x :: acc
    | [] => [x]) []

namespace Rd

/-- The sidecars of rows of an output, as (row, sidecar) (R49): those of a ROW tensor stand in the array at SCALE_PTR. The record of a HELD
tensor names no array, its SCALE_PTR being that of the held-scale word, so they are kept beside that word (log entry 77). -/
def putCars (t : Tens) (l : List (Nat × Nat)) : Rd Unit :=
  if t.mode = 1 then storeAll (coalesce (l.map fun x => (t.scale + 4 * x.1, leBytes 4 x.2)))
  else if t.mode = 2 then onPart fun p => { p with cars := l.foldl (fun c x => Tab.put (t.scale * 2 ^ 48 + x.1) x.2 c) p.cars }
  else return ()

end Rd

/-- The address rounded up to a row. -/
def rowUp (a : Nat) : Nat := cdiv a 512 * 512

/-- The write of element block `i` of `total` at `addr i`: in a Bench store with the zeros that complete the rows the tensor touches, as far
as the blocks before and after it. -/
def blockWrite (addr : Nat → Nat) (total i : Nat) (bs : List Byte) : Nat × List Byte :=
  let a := addr i
  let e := a + bs.length
  if !inBench a then (a, bs) else
  let pre := if 0 < i ∧ rowUp (addr (i - 1) + bs.length) ≤ a / 512 * 512 then a % 512 else 0
  let stop := if i + 1 < total then min (rowUp e) (addr (i + 1)) else rowUp e
  (a - pre, rep pre 0 ++ bs ++ rep (stop - e) 0)

/-- The bytes of a row's codes, padded with zero-point codes to `padded` elements. -/
def padded (t : Tens) (n : Nat) (codes : List Nat) : List Byte := Num.packRow t.fmt (codes ++ rep (n - codes.length) t.zeroCode)

namespace Part

/-- The tasks in flight that update the held-scale word at an address (R55); a task of zero outputs makes no update (R53). -/
def annealers (p : Part) (scale : Nat) : List Task :=
  (p.jig.eng.map Prod.snd ++ p.jig.stopped.map Prod.snd).filter fun t =>
    let k := outBlocks (kindOf t.img)
    (clsOf (kindOf t.img)).isSome && kindOf t.img != 3 && !t.zeroOut && (Tens.of (t.blk k.1)).mode == 2 && (Tens.of (t.blk k.1)).scale == scale &&
      bit (OutDesc.of (t.blk k.2)).anneal 44

/-- Counts an Anneal move (R53). -/
def countMove (p : Part) (die c : Nat) (m : Num.AnnealMove) : Part :=
  match m with
  | .none => p
  | .up => p.bumpAnneal die c 0
  | .down => p.bumpAnneal die c 1
  | .clamp => p.bumpAnneal die c 2

end Part

namespace Rd

/-- The end of a task's work: Assay records and the held-scale word (R51, R53, R55). `word` is the held-scale word read at issue.
DESIGN CHOICE (log entry 79): R55 says only that CNT_ANNEAL_RACE advances; it advances once for each task that finishes while another
updater of its word is in flight, at the finishing task's die and context. -/
def finish (code : Nat) (t : Task) (out : Tens) (d : OutDesc) (word : Int) : Rd Unit := do
  let w ← who
  if d.assay ≠ 0 then
    t.stats.forM fun g => do
      let a := d.assay + 16 * g.1
      let r := leNat (← operand code a 16)
      store a (leBytes 16 (Num.assayAdd r ⟨g.2.n, g.2.sats, g.2.sse, g.2.maxc, 0, false⟩))
  if out.mode = 2 ∧ t.total.n ≠ 0 ∧ bit d.anneal 44 then
    let v := unsigned 32 word
    let r := Num.anneal d.anneal (if out.fmt = 11 then 7 else 127) ⟨t.total.n, t.total.sats, t.total.sse, t.total.maxc, 0, false⟩
      (signed 8 v) (bits v 8 12)
    store out.scale (leBytes 4 (Num.heldWord r.1 r.2.1))
    let die := match w.eng with
      | some (c, e) => engDie c e
      | none => 0
    onPart fun p =>
      let p := p.countMove die w.ctx r.2.2
      if 1 < (p.annealers out.scale).length then p.bumpAnneal die w.ctx 3 else p

/-- A buffer of the engine read back (R137, R169): a corrected read is counted as event `ev`, an uncorrectable error faults. -/
def buffer (code ev : Nat) (buf : Ecc) : Rd Unit :=
  match buf with
  | .clean => return ()
  | .corrected => do
    count ev 1
    let w ← who
    onPart fun p => p.recordFault (w.fault 0x0150 0)
  | .uncorrectable => fault code

end Rd

end Sys2Proof.Machine
end

