-- ==== Sys2Proof/Machine/Joiner.lean ====
section
/-!
DEFINITION. Sys2Proof/Machine/Joiner.lean: the Joiner (07_joiner_and_burnisher R148 to R158): matrix products in token blocks, and attention by
sequence. A task's units of work are its token blocks or sequences in order and one last unit for what follows them.
-/

namespace Sys2Proof.Machine
open Sys2Proof

/-- A Joiner's parameters (Table 10-11). -/
structure JoinerPar where
  op : Nat
  segs : Nat
  causal : Bool
  t : Nat
  n : Nat
  batch : Nat
  c : List Nat
  s : Nat
  nseq : Nat
  heads : Nat
  kvh : Nat
  d : Nat
  tq : Nat
  lenPtr : Nat
  seqPitch : Nat
  headPitch : Nat
  mScore : Int
  sScore : Nat
  rScore : Nat
  deriving DecidableEq, Repr, Inhabited

namespace JoinerPar

def of (b : Nat) : JoinerPar :=
  { op := bits b 0 4
    segs := bits b 4 2 + 1
    causal := bit b 6
    t := bits b 8 20 + 1
    n := bits b 28 14 + 1
    batch := bits b 42 12 + 1
    c := (List.range 4).map fun i => bits b (64 + 14 * i) 14 + 1
    s := bits b 128 14 + 1
    nseq := bits b 142 12 + 1
    heads := bits b 154 6 + 1
    kvh := bits b 160 6 + 1
    d := bits b 166 8 + 1
    tq := bits b 174 7 + 1
    lenPtr := bits b 192 64
    seqPitch := bits b 256 32
    headPitch := bits b 288 32
    mScore := signed 32 (bits b 320 32)
    sScore := bits b 352 6
    rScore := bits b 358 2 }

/-- D_PAD (Table 7-3). -/
def dPad (q : JoinerPar) : Nat := 64 * cdiv q.d 64

/-- Elements of an output row. -/
def width (q : JoinerPar) : Nat := if q.op = 0 then q.n else if q.op = 1 then q.s else q.heads * q.dPad

/-- Segments that the operation reads. -/
def segments (q : JoinerPar) : Nat := if q.op = 0 then q.segs else if q.op = 1 then 2 else 3

/-- TB of R152. -/
def tb (q : JoinerPar) : Nat := min 512 (262144 / (128 * cdiv q.width 128))

/-- Token blocks of one product. -/
def blocks (q : JoinerPar) : Nat := cdiv q.t q.tb

/-- Rows of the output tensor. -/
def rows (q : JoinerPar) : Nat := if q.op = 0 then q.t else if q.op = 1 then q.batch * q.t else q.nseq * q.tq

/-- Units of work before the last. -/
def work (q : JoinerPar) : Nat := if q.op = 0 then q.blocks else if q.op = 1 then q.batch * q.blocks else q.nseq

/-- Reserved fields and the ranges that the parameters alone decide (Table 7-3). -/
def ok (q : JoinerPar) (b : Nat) : Bool :=
  !bit b 7 && bits b 54 10 == 0 && bits b 120 8 == 0 && bits b 181 11 == 0 && bits b 360 152 == 0 &&
    (q.op != 2 || (q.heads % q.kvh == 0 && q.seqPitch % 64 == 0 && q.headPitch % 64 == 0 && q.rScore != 3))

end JoinerPar

/-- The operand pairs of a Joiner (Table 7-1), by weight or second operand and activation. -/
def joinerPair (w a : Nat) : Bool :=
  if w = 2 then a == 11 || a == 8
  else if w = 0 ∨ w = 1 then a == 11 || a == 8 || a == 9 || a == 10
  else a == 8 || a == 9 || a == 10

/-- RB and F of a pair (Table 7-1). -/
def joinerRb (w a : Nat) : Nat := if w = 2 ∧ a = 11 then 256 else 128
def joinerF (w a : Nat) : Nat := if a = 10 then 8 else if a = 11 ∨ w = 2 then 1 else 2

namespace Tens

/-- The conditions of R150 on a token-major tensor of `c` channels. -/
def tokenOk (t : Tens) (c : Nat) (output : Bool) : Bool :=
  t.base % (if output && inBench t.base then 512 else 64) == 0 && t.pitch % 64 == 0 && decide (t.bytes (128 * cdiv c 128) ≤ t.pitch)

end Tens

/-- A Joiner task as its units see it: parameters, X_0 to X_3 (A and B; Q, K and V), W_0 to W_3, the output and its descriptor. -/
structure JTask where
  q : JoinerPar
  x : List Tens
  w : List WDesc
  y : Tens
  d : OutDesc
  deriving DecidableEq, Repr, Inhabited

namespace JTask

def of (t : Task) : JTask :=
  ⟨.of (t.blk 0), (span 1 4).map fun i => .of (t.blk i), (span 5 4).map fun i => .of (t.blk i), .of (t.blk 9), .of (t.blk 10)⟩

def xs (v : JTask) (i : Nat) : Tens := v.x.getD i default
def ws (v : JTask) (i : Nat) : WDesc := v.w.getD i default

/-- The format in the weight position of segment `i`. -/
def second (v : JTask) (i : Nat) : Nat := if v.q.op = 0 then (v.ws i).fmt else (v.xs 1).fmt

/-- The checks at issue (R148 to R150, R153, R154, Table 7-3); `e` is the Joiner. -/
def ok (t : Task) (e : Nat) : Bool :=
  let v := of t
  let q := v.q
  let row := 8192
  q.ok (t.blk 0) && Tens.outputOk .joiner (t.blk 9) && OutDesc.ok v.y (t.blk 10) && v.y.tokenOk q.width true &&
    (span q.segments (4 - q.segments)).all (fun i => t.blk (1 + i) == 0) &&
    (List.range q.segments).all (fun i => Tens.fieldsOk .joiner (t.blk (1 + i))) &&
    (if q.op = 0 then
      (List.range q.segs).all (fun i => (v.xs i).tokenOk (q.c.getD i 0) false && WDesc.ok (t.blk (5 + i)) && joinerPair (v.ws i).fmt (v.xs i).fmt &&
        decide (benchAt (engDie .joiner e) 0 ≤ (v.ws i).codes) && decide ((v.ws i).codes < benchAt (engDie .joiner e) (2 ^ 27))) &&
      (span q.segs (4 - q.segs)).all (fun i => t.blk (5 + i) == 0) && (v.y.mode == 0 || decide (q.n ≤ row))
    else (span 5 4).all (fun i => t.blk i == 0)) &&
    (if q.op = 1 then
      (v.xs 0).tokenOk (q.c.getD 0 0) false && (v.xs 1).tokenOk (q.c.getD 0 0) false && ((v.xs 1).fmt == 8 || (v.xs 1).fmt == 9) &&
        joinerPair (v.xs 1).fmt (v.xs 0).fmt && (v.y.mode != 1 || decide (q.s ≤ row))
    else if q.op = 2 then
      (v.xs 0).tokenOk q.width false && ((v.xs 1).fmt == 8 || (v.xs 1).fmt == 9) && ((v.xs 2).fmt == 8 || (v.xs 2).fmt == 9) &&
        joinerPair (v.xs 1).fmt (v.xs 0).fmt && (v.xs 2).mode != 1 && (v.xs 1).base % 64 == 0 && (v.xs 2).base % 64 == 0 &&
        (v.y.mode == 0 || (decide (q.width ≤ row) && decide (q.tq * q.width ≤ 262144)))
    else true)

/-- The LEN entry of sequence `n`: L and POS0. -/
def len (t : Task) (n : Nat) : Nat × Nat := (bits (t.desc.getD (11 + n) 0) 0 16, bits (t.desc.getD (11 + n) 0) 16 32)

def lensOk (v : JTask) (l : List Nat) : Bool :=
  l.all fun e => bits e 48 16 == 0 && decide (bits e 0 16 ≤ 8192) && decide (v.q.tq * bits e 0 16 ≤ 1048576)

/-- Tiles of one token block or product (R152). -/
def tilesOf (v : JTask) : Nat :=
  if v.q.op = 0 then
    ((List.range v.q.segs).map fun i => cdiv v.q.n 128 * cdiv (v.q.c.getD i 0) (joinerRb (v.ws i).fmt (v.xs i).fmt)).foldl (· + ·) 0
  else cdiv v.q.s 128 * cdiv (v.q.c.getD 0 0) 128

/-- Array cycles of a token block of `n` tokens, with the output stage where it is the last of its product (R152). -/
def cycles (v : JTask) (n : Nat) (last : Bool) : Nat :=
  let tiles := (List.range (if v.q.op = 0 then v.q.segs else 1)).map fun i =>
    let a := (v.xs i).fmt
    cdiv v.q.width 128 * cdiv (v.q.c.getD i 0) (joinerRb (v.second i) a) * max (n * joinerF (v.second i) a) 128
  tiles.foldl (· + ·) 0 + (if last then cdiv (n * (128 * cdiv v.q.width 128)) 512 else 0)

/-- Cycles of one (sequence, head) pair of cache length `l` (R157). -/
def pairCycles (v : JTask) (l : Nat) : Nat :=
  if l = 0 then 32 else
  let sb := cdiv l 128 * cdiv v.q.d 128
  32 + sb * 2 * max v.q.tq 8 + v.q.tq * 3 * cdiv l 64 + sb * 8 * max v.q.tq 8

/-- Whether every operand of the task's products is an integer (R38). -/
def int (v : JTask) : Bool :=
  (List.range (if v.q.op = 0 then v.q.segs else 1)).all fun i => (v.xs i).isInt && Num.isIntFmt (v.second i)

end JTask

/-- An activation operand in the weight position. -/
def asWeight (x : Num.XVal) : Num.WVal :=
  match x with
  | .int q => .code q
  | .flt f => .flt f

namespace Rd

/-- Output row `row` of the task, written with the zeros that complete its Bench rows (R150), and its sidecar. -/
def outToken (t : Task) (v : JTask) (total row : Nat) (idx : Nat → Nat) (expand : List Nat → List Nat) (l : List Num.Pre) :
    Rd (Task × List (Nat × List Byte) × List (Nat × Nat)) := do
  let r ← emit t (v.y.cfg v.d.s v.d.rnd (t.held.getD 4 0)) v.d row idx l
  let bs := padded v.y (128 * cdiv v.q.width 128) (expand r.2.1)
  return (r.1, [blockWrite (fun i => v.y.base + i * v.y.pitch) total row bs], [(row, r.2.2)])

/-- Rows are produced in turn, their writes collected and made together. -/
def rowsOut (t : Task) (v : JTask) (rows : List Nat) (f : Task → Nat → Rd (Task × List (Nat × List Byte) × List (Nat × Nat))) :
    Rd Task := do
  let r ← rows.foldlM (fun (x : Task × List (Nat × List Byte) × List (Nat × Nat)) i => do
    let y ← f x.1 i
    return (y.1, x.2.1 ++ y.2.1, x.2.2 ++ y.2.2)) (t, [], [])
  storeAll (coalesce r.2.1)
  putCars v.y r.2.2
  return r.1

/-- A token block of a GEMM (R151, R152). -/
def gemmBlock (t : Task) (v : JTask) : Rd Task := do
  let q := v.q
  let first := t.next * q.tb
  let n := min q.tb (q.t - first)
  let ws ← (List.range q.segs).mapM fun i => do
    let c := q.c.getD i 0
    return (128 * cdiv c 128, ← weights 0x0450 (v.ws i) ((q.n - 1) * (128 * cdiv c 128) + c))
  if t.next = 0 then count 4 ((ws.map fun w => w.2.2).foldl (· + ·) 0)
  let ms ← mArr v.d.m q.n
  let t' ← rowsOut t v (span first n) fun t r => do
    let xs ← (List.range q.segs).mapM fun i => do
      return (← rowExp 0x0450 (v.xs i) (t.held.getD i 0) r, ← row 0x0450 (v.xs i) r (q.c.getD i 0))
    let pres ← (List.range q.n).mapM fun o => do
      let segs ← (ws.zip xs).mapM fun s => seg v.int s.2.1 (s.2.2.mapIdx fun c x => (s.1.2.1.getD (o * s.1.1 + c) (.code 0), x))
      return ⟨Num.merge segs, ms.getD o 0, Num.kMin segs⟩
    outToken t v q.t r id id pres
  count 9 v.tilesOf
  count 10 (v.cycles n (decide (t.next + 1 = q.blocks)))
  return t'

/-- A token block of one pair of an AA (R152, R153). DEDUCED (log entry 81): R152 numbers the rows of A and of the output, b × T + t; the rows
of B are taken likewise, b × S + s. -/
def aaBlock (t : Task) (v : JTask) : Rd Task := do
  let q := v.q
  let b := t.next / q.blocks
  let first := t.next % q.blocks * q.tb
  let n := min q.tb (q.t - first)
  let c := q.c.getD 0 0
  let ms ← mArr v.d.m q.s
  let bs ← (span (b * q.s) q.s).mapM fun r => do
    return (← rowExp 0x0450 (v.xs 1) (t.held.getD 1 0) r, ← row 0x0450 (v.xs 1) r c)
  let t' ← rowsOut t v (span (b * q.t + first) n) fun t r => do
    let k ← rowExp 0x0450 (v.xs 0) (t.held.getD 0 0) r
    let a ← row 0x0450 (v.xs 0) r c
    let pres ← (bs.mapIdx fun o y => (o, y)).mapM fun y => do
      let s ← seg v.int (k + y.2.1) ((y.2.2.zip a).map fun e => (asWeight e.1, e.2))
      return ⟨Num.merge [s], ms.getD y.1 0, s.k⟩
    outToken t v (q.batch * q.t) r id id pres
  count 9 v.tilesOf
  count 10 (v.cycles n (decide (t.next % q.blocks + 1 = q.blocks)))
  return t'

/-- The scores of row `r` of the queries, `x` at exponent `k`, by head `h` against the unmasked key records: the output stage at A16B (R156 step
1). A rounding bit is the row's, at an ELEMENT that R64 leaves open. -/
def scores (t : Task) (v : JTask) (r h : Nat) (k : Int) (x : List Num.XVal) (keys : List (Int × List Num.XVal)) : Rd (List F32) := do
  let pres ← keys.mapM fun y => do
    let s ← seg v.int (k + y.1) ((y.2.zip x).map fun e => (asWeight e.1, e.2))
    return (⟨Num.merge [s], v.q.mScore, s.k⟩ : Num.Pre)
  let o : Num.OutCfg := { fmt := 10, uns := false, rnd := v.q.rScore, mode := 0, s := v.q.sScore, z := 0, k := 0 }
  let r := Num.outRow o (fun i => t.roundBit r (Config.scoreElement h i)) pres
  count 3 r.2.sats
  return r.1.map fun e => (Num.bf16 e.code).1

/-- The key or value records of a pair: exponent and elements per token (R154, R158). -/
def cache (t : Task) (v : JTask) (i n hk l : Nat) : Rd (List (Int × List Num.XVal)) := do
  let x := v.xs i
  let head := if x.mode = 1 then 64 else 0
  (List.range l).mapM fun tk => do
    let a := x.base + n * v.q.seqPitch + hk * v.q.headPitch + tk * (head + v.q.dPad)
    let k ← if x.mode = 1 ∧ x.isInt then (fun b => signed 8 (leNat b)) <$> raced 0x0450 a 4 else rowExp 0x0450 x (t.held.getD i 0) 0
    return (k, ← decode x ((List.range v.q.d).map (Num.elemCode x.fmt (← raced 0x0450 (a + head) (x.bytes v.q.d)))))

/-- The unmasked tokens of query `i` (R155): a prefix of the cache. -/
def unmasked (v : JTask) (l pos i : Nat) : Nat := if v.q.causal then min l (pos + i + 1) else l

/-- One head of one query: X, M and k of its output elements (R156). -/
def attend (t : Task) (v : JTask) (ms : List Int) (n h u : Nat) (i : Nat) (ks vs : List (Int × List Num.XVal)) : Rd (List Num.Pre) := do
  let q := v.q
  let kv := ((vs.head?).map Prod.fst).getD 0
  if u = 0 then return (List.range q.d).map fun d => ⟨0, ms.getD (h * q.dPad + d) 0, kv⟩
  let r := n * q.tq + i
  let k ← rowExp 0x0450 (v.xs 0) (t.held.getD 0 0) r
  let x ← decode (v.xs 0) (← codes 0x0450 (v.xs 0).fmt ((v.xs 0).base + r * (v.xs 0).pitch + (v.xs 0).bytes (h * q.dPad)) q.d)
  let sc ← scores t v r h k x (ks.take u)
  let sm := Num.softmax sc
  count 1 sm.2
  let ps := sm.1.map Num.toA16b
  (List.range q.d).mapM fun d => do
    let s ← seg false kv ((ps.zip (vs.take u)).map fun e => (asWeight (e.2.2.getD d (.int 0)), .flt e.1))
    return ⟨Num.merge [s], ms.getD (h * q.dPad + d) 0, kv⟩

/-- A sequence of an ATTN: every head of every query. -/
def attnSeq (t : Task) (v : JTask) : Rd Task := do
  let q := v.q
  let n := t.next
  let (l, pos) := JTask.len t n
  let ms ← mArr v.d.m q.width
  let kv ← (List.range q.kvh).mapM fun hk => do return (← cache t v 1 n hk l, ← cache t v 2 n hk l)
  let t' ← rowsOut t v (span (n * q.tq) q.tq) fun t r => do
    let i := r - n * q.tq
    let u := unmasked v l pos i
    if u = 0 then count 11 1
    let pres ← (List.range q.heads).mapM fun h => do
      let c := kv.getD (h * q.kvh / q.heads) ([], [])
      attend t v ms n h u i c.1 c.2
    let at' := fun e => e / q.d * q.dPad + e % q.d
    outToken t v (q.nseq * q.tq) r at' (fun cs => (pieces q.d q.heads cs).flatMap fun c => c ++ rep (q.dPad - q.d) v.y.zeroCode) pres.flatten
  count 9 (if l = 0 then 0 else q.heads * (2 * (cdiv l 128 * cdiv q.d 128)))
  count 10 (q.heads * v.pairCycles l)
  return t'

end Rd

namespace Part

/-- The task of record (j, r) with image `img`, as the Joiner reads and checks its descriptor, for operation `op`. -/
def joinerTask (op j r e img : Nat) : Rd Task := do
  let bs ← Rd.blocks img 11
  let t : Task := { id := 0, job := j, rix := r, ctx := 0, cab := 0, img := img, desc := bs }
  let v := JTask.of t
  Rd.opIs op 2 v.q.op
  Rd.need (JTask.ok t e)
  let lb ← if op = 2 then Rd.control v.q.lenPtr (8 * v.q.nseq) else pure []
  let ls := (pieces 8 v.q.nseq lb).map leNat
  Rd.need (v.lensOk ls)
  let sd ← Rd.seedIf img (v.d.rnd == 2 || (op == 2 && v.q.rScore == 2))
  let hs ← (List.range v.q.segments).mapM fun i => Rd.heldWord 0x0450 (v.xs i)
  let ky ← Rd.heldWord 0x0450 v.y
  return { t with
    desc := bs ++ ls, seed := sd, held := hs ++ rep (4 - v.q.segments) 0 ++ [ky], units := v.q.work + 1
    outs := [(v.y.base, v.y.pitch, v.y.bytes (128 * cdiv v.q.width 128), v.q.rows)] }

/-- The issue of a Joiner task whose command names operation `op` (R149). -/
def joinerIssue (p : Part) (op j r : Nat) (st : RdStat) (hw : Cells) : Part :=
  p.issue .joiner j r st hw fun e _ img => joinerTask op j r e img

/-- A unit of a Joiner's work. -/
def joinerUnit (buf : Ecc) (t : Task) : Rd Task := do
  let v := JTask.of t
  if t.next < v.q.work then
    Rd.buffer 0x0450 12 buf
    let u ← if v.q.op = 0 then Rd.gemmBlock t v else if v.q.op = 1 then Rd.aaBlock t v else Rd.attnSeq t v
    return { u with next := t.next + 1 }
  else
    Rd.finish 0x0450 t v.y v.d (t.held.getD 4 0)
    return { t with next := t.next + 1 }

end Part

def execGemm (j r : Nat) (st : RdStat) (hw : Cells) (s : State) : Host.Outcome State Fault Refusal := onWork s fun p => p.joinerIssue 0 j r st hw
def execAa (j r : Nat) (st : RdStat) (hw : Cells) (s : State) : Host.Outcome State Fault Refusal := onWork s fun p => p.joinerIssue 1 j r st hw
def execAttn (j r : Nat) (st : RdStat) (hw : Cells) (s : State) : Host.Outcome State Fault Refusal := onWork s fun p => p.joinerIssue 2 j r st hw

end Sys2Proof.Machine
end

