-- ==== Sys2Proof/Machine/Burnisher.lean ====
section
/-!
DEFINITION. Sys2Proof/Machine/Burnisher.lean: the Burnisher (07_joiner_and_burnisher R159 to R167): elementwise operations, tables, normalisations,
softmax, gathers, dropout and fills. A task's units of work are its rows in order and one last unit for what follows them.
-/

namespace Sys2Proof.Machine
open Sys2Proof

/-- A Burnisher's parameters (Table 10-12). -/
structure BurnPar where
  op : Nat
  bcast : Bool
  neg : Bool
  rows : Nat
  c : Nat
  keep : Nat
  table : Nat
  aux : Nat
  p0 : Nat
  p1 : Nat
  p2 : Nat
  p3 : Nat
  deriving DecidableEq, Repr, Inhabited

namespace BurnPar

def of (b : Nat) : BurnPar :=
  { op := bits b 0 4
    bcast := bit b 4
    neg := bit b 5
    rows := bits b 6 20 + 1
    c := bits b 26 14 + 1
    keep := bits b 40 17
    table := bits b 64 64
    aux := bits b 128 64
    p0 := bits b 192 32
    p1 := bits b 224 32
    p2 := bits b 256 32
    p3 := bits b 288 32 }

/-- Operations of two inputs. -/
def binary (q : BurnPar) : Bool := decide (q.op < 4)
def fills (q : BurnPar) : Bool := q.op == 11 || q.op == 12
def gathers (q : BurnPar) : Bool := q.op == 9

/-- GATHER's parameters (Table 10-12). -/
def entries (q : BurnPar) : Nat := q.p0
def entryBytes (q : BurnPar) : Nat := bits q.p1 0 24
def entryPitch (q : BurnPar) : Nat := q.p2

/-- Cost per row (Table 7-4). -/
def cost (q : BurnPar) : Nat :=
  if q.op = 9 then cdiv q.entryBytes 512
  else cdiv q.c 64 * (if q.op = 6 ∨ q.op = 12 then 2 else if q.op = 7 ∨ q.op = 8 then 3 else 1)

end BurnPar

/-- A Burnisher task as its units see it: parameters, a, b, the output and its descriptor. -/
structure BTask where
  q : BurnPar
  a : Tens
  b : Tens
  y : Tens
  d : OutDesc
  deriving DecidableEq, Repr, Inhabited

namespace BTask

def of (t : Task) : BTask := ⟨.of (t.blk 0), .of (t.blk 1), .of (t.blk 2), .of (t.blk 3), .of (t.blk 4)⟩

/-- A LUT of codes (R162): no output stage runs. -/
def codeLut (v : BTask) : Bool := v.q.op == 5 && v.a.fmt == 8

/-- No output stage runs, so that the task has no output descriptor. -/
def copies (v : BTask) : Bool := v.q.gathers || v.codeLut

/-- The checks at issue (R149 to R150, R159 to R167). DESIGN CHOICE (log entry 82): an ENTRY_BYTES above the output's PITCH, which R165 does
not limit, would put one row over the next, and is malformed. -/
def ok (t : Task) : Bool :=
  let v := of t
  let q := v.q
  let input := fun i (x : Tens) => Tens.fieldsOk .burnisher (t.blk i) && x.tokenOk q.c false
  bits (t.blk 0) 57 7 == 0 && bits (t.blk 0) 320 192 == 0 && Tens.outputOk .burnisher (t.blk 3) && v.y.tokenOk q.c true &&
    (v.y.mode != 1 || decide (q.c ≤ 8192)) && (if v.copies then t.blk 4 == 0 else OutDesc.ok v.y (t.blk 4)) &&
    (if q.fills then t.blk 1 == 0
     else if q.gathers then t.blk 1 == 0 || (Tens.fieldsOk .burnisher (t.blk 1) && v.a.fmt == v.y.fmt && v.a.uns == v.y.uns && v.a.zp == v.y.zp &&
       v.a.mode == v.y.mode)
     else input 1 v.a) &&
    (if q.binary then input 2 v.b && v.a.isInt == v.b.isInt else t.blk 2 == 0) &&
    (q.op != 5 || (if v.a.fmt = 8 then v.a.mode == 0 && v.y.mode == 0 && Num.fmtBits v.y.fmt == 8 else v.a.fmt == 10)) &&
    (!q.gathers || (v.y.mode != 1 && q.entryPitch % 64 == 0 && decide (q.entryBytes ≤ q.entryPitch) && decide (q.entryBytes ≤ v.y.pitch))) &&
    (q.op != 10 || decide (q.keep ≤ 65536))

end BTask

namespace Rd

/-- An integer accumulation that one element forms, or a float one. -/
def element (v : BTask) (m : Int) (k : Int) (acc : Int) : Num.Pre :=
  let s : Num.Seg := if v.a.isInt && !v.q.fills then ⟨true, acc, 0, k⟩ else ⟨false, acc, 0, k⟩
  ⟨Num.merge [s], m, k⟩

/-- Float results enter the output stage as float accumulations. -/
def floats (ms : List Int) (ys : List F32) : List Num.Pre :=
  ys.mapIdx fun c y => ⟨Num.merge [⟨false, y, 0, 0⟩], ms.getD c 0, 0⟩

/-- The integer accumulation of ADD, MUL, MAX and MIN and its exponent (R161), and whether the exponents' difference was limited. -/
def intOp (q : BurnPar) (ka kb x y : Int) : Int × Int × Bool :=
  if q.op = 1 then (x * y, ka + kb, false) else
  let k := if ka < kb then ka else kb
  let da := (ka - k).toNat
  let db := (kb - k).toNat
  let x := x * 2 ^ min da 22
  let y := y * 2 ^ min db 22
  (if q.op = 0 then (if q.neg then x - y else x + y) else if q.op = 2 then (if x < y then y else x) else (if y < x then y else x),
    k, decide (22 < da ∨ 22 < db))

/-- The float result of ADD, MUL, MAX and MIN (R161), and whether it saturated. -/
def fltOp (q : BurnPar) (x y : F32) : F32 × Bool :=
  if q.op = 0 then Num.roundG (if q.neg then x - y else x + y) 149
  else if q.op = 1 then Num.roundG (x * y) 298
  else if q.op = 2 then (if x < y then y else x, false) else (if y < x then y else x, false)

/-- Values of a row for softmax and normalisations: integer codes as (q - z) * 2^k, exact (R163, R164). -/
def rowVals (k : Int) (l : List Num.XVal) : List F32 :=
  l.map fun x => match x with
    | .int q => if 0 ≤ 149 + k then q * 2 ^ (149 + k).toNat else 0
    | .flt f => f

/-- Sum of a row, or of its squares (R164 steps 1 and 2). -/
def rowSum (k : Int) (square : Bool) (l : List Num.XVal) : F32 × Nat :=
  let ints := l.filterMap fun x => match x with
    | .int q => some (if square then q * q else q)
    | .flt _ => none
  if ints.length = l.length then (Num.fscale (Num.fint (ints.foldl (· + ·) 0)) (if square then 2 * k else k), 0)
  else
    let fs := l.map Num.XVal.val
    if square then Num.accFloat (fs.map fun f => (.flt f, .flt f)) else Num.fsum fs

/-- The gamma or beta vector of a norm; a null pointer stands for `d`. -/
def normVec (a c : Nat) (d : F32) : Rd (List F32) := if a = 0 then return rep c d else bf16s 0x0460 a c

/-- RMSNORM and LAYERNORM (R164). -/
def norm (v : BTask) (k : Int) (l : List Num.XVal) : Rd (List F32) := do
  let q := v.q
  let n := Num.fint (Int.ofNat q.c)
  let g ← normVec q.table q.c (2 ^ 149)
  let eps ← f32 q.p0
  let xs := rowVals k l
  if q.op = 6 then
    let s := rowSum k true l
    count 1 s.2
    let r ← rsqrt (Num.fadd (Num.fdiv s.1 n) eps)
    return (xs.zip g).map fun e => Num.fmul (Num.fmul e.1 r) e.2
  else
    let be ← normVec q.aux q.c 0
    let s := rowSum k false l
    let mu := Num.fdiv s.1 n
    let ds := xs.map fun x => Num.fsub x mu
    let ss := Num.accFloat (ds.map fun d => (.flt d, .flt d))
    count 1 (s.2 + ss.2)
    let r ← rsqrt (Num.fadd (Num.fdiv ss.1 n) eps)
    return (ds.zip (g.zip be)).map fun e => Num.fadd (Num.fmul (Num.fmul e.1 r) e.2.1) e.2.2

/-- An A16B table look-up (R162). -/
def lutFloat (v : BTask) (tab : List Byte) (x : F32) : Rd F32 := do
  let q := v.q
  let at' := fun i => f32 (leNat ((tab.drop (4 * i)).take 4))
  let e := signed 5 (bits q.p1 0 5)
  let lo ← f32 q.p0
  let dx := Num.fsub x lo
  let y := Num.fscale dx (-e)
  if y < 0 then return Num.fadd (← at' 0) (Num.fmul dx (← f32 q.p2))
  else if y < Num.ofInt 256 then
    let i := (Num.ffloor y).toNat
    let f := y - Num.ofInt (Int.ofNat i)
    let a ← at' i
    let b ← at' (i + 1)
    return Num.fadd a (Num.fmul f (Num.fsub b a))
  else
    let hi := lo + 2 ^ (149 + 8 + e).toNat
    return Num.fadd (← at' 256) (Num.fmul (Num.fsub x hi) (← f32 q.p3))

/-- A random fill (R167). -/
def fillRow (t : Task) (v : BTask) (r : Nat) : Rd (List F32) := do
  let q := v.q
  let sd : Rand.Seed := match t.seed with
    | some (s, m) => ⟨s, m⟩
    | none => default
  let strm := bits t.img 256 32
  let stp := bits t.img 384 64 + r
  let a ← f32 q.p0
  let b ← f32 q.p1
  return (List.range q.c).map fun c =>
    if q.op = 11 then
      Num.fadd a (Num.fmul (Num.fscale (Num.fint (Int.ofNat (Rand.uniform sd strm stp c))) (-32)) b)
    else
      let u := Rand.uniform2 sd strm stp c
      let w1 := Num.fscale (Num.roundF (2 * Int.ofNat u.1 + 1) 1).1 (-32)
      let rho := Num.fsqrt (-2 * Num.fln w1)
      let z := Num.fmul rho (Num.fcospi (Num.fscale (Num.fint (Int.ofNat u.2)) (-31)))
      Num.fadd a (Num.fmul b z)

/-- The elements of an output row on their way to the output stage. -/
def burnRow (t : Task) (v : BTask) (r : Nat) (ms : List Int) : Rd (List Num.Pre) := do
  let q := v.q
  if q.fills then return floats ms (← fillRow t v r)
  let ka ← rowExp 0x0460 v.a (t.held.getD 0 0) r
  let xs ← row 0x0460 v.a r q.c
  if q.binary then
    let rb := if q.bcast then 0 else r
    let kb ← rowExp 0x0460 v.b (t.held.getD 1 0) rb
    let ys ← row 0x0460 v.b rb q.c
    (((xs.zip ys).mapIdx fun c e => (c, e)).mapM fun e =>
      match e.2.1, e.2.2 with
      | .int x, .int y => do
        let o := intOp q ka kb x y
        if o.2.2 then count 10 1
        return element v (ms.getD e.1 0) o.2.1 (clampI (-2 ^ 31) (2 ^ 31 - 1) o.1)
      | x, y => do
        let o := fltOp q x.val y.val
        count 1 (b2n o.2)
        return element v (ms.getD e.1 0) 0 o.1)
  else if q.op = 4 ∨ q.op = 10 then
    let sd : Rand.Seed := match t.seed with
      | some (s, m) => ⟨s, m⟩
      | none => default
    let kept := fun c => q.op = 4 || decide (Rand.dropout sd (bits t.img 256 32) (bits t.img 384 64 + r) c < q.keep)
    count 12 ((List.range q.c).filter fun c => !kept c).length
    return xs.mapIdx fun c x => element v (ms.getD c 0) ka (if kept c then (match x with
      | .int i => i
      | .flt f => f) else 0)
  else if q.op = 5 then
    let tab ← operand 0x0460 q.table 1028
    return floats ms (← xs.mapM fun x => lutFloat v tab x.val)
  else if q.op = 8 then
    let sc ← decode { v.a with fmt := 10 } [bits q.p0 0 16]
    let f := ((sc.head?).map Num.XVal.val).getD 0
    let sm := Num.softmax ((rowVals ka xs).map fun x => Num.fmulZ x f)
    count 1 sm.2
    return floats ms sm.1
  else return floats ms (← norm v ka xs)

/-- The sidecar of a gathered row: the table's K, and ZERO where every code is (R165, log entry 77). -/
def gatherCar (word : Int) (bs : List Byte) : Nat := unsigned 8 word + b2n (bs.all fun b => b == 0) * 2 ^ 8

/-- The bytes of a row of codes that no output stage makes: LUT of codes, GATHER (R162, R165). -/
def copyRow (v : BTask) (r : Nat) : Rd (List Byte) := do
  let q := v.q
  let n := v.y.bytes (128 * cdiv q.c 128)
  let pad := fun (l : List Byte) => l ++ (padded v.y (128 * cdiv q.c 128) []).drop l.length
  if q.gathers then
    let i := leNat (← operand 0x0460 (q.aux + 4 * r) 4)
    if q.entries ≤ i then
      count 11 1
      return pad []
    else return pad (← raced 0x0460 (q.table + i * q.entryPitch) q.entryBytes)
  else
    let tab ← operand 0x0460 q.table 256
    let cs ← codes 0x0460 v.a.fmt (v.a.base + r * v.a.pitch) q.c
    let l := cs.map fun c => tab.getD (if v.a.uns then c else (c + 128) % 256) 0
    return (pad l).take n

/-- A row of a Burnisher task. -/
def burnUnit (t : Task) (v : BTask) (r : Nat) : Rd Task := do
  let q := v.q
  let place := fun (bs : List Byte) => blockWrite (fun i => v.y.base + i * v.y.pitch) q.rows r bs
  let u ←
    if v.copies then do
      let bs ← copyRow v r
      storeAll [place bs]
      if q.gathers then putCars v.y [(r, gatherCar (t.held.getD 0 0) bs)]
      pure t
    else do
      let ms ← mArr v.d.m q.c
      let pres ← burnRow t v r ms
      let x ← emit t (v.y.cfg v.d.s v.d.rnd (t.held.getD 2 0)) v.d r id pres
      storeAll [place (padded v.y (128 * cdiv q.c 128) x.2.1)]
      putCars v.y [(r, x.2.2)]
      pure x.1
  count 9 q.cost
  return u

end Rd

namespace Part

/-- The task of record (j, r) with image `img`, as the Burnisher reads and checks its descriptor, for operation `op`. -/
def burnTask (op j r img : Nat) : Rd Task := do
  let bs ← Rd.blocks img 5
  let t : Task := { id := 0, job := j, rix := r, ctx := 0, cab := 0, img := img, desc := bs }
  let v := BTask.of t
  Rd.opIs op 12 v.q.op
  Rd.need (BTask.ok t)
  let sd ← Rd.seedIf img ((!v.copies && v.d.rnd == 2) || op == 10 || v.q.fills)
  let ka ← if v.q.fills then pure 0 else Rd.heldWord 0x0460 (if v.q.gathers && t.blk 1 == 0 then v.y else v.a)
  let kb ← if v.q.binary then Rd.heldWord 0x0460 v.b else pure 0
  let ky ← Rd.heldWord 0x0460 v.y
  return { t with
    seed := sd, held := [ka, kb, ky], units := v.q.rows + 1
    outs := [(v.y.base, v.y.pitch, v.y.bytes (128 * cdiv v.q.c 128), v.q.rows)] }

/-- The issue of a Burnisher task whose command names operation `op` (R159). -/
def burnIssue (p : Part) (op j r : Nat) (st : RdStat) (hw : Cells) : Part :=
  p.issue .burnisher j r st hw fun _ _ img => burnTask op j r img

/-- A unit of a Burnisher's work: the next row, or what is due once at the end. -/
def burnisherUnit (buf : Ecc) (t : Task) : Rd Task := do
  let v := BTask.of t
  if t.next < v.q.rows then
    Rd.buffer 0x0460 13 buf
    let u ← Rd.burnUnit t v t.next
    return { u with next := t.next + 1 }
  else
    Rd.finish 0x0460 t v.y v.d (t.held.getD 2 0)
    if v.q.gathers && v.y.mode == 2 then Rd.store v.y.scale (leBytes 1 (unsigned 8 (t.held.getD 0 0)))
    return { t with next := t.next + 1 }

end Part

def execAdd (j r : Nat) (st : RdStat) (hw : Cells) (s : State) : Host.Outcome State Fault Refusal := onWork s fun p => p.burnIssue 0 j r st hw
def execMul (j r : Nat) (st : RdStat) (hw : Cells) (s : State) : Host.Outcome State Fault Refusal := onWork s fun p => p.burnIssue 1 j r st hw
def execMax (j r : Nat) (st : RdStat) (hw : Cells) (s : State) : Host.Outcome State Fault Refusal := onWork s fun p => p.burnIssue 2 j r st hw
def execMin (j r : Nat) (st : RdStat) (hw : Cells) (s : State) : Host.Outcome State Fault Refusal := onWork s fun p => p.burnIssue 3 j r st hw
def execConvert (j r : Nat) (st : RdStat) (hw : Cells) (s : State) : Host.Outcome State Fault Refusal := onWork s fun p => p.burnIssue 4 j r st hw
def execLut (j r : Nat) (st : RdStat) (hw : Cells) (s : State) : Host.Outcome State Fault Refusal := onWork s fun p => p.burnIssue 5 j r st hw
def execRmsnorm (j r : Nat) (st : RdStat) (hw : Cells) (s : State) : Host.Outcome State Fault Refusal := onWork s fun p => p.burnIssue 6 j r st hw
def execLayernorm (j r : Nat) (st : RdStat) (hw : Cells) (s : State) : Host.Outcome State Fault Refusal := onWork s fun p => p.burnIssue 7 j r st hw
def execSoftmax (j r : Nat) (st : RdStat) (hw : Cells) (s : State) : Host.Outcome State Fault Refusal := onWork s fun p => p.burnIssue 8 j r st hw
def execGather (j r : Nat) (st : RdStat) (hw : Cells) (s : State) : Host.Outcome State Fault Refusal := onWork s fun p => p.burnIssue 9 j r st hw
def execDropout (j r : Nat) (st : RdStat) (hw : Cells) (s : State) : Host.Outcome State Fault Refusal := onWork s fun p => p.burnIssue 10 j r st hw
def execFillUniform (j r : Nat) (st : RdStat) (hw : Cells) (s : State) : Host.Outcome State Fault Refusal := onWork s fun p => p.burnIssue 11 j r st hw
def execFillNormal (j r : Nat) (st : RdStat) (hw : Cells) (s : State) : Host.Outcome State Fault Refusal := onWork s fun p => p.burnIssue 12 j r st hw

end Sys2Proof.Machine
end

