-- ==== Sys2Proof/Machine/Carriers.lean ====
section
/-!
DEFINITION. Sys2Proof/Machine/Carriers.lean: Carrier transfers (09_carriers_and_prefetch): the block list and its checks, the source stream read
unit by unit (a line, or a row of a region), destination pieces written as their bytes are complete, SHARED transfers, completion.
-/

namespace Sys2Proof.Machine
open Sys2Proof

namespace Rd

/-- Reads a block list and checks it (R205, R206). -/
def blockList (a : Nat) : Rd (List Nat) := do
  let h ← controlNat a 32
  let n := bits h 0 9
  let m := bits h 16 9
  need (bits h 9 7 == 0 && bits h 25 7 == 0 && bits h 34 6 == 0 && bits h 48 16 == 0 && bits h 104 152 == 0 &&
    decide (1 ≤ n) && decide (n ≤ 256) && decide (1 ≤ m) && decide (m ≤ 256))
  let bs ← control (a + 32) (32 * (n + m))
  let desc := h :: (pieces 32 (n + m) bs).map leNat
  need (listOk desc)
  return desc

/-- The address fault or the malformed-record fault of a destination region (08 R190, R194). -/
def regionsOk (desc : List Nat) : Rd Unit := do
  let w ← who
  let p ← part
  (dstRegions desc).forM fun x => do
    if !p.regionOk w.ctx x.2.1 x.2.2.1 then addrFault (benchAt x.2.1 (512 * p.regionBase (p.phys x.2.1) x.2.2.1))
    need (decide (x.2.2.2 ≤ p.regionSize (p.phys x.2.1) x.2.2.1))
  (srcBlks desc).forM fun b => do
    if b.region && !p.regionOk w.ctx b.regionDie b.regionIdx then
      addrFault (benchAt b.regionDie (512 * p.regionBase (p.phys b.regionDie) b.regionIdx))

/-- Every die of a SHARED transfer lies in the context's grant (R215). -/
def sharedOk (desc : List Nat) : Rd Unit := do
  let w ← who
  let p ← part
  (sharedDies desc).forM fun n => do
    if !(p.heldCabs w.ctx).any fun b => (p.cabDies b).contains n then addrFault (benchAt n 0)

end Rd

namespace Part

/-- Puts a task on further Carriers of its transfer. -/
def alsoOn (p : Part) (es : List Nat) (t : Task) : Part :=
  es.foldl (fun p e => { p with jig := { p.jig with xfer := Tab.put e (Tab.getD p.jig.xfer e [] ++ [t]) p.jig.xfer } }) p

/-- A Carrier task whose list cannot run yet waits for its Carriers, in order of arrival (R204, R217). -/
def park (p : Part) (k : Nat) (desc : List Nat) : Part :=
  if p.jig.parked.any fun e => e.1 == k then p else { p with jig := { p.jig with parked := p.jig.parked ++ [(k, desc)] } }

/-- A stopped transfer resumes on Carriers (R212): the list as read again, from the line at which it stopped. -/
def resumeCarrier (p : Part) (x : Job) (es : List Nat) (t : Task) (desc : List Nat) : Part :=
  match es with
  | [] => p
  | e :: rest =>
    let at' := match unitAt (srcBlks t.desc) t.next with
      | some (k, b, u) => (k, if b.region then 0 else u)
      | none => ((srcBlks t.desc).length, 0)
    let t := t.onList e desc
    let t := { t with next := unitOf (srcBlks desc) at'.1 at'.2 }
    (p.resumeTask x .carrier e t).alsoOn rest { t with await := none }

/-- A new transfer is outstanding on its Carriers: its ranges wait to be registered, its regions' rows are asked for (R206, R208). -/
def startCarrier (p : Part) (x : Job) (es : List Nat) (t : Task) (desc : List Nat) (rs : List Range) : Part :=
  match es with
  | [] => p
  | e :: rest =>
    let id := p.jig.nextTask + 1
    let wait : List Range := (dstRegions desc).map fun g => { die := p.phys g.2.1, first := g.1, n := g.2.2.2, region := some g.2.2.1 }
    let t := { t.onList e desc with
      id := id, toReg := rs, waitPos := wait, order := p.jig.nextIssue
      src := srcStarts (fun n i => (p.region (p.phys n) i).head) (srcBlks desc) 0 [] }
    let p := { p with jig := { p.jig with nextTask := id, nextIssue := p.jig.nextIssue + 1 } }
    let p := (p.install x .carrier e t).alsoOn rest t
    wait.foldl (fun p g => p.reserve g.die (g.region.getD 0) id g.n) p

/-- A Carrier task is taken up: its list is read and checked (again on a resume, R212), and it runs where its Carriers are free, or waits. -/
def carrierTake (x : Job) (y : Rec) (j r : Nat) (old : Option Task) : Rd Unit := do
  let p ← Rd.part
  let desc ← match p.parkedList j r with
    | some l => pure l
    | none => Rd.blockList (bits y.img 128 64)
  Rd.sharedOk desc
  Rd.need (decide (listRanges y.img desc ≤ 64))
  let p ← Rd.part
  match p.carriersNow x.cab j r y.img desc, old with
  | none, _ => Rd.onPart fun p => p.park (recKey j r) desc
  | some es, some t => Rd.onPart fun p => p.resumeCarrier x es t desc
  | some es, none =>
    Rd.regionsOk desc
    let rs := p.sharedRanges desc (← Rd.writeList y.img)
    let wt ← Rd.armWait y.img
    Rd.onPart fun p => p.startCarrier x es { id := 0, job := j, rix := r, ctx := x.ctx, cab := x.cab, img := y.img, wait := wt } desc rs

/-- Record (j, r) is taken up by Carrier `e`. -/
def carrierOn (p : Part) (x : Job) (y : Rec) (j r e : Nat) (st : RdStat) : Part :=
  p.engage ⟨x.ctx, x.cab, some (.carrier, e), earlyKey (recKey j r), r, x.ring⟩ .clean st (fun _ p => p)
    (carrierTake x y j r (p.stoppedTask j r))

/-- CARRIER: the Carrier task that the Jig takes next. -/
def carrierIssue (p : Part) (j r : Nat) (st : RdStat) (hw : Cells) : Part :=
  match p.liveRec j r with
  | none => p
  | some (x, y) =>
    match p.pick x.ctx x.cab .carrier with
    | none => p
    | some (j', r', e) => if j' ≠ j ∨ r' ≠ r then p else (p.hostSees hw).carrierOn x y j r e st

/-! ### Moving bytes (R206, R207, R211) -/

/-- The address on die `n` of a SHARED transfer's destination. -/
def onShared (low n a : Nat) : Nat := a - benchAt low 0 + benchAt n 0

/-- Where the piece of the destination that starts at stream offset `o` lands: its length, its addresses, the zero padding after it, its
arrival counter, whether it is host memory. None while a region position is not reserved. -/
def dstPiece (p : Part) (t : Task) (o : Nat) : Option (Nat × List Nat × Nat × Option Nat × Bool) :=
  match dstAt (dstBlks t.desc) o with
  | none => none
  | some (k, b, i, off) =>
    let dies := if t.dies = [] then [b.regionDie] else t.dies
    if b.region then
      let n := min (b.len - off) (512 - off % 512)
      let pad := if off + n = b.len then 512 - (off % 512 + n) else 0
      (dies.mapM fun d => ((t.dst.find? fun x => x.1 == p.phys d && x.2.1 == k).map fun x =>
        p.posAddr d b.regionIdx (x.2.2 + off / 512) + off % 512)).map fun l => (n, l, pad, b.arrival, false)
    else
      let a := unsigned 64 (Int.ofNat (b.line i) + Int.ofNat off)
      let g := granule a
      let n := if bit a 63 then b.len - off else min (b.len - off) (g - a % g)
      let l := if t.dies = [] then [a] else t.dies.map fun d => onShared (listLow t.desc) d a
      some (n, l, 0, b.arrival, bit a 63)

end Part

namespace Rd

/-- Writes every destination piece whose bytes are all buffered; `o` is the stream offset of the buffer's first byte. The present source line
starts at `line`; `whole` says that all of it has come, `bad` that some of it is poisoned. No byte of a poisoned line goes to the host (R211), so
none goes there before the line is whole. -/
def flush (t : Task) (line : Nat) (whole bad : Bool) : Nat → Nat → Rd Unit
  | 0, _ => return ()
  | fuel + 1, o => do
    let p ← part
    let u := { t with dst := ((p.taskOf t.id).map Task.dst).getD t.dst }
    let keep : Rd Unit := onPart fun p => p.mapTask t.id fun v => { v with buf := t.buf }
    if t.buf.isEmpty then keep else
    match p.dstPiece u o with
    | none => stop (.wait .credit .room id)
    | some (n, addrs, pad, arr, host) =>
      if t.buf.length < n ∨ (host ∧ line < o + n ∧ !whole) then keep
      else
        let now := t.buf.take n
        let poison := now.any Prod.snd
        if host && (poison || (bad && decide (line < o + n))) then fault 0x0470
        let bs := now.map Prod.fst ++ rep pad 0
        addrs.forM fun a => canWrite a bs.length
        addrs.forM fun a => write a bs poison arr
        flush { t with buf := t.buf.drop n } line whole bad fuel (o + n)

/-- The device addresses of HBM that unit `u` of a block reads for the further dies of a transfer in shared-cache mode (R216). -/
def readMore (t : Task) (a n : Nat) : Rd Unit := do
  if !t.mcast ∧ bit a 63 = false ∧ a < hbmEnd then
    t.dies.tail.forM fun _ => onPart fun p => p.readAgain a n

/-- Reads the next source unit of a transfer: its bytes, each with poison. -/
def sourceUnit (t : Task) : Rd (List (Byte × Bool)) := do
  match unitAt (srcBlks t.desc) t.next with
  | none => return []
  | some (k, b, u) =>
    let alloc := listShared t.desc || bit (t.desc.headD 0) 33
    if b.region then
      let p ← part
      let d := p.phys b.regionDie
      let x := p.region d b.regionIdx
      let pos := ((t.src.find? fun s => s.1 == k).map Prod.snd).getD 0 + u
      if x.rsvd ≤ pos then stop (.wait .dataLate (.upTo d b.regionIdx pos) id)
      else if x.tail ≤ pos then stop (.wait .scoreboard (.upTo d b.regionIdx pos) id)
      else
        let l ← readEach (p.posAddr b.regionDie b.regionIdx pos) (min 512 (b.len - 512 * u))
        if !p.crowded d b.regionIdx then return l else
        let f := ((← part).frees l.length 8).1
        onPart fun p => (p.frees l.length 8).2
        return (f.map (BitVec.ofNat 8)).zip (l.map Prod.snd)
    else
      let l ← readEach (b.line u) b.len alloc
      readMore t (b.line u) b.len
      return l

end Rd

namespace Part

/-- The transfer a Carrier works on: the first in issue order with source data or buffered bytes left. -/
def working (p : Part) (e : Nat) : Option Task :=
  (Tab.getD p.jig.xfer e []).find? fun t => decide (t.next < t.units) || !t.buf.isEmpty

/-- The Carrier whose identity a transfer's ranges have. -/
def homeCarrier (p : Part) (id : Nat) : Nat :=
  match p.jig.xfer.find? fun x => x.2.any fun t => t.id == id with
  | some x => x.1
  | none => 0

/-- The present source line of a transfer: the stream offset of its first byte, and whether its next unit is its last. -/
def lineNow (t : Task) : Nat × Bool :=
  match unitAt (srcBlks t.desc) t.next with
  | some (_, b, u) => if b.region then (unitOffset (srcBlks t.desc) (t.next - u), u + 1 == b.units) else (unitOffset (srcBlks t.desc) t.next, true)
  | none => (listTotal t.desc, true)

/-- A step of a transfer: the next source unit is read and what is complete is written; a line that forwards poison counts once (R211). -/
def carrierStep (t : Task) (key : Nat) : Rd Unit := do
  match (← Rd.part).taskGate key t with
  | some s => Rd.stop s
  | none =>
    let bs ← Rd.sourceUnit t
    let w ← Rd.who
    let line := lineNow t
    let bad := t.lineBad || bs.any Prod.snd
    let u := { t with next := min (t.next + 1) t.units, buf := t.buf ++ bs }
    Rd.onPart fun p => p.mapTask t.id fun v => { v with next := u.next, got := [], lineBad := bad && !line.2 }
    Rd.flush u line.1 line.2 bad (u.buf.length + 1) t.wroteTo
    if bad && !t.lineBad then
      Rd.onPart fun p => p.bumpCarrier ((w.eng.map Prod.snd).getD 0) ((p.cabDies w.cab).head?.getD 0) w.ctx 11 1
    if u.units ≤ u.next then Rd.onPart fun p => p.releaseFills t.id

/-- CARRIER_DATA_ARRIVE. -/
def carrierDataArrive (p : Part) (e : Nat) (st : RdStat) (ecc : Ecc) (cause : StallCause) (n : Nat) (hw : Cells) : Part :=
  match p.working e with
  | none => p
  | some t =>
    match p.job t.job with
    | none => p
    | some x =>
      if !(p.ctxRuns t.ctx && p.residentOn t.ctx t.cab) then p else
      let h := p.homeCarrier t.id
      let p := (p.hostSees hw).stall .carrier e t cause n
      p.engage ⟨t.ctx, t.cab, some (.carrier, h), t.id, t.rix, x.ring⟩ ecc st (fun _ p => p) (carrierStep t (engKey .carrier h))

/-- The source regions' rows are returned once every write has completed (R206). -/
def returnRows (p : Part) (t : Task) : Part :=
  ((srcBlks t.desc).mapIdx fun k b => (k, b)).foldl (fun p x =>
    if x.2.region then
      let pos := ((t.src.find? fun s => s.1 == x.1).map Prod.snd).getD 0
      (span pos (cdiv x.2.len 512)).foldl (fun p q => p.returnPos (p.phys x.2.regionDie) x.2.regionIdx q) p
    else p) p

/-- TRANSFER_COMPLETE (R209, R215): the first finished transfer of a Carrier completes, on all the Carriers that ran it. -/
def transferComplete (p : Part) (e : Nat) : Part :=
  match (Tab.getD p.jig.xfer e []).find? fun t => decide (t.units ≤ t.next) && t.buf.isEmpty && t.toReg.isEmpty && t.waitPos.isEmpty with
  | none => p
  | some t =>
    if !(p.ctxRuns t.ctx && p.residentOn t.ctx t.cab) || p.writesOpen t.id then p else
    let es := (p.jig.xfer.filter fun x => x.2.any fun u => u.id == t.id).map Prod.fst
    let low := (p.cabDies t.cab).head?.getD 0
    let b := listBilled t.desc
    let per := if t.mcast then t.dies.length else 1
    let p := es.foldl (fun p k =>
      (p.bumpCarrier k low t.ctx 9 (listTotal t.desc * per)).bumpCarrier k low t.ctx 10 b) p
    let p := p.bumpCarrier (es.head?.getD e) low t.ctx 8 1
    let p := if t.mcast then p.bumpCarrier (es.head?.getD e) low t.ctx 12 1 else p
    let p := { p with jig := { p.jig with xfer := Tab.mapV (fun _ (l : List Task) => l.filter fun u => u.id != t.id) p.jig.xfer } }
    (p.returnRows t).completeRec t.job t.rix 0 false false 0

/-- A task leaves its engine at a stop point and waits among the stopped (R146, R168, R212, R238): what its engine or its line buffer holds is
read again, a transfer from its first unfinished line. `on` is what its batch engine set it aside for. -/
def stopTask (p : Part) (t : Task) (on : Option Await) : Part :=
  let l := lineAt (srcBlks t.desc) t.wroteTo
  let t := if kindOf t.img = 3 then { t with next := if t.wroteTo < listTotal t.desc then unitOf (srcBlks t.desc) l.1 l.2 else t.units } else t
  let jg := p.jig
  let p := { p with jig := { jg with
    eng := Tab.keep (fun _ u => u.id != t.id) jg.eng
    xfer := Tab.mapV (fun _ (l : List Task) => l.filter fun u => u.id != t.id) jg.xfer
    stopped := Tab.put (recKey t.job t.rix) { t with
      got := [], remote := [], kept := [], buf := [], lineBad := false, await := on } jg.stopped } }
  match p.rec' t.job t.rix with
  | some y => p.setRec t.job t.rix { y with st := .stopped }
  | none => p

end Part

def execCarrier (j r : Nat) (st : RdStat) (hw : Cells) (s : State) : Host.Outcome State Fault Refusal :=
  onWork s fun p => p.carrierIssue j r st hw
def execCarrierDataArrive (e : Nat) (st : RdStat) (ecc : Ecc) (cause : StallCause) (stall : Nat) (hw : Cells) (s : State) :
    Host.Outcome State Fault Refusal :=
  onWork s fun p => p.carrierDataArrive e st ecc cause stall hw
def execTransferComplete (e : Nat) (s : State) : Host.Outcome State Fault Refusal := onWork s fun p => p.transferComplete e

end Sys2Proof.Machine
end

