-- ==== Sys2Proof/Machine/Planer.lean ====
section
/-!
DEFINITION. Sys2Proof/Machine/Planer.lean: the Planer (06_planer): the checks at issue, tiles, convolution, pooling and regrouping, offcuts and
reset marks. A task's units of work are its tiles in order and one last unit for what follows them.
-/

namespace Sys2Proof.Machine
open Sys2Proof

/-- A Planer's parameters (Table 10-10). -/
structure PlanerPar where
  op : Nat
  inS2c : Bool
  outC2s : Bool
  countPad : Bool
  regions : Bool
  n : Nat
  h : Nat
  w : Nat
  kh : Nat
  kw : Nat
  fh : Nat
  fw : Nat
  cin : Nat
  cout : Nat
  sh : Nat
  sw : Nat
  dh : Nat
  dw : Nat
  padLoH : Nat
  padHiH : Nat
  padLoW : Nat
  padHiW : Nat
  extraH : Nat
  extraW : Nat
  gLog : Nat
  stripeMax : Nat
  marks : Nat
  offcut : Nat
  offPitch : Nat
  markPtr : Nat
  regionList : Nat
  deriving DecidableEq, Repr, Inhabited

namespace PlanerPar

def of (b : Nat) : PlanerPar :=
  { op := bits b 0 4
    inS2c := bit b 4
    outC2s := bit b 5
    countPad := bit b 6
    regions := bit b 7
    n := bits b 8 12 + 1
    h := bits b 20 12 + 1
    w := bits b 32 24 + 1
    kh := bits b 56 4 + 1
    kw := bits b 90 8 + 1
    fh := bits b 60 4 + 1
    fw := bits b 196 4 + 1
    cin := bits b 64 13 + 1
    cout := bits b 77 13 + 1
    sh := bits b 98 8 + 1
    sw := bits b 106 8 + 1
    dh := bits b 114 6 + 1
    dw := bits b 120 6 + 1
    padLoH := bits b 128 12
    padHiH := bits b 140 12
    padLoW := bits b 152 12
    padHiW := bits b 164 12
    extraH := bits b 176 8
    extraW := bits b 184 8
    gLog := bits b 192 4
    stripeMax := bits b 200 16
    marks := bits b 216 16
    offcut := bits b 256 64
    offPitch := bits b 320 32
    markPtr := bits b 384 64
    regionList := bits b 448 64 }

/-- Copies codes: S2C and C2S. -/
def copies (q : PlanerPar) : Bool := q.op == 4 || q.op == 5

/-- The regrouping factors on the input and on the output side; 1 where the task does not regroup there. -/
def inF (q : PlanerPar) : Nat × Nat := if q.inS2c then (q.fh, q.fw) else (1, 1)
def outF (q : PlanerPar) : Nat × Nat := if q.outC2s then (q.fh, q.fw) else (1, 1)

/-- G (Table 6-2). -/
def g (q : PlanerPar) : Nat := if q.gLog = 15 ∨ q.op ≠ 0 then q.cin else 2 ^ q.gLog

/-- Output size along an axis (R122, R144). -/
def size (q : PlanerPar) (inp k s d lo hi extra : Nat) : Nat :=
  if q.op = 1 then (inp - 1) * s + d * (k - 1) + 1 + extra - (lo + hi)
  else if inp + lo + hi < d * (k - 1) + 1 then 0 else (inp + lo + hi - d * (k - 1) - 1) / s + 1

/-- Height and width of the result: of the convolution or pooling, or of the regrouped tensor. -/
def oh (q : PlanerPar) : Nat :=
  if q.op = 4 then q.h / q.fh else if q.op = 5 then q.h * q.fh else q.size q.h q.kh q.sh q.dh q.padLoH q.padHiH q.extraH
def ow (q : PlanerPar) : Nat :=
  if q.op = 4 then q.w / q.fw else if q.op = 5 then q.w * q.fw else q.size q.w q.kw q.sw q.dw q.padLoW q.padHiW q.extraW

/-- An offcut applies (R138). -/
def hasOffcut (q : PlanerPar) : Bool := (q.op == 0 || q.op == 2 || q.op == 3) && q.padLoW != 0 && q.offcut != 0

def zeroOut (q : PlanerPar) : Bool := q.oh == 0 || q.ow == 0

/-- An address of a Bench store, of the package's own or of a member's (Table 1-7). -/
def benchPtr (a : Nat) : Bool :=
  match locOf 0 a with
  | .bench _ _ => true
  | .remote _ _ _ => true
  | _ => false

/-- Ranges and conditions of Table 6-2, with R138, R140, R144 and R145. -/
def ok (q : PlanerPar) (b : Nat) : Bool :=
  bits b 126 2 == 0 && bits b 232 24 == 0 && bits b 352 32 == 0 && decide (q.kh * q.kw ≤ 1024) && decide (q.cin ≤ 8192) && decide (q.cout ≤ 8192) &&
    (if q.op = 1 then decide (q.extraH < q.sh) && decide (q.extraW < q.sw) else q.extraH == 0 && q.extraW == 0) &&
    q.gLog != 13 && q.gLog != 14 && (q.op == 0 || (!q.inS2c && !q.outC2s)) &&
    (q.op != 0 || (q.cin % q.g == 0 && (q.g == q.cin || q.cout == q.cin))) && (q.op != 1 || q.gLog == 15 || 2 ^ q.gLog == q.cin) &&
    ((q.op != 2 && q.op != 3) || q.cout == q.cin) &&
    ((!q.copies && !q.inS2c && !q.outC2s) || (decide (2 ≤ q.fh * q.fw) && decide (q.fh * q.fw ≤ 16))) &&
    (!q.copies || (q.h % q.fh == 0 && q.w % q.fw == 0 && q.marks == 0)) &&
    (q.op != 4 || q.cout == q.cin * (q.fh * q.fw)) && (q.op != 5 || q.cin == q.cout * (q.fh * q.fw)) &&
    (!q.inS2c || q.cin % (q.fh * q.fw) == 0) && (!q.outC2s || q.cout % (q.fh * q.fw) == 0) && (!q.regions || q.h == 1) &&
    decide (q.marks ≤ 8 * q.n) && (q.offcut == 0 || (q.offcut % 512 == 0 && q.offPitch % 512 == 0 && benchPtr q.offcut && !q.copies && q.op != 1)) &&
    (!q.hasOffcut || q.w % q.sw == 0)

/-- Dimensions of the stored input and of the stored output: height, width, channels. -/
def inDims (q : PlanerPar) : Nat × Nat × Nat :=
  (q.h * q.inF.1, q.w * q.inF.2, q.cin / (q.inF.1 * q.inF.2))
def outDims (q : PlanerPar) : Nat × Nat × Nat :=
  (q.oh * q.outF.1, q.ow * q.outF.2, q.cout / (q.outF.1 * q.outF.2))

/-- The input index that output index `o` reads through tap `t` of an axis, not yet checked against the input (R123, R124, R144). -/
def tapIn (op s d lo f o t : Nat) : Option Int :=
  if op = 1 then
    if t * d ≤ o + lo ∧ (o + lo - t * d) % s = 0 then some (Int.ofNat ((o + lo - t * d) / s)) else none
  else if op = 4 then some (Int.ofNat (o * f + t))
  else if op = 5 then some (Int.ofNat (o / f))
  else some (Int.ofNat (o * s + d * t) - Int.ofNat lo)

def tapH (q : PlanerPar) (o t : Nat) : Option Int := tapIn q.op q.sh q.dh q.padLoH q.fh o t
def tapW (q : PlanerPar) (o t : Nat) : Option Int := tapIn q.op q.sw q.dw q.padLoW q.fw o t

/-- Taps per axis. -/
def taps (q : PlanerPar) : Nat × Nat := if q.op = 4 then (q.fh, q.fw) else if q.op = 5 then (1, 1) else (q.kh, q.kw)

/-- The input columns from `lo` on that output columns `a` to `b - 1` read, each 2^25 higher; those of the offcut stand below 2^25. -/
def colsFrom (q : PlanerPar) (lo : Int) (a b : Nat) : List Nat :=
  ((span a (b - a)).flatMap fun o => (List.range q.taps.2).filterMap fun t =>
    (q.tapW o t).bind fun i => if lo ≤ i ∧ i < q.w then some (i + 2 ^ 25).toNat else none).foldl (fun l i => insNat i l) []

/-- The input columns that output columns `a` to `b - 1` read, which is their span in the line buffer. DESIGN CHOICE (log entry 80): R135
does not say whether the columns read from the offcut take part; here they do not. -/
def colsOf (q : PlanerPar) (a b : Nat) : List Nat := q.colsFrom 0 a b

end PlanerPar

namespace Tens

/-- The channel block of a Planer tensor, B of R128. -/
def block (t : Tens) : Nat := if t.c16 then 16 else 32

/-- C padded to the block. -/
def padC (t : Tens) (c : Nat) : Nat := t.block * cdiv c t.block

/-- The conditions of R128 on a tensor of `h` lines, `w` positions and `c` channels; `head` bytes stand before each position. -/
def planerOk (t : Tens) (h w c head : Nat) (output region : Bool) : Bool :=
  let be := t.bytes t.block
  t.pitch % be == 0 && decide (head + t.bytes (t.padC c) ≤ t.pitch) &&
    (region || (t.base % be == 0 && (!output || !inBench t.base || t.base % 512 == 0) && decide (w * t.pitch ≤ t.line) &&
      decide (h * t.line ≤ t.seq)))

/-- The address of position (n, h, w). -/
def at' (t : Tens) (n h w : Nat) : Nat := t.base + n * t.seq + h * t.line + w * t.pitch

end Tens

/-- The operand pairs of a Planer (01 Table 1-4). -/
def planerPair (w a : Nat) : Bool := (w == 0 || w == 1 || w == 3) && (a == 8 || ((a == 9 || a == 10)))

/-- F of R133; a pooling counts as W4I. -/
def planerF (w a : Nat) : Nat := if a = 10 then 8 else if a = 9 ∨ w = 3 then 2 else 1

/-- A Planer task as its units see it: parameters, tensors, output descriptor, weights. -/
structure PTask where
  q : PlanerPar
  x : Tens
  y : Tens
  d : OutDesc
  w : WDesc
  deriving DecidableEq, Repr, Inhabited

/-- A tile: its sequence, the first column of its stripe, its columns `a` to `b - 1`, the mark in force, and whether it ends at a mark. -/
structure Tile where
  n : Nat
  s : Nat
  a : Nat
  b : Nat
  mark : Option Nat
  split : Bool
  deriving DecidableEq, Repr, Inhabited

namespace PTask

def of (t : Task) : PTask := ⟨.of (t.blk 0), .of (t.blk 1), .of (t.blk 2), .of (t.blk 3), .of (t.blk 4)⟩

def usesWeights (v : PTask) : Bool := v.q.op == 0 || v.q.op == 1

/-- Bytes of a ROW header before each position of a region-list output (R129). -/
def head (v : PTask) : Nat := if v.q.regions && v.y.mode == 1 then 64 else 0

/-- Bytes that one input column takes in the line buffer. DESIGN CHOICE (log entry 80): R135 does not say; H lines of C_PAD elements each,
without the gaps between positions. -/
def colBytes (v : PTask) : Nat := v.q.h * (v.q.inF.1 * v.q.inF.2) * v.x.bytes (v.x.padC v.q.inDims.2.2)

/-- The most input columns that one output column reads (R135). -/
def widest (v : PTask) : Nat := (List.range v.q.ow).foldl (fun m o => max m (v.q.colsOf o (o + 1)).length) 0

/-- The descriptor's checks at issue (R127, R128, R132, R135, R144, R149 of 07 for the shared parts). -/
def ok (t : Task) : Bool :=
  let v := of t
  let q := v.q
  let (ih, iw, ic) := q.inDims
  let (oh, ow, oc) := q.outDims
  q.ok (t.blk 0) && Tens.fieldsOk .planer (t.blk 1) && Tens.outputOk .planer (t.blk 2) && v.x.planerOk ih iw ic 0 false false &&
    v.y.planerOk oh ow oc v.head true q.regions &&
    (if v.usesWeights then WDesc.ok (t.blk 4) && planerPair v.w.fmt v.x.fmt else t.blk 4 == 0) &&
    (if q.copies then t.blk 3 == 0 && v.x.fmt == v.y.fmt && v.x.uns == v.y.uns && v.x.zp == v.y.zp && v.x.mode == v.y.mode && v.x.mode != 1
      else OutDesc.ok v.y (t.blk 3)) &&
    (v.x.mode != 1 || (q.op == 0 && q.kh == 1 && q.kw == 1 && q.sh == 1 && q.sw == 1 && !q.inS2c && !q.hasOffcut)) &&
    (q.zeroOut || decide (v.widest * v.colBytes ≤ 2 ^ 21))

/-- The mark list entries stand after the five blocks, then the region list. -/
def marks (v : PTask) (t : Task) (n : Nat) : List Nat :=
  ((t.desc.drop 5).take v.q.marks).filterMap fun m => if bits m 32 12 = n then some (bits m 0 32) else none

def region (v : PTask) (t : Task) (n : Nat) : Nat := t.desc.getD (5 + v.q.marks + n) 0

/-- The mark list is in order (R140). -/
def marksOk (v : PTask) (l : List Nat) : Bool :=
  l.all (fun m => bits m 44 20 == 0 && decide (bits m 0 32 < v.q.w) && decide (bits m 32 12 < v.q.n)) &&
    (l.zip l.tail).all (fun m => decide (bits m.1 0 44 < bits m.2 0 44)) &&
    l.all fun m => decide ((l.filter fun k => bits k 32 12 == bits m 32 12).length ≤ 8)

/-- The first output column after mark `k` (R140). -/
def after (v : PTask) (k : Nat) : Nat := if v.q.op = 1 then k * v.q.sw - v.q.padLoW else cdiv k v.q.sw

/-- The first column below `fuel` more columns whose span no longer fits the line buffer; at least one column is taken (R135). -/
def stripeGo (v : PTask) (a : Nat) : Nat → Nat → Nat
  | 0, b => b
  | fuel + 1, b =>
    if b < v.q.ow ∧ (v.q.stripeMax = 0 ∨ b - a < v.q.stripeMax) ∧ (v.q.colsOf a (b + 1)).length * v.colBytes ≤ 2 ^ 21 then v.stripeGo a fuel (b + 1)
    else b

/-- The stripes of a sequence, from column `a` (R135). -/
def stripesGo (v : PTask) : Nat → Nat → List (Nat × Nat)
  | 0, _ => []
  | fuel + 1, a =>
    if v.q.ow ≤ a then [] else
    let b := max (a + 1) (v.stripeGo a (v.q.ow - a) a)
    (a, b) :: v.stripesGo fuel b

/-- A stripe of sequence `n` from `s` to `b` cut at its marks (R141). -/
def cut (v : PTask) (n s b : Nat) : Nat → Option Nat → List Nat → List Tile
  | a, m, [] => [⟨n, s, a, b, m, false⟩]
  | a, m, k :: rest => let j := max a (min (v.after k) b); ⟨n, s, a, j, m, true⟩ :: v.cut n s b j (some k) rest

/-- The tiles of sequence `n`: each stripe cut at the marks that fall in it, those beyond the last column in the last. -/
def tilesOf (v : PTask) (t : Task) (n : Nat) : List Tile :=
  let ms := v.marks t n
  (v.stripesGo v.q.ow 0).flatMap fun s =>
    let here := ms.filter fun k => (decide (s.1 ≤ v.after k) && decide (v.after k < s.2)) || (s.2 == v.q.ow && decide (v.q.ow ≤ v.after k))
    let before := (ms.filter fun k => decide (v.after k < s.1)).getLast?
    v.cut n s.1 s.2 s.1 before here

/-- Every tile of the task; none for a task of zero outputs (R126). -/
def tiles (v : PTask) (t : Task) : List Tile := if v.q.zeroOut then [] else (List.range v.q.n).flatMap (v.tilesOf t)

/-- Units of R133 in output columns `a` to `b - 1`, per output block; a pooling counts every input block under each window tap. -/
def work (v : PTask) (a b : Nat) : Nat :=
  let q := v.q
  let blocks := if q.op = 0 ∧ q.g < 32 ∧ q.g ≠ q.cin then 1 else cdiv q.g v.x.block
  if q.op = 1 then
    let inH := fun o => ((List.range q.kh).filter fun t => match q.tapH o t with
      | some i => decide (i < q.h)
      | none => false).length
    let inW := fun o => ((List.range q.kw).filter fun t => match q.tapW o t with
      | some i => decide (i < q.w)
      | none => false).length
    blocks * ((List.range q.oh).map inH).foldl (· + ·) 0 * ((span a (b - a)).map inW).foldl (· + ·) 0
  else blocks * (q.kh * q.kw) * q.oh * (b - a)

/-- The array or copy cycles of a tile: those of its stripe up to its end less those up to its start (R133, R144). DESIGN CHOICE (log entry
80): an output block is the array's 32 output columns whatever the output's layout, and the output bytes of a copy count pad channels and
no gaps between positions; the rules say neither. -/
def cycles (v : PTask) (s a b : Nat) : Nat :=
  if v.q.copies then
    let per := v.q.oh * v.y.bytes (v.y.padC v.q.cout)
    cdiv ((b - s) * per) 128 - cdiv ((a - s) * per) 128
  else
    let u := if v.x.c16 then 8 else 4
    let f := planerF (if v.usesWeights then v.w.fmt else 0) v.x.fmt
    cdiv v.q.cout 32 * (cdiv (v.work s b) u - cdiv (v.work s a) u) * f

/-- What the task writes (R128): each sequence of its output tensor, unless it goes to regions. -/
def outs (v : PTask) : List (Nat × Nat × Nat × Nat) :=
  let (h, w, _) := v.q.outDims
  if v.q.regions then [] else [(v.y.base, max v.y.seq 1, h * max v.y.line (w * v.y.pitch), v.q.n)]

/-- The addresses that its offcuts take: the first and how many. -/
def offcuts (v : PTask) : Nat × Nat :=
  (v.q.offcut, if v.q.hasOffcut then (v.q.n - 1) * v.q.offPitch + v.q.inDims.1 * (v.q.padLoW * v.q.inF.2 * v.x.pitch) else 0)

/-- Two tasks share an offcut (R139). -/
def sharesOffcut (v u : PTask) : Bool :=
  let (a, n) := v.offcuts
  let (b, m) := u.offcuts
  n != 0 && m != 0 && decide (a < b + m) && decide (b < a + n)

/-- The weight index's group width, G_PAD of R130. -/
def gPad (v : PTask) : Nat := if v.q.g < v.x.block then v.q.g else v.x.padC v.q.g

def weightCount (v : PTask) : Nat := ((v.q.cout - 1) * (v.q.kh * v.q.kw) + (v.q.kh * v.q.kw - 1)) * v.gPad + v.q.g

end PTask

/-- Where a Planer's loaded positions are kept: line and column, columns of the offcut below 0. -/
def posKey (h : Nat) (w : Int) : Nat := h * 2 ^ 26 + (w + 2 ^ 25).toNat

namespace Rd

/-- The codes of input position (n, h, w) in the operation's own view; columns below 0 come from the offcut (R138). -/
def inputAt (v : PTask) (n h : Nat) (w : Int) : Rd (List Nat) := do
  let q := v.q
  let (fh, fw) := q.inF
  let c := q.inDims.2.2
  let l ← (List.range (fh * fw)).mapM fun k => do
    let hh := h * fh + k / fw
    let ww := w * Int.ofNat fw + Int.ofNat (k % fw)
    let a := if 0 ≤ ww then v.x.at' n hh ww.toNat
      else q.offcut + n * q.offPitch + hh * (q.padLoW * fw * v.x.pitch) + (ww + Int.ofNat (q.padLoW * fw)).toNat * v.x.pitch
    codes 0x0440 v.x.fmt a c
  return l.flatten

/-- Whether a column, 2^25 higher, is read again after the outputs below `b` of its sequence: by a later output, or for the new offcut. -/
def stays (v : PTask) (b c : Nat) : Bool :=
  (v.q.colsFrom (-2 ^ 25) b v.q.ow).contains c || (v.q.hasOffcut && decide (v.q.w + 2 ^ 25 < c + v.q.padLoW + 1))

/-- The positions that a tile of sequence `n` reads: inside the input or the offcut, and not older than the mark. One that the line buffer
still holds is not read again (R136); the NaNs of the others are counted. -/
def load (t : Task) (v : PTask) (n a b : Nat) (m : Option Nat) : Rd (Tab (List Nat)) := do
  let q := v.q
  let lines := ((List.range q.oh).flatMap fun o => (List.range q.taps.1).filterMap fun t =>
    (q.tapH o t).bind fun i => if 0 ≤ i ∧ i < q.h then some i.toNat else none).foldl (fun l i => insNat i l) []
  let lo : Int := match m with
    | some k => Int.ofNat k
    | none => if q.hasOffcut then -Int.ofNat q.padLoW else 0
  (lines.flatMap fun h => (q.colsFrom lo a b).map fun c => (h, c)).mapM fun e => do
    let w := Int.ofNat e.2 - 2 ^ 25
    let k := posKey e.1 w
    match Tab.find (n * 2 ^ 40 + k) t.kept with
    | some cs => return (k, cs)
    | none =>
      let cs ← inputAt v n e.1 w
      if !q.copies then count 2 ((cs.map (Num.actVal v.x.fmt v.x.uns v.x.zp)).filter Prod.snd).length
      return (k, cs)

/-- What the line buffer keeps after a tile: the columns of the sequence that are read again, and those of every sequence's new offcut. -/
def keep (t : Task) (v : PTask) (n b : Nat) (raw : Tab (List Nat)) : Tab (List Nat) :=
  let all := raw.foldl (fun k e => Tab.put (n * 2 ^ 40 + e.1) e.2 k) t.kept
  Tab.keep (fun k _ =>
    if k / 2 ^ 40 = n then stays v b (k % 2 ^ 26) else v.q.hasOffcut && decide (v.q.w + 2 ^ 25 < k % 2 ^ 26 + v.q.padLoW + 1)) all

end Rd

namespace PTask

/-- The operands that output position (oh, ow) meets, tap by tap: none is padding (R123). -/
def window (v : PTask) (img : Tab (List Num.XVal)) (oh ow : Nat) : List (Option (List Num.XVal)) :=
  (List.range (v.q.taps.1 * v.q.taps.2)).map fun k =>
    match v.q.tapH oh (k / v.q.taps.2), v.q.tapW ow (k % v.q.taps.2) with
    | some h, some w => if 0 ≤ h then Tab.find (posKey h.toNat w) img else none
    | _, _ => none

def zeroX (v : PTask) : Num.XVal := if v.x.isInt then .int 0 else .flt 0

/-- The products of output channel `o`, in the order of r (R131): padding meets operand 0, TCONV taps without a contribution are left out. -/
def products (v : PTask) (ws : List Num.WVal) (win : List (Option (List Num.XVal))) (o : Nat) : List (Num.WVal × Num.XVal) :=
  let g := v.q.g
  let first := if g = v.q.cin then 0 else o / g * g
  let tap := fun (k : Nat) (x : Option (List Num.XVal)) =>
    let real := (List.range g).map fun c => (ws.getD ((o * win.length + k) * v.gPad + c) (.code 0), (x.bind fun l => l[first + c]?).getD v.zeroX)
    real ++ rep (v.gPad - g) (Num.WVal.code 0, v.zeroX)
  (win.mapIdx fun k x => if v.q.op = 1 ∧ x.isNone then [] else tap k x).flatten

/-- RECIP[n] (R143). -/
def recip (n : Nat) : Nat := (2 ^ 25 / n + 1) / 2

/-- The codes of a copied position (R144). -/
def copied (v : PTask) (img : Tab (List Nat)) (oh ow : Nat) : List Nat :=
  let at' := fun (h w : Nat) => Tab.getD img (posKey h (Int.ofNat w)) []
  if v.q.op = 4 then (List.range (v.q.fh * v.q.fw)).flatMap fun k => at' (oh * v.q.fh + k / v.q.fw) (ow * v.q.fw + k % v.q.fw)
  else
    let k := oh % v.q.fh * v.q.fw + ow % v.q.fw
    ((at' (oh / v.q.fh) (ow / v.q.fw)).drop (k * v.q.cout)).take v.q.cout

/-- A copied position with its sidecar, which carries the input's K (R144); `word` is the input's held-scale word. -/
def copiedRow (v : PTask) (word : Int) (cs : List Nat) : Nat × List Nat :=
  (unsigned 8 word + b2n (cs.all fun c => c == v.y.zeroCode) * 2 ^ 8, cs)

end PTask

namespace Rd

/-- X, M and k_min of each channel of output position (oh, ow) (R131, R142, R143). -/
def position (v : PTask) (ws : List Num.WVal) (ms : List Int) (k : Int) (img : Tab (List Num.XVal)) (oh ow : Nat) : Rd (List Num.Pre) := do
  let q := v.q
  let win := v.window img oh ow
  let inside := (win.filter Option.isSome).length
  let n := if q.countPad then q.kh * q.kw else inside
  (List.range q.cout).mapM fun o => do
    let m := ms.getD o 0
    let ops := win.map fun x => match x with
      | some l => l.getD o v.zeroX
      | none => v.zeroX
    if q.op = 2 then
      let best := Num.fmax (ops.map Num.XVal.val)
      let s : Num.Seg := if v.x.isInt then ⟨true, best / 2 ^ 149, 0, k⟩ else ⟨false, best, 0, k⟩
      return ⟨Num.merge [s], m, k⟩
    else if q.op = 3 then
      let one : Num.WVal := if v.x.isInt then .code 1 else .flt (2 ^ 149)
      let s ← seg v.x.isInt k (ops.map fun x => (one, x))
      return ⟨Num.merge [s], if n = 0 then 0 else m * PTask.recip n, k⟩
    else
      let s ← seg (v.x.isInt && Num.isIntFmt v.w.fmt) k (v.products ws win o)
      return ⟨Num.merge [s], m, k⟩

/-- The writes of the stored output positions made from result position (oh, ow) of sequence `n` (R128, R129, R145), and their sidecars
where these stand apart (R49). -/
def places (v : PTask) (n oh ow sc : Nat) (cs : List Nat) : List (Nat × List Byte) × List (Nat × Nat) :=
  let q := v.q
  let (fh, fw) := q.outF
  let (hh, ww, c) := q.outDims
  let len := v.y.padC c
  let addr := fun i => v.y.at' (i / (hh * ww)) (i % (hh * ww) / ww) (i % ww)
  let parts : List (Nat × List Byte) := (List.range (fh * fw)).map fun k =>
    ((oh * fh + k / fw) * ww + (ow * fw + k % fw), padded v.y len ((cs.drop (k * c)).take c))
  if q.regions then
    (parts.map fun x =>
      let hd := if v.head = 0 then [] else leBytes 4 sc ++ rep 60 0
      let body := hd ++ x.2
      let tail := v.y.pitch - body.length + (if x.1 + 1 = hh * ww then rowUp (hh * ww * v.y.pitch) - hh * ww * v.y.pitch else 0)
      (x.1 * v.y.pitch, body ++ rep tail 0), if v.head = 0 then parts.map fun x => (n * (hh * ww) + x.1, sc) else [])
  else
    (parts.map fun x => blockWrite addr (q.n * (hh * ww)) (n * (hh * ww) + x.1) x.2,
      parts.map fun x => (n * (hh * ww) + x.1, sc))

/-- The rows of sequence `n`'s region (R129, R190): their first position, once they are reserved. -/
def regionPos (v : PTask) (t : Task) (n : Nat) : Rd Nat := do
  let p ← part
  let w ← who
  let e := v.region t n
  let d := p.phys (bits e 0 3)
  let i := bits e 8 8
  let rows := cdiv (v.q.outDims.1 * v.q.outDims.2.1 * v.y.pitch) 512
  let known := fun (p : Part) => match (p.jig.eng.map Prod.snd).find? fun u => u.id == w.task with
    | some u => ((u.dst.find? fun x => x.1 == d && x.2.1 == n).map fun x => x.2.2, u.waitPos.any fun g => g.first == n)
    | none => (none, false)
  match known p with
  | (some pos, _) => return pos
  | (none, true) => stop (.wait .credit .room id)
  | (none, false) =>
    let ask := fun (p : Part) =>
      (p.mapTask w.task fun (u : Task) => { u with waitPos := u.waitPos ++ [({ die := d, first := n, n := rows, region := some i } : Range)] }).reserve d i w.task rows
    if 64 ≤ p.heldRanges w.key 0 then stop (.wait .scoreboard .other id)
    onPart ask
    match known (← part) with
    | (some pos, _) => return pos
    | _ => stop (.wait .credit .room ask)

/-- Writes that go to a region become writes of its rows. -/
def toRegion (p : Part) (e pos : Nat) (l : List (Nat × List Byte)) : List (Nat × List Byte) :=
  (coalesce l).flatMap fun x => (chop 512 x.1 x.2.length).map fun c =>
    (p.posAddr (bits e 0 3) (bits e 8 8) (pos + c.1 / 512) + c.1 % 512, (x.2.drop (c.1 - x.1)).take c.2)

/-- The exponent of the position that result position (oh, ow) reads through its first tap, which in ROW mode is its only one (R132). -/
def positionExp (t : Task) (v : PTask) (n oh ow : Nat) : Rd Int := do
  match v.q.tapH oh 0, v.q.tapW ow 0 with
  | some h, some w =>
    if v.x.mode = 1 ∧ !(decide (0 ≤ h) && decide (h < v.q.h) && decide (0 ≤ w) && decide (w < v.q.w)) then return 0
    else rowExp 0x0440 v.x (t.held.getD 0 0) ((n * v.q.h + h.toNat) * v.q.w + w.toNat)
  | _, _ => rowExp 0x0440 v.x (t.held.getD 0 0) 0

/-- The results of a tile's positions: the task with their statistics, codes and sidecar by position. -/
def results (t : Task) (v : PTask) (x : Tile) (raw : Tab (List Nat)) (cells : List (Nat × Nat)) : Rd (Task × List (Nat × List Nat)) := do
  let q := v.q
  let (ws, esc) ← if v.usesWeights then weights 0x0440 v.w v.weightCount else pure ([], 0)
  if t.next = 0 then count 4 esc
  let ms ← mArr v.d.m q.cout
  let img := raw.map fun e => (e.1, e.2.map fun c => (Num.actVal v.x.fmt v.x.uns v.x.zp c).1)
  let o := v.y.cfg (v.d.s + if q.op = 3 then 24 else 0) v.d.rnd (t.held.getD 1 0)
  cells.foldlM (fun (acc : Task × List (Nat × List Nat)) c => do
    let k ← positionExp t v x.n c.1 c.2
    let pres ← position v ws ms k img c.1 c.2
    let r ← emit acc.1 o v.d ((x.n * q.oh + c.1) * q.ow + c.2) id pres
    return (r.1, acc.2 ++ [(r.2.2, r.2.1)])) (t, [])

/-- Another task that shares the offcut is in flight, so that the offcut and the outputs of both are undefined, that is free (R139). -/
def offcutShared (t : Task) (v : PTask) : Rd Bool := do
  return (← part).jig.eng.any fun e => e.1 / 256 == clsCode .planer && e.2.id != t.id && v.sharesOffcut (PTask.of e.2)

/-- Codes of which every one is free. -/
def freeCodes (l : List Nat) : Rd (List Nat) := l.mapM fun _ => do return (← free).toNat

/-- A tile: its positions are loaded, its results computed and written. -/
def tile (t : Task) (v : PTask) (x : Tile) : Rd Task := do
  let q := v.q
  let pos ← if q.regions then regionPos v t x.n else pure 0
  let raw ← load t v x.n x.a x.b x.mark
  let cells := (List.range q.oh).flatMap fun oh => (span x.a (x.b - x.a)).map fun ow => (oh, ow)
  let r ← if q.copies then pure (t, cells.map fun c => v.copiedRow (t.held.getD 0 0) (v.copied raw c.1 c.2)) else results t v x raw cells
  let cs ← if ← offcutShared t v then r.2.mapM fun c => do return (c.1, ← freeCodes c.2) else pure r.2
  let l := (cells.zip cs).map fun c => places v x.n c.1.1 c.1.2 c.2.1 c.2.2
  let body := l.flatMap Prod.fst
  let p ← part
  storeAll (if q.regions then toRegion p (v.region t x.n) pos body else coalesce body)
  putCars v.y (l.flatMap Prod.snd)
  count 9 1
  if x.split then count 10 1
  count 11 (v.cycles x.s x.a x.b)
  return { r.1 with next := t.next + 1, kept := keep t v x.n x.b raw }

/-- The new offcut of sequence `n` (R139): the last L columns of the old one and the input, zero points left of the last mark; free
bytes where another task shares it. -/
def newOffcut (v : PTask) (t : Task) (n : Nat) : Rd (List (Nat × List Byte)) := do
  let q := v.q
  let (hh, ww, c) := q.inDims
  let cols := q.padLoW * q.inF.2
  let last := ((v.marks t n).getLast?.map fun k => k * q.inF.2).getD 0
  let fresh := !(v.marks t n).isEmpty
  let shared ← offcutShared t v
  (List.range (hh * cols)).mapM fun i => do
    let (h, k) := (i / cols, i % cols)
    let w := Int.ofNat (ww + k) - Int.ofNat cols
    let cs ←
      if fresh ∧ w < Int.ofNat last then pure []
      else if let some l := Tab.find (n * 2 ^ 40 + posKey (h / q.inF.1) (w / Int.ofNat q.inF.2)) t.kept then
        pure ((l.drop ((h % q.inF.1 * q.inF.2 + (w % Int.ofNat q.inF.2).toNat) * c)).take c)
      else if 0 ≤ w then codes 0x0440 v.x.fmt (v.x.at' n h w.toNat) c
      else codes 0x0440 v.x.fmt (q.offcut + n * q.offPitch + (h * cols + (w + Int.ofNat cols).toNat) * v.x.pitch) c
    let bs ← if shared then freeBytes (v.x.bytes (v.x.padC c)) else pure (padded v.x (v.x.padC c) cs)
    return (q.offcut + n * q.offPitch + i * v.x.pitch, bs ++ rep (v.x.pitch - bs.length) 0)

end Rd

namespace Part

/-- The task of record (j, r) with image `img`, as the Planer reads and checks its descriptor, for operation `op`. -/
def planerTask (op j r img : Nat) : Rd Task := do
  let bs ← Rd.blocks img 5
  let t : Task := { id := 0, job := j, rix := r, ctx := 0, cab := 0, img := img, desc := bs }
  let v := PTask.of t
  Rd.opIs op 5 v.q.op
  Rd.need (PTask.ok t)
  let ms := (pieces 8 v.q.marks (← Rd.control v.q.markPtr (8 * v.q.marks))).map leNat
  Rd.need (v.marksOk ms)
  let rb ← if v.q.regions then Rd.control v.q.regionList (2 * v.q.n) else pure []
  let rs := (pieces 2 v.q.n rb).map leNat
  Rd.need (rs.all fun e => bits e 3 5 == 0)
  let w ← Rd.who
  let p ← Rd.part
  rs.forM fun e => do
    if !p.regionOk w.ctx (bits e 0 3) (bits e 8 8) then
      Rd.addrFault (benchAt (bits e 0 3) (512 * p.regionBase (p.phys (bits e 0 3)) (bits e 8 8)))
    Rd.need (decide (cdiv (v.q.outDims.1 * v.q.outDims.2.1 * v.y.pitch) 512 ≤ p.regionSize (p.phys (bits e 0 3)) (bits e 8 8)))
  let sd ← Rd.seedIf img (!v.q.copies && v.d.rnd == 2)
  let kx ← Rd.heldWord 0x0440 v.x
  let ky ← Rd.heldWord 0x0440 v.y
  let t := { t with desc := bs ++ ms ++ rs, seed := sd, held := [kx, ky], zeroOut := v.q.zeroOut }
  return { t with units := (v.tiles t).length + 1, outs := v.outs }

/-- The issue of a Planer task whose command names operation `op` (R127). -/
def planerIssue (p : Part) (op j r : Nat) (st : RdStat) (hw : Cells) : Part :=
  p.issue .planer j r st hw fun _ _ img => planerTask op j r img

/-- The declared input range of a task, which it waits for on the scoreboard before its first tile, read or not (R125). -/
def inputBusy (p : Part) (key : Nat) (v : PTask) : Bool :=
  let (h, w, c) := v.q.inDims
  let len := (v.q.n - 1) * v.x.seq + (h - 1) * v.x.line + (w - 1) * v.x.pitch + v.x.bytes (v.x.padC c)
  inBench v.x.base && (chop 512 v.x.base (min len (2 ^ 27))).any fun x =>
    match locOf p.member x.1 with
    | .bench d o => p.rowBusy (p.phys d) (o / 512) key
    | _ => false

/-- A unit of a Planer's work: the next tile, or the offcuts and what is due once at the end. -/
def planerUnit (buf : Ecc) (t : Task) : Rd Task := do
  let v := PTask.of t
  match (v.tiles t)[t.next]? with
  | some x =>
    if t.next = 0 ∧ (← Rd.part).inputBusy (← Rd.who).key v then Rd.stop (.wait .scoreboard .other id)
    Rd.buffer 0x0440 13 buf
    Rd.tile t v x
  | none =>
    if v.q.hasOffcut then
      (List.range v.q.n).forM fun n => do Rd.storeAll (coalesce (← Rd.newOffcut v t n))
    Rd.finish 0x0440 t v.y v.d (t.held.getD 1 0)
    return { t with next := t.next + 1 }

end Part

def execConv (j r : Nat) (st : RdStat) (hw : Cells) (s : State) : Host.Outcome State Fault Refusal := onWork s fun p => p.planerIssue 0 j r st hw
def execTconv (j r : Nat) (st : RdStat) (hw : Cells) (s : State) : Host.Outcome State Fault Refusal := onWork s fun p => p.planerIssue 1 j r st hw
def execMaxpool (j r : Nat) (st : RdStat) (hw : Cells) (s : State) : Host.Outcome State Fault Refusal := onWork s fun p => p.planerIssue 2 j r st hw
def execAvgpool (j r : Nat) (st : RdStat) (hw : Cells) (s : State) : Host.Outcome State Fault Refusal := onWork s fun p => p.planerIssue 3 j r st hw
def execS2c (j r : Nat) (st : RdStat) (hw : Cells) (s : State) : Host.Outcome State Fault Refusal := onWork s fun p => p.planerIssue 4 j r st hw
def execC2s (j r : Nat) (st : RdStat) (hw : Cells) (s : State) : Host.Outcome State Fault Refusal := onWork s fun p => p.planerIssue 5 j r st hw

end Sys2Proof.Machine
end

