-- ==== Sys2Proof/Machine/Engines.lean ====
section
/-!
DEFINITION. Sys2Proof/Machine/Engines.lean: OPERAND_DATA_ARRIVE, the operands of a compute engine's next unit of work arrive and the unit is
done; BATCH_SWITCH (06 R137, 07 R169, 09 R220 R221).
-/

namespace Sys2Proof.Machine
open Sys2Proof

namespace Part

/-- The next unit of work of a Planer, Joiner or Burnisher. -/
def operandArrive (p : Part) (cls : Cls) (e : Nat) (st : RdStat) (ecc buf : Ecc) (cause : StallCause) (n : Nat) (hw : Cells) : Part :=
  match cls with
  | .planer => p.runUnit .planer e st ecc cause n hw (planerUnit buf)
  | .joiner => p.runUnit .joiner e st ecc cause n hw (joinerUnit buf)
  | .burnisher => p.runUnit .burnisher e st ecc cause n hw (burnisherUnit buf)
  | .lathe => p
  | .carrier => p

/-- What the part's state makes the task of an engine wait for; none where it can go on, or has no unit of work left. -/
def stuckOn (p : Part) (cls : Cls) (e : Nat) (t : Task) : Option Await :=
  let w : Who := ⟨t.ctx, t.cab, some (cls, e), t.id, t.rix, ((p.job t.job).map Job.ring).getD 0⟩
  let key := engKey cls e
  let gate (m : Rd Unit) : Rd Unit := do
    match (← Rd.part).taskGate key t with
    | some s => Rd.stop s
    | none => m
  if t.units ≤ t.next then none else
  match cls with
  | .planer => p.wouldWait w (gate (do discard (planerUnit .clean t)))
  | .joiner => p.wouldWait w (gate (do discard (joinerUnit .clean t)))
  | .burnisher => p.wouldWait w (gate (do discard (burnisherUnit .clean t)))
  | .carrier => p.wouldWait w (carrierStep t key)
  | .lathe => none

/-- What the task that an engine works on waits for (R221). A compute engine that nothing in the part's state holds back waits for operand data
in flight, as the command says; a Carrier that waits for its own reads is working (R220). -/
def waitsFor (p : Part) (cls : Cls) (e : Nat) (t : Task) : Option Await :=
  if t.units ≤ t.next then none else
  match cls with
  | .carrier => match p.stuckOn cls e t with
    | some .reads => none
    | y => y
  | _ => some ((p.stuckOn cls e t).getD .other)

/-- The task that an engine works on. -/
def workOf (p : Part) (cls : Cls) (e : Nat) : Option Task :=
  match cls with
  | .carrier => p.working e
  | .lathe => none
  | _ => Tab.find (engKey cls e) p.jig.eng

/-- The remote reads of a task drain (R221, 11 R256). -/
def drainTask (p : Part) (id : Nat) : Part :=
  { p with join := { p.join with reads := Tab.mapV (fun _ (r : RdReq) => if r.task = id then { r with drain := true } else r) p.join.reads } }

/-- BATCH_SWITCH (R221): the waiting task of a batch engine stops, where the Jig holds a ready one that it may take; that one issues by its own
command. -/
def batchSwitch (p : Part) (cls : Cls) (e : Nat) : Part :=
  match p.workOf cls e with
  | none => p
  | some t =>
    match p.waitsFor cls e t with
    | none => p
    | some on =>
      if p.realTime t.ctx || !p.residentOn t.ctx t.cab || !p.otherReady t cls e then p
      else ((p.bumpEng cls e t.ctx 24 1).drainTask t.id).stopTask t (some on)

/-- The engine of a key of `Jig.eng`. -/
def engAt (key : Nat) : Cls × Nat := ([Cls.lathe, .planer, .joiner, .burnisher].getD (key / 256) .burnisher, key % 256)

/-- An engine of a hold does work (11 R253): a compute engine whose task can go on, a Carrier with a transfer that is not stalled. -/
def engWorks (p : Part) (cls : Cls) (e : Nat) (t : Task) : Bool :=
  match p.stuckOn cls e t with
  | none => true
  | some .reads => cls == .carrier
  | some _ => false

end Part

def execOperandDataArrive (cls : Cls) (e : Nat) (st : RdStat) (ecc buf : Ecc) (cause : StallCause) (stall : Nat) (hw : Cells) (s : State) :
    Host.Outcome State Fault Refusal :=
  onWork s fun p => p.operandArrive cls e st ecc buf cause stall hw

def execBatchSwitch (cls : Cls) (e : Nat) (s : State) : Host.Outcome State Fault Refusal := onWork s fun p => p.batchSwitch cls e

end Sys2Proof.Machine
end

