-- ==== Sys2Proof/Machine/ModelImage.lean ====
section
/-!
DEFINITION. Sys2Proof/Machine/ModelImage.lean: the model image (10 R241 to R243), the checks of a load (04 R78), the Feed order and the step
schedule (04 R71, R72, R79 to R81).
-/

namespace Sys2Proof.Machine
open Sys2Proof

/-! ### Header and layer entries (Tables 10-14, 10-15) -/

namespace Hdr

def fmt (h : Nat) : Nat := bits h 0 4
def punch (h : Nat) : Nat := bits h 4 2
def bands (h : Nat) : Nat := 2 ^ bits h 6 2
def condRow (h : Nat) : Bool := bit h 13
def state (h : Nat) : Nat := bits h 16 13
def scratch (h : Nat) : Nat := bits h 29 12
def cond (h : Nat) : Nat := bits h 41 13
def mixK (h : Nat) : Nat := bits h 64 4
def classes (h : Nat) : Nat := bits h 68 12 + 1
def anneal (h : Nat) : Nat := bits h 128 64

/-- Logits per band and Punch cycles per slot per band (Table 4-8). -/
def perBand (h : Nat) : Nat := if punch h = 0 then 512 else if punch h = 1 then 3 * mixK h else classes h
def punchCycles (h : Nat) : Nat := if punch h = 0 then 16 else if punch h = 1 then 8 else cdiv (classes h) 64 + 8

/-- Weights per Feed cycle (Tables 1-4 and 4-1). The prose after Table 1-4 (01 R21) gives the Feed 64 weights per cycle at W2T, against the 128
of both tables: the model takes the tables (DEDUCED, log entry 74). -/
def wide (h : Nat) : Nat := if fmt h = 2 then 128 else if fmt h = 3 then 32 else 64

/-- COND_BYTES (05 R115): the smallest power of two from 64 to 4,096 that holds the header, if any, and the codes. -/
def condBytes (h : Nat) : Nat :=
  let n := (if condRow h then 64 else 0) + 64 * cdiv (cond h) 64
  ((List.range 7).map fun i => 64 * 2 ^ i).find? (fun s => decide (n ≤ s)) |>.getD 4096

/-- The fields of a header in range (Tables 4-3, 10-14; 05 R115). -/
def ok (h : Nat) : Bool :=
  bits h 14 2 == 0 && bits h 54 10 == 0 && bits h 80 48 == 0 && bits h 288 224 == 0 && Num.isWeightFmt (fmt h) && punch h != 3 &&
    bits h 6 2 != 3 && decide (state h ≤ 4096) && decide (scratch h ≤ 2048) && decide (1 ≤ cond h) && decide (cond h ≤ 4096) &&
    (!condRow h || decide (cond h ≤ 4032)) && (punch h != 1 || (decide (1 ≤ mixK h) && decide (mixK h ≤ 10))) &&
    (punch h != 2 || decide (2 ≤ classes h)) && decide (bands h * perBand h ≤ 4096) && Num.annealOk (anneal h)

end Hdr

/-! Fields of a layer entry. -/

namespace Lay

def rows (e : Nat) : Nat := bits e 0 12 + 1
def segs (e : Nat) : Nat := bits e 12 2 + 1
def inp (e s : Nat) : Nat := bits e (14 + 3 * s) 3
def dest (e : Nat) : Nat := bits e 26 2
def postop (e : Nat) : Nat := bits e 28 4
def cols (e s : Nat) : Nat := bits e (64 + 13 * s) 13
def start (e s : Nat) : Nat := bits e (128 + 12 * s) 12
def group (e : Nat) : Nat := bits e 192 2 + 1
def aSel (e : Nat) : Nat := bits e 194 3
def bSel (e : Nat) : Nat := bits e 197 3
def gSel (e : Nat) : Nat := bits e 200 3
def src (e : Nat) : Nat := bits e 203 12
def dst (e : Nat) : Nat := bits e 215 12
def lutIdx (e : Nat) : Nat := bits e 227 8
def block (e : Nat) : Nat := bits e 235 6 + 1
def outOff (e : Nat) : Nat := bits e 256 32
def mapOff (e : Nat) : Nat := bits e 288 32
def codeRow (e : Nat) : Nat := bits e 320 18
def dirRow (e : Nat) : Nat := bits e 338 18
def sideRow (e : Nat) : Nat := bits e 356 18
def expRow (e : Nat) : Nat := bits e 374 18

/-- Segment numbers in Feed order (R242). -/
def order (e : Nat) : List Nat := (List.range (segs e)).map fun i => bits e (241 + 2 * i) 2

/-- Elements of the layer: one per group (R243). -/
def elems (e : Nat) : Nat := rows e / group e

/-- The selectors that the post-op uses (R243). -/
def used (e : Nat) : List Nat :=
  if postop e ≤ 1 then [aSel e] else if postop e = 2 then [aSel e, gSel e] else [aSel e, bSel e, gSel e]

/-- Column groups of a segment, and of a whole row (R72). -/
def groupsOf (w e s : Nat) : Nat := cdiv (cols e s) w
def perRow (w e : Nat) : Nat := ((List.range (segs e)).map (groupsOf w e)).foldl (· + ·) 0

/-- Feed cycles of the layer (R71). -/
def cycles (w e : Nat) : Nat := rows e * perRow w e

/-- The rows of the block of Feed-order index `i`: its first index and its length. -/
def blockOf (e i : Nat) : Nat × Nat := (i / block e * block e, min (block e) (rows e - i / block e * block e))

/-- The layer's Feed cycles in order: index, segment, column group (R242). -/
def feed (w e : Nat) : List (Nat × Nat × Nat) :=
  (List.range (cdiv (rows e) (block e))).flatMap fun b =>
    let r := blockOf e (b * block e)
    (order e).flatMap fun s => (List.range (groupsOf w e s)).flatMap fun c => (span r.1 r.2).map fun i => (i, s, c)

/-- Elements of an input (R78). -/
def inputLen (h k : Nat) : Nat := if k = 0 then Hdr.cond h else if k = 1 then 64 else if k = 4 then Hdr.scratch h else Hdr.state h

/-- A selector of the layer in range (R78, R243). That a selector 0 to 3 naming a row at or above GROUP refuses the load is the model's choice:
the spec gives such a selector no row and lists no refusal (DESIGN CHOICE, log entry 75). -/
def selOk (h e k : Nat) : Bool :=
  if k ≤ 3 then decide (k < group e) else if k = 5 then decide (src e + elems e ≤ Hdr.scratch h)
  else k != 7 && decide (elems e ≤ Hdr.state h)

/-- The checks of a layer entry by itself (R78, Tables 10-15 and 4-4). -/
def ok (h e : Nat) : Bool :=
  bits e 32 32 == 0 && bits e 116 12 == 0 && bits e 176 16 == 0 && bits e 249 7 == 0 && bits e 392 120 == 0 && dest e != 3 &&
    decide (postop e ≤ 3) && rows e % group e == 0 && (used e).all (selOk h e) &&
    (List.range (segs e)).all (fun s => decide (inp e s ≤ 4) && decide (1 ≤ cols e s) && decide (cols e s ≤ 4096) &&
      decide (start e s + cols e s ≤ inputLen h (inp e s)) && (order e).contains s) &&
    (dest e != 0 || decide (dst e + elems e ≤ Hdr.state h)) && (dest e != 1 || decide (dst e + elems e ≤ Hdr.scratch h)) &&
    (dest e != 2 || (postop e == 0 && group e == 1 && aSel e == 0))

/-- The rows are HELD at the stream's K: they go to carried state without a table (R77, R80). -/
def held (e : Nat) : Bool := dest e == 0 && postop e != 1

/-- The checks of its output descriptor (Tables 10-9, 2-12; R50). -/
def outOk (e d : Nat) : Bool :=
  let o := OutDesc.of d
  bits d 72 56 == 0 && bits d 262 250 == 0 && o.rnd != 3 && decide (o.group ≤ 16) && o.m % 64 == 0 && Num.annealOk o.anneal &&
    (held e || o.anneal == 0) && (dest e != 2 || o.assay == 0)

/-- The weight arrays of the layer: first row in the weight section and bytes (R78). -/
def arrays (h e : Nat) : List (Nat × Nat) :=
  let t := cycles (Hdr.wide h) e
  let n := t * Hdr.wide h
  (codeRow e, 32 * t) :: (if Num.hasEscapes (Hdr.fmt h) then [(dirRow e, 8 * cdiv n 4096)]
    else if Hdr.fmt h = 1 then [(expRow e, cdiv n 32)] else [])

/-- Code rows of the layer that the Feed reads, 16 Feed cycles each. -/
def codeRows (h e : Nat) : Nat := cdiv (cycles (Hdr.wide h) e) 16

/-- The Feed cycles whose codes code row `c` holds. -/
def rowCycles (h e c : Nat) : List (Nat × Nat × Nat) := ((feed (Hdr.wide h) e).drop (16 * c)).take 16

end Lay

/-! ### The step schedule (R79 to R81) -/

/-- The schedule so far: the next Feed cycle, idle cycles, the cycle at which the last logit is in the buffer, the cycle of the first feedback
read, scratch elements made (a bit each), the latest post-op cycle by group of 64 state and scratch elements, and whether every scratch
read was made before. -/
structure Sched where
  cur : Nat := 0
  bub : Nat := 0
  logit : Nat := 0
  first : Option Nat := none
  made : Nat := 0
  state : Tab Nat := []
  scratch : Tab Nat := []
  ok : Bool := true
  deriving DecidableEq, Repr, Inhabited

namespace Sched

/-- The readable cycle of elements `a` to `a + n - 1` of an input (R81); `fb` is the feedback vector's. -/
def need (x : Sched) (fb k a n : Nat) : Nat :=
  let t := fun (m : Tab Nat) => (span (a / 64) ((a + n - 1) / 64 - a / 64 + 1)).foldl (fun r g =>
    match Tab.find g m with
    | some c => max r (c + 1)
    | none => r) 0
  if k = 1 then fb else if k = 3 then t x.state else if k = 4 then t x.scratch else 0

def hasMade (x : Sched) (a n : Nat) : Bool := bits x.made a n == 2 ^ n - 1

/-- One Feed cycle of a layer: idle cycles before it, and the element that its row completes. -/
def cycle (w fb e : Nat) (x : Sched) (f : Nat × Nat × Nat) : Sched :=
  let k := Lay.inp e f.2.1
  let a := Lay.start e f.2.1 + f.2.2 * w
  let n := min w (Lay.cols e f.2.1 - f.2.2 * w)
  let t := max x.cur (x.need fb k a n)
  let x := { x with
    cur := t + 1, bub := x.bub + (t - x.cur), first := if k = 1 ∧ x.first.isNone then some t else x.first, ok := x.ok && (k != 4 || x.hasMade a n) }
  let last := (Lay.order e).getLast? == some f.2.1 && f.2.2 + 1 == Lay.groupsOf w e f.2.1
  if last && (f.1 + 1) % Lay.group e == 0 then
    let g := f.1 / Lay.group e
    let d := Lay.dst e + g
    let x := if (Lay.used e).contains 5 then { x with ok := x.ok && x.hasMade (Lay.src e + g) 1 } else x
    if Lay.dest e = 2 then { x with logit := max x.logit (t + 24) }
    else if Lay.dest e = 0 then { x with state := Tab.put (d / 64) (t + 32) x.state }
    else { x with scratch := Tab.put (d / 64) (t + 32) x.scratch, made := x.made ||| 2 ^ d }
  else x

/-- A whole step with the feedback vector readable from cycle `fb`. -/
def run (w fb : Nat) (es : List Nat) : Sched := es.foldl (fun x e => (Lay.feed w e).foldl (cycle w fb e) x) {}

/-- The readable cycle of the feedback vector that a schedule gives (R81, R87, R90). -/
def feedback (h : Nat) (x : Sched) : Nat := (x.logit + 16 * Hdr.bands h * Hdr.punchCycles h + 8 + 1) - x.cur

/-- The fewest idle cycles: while the first feedback read is early, one more stands before it and the reads are evaluated again (R81); `fuel`
bounds the rounds. -/
def settle (h : Nat) (es : List Nat) : Nat → Nat → Sched
  | 0, fb => run (Hdr.wide h) fb es
  | fuel + 1, fb =>
    let x := run (Hdr.wide h) fb es
    match x.first with
    | none => x
    | some t => if feedback h x ≤ t then x else settle h es fuel (t + 1)

/-- The schedule of a model (R81). -/
def of (h : Nat) (es : List Nat) : Sched := settle h es (1 + (es.map (Lay.cycles (Hdr.wide h))).foldl (· + ·) 0 + 16 * 4 * 72) 0

end Sched

/-- The Punch buffer is written exactly once, element by element (R78). -/
def punchCovered (h : Nat) (es : List Nat) : Bool :=
  let l := (es.filter fun e => Lay.dest e == 2).map fun e => (Lay.dst e, Lay.rows e)
  let n := Hdr.bands h * Hdr.perBand h
  l.all (fun x => decide (x.1 + x.2 ≤ n)) && (List.range n).all fun i => (l.filter fun x => decide (x.1 ≤ i) && decide (i < x.1 + x.2)).length == 1

/-! ### The load (R241) -/

namespace Rd

/-- Work of a Gang is reported for its lowest Lathe. -/
def asGang {α : Type} (g : Nat) (m : Rd α) : Rd α := fun w => m { w with eng := some (.lathe, 8 * g) }

/-- One layer of an image at `a`: its tables read and checked (R78). -/
def layer (image h n lutOff die row cab : Nat) (off : Nat) : Rd Layer := do
  let e ← controlNat (image + off + 64 * n) 64
  need (Lay.ok h e)
  let d ← controlNat (image + Lay.outOff e) 64
  need (Lay.outOk e d)
  let m ← mArr (image + (OutDesc.of d).m) (Lay.rows e)
  let order ← if Lay.mapOff e = 0 then pure (List.range (Lay.rows e)) else do
    let b ← control (image + Lay.mapOff e) (2 * Lay.rows e)
    pure ((pieces 2 (Lay.rows e) b).map leNat)
  need ((List.range (Lay.rows e)).all order.contains)
  let lut ← if Lay.postop e = 1 then control (image + lutOff + 256 * Lay.lutIdx e) 256 else pure []
  (Lay.arrays h e).forM fun x => do
    need (decide (512 * (row + x.1) + x.2 ≤ 2 ^ 27))
    let s := (← part).share cab die
    let last := row + x.1 + (x.2 - 1) / 512
    if row + x.1 < s.1 then addrFault (benchAt die (512 * (row + x.1)))
    if s.1 + s.2 ≤ last then addrFault (benchAt die (512 * max (row + x.1) (s.1 + s.2)))
  return ⟨e, d, m, order, lut.map BitVec.toNat⟩

/-- An image read and checked, and its schedule derived, for Gang `g` of Cabinet `cab`. -/
def image (image row g cab : Nat) : Rd (Nat × List Layer × Sched) := do
  let h ← controlNat image 64
  need (Hdr.ok h)
  let ls ← (List.range (bits h 8 5 + 1)).mapM fun n => layer image h n (bits h 224 32) (g / 4) row cab (bits h 192 32)
  let es := ls.map Layer.img
  need (punchCovered h es)
  let x := Sched.of h es
  need x.ok
  return (h, ls, x)

end Rd

namespace Part

def gang (p : Part) (g : Nat) : Gang := Tab.getD p.gangs g {}
def setGang (p : Part) (g : Nat) (x : Gang) : Part := { p with gangs := Tab.put g x p.gangs }

/-- The slots of a Gang that are occupied. -/
def gangSlots (p : Part) (g : Nat) : List (Nat × Slot) := p.slots.filter fun e => e.1 / 128 == g

/-- The rows of a loaded model's arrays on its die, side lists where the directories of the load point (R86). -/
def modelRows (p : Part) (die : Nat) (x : Gang) : List Nat :=
  x.layers.flatMap fun l =>
    let n := Lay.cycles (Hdr.wide x.hdr) l.img * Hdr.wide x.hdr
    let arr := (Lay.arrays x.hdr l.img).flatMap fun a => span (x.row + a.1) (cdiv a.2 512)
    let side := if Num.hasEscapes (Hdr.fmt x.hdr) then (List.range (cdiv n 4096)).flatMap fun k =>
        let d := leNat (p.mem.read (benchAt (p.phys die) (512 * (x.row + Lay.dirRow l.img) + 8 * k)) 8)
        let f := 2 * bits d 0 40
        if bits d 40 13 = 0 ∨ 2 ^ 27 ≤ f then [] else span (x.row + Lay.sideRow l.img + f / 512) ((f + 2 * bits d 40 13 - 1) / 512 - f / 512 + 1)
      else []
    arr ++ side

/-- The Feed holds the banks of its model powered (R86): gated ones wake. -/
def holdBanks (p : Part) (g : Nat) : Part :=
  let bs := ((p.modelRows (g / 4) (p.gang g)).map bankOf).eraseDups
  let d := p.phys (g / 4)
  let p := { p with bench := { p.bench with feedBanks := Tab.put g bs p.bench.feedBanks } }
  bs.foldl (fun p b => if (p.bank d b).gated then p.wakeBank d b else p) p

/-- A Gang's model is unbound (11 R255 step 6, R262 step 7). -/
def unbind (p : Part) (g : Nat) : Part :=
  let x := p.gang g
  let p := p.setGang g { clock := x.clock, waking := x.waking, fifoMin := x.fifoMin, lead := x.lead }
  { p with bench := { p.bench with feedBanks := Tab.del g p.bench.feedBanks } }

/-- Binds a model that has been read to a Gang (R241). A new LEAD takes effect (Table 4-6). -/
def bindModel (p : Part) (g c b handle image row : Nat) (m : Nat × List Layer × Sched) : Part :=
  let x := p.gang g
  let lead := p.rf .gangFeedCtl (p.phys (g / 4)) (g % 4) 0 8
  (p.setGang g { x with
    loaded := true, ctx := c, cab := b, handle := handle, image := image, row := row, hdr := m.1, layers := m.2.1
    stepCycles := m.2.2.cur, bubbles := m.2.2.bub, lead := lead, fifoMin := 0, stepping := false, layer := 0, taken := 0, feed := {} }).holdBanks g

/-- Gangs of a Cabinet that have a model of the context bound. -/
def boundGangs (p : Part) (c b handle : Nat) : List Nat :=
  (p.cabGangs b).filter fun g => (p.gang g).loaded && (p.gang g).ctx == c && (p.gang g).handle == handle

/-- Whether MODEL is available to the streams of a context on a Cabinet (05 R109). -/
def modelHere (p : Part) (c b handle : Nat) : Bool :=
  !(p.boundGangs c b handle).isEmpty ||
    (match p.hold c b with
    | some h => h.st != .resident && h.gangs.any fun r => r.handle == handle
    | none => false) ||
    (p.ctx c).pendModels.any fun m => m.2.1 == handle && m.2.2.2.2 == b

end Part

end Sys2Proof.Machine
end

