-- ==== Sys2Proof/Machine/Lathe.lean ====
section
/-!
DEFINITION. Sys2Proof/Machine/Lathe.lean: what one slot computes in a step (04_lathes_and_gangs): segments and rows, post-ops (R80, R243), the numbers
of roundings (03 R64), and the Punch (R87 to R90).
-/

namespace Sys2Proof.Machine
open Sys2Proof

/-- What a slot brings to a step: header, seed, stream and step for the random bits, the read bank and K, feedback vector, conditioning
codes and their exponent. Codes are bytes. -/
structure LIn where
  h : Nat
  seed : Rand.Seed
  strm : Nat
  step : Nat
  prev : List Nat
  k : Int
  f : List Nat
  cond : List Nat
  condK : Int
  deriving DecidableEq, Repr, Inhabited

/-- What a layer changes: write bank, scratch, logits, open entries, the rows of a group that the output stage holds, statistics of the
state written, statistics of the layer's outputs, and the counts of accumulator saturations, float saturations, output saturations and
limited MIX differences. -/
structure LRun where
  wr : List Nat
  scratch : List Nat
  logits : List Nat
  opens : Tab Open := []
  outs : List (Nat × Stat) := []
  stat : Stat := {}
  ls : Stat := {}
  acc : Nat := 0
  ovf : Nat := 0
  sat : Nat := 0
  clamp : Nat := 0
  deriving DecidableEq, Repr, Inhabited

/-- Two statistics taken together. -/
def Stat.join (a b : Stat) : Stat := { n := a.n + b.n, sats := a.sats + b.sats, sse := a.sse + b.sse, maxc := max a.maxc b.maxc }

/-- The statistics of an output row. -/
def Stat.of (s : Num.RowStat) : Stat := { n := s.n, sats := s.sats, sse := s.sse, maxc := s.maxc }

/-- Products added to an open entry (04 R75): exactly in the integer path (02 R39), in groups of 32 in the float path (R40). -/
def Open.feed (int : Bool) (l : List (Num.WVal × Num.XVal)) (o : Open) : Open :=
  if int then
    let s := l.foldl (fun a t => let r := Num.intTerm t; (a.1 + r.1, a.2 + r.2)) (o.acc, o.e16)
    { o with acc := s.1, e16 := s.2 }
  else
    let s := Num.floatGroups l (o.acc, o.ovf)
    { o with acc := s.1, ovf := s.2 }

/-- An open entry as the segment that the output stage reads (R39, R41), with its saturations of the integer and of the float sum. -/
def Open.seg (int : Bool) (k : Int) (o : Open) : Num.Seg × Nat × Nat :=
  if int then
    let c := clampI (-2 ^ 31) (2 ^ 31 - 1) o.acc
    (⟨true, c, o.e16, k⟩, b2n (c != o.acc), 0)
  else (⟨false, o.acc, 0, k⟩, 0, o.ovf)

/-- A byte code as a signed element. -/
def s8 (l : List Nat) (i : Nat) : Int := signed 8 (l.getD i 0)

namespace Lay

/-- The row of each group whose output-stage rounding takes the state element index (R64, R80). -/
def taken (e : Nat) : Option Nat := if dest e = 0 ∧ postop e ≤ 1 ∧ aSel e ≤ 3 then some (aSel e) else none

/-- The post-op rounds: GATE and MIX. -/
def rounds (e : Nat) : Bool := decide (2 ≤ postop e)

/-- How many of its roundings take numbers from 4,096 upward (R64). -/
def numbered (e : Nat) : Nat :=
  (if (taken e).isSome then rows e - elems e else rows e) + (if rounds e ∧ dest e ≠ 0 then elems e else 0)

end Lay

/-- The rounding number of the output stage of Feed-order index `i`, and of the post-op of group `g`, in a layer whose numbers start at
`base` (R64). -/
def Layer.rowNumber (l : Layer) (base i : Nat) : Nat :=
  let free := fun (j : Nat) => match Lay.taken l.img with
    | some a => j % Lay.group l.img != a
    | none => true
  if free i then
    base + ((l.order.mapIdx fun j r => (j, r)).filter fun x => free x.1 && decide (x.2 < l.order.getD i 0)).length
  else Lay.dst l.img + i / Lay.group l.img

def Layer.postNumber (l : Layer) (base g : Nat) : Nat :=
  if Lay.dest l.img = 0 then Lay.dst l.img + g
  else base + (if (Lay.taken l.img).isSome then Lay.rows l.img - Lay.elems l.img else Lay.rows l.img) + g

/-- A layer at work: the slot's inputs, the layer and its first rounding number. -/
structure LCtx where
  x : LIn
  l : Layer
  base : Nat

namespace LCtx

def e (c : LCtx) : Nat := c.l.img
def w (c : LCtx) : Nat := Hdr.wide c.x.h
def int (c : LCtx) : Bool := Hdr.fmt c.x.h != 1
def rnd (c : LCtx) : Nat := (OutDesc.of c.l.out).rnd
def bitOf (c : LCtx) (n : Nat) : Bool := c.rnd == 2 && Rand.roundBit c.x.seed c.x.strm c.x.step n

/-- Element `i` of input `k` as a Feed cycle reads it (R75, R79): state current and scratch hold what the groups completed before it in Feed
order wrote, which the schedule has made readable (R81). -/
def operand (c : LCtx) (r : LRun) (k i : Nat) : Int :=
  if k = 0 then s8 c.x.cond i else if k = 1 then s8 c.x.f i else if k = 2 then s8 c.x.prev i
  else if k = 3 then s8 r.wr i else s8 r.scratch i

/-- The exponent k_s of an input (R41, R77, R90). -/
def segK (c : LCtx) (k : Nat) : Int := if k = 0 then c.x.condK else if k = 2 ∨ k = 3 then c.x.k else 0

/-- The products of the Feed cycle of segment `s`, column group `g`, over its weights. -/
def products (c : LCtx) (r : LRun) (s g : Nat) (ws : List Num.WVal) : List (Num.WVal × Num.XVal) :=
  (List.range (min c.w (Lay.cols c.e s - g * c.w))).map fun j =>
    (ws.getD j (.code 0), .int (c.operand r (Lay.inp c.e s) (Lay.start c.e s + g * c.w + j)))

/-- The key of the open entry of Feed-order index `i`, segment `s`. -/
def key (i s : Nat) : Nat := 4 * i + s

/-- The output exponent of the layer's rows. -/
def outK (c : LCtx) : Int := if Lay.held c.e then c.x.k else 0

/-- The settings of the output stage of row `j` of a group: the row that G_SEL names is unsigned (R80). -/
def cfg (c : LCtx) (j : Nat) : Num.OutCfg :=
  { fmt := if Lay.dest c.e = 2 then 10 else 8
    uns := Lay.rounds c.e && Lay.gSel c.e == j
    rnd := c.rnd
    mode := if Lay.held c.e then 2 else 0
    s := (OutDesc.of c.l.out).s
    z := 0
    k := c.outK }

/-- Feed-order index `i` after its last Feed cycle (R79): its open entries are read and freed, its value goes through the output stage, and the
run with its events counted. -/
def row (c : LCtx) (r : LRun) (i : Nat) : LRun :=
  let segs := (List.range (Lay.segs c.e)).map fun s =>
    Open.seg c.int (c.segK (Lay.inp c.e s)) (Tab.getD r.opens (key i s) {})
  let g := segs.map Prod.fst
  let o := Num.outRow (c.cfg (i % Lay.group c.e)) (fun _ => c.bitOf (c.l.rowNumber c.base i))
    [⟨Num.merge g, c.l.m.getD (c.l.order.getD i 0) 0, Num.kMin g⟩]
  { r with
    opens := (List.range (Lay.segs c.e)).foldl (fun t s => Tab.del (key i s) t) r.opens
    outs := r.outs ++ [((o.1.map Num.OutEl.code).headD 0, Stat.of o.2)]
    acc := r.acc + (segs.map fun s => s.2.1).foldl (· + ·) 0
    ovf := r.ovf + (segs.map fun s => s.2.2).foldl (· + ·) 0
    sat := r.sat + o.2.sats
    ls := r.ls.join (Stat.of o.2) }

/-- A selector of group `g` (R243): its value and exponent. `outs` are the codes of the group's rows. -/
def select (c : LCtx) (r : LRun) (outs : List Nat) (g k : Nat) : Int × Int :=
  if k ≤ 3 then (if (c.cfg k).uns then Int.ofNat (outs.getD k 0) else s8 outs k, c.outK)
  else if k = 4 then (s8 c.x.prev g, c.x.k)
  else if k = 5 then (s8 r.scratch (Lay.src c.e + g), 0)
  else (s8 r.wr g, c.x.k)

/-- The gate operand: an unsigned byte (R80). -/
def gate (c : LCtx) (r : LRun) (outs : List Nat) (g : Nat) : Int :=
  let v := (c.select r outs g (Lay.gSel c.e)).1
  Int.ofNat (unsigned 8 v)

/-- A value rounded by the post-op: `a + p * 2^-t`, clamped to 8 bits, with its statistics. -/
def close (c : LCtx) (g : Nat) (a p : Int) (t : Nat) : Int × Stat :=
  let v := a + Num.roundMode c.rnd (c.bitOf (c.l.postNumber c.base g)) p (Int.ofNat t)
  let q := clampI (-128) 127 v
  (q, ⟨1, b2n (q != v), Num.sqErr q (a * 2 ^ t + p) (Int.ofNat t), q.natAbs⟩)

/-- The post-op of group `g` (Table 4-4): the element, its statistics, and whether MIX limited a difference. -/
def postop (c : LCtx) (r : LRun) (g : Nat) : Int × Stat × Bool :=
  let codes := r.outs.map Prod.fst
  let a := c.select r codes g (Lay.aSel c.e)
  let plain := fun (v : Int) => ((⟨1, 0, 0, v.natAbs⟩ : Stat))
  match Lay.postop c.e with
  | 0 => (a.1, if Lay.aSel c.e ≤ 3 then (r.outs.getD (Lay.aSel c.e) (0, {})).2 else plain a.1, false)
  | 1 =>
    let v := signed 8 (c.l.lut.getD (a.1 + 128).toNat 0)
    (v, plain v, false)
  | 2 => let q := c.close g 0 (a.1 * c.gate r codes g) 8; (q.1, q.2, false)
  | _ =>
    let b := c.select r codes g (Lay.bSel c.e)
    let da := min (a.2 - min a.2 b.2).toNat 24
    let db := min (b.2 - min a.2 b.2).toNat 24
    let d := b.1 * 2 ^ db - a.1 * 2 ^ da
    let q := c.close g a.1 (c.gate r codes g * d) (8 + da)
    (q.1, q.2, decide (24 < (a.2 - b.2).natAbs))

/-- Group `g` when its last row has left the output stage: its post-op, and its element written (R79, R243). -/
def group (c : LCtx) (r : LRun) (g : Nat) : LRun :=
  let d := Lay.dst c.e + g
  if Lay.dest c.e = 2 then { r with logits := r.logits.set d ((r.outs.map Prod.fst).headD 0), outs := [] } else
  let o := c.postop r g
  let r := { r with outs := [], clamp := r.clamp + b2n o.2.2, sat := r.sat + (if Lay.rounds c.e then o.2.1.sats else 0) }
  if Lay.dest c.e = 0 then { r with wr := r.wr.set d (unsigned 8 o.1), stat := r.stat.join o.2.1 }
  else { r with scratch := r.scratch.set d (unsigned 8 o.1) }

/-- One Feed cycle (R75, R79): index, segment and column group, with its weights. The row's last one completes it, and its group's last row
the group. -/
def cycle (c : LCtx) (r : LRun) (f : Nat × Nat × Nat) (ws : List Num.WVal) : LRun :=
  let o := Open.feed c.int (c.products r f.2.1 f.2.2 ws) (Tab.getD r.opens (key f.1 f.2.1) {})
  let r := { r with opens := Tab.put (key f.1 f.2.1) o r.opens }
  if (Lay.order c.e).getLast? == some f.2.1 && f.2.2 + 1 == Lay.groupsOf c.w c.e f.2.1 then
    let r := c.row r f.1
    if (f.1 + 1) % Lay.group c.e = 0 then c.group r (f.1 / Lay.group c.e) else r
  else r

/-- Consecutive Feed cycles with their weights. -/
def run (c : LCtx) (r : LRun) (l : List ((Nat × Nat × Nat) × List Num.WVal)) : LRun := l.foldl (fun r y => c.cycle r y.1 y.2) r

end LCtx

/-- The first rounding number of each layer (R64). -/
def roundBase (es : List Nat) (n : Nat) : Nat := 4096 + ((es.take n).map Lay.numbered).foldl (· + ·) 0

/-! ### The Punch (R87 to R90) -/

namespace Punch

/-- EXPT[f], floor(2^(24 - f/256) + 1/2) (R88). -/
def expt (f : Nat) : Nat := (Num.rootGo 8 (2 ^ (6400 - f)) + 1) / 2

/-- L[i] of R88. -/
def scaled (it : F32) (l : List F32) : List Int :=
  l.map fun x => clampI (-2 ^ 31) (2 ^ 31 - 1) (Num.roundMode 0 false (x * it) 290)

def top (l : List Int) : Int := l.foldl (fun a x => if a < x then x else a) (l.headD 0)

/-- w[i] of R88. -/
def weight (m l : Int) : Nat :=
  let g := (m - l).toNat * 23637 / 2 ^ 14
  if 24 ≤ g / 256 then 0 else expt (g % 256) / 2 ^ (g / 256)

/-- The scan of R88. -/
def scan (t : Nat) : List Nat → Nat → Nat → Nat
  | [], c, _ => c
  | [_], c, _ => c
  | w :: rest, c, acc => if acc + w ≤ t then scan t rest (c + 1) (acc + w) else c

/-- A class draw over logits with a 32-bit draw, or the greedy choice (R88, R90). -/
def draw (it : F32) (greedy : Bool) (l : List F32) (r : Nat) : Nat :=
  let L := scaled it l
  let m := top L
  if greedy then (L.findIdx? fun x => x == m).getD 0
  else
    let w := L.map (weight m)
    scan (r * w.foldl (· + ·) 0 / 2 ^ 32) w 0 0

/-- The logistic variate of R89 in units of 2^-12. -/
def logistic (q : Nat) : Int :=
  let v := Num.lnFix (Num.ofInt (Int.ofNat (2 * q + 1))) - Num.lnFix (Num.ofInt (Int.ofNat (131071 - 2 * q)))
  (v * 2 ^ 12 + 2 ^ (Num.fb - 1)) / 2 ^ Num.fb

/-- One band (Table 4-8): the output value as 16 bits, and the two feedback elements. -/
def band (h ent : Nat) (l : List F32) (r : Nat × Nat) : Nat × Int × Int :=
  let it := (Num.bf16 (bits ent 16 16)).1
  let gr := bit ent 6
  if Hdr.punch h = 0 then
    let c := draw it gr (l.take 256) r.1
    let f := draw it gr (l.drop 256) r.2
    (unsigned 16 (Int.ofNat (c * 256 + f) - 32768), Int.ofNat c - 128, Int.ofNat f - 128)
  else if Hdr.punch h = 1 then
    let n := Hdr.mixK h
    let k := draw it gr (l.take n) r.1
    let mu := l.getD (n + k) 0
    let s := l.getD (2 * n + k) 0
    let e := Num.fexp (if s < -16 * 2 ^ 149 then -16 * 2 ^ 149 else s)
    let x := if gr then mu else Num.fadd mu (Num.fmul e (logistic (r.2 / 2 ^ 16) * 2 ^ 137))
    let v := clampI (-32768) 32767 (Num.roundMode 0 false x 134)
    (unsigned 16 v, v / 256, v % 256 - 128)
  else
    let c := draw it gr l r.1
    (c, Int.ofNat (c / 64) - 32, Int.ofNat (c % 64) - 32)

/-- Class draws per band: each reads INV_TEMP. -/
def reads (h : Nat) : Nat := if Hdr.punch h = 0 then 2 else 1

/-- All bands of a slot: output values and the feedback vector as bytes (R90). -/
def slot (h ent strm step : Nat) (sd : Rand.Seed) (logits : List Nat) : List Nat × List Nat :=
  let n := Hdr.perBand h
  let bs := (List.range (Hdr.bands h)).map fun b =>
    band h ent (((logits.drop (b * n)).take n).map fun c => (Num.bf16 c).1) (Rand.draws sd strm step b)
  (bs.map Prod.fst, (bs.flatMap fun b => [unsigned 8 b.2.1, unsigned 8 b.2.2]) ++ rep (64 - 2 * Hdr.bands h) 0)

end Punch

end Sys2Proof.Machine
end

