-- ==== Sys2Proof/Machine/Streams.lean ====
section
/-!
DEFINITION. Sys2Proof/Machine/Streams.lean: streams (05_stream_table): operations and their order, chunks, placement in slots, save records
(11 R257), restores, exchanges, and the MODEL_LOAD task (10 R241).
-/

namespace Sys2Proof.Machine
open Sys2Proof

/-- Records of `n` steps of a chunk fill this many rows (R115). -/
def Strm.rowsOf (x : Strm) (n : Nat) : Nat := cdiv (n * x.cb) 512

/-- The chunk that holds step `n`. -/
def Strm.chunkAt (x : Strm) (n : Nat) : Option Chunk := x.chunks.find? fun h => decide (h.first ≤ n) && decide (n < h.first + h.len)

/-- The input position at which the record of step `n` starts: in its chunk, or where the next chunk will stand (R115, R116). -/
def Strm.posOf (x : Strm) (n : Nat) : Nat :=
  match x.chunkAt n with
  | some h => h.pos + (n - h.first) * x.cb / 512
  | none => x.inPos

/-- Step `n` carries a reset mark (R117). -/
def Strm.marked (x : Strm) (n : Nat) : Bool :=
  match x.chunkAt n with
  | some h => h.marks.contains (n - h.first)
  | none => false

def Strm.put (x : Strm) (lo w v : Nat) : Strm := { x with ent := setBits x.ent lo w v }

namespace Part

/-- Entries of a context's table (R98). -/
def strmCount (p : Part) (c : Nat) : Nat := 2 ^ p.rf .ctxStreams 0 c 0 5

/-- The bench die on which a stream's events count: its slot's, else the home die of its Cabinet. -/
def strmDie (p : Part) (c n b : Nat) : Nat :=
  match p.slotOf c n with
  | some k => k / 512
  | none => p.homeDie b

def strmRegionsOk (p : Part) (c e : Nat) : Bool :=
  p.strmRegionOk c (Ent.cab e) (Ent.inDie e) (Ent.inRegion e) && p.strmRegionOk c (Ent.cab e) (Ent.outDie e) (Ent.outRegion e)

/-- The largest RATE that the model's Gang admits (04 R93). Where no Gang of the Cabinet has MODEL bound, so that a SET has no STEP_CYCLES to be
checked against, the model checks the limit of 24,000 alone (DESIGN CHOICE, log entry 76). -/
def rateMax (p : Part) (c e : Nat) : Nat :=
  match (p.boundGangs c (Ent.cab e) (Ent.model e)).head? with
  | some g => min 24000 (1600000000 / max (p.gang g).stepCycles 1)
  | none => 24000

/-- A stream operation's task completes, accepted (R235). -/
def opDone (p : Part) (n : Nat) (o : StrOp) : Part := p.completeRec o.job o.rix 0 false false (opResult n o)

/-- RESULT of an operation that is refused: a CHUNK reports its first step and length, and no rows (12 Table 12-5). -/
def refusedResult (n : Nat) (o : StrOp) : Nat :=
  if o.op = 1 then chunkResult n { job := o.job, rix := o.rix, first := bits o.desc 64 64, len := bits o.desc 34 16 + 1, marks := [] }
  else opResult n o

/-- A refusal (R105): LAST_CODE in the entry, where there is one, and the task completes with the code; a CHUNK reports LATE_STEP (R113). -/
def refuseOp (p : Part) (c n : Nat) (o : StrOp) (code : Nat) : Part :=
  let b := match p.job o.job with
    | some x => x.cab
    | none => 0
  let late := o.op == 1 && (match p.strm c n with
    | some x => bit x.ent 5
    | none => false)
  let p := p.bumpStream (p.strmDie c n b) c 5 1
  let p := match p.strm c n with
    | some _ => (p.mapStrm c n fun x => x.put 640 16 code).strmBack c n
    | none => if p.strmCount c ≤ n then p else p.ctlWrite c (p.strmAddr c n + 80) (leBytes 2 code)
  p.completeRec o.job o.rix code false late (refusedResult n o)

/-! ### Placement (R106, R108) -/

/-- Slot `k` is given to a stream, which becomes RESTORING (Table 5-5). -/
def placeStrm (p : Part) (c n k : Nat) : Part :=
  let p := p.setSlot k { ctx := c, strm := n }
  (p.mapStrm c n fun x => x.put 176 12 k).strmState c n 5

def openSlot (p : Part) (g : Nat) : Option Nat := (span (128 * g) 128).find? fun k => (p.slot k).isNone

/-- The better of two streams under R108: earlier deadline of the next step among RATE ≠ 0, before RATE = 0; ties to the lower number. -/
def sooner (a b : Nat × Nat) : Nat × Nat :=
  let d := fun (x : Nat × Nat) => Ent.deadline x.2 (Ent.step x.2)
  if Ent.rate a.2 = 0 then (if Ent.rate b.2 = 0 then a else b)
  else if Ent.rate b.2 = 0 then a else if d b < d a then b else a

/-- The STATE_ABSENT stream that R108 chooses for a Gang. -/
def chosen (p : Part) (g : Nat) : Option Nat :=
  let x := p.gang g
  let l := (p.strms.filter fun e => e.1 / 2 ^ 18 == x.ctx && Ent.state e.2.ent == 4 && Ent.cab e.2.ent == x.cab &&
    Ent.model e.2.ent == x.handle).map fun e => (e.1 % 2 ^ 18, e.2.ent)
  let m := l.filter fun e => !Ent.paused e.2
  match (if m.isEmpty then l else m) with
  | [] => none
  | a :: t => some (t.foldl sooner a).1

/-- Free slots of a Gang are filled. -/
def fillGang (g : Nat) : Nat → Part → Part
  | 0, p => p
  | fuel + 1, p =>
    let x := p.gang g
    if !x.loaded || !p.ctxRuns x.ctx || !p.residentOn x.ctx x.cab then p else
    match p.openSlot g, p.chosen g with
    | some k, some n => fillGang g fuel (p.placeStrm x.ctx n k)
    | _, _ => p

def fillCab (p : Part) (b : Nat) : Part := (p.cabGangs b).foldl (fun p g => fillGang g 128 p) p

/-! ### Models that come and go (R109, 11 R259) -/

/-- Live streams off their slots whose MODEL has become unavailable: NO_MODEL is written back (R109). -/
def modelGone (p : Part) (c b handle : Nat) : Part :=
  if p.modelHere c b handle then p else
  (p.liveOf c).foldl (fun p n =>
    match p.strm c n with
    | some x =>
      if Ent.cab x.ent = b ∧ Ent.model x.ent = handle ∧ (Ent.state x.ent = 3 ∨ Ent.state x.ent = 4) then
        (p.mapStrm c n fun x => x.put 640 16 0x0055).strmBack c n
      else p
    | none => p) p

/-- A Gang takes a model: an old handle is unbound from it (R241). -/
def takeModel (p : Part) (g c b handle image row : Nat) (m : Nat × List Layer × Sched) : Part :=
  let x := p.gang g
  let p := p.bindModel g c b handle image row m
  if x.loaded && x.handle != handle then p.modelGone x.ctx x.cab x.handle else p

/-- Loads the model of a pending or saved Gang record. -/
def reload (p : Part) (g c b handle image row : Nat) : Part :=
  p.engage ⟨c, b, none, 0, 0, 0⟩ .clean .ok (fun _ p => p) do
    let m ← Rd.asGang g (Rd.image image row g b)
    Rd.onPart fun p => p.takeModel g c b handle image row m

/-- Pending Gang records bind to the first Gang of the Cabinet on their die whose slots are all free (11 R259 step 5). -/
def bindPending (p : Part) (c b : Nat) : Part :=
  (p.ctx c).pendModels.foldl (fun p m =>
    if m.2.2.2.2 ≠ b then p else
    match (p.cabGangs b).find? fun g => g / 4 == m.1 && (p.gangSlots g).isEmpty with
    | some g =>
      let p := p.setCtx c { p.ctx c with pendModels := (p.ctx c).pendModels.erase m }
      p.reload g c b m.2.1 m.2.2.1 m.2.2.2.1
    | none => p) p

/-- A slot has freed on a Cabinet: pending models bind, streams are placed. -/
def slotFreed (p : Part) (c b : Nat) : Part := if p.residentOn c b then (p.bindPending c b).fillCab b else p

/-! ### Save records (11 R257) -/

/-- The record of a stream that leaves slot `s`, with its seed entry at the save (Tables 11-10, 11-11). -/
def saveImage (n : Nat) (x : Strm) (s : Slot) (seed : Nat × Bool) : List Byte :=
  let e := x.ent
  let m := s.bank.length
  let head := n + Ent.model e * 2 ^ 32 + m * 2 ^ 48 + Ent.step e * 2 ^ 64 + bits e 32 20 * 2 ^ 128 + Ent.seedIdx e * 2 ^ 148 +
    b2n seed.2 * 2 ^ 152 + s.out.length * 2 ^ 154 + (x.posOf (Ent.step e) % 2 ^ 64) * 2 ^ 192 + seed.1 * 2 ^ 256 + 1 * 2 ^ 384
  let area := (s.f ++ rep (64 - s.f.length) 0).map (BitVec.ofNat 8) ++ rep 128 0 ++ s.out.flatMap (leBytes 2) ++ rep (512 - 2 * s.out.length) 0 ++
    rep 256 0 ++ s.bank.map (BitVec.ofNat 8) ++ rep (512 * cdiv m 512 - m) 0
  leBytes 64 (setBits head 480 32 (crc32 (leBytes 64 head ++ area))) ++ area

/-- A seed entry of a context as memory holds it now (03 R61): no grant applies to the table, a stack out of service does. None: the context
has taken the fault. -/
def seedNow (p : Part) (c idx : Nat) : Option (Nat × Bool) × Part :=
  let a := p.rv .ctxSeeds 0 c / 512 * 512 + 32 * idx
  if !p.hbmServes a then (none, p.ctxFault c ⟨0x0402, .none, 0, none, a⟩) else
  let x := p.hbmFetch a 32 false .clean
  if x.1.any Prod.snd then (none, x.2.ctxFault c ⟨0x0480, .none, 0, none, 0x7FFF⟩)
  else let e := leNat (x.1.map Prod.fst); (some (bits e 0 128, bit e 128), x.2)

/-- The operations in effect that a state change completes. -/
def curDone (p : Part) (c n : Nat) : Part :=
  match p.strm c n with
  | none => p
  | some x => x.cur.foldl (fun p o => p.opDone n o) (p.mapStrm c n fun x => { x with cur := [] })

/-- A stream's save completes (Table 5-5): its record written, its slot free, SWAPPED or STATE_ABSENT. A reservation that it waits for is
withdrawn: its row buffer goes with the record (R118). -/
def saveStrm (p : Part) (c n k : Nat) : Part :=
  match p.strm c n, p.slot k with
  | some x, some s =>
    let r := p.seedNow c (Ent.seedIdx x.ent)
    match r.1 with
    | none => r.2
    | some sd =>
      let die := k / 512
      let p := r.2.ctlWrite c (Ent.savePtr x.ent) (saveImage n x s sd)
      let p := ((p.freeSlot k).dropWaits [strmOwner c n]).mapStrm c n fun x => x.put 7 1 1
      let p := p.strmState c n (if Ent.step x.ent < Ent.queued x.ent then 4 else 3)
      let p := (p.bumpStream die c 1 1).curDone c n
      if p.modelHere c (Ent.cab x.ent) (Ent.model x.ent) then p
      else (p.mapStrm c n fun x => x.put 640 16 0x0055).strmBack c n
  | _, _ => p

/-! ### Operations (R105, R111, R112) -/

/-- START on an entry that is not live (Table 5-3); `more` are operations that wait behind it. -/
def startOp (p : Part) (c n : Nat) (o : StrOp) (more : List StrOp) : Part :=
  let r := p.ctlRead c (p.strmAddr c n) 128
  match r.1 with
  | none => r.2
  | some (bs, poison) =>
    let p := r.2
    let e := leNat bs
    let b := Ent.cab e
    if poison then p.ctxFault c ⟨0x0480, .none, 0, none, recDetail o.rix ((p.job o.job).map Job.ring |>.getD 0)⟩
    else if Ent.state e ≠ 0 ∧ Ent.state e ≠ 6 then p.refuseOp c n o 0x0053
    else
      match (if p.rb .ctxCabs 0 c b then (p.boundGangs c b (Ent.model e)).head? else none) with
      | none => p.refuseOp c n o 0x0055
      | some g =>
        let od := p.phys (Ent.outDie e)
        let bound := p.regionEn od (Ent.outRegion e) && p.regionCtx od (Ent.outRegion e) == c
        let p := if bound then p else p.aesBindErr c n
        if !p.strmRegionsOk c e then p.refuseOp c n o 0x0058
        else if p.rateMax c e < Ent.rate e then p.refuseOp c n o 0x0054
        else if 262144 ≤ p.strms.length then p.refuseOp c n o 0x0052
        else
          let e := setBits (setBits (setBits e 576 64 0) 64 64 0) 32 8 (bits e 52 8)
          let e := setBits (setBits (setBits (setBits e 40 12 0) 672 32 0) 640 16 0) 3 5 (2 + 8 * b2n (bit e 6))
          let x : Strm := {
            ent := setBits (setBits e 176 16 0) 0 3 3
            wrote := leNat bs
            ops := more
            inPos := (p.region (p.phys (Ent.inDie e)) (Ent.inRegion e)).head
            cb := Hdr.condBytes (p.gang g).hdr
            cur := [o]
            armedAt := p.time }
          let p := (p.setStrm c n x).bumpStream (p.homeDie b) c 0 1
          let p := if bound then p.aesStart c n (Ent.outDie e) (Ent.outRegion e) else p
          match (p.boundGangs c b (Ent.model e)).findSome? p.openSlot with
          | some k => p.placeStrm c n k
          | none => (p.strmState c n 3).curDone c n

/-- The marks of a descriptor. -/
def opMarks (desc : Nat) : List Nat := (List.range (bits desc 5 4)).map fun i => bits desc (192 + 16 * i) 16

def ascending : List Nat → Bool
  | a :: b :: t => decide (a < b) && ascending (b :: t)
  | _ => true

/-- CHUNK on a live stream (R112). -/
def chunkOp (p : Part) (c n : Nat) (x : Strm) (o : StrOp) : Part :=
  let e := x.ent
  let len := bits o.desc 34 16 + 1
  let first := bits o.desc 64 64
  let marks := opMarks o.desc
  if first ≠ Ent.queued e then p.refuseOp c n o 0x0056
  else if !(ascending marks && marks.all fun m => decide (m < len)) then p.refuseOp c n o 0x0057
  else
    let e := setBits e 576 64 (first + len)
    let e := if bit o.desc 4 then setBits (setBits e 192 64 (bits o.desc 128 64)) 256 64 first else e
    let p := p.setStrm c n { x with
      ent := e
      inPos := x.inPos + x.rowsOf len
      chunks := x.chunks ++ [{ job := o.job, rix := o.rix, first := first, len := len, marks := marks, seed := o.seed, pos := x.inPos }] }
    let p := match (p.boundGangs c (Ent.cab e) (Ent.model e)).head? with
      | some g => p.aesChunk c n (len * Hdr.bands (p.gang g).hdr)
      | none => p
    if Ent.state e = 3 then (p.strmState c n 4).slotFreed c (Ent.cab e) else p.strmBack c n

/-- SET (Table 5-3, R120). `late`: a late completion falls on the same boundary, and its LATE_STEP stays. The part reads the entry's
host-written fields (R101); what they hold takes effect at a restore at the earliest (R102). -/
def setOp (p : Part) (c n : Nat) (x : Strm) (o : StrOp) (late : Bool) : Part :=
  let r := p.ctlRead c (p.strmAddr c n) 128
  let p := r.2
  match r.1 with
  | none => p
  | some (_, true) => p.ctxFault c ⟨0x0480, .none, 0, none, recDetail o.rix ((p.job o.job).map Job.ring |>.getD 0)⟩
  | some (_, false) =>
    let d := o.desc
    let m := bits d 320 8
    if bit m 2 && decide (p.rateMax c x.ent < bits d 345 15) then p.refuseOp c n o 0x0054
    else
      let on := fun (i lo w v e : Nat) => if bit m i then setBits e lo w v else e
      let e := on 4 256 64 (bits d 64 64) (on 4 192 64 (bits d 128 64) (on 3 320 32 (bits d 384 32) (on 2 128 15 (bits d 345 15)
        (on 1 6 1 (bits d 344 1) (on 0 16 16 (bits d 328 16) x.ent)))))
      let e := if late then e else on 5 5 1 0 e
      ((p.setStrm c n { x with ent := e }).strmBack c n).opDone n o

/-- Input positions that END leaves unread are returned as they are released (R116). -/
def dropInput (p : Part) (x : Strm) (h : Chunk) : Part :=
  let d := p.phys (Ent.inDie x.ent)
  let i := Ent.inRegion x.ent
  let done := max (Ent.step x.ent) h.first - h.first
  let ps := span (h.pos + done * x.cb / 512) (x.rowsOf h.len - done * x.cb / 512)
  let r := p.region d i
  let r := { r with drop := r.drop ++ ps.filter fun q => decide (r.tail ≤ q) }
  serveRegion d i r.waiting.length (p.setRegion d i (regionReturned r (ps.filter fun q => decide (r.head ≤ q) && decide (q < r.tail))))

/-- MODEL is unavailable to a stream that is not resident (R109). -/
def lacksModel (p : Part) (c : Nat) (x : Strm) : Bool := Ent.state x.ent != 1 && !p.modelHere c (Ent.cab x.ent) (Ent.model x.ent)

/-- Operations that waited behind an END meet an ENDED stream (R105): START is accepted and takes those behind it, the rest are refused. -/
def opsEnded (c n : Nat) : List StrOp → Part → Part
  | [], p => p
  | o :: rest, p =>
    if o.op = 0 then
      let q := p.startOp c n o rest
      if (q.strm c n).isSome then q else opsEnded c n rest q
    else opsEnded c n rest (p.refuseOp c n o 0x0053)

/-- END takes effect (R105): chunks still accepted complete with NO_MODEL (R109) or REGION_BAD (08 R194), the stream reads ENDED. -/
def endOp (p : Part) (c n : Nat) (x : Strm) (o : StrOp) : Part :=
  let b := Ent.cab x.ent
  let code := if p.lacksModel c x then 0x0055 else 0x0058
  let p := x.chunks.foldl (fun p h => (p.dropInput x h).completeRec h.job h.rix code false (bit x.ent 5) (chunkResult n h)) p
  let p := (p.dropWaits [strmOwner c n]).strmEnd c n none
  (opsEnded c n (x.ops.filter fun q => q.job != o.job || q.rix != o.rix) (p.opDone n o)).slotFreed c b

/-- Whether the operation at the head may take effect now (R111). -/
def opReady (p : Part) (c n : Nat) (x : Strm) (o : StrOp) : Bool :=
  let st := Ent.state x.ent
  let slot := (p.slotOf c n).bind p.slot
  let armed := match slot with
    | some s => s.armed
    | none => false
  let busy := match slot with
    | some s => s.armed || s.pend.isSome
    | none => false
  (p.liveRec o.job o.rix).isSome && st != 2 && st != 5 &&
    (if o.op = 0 ∨ o.op = 1 ∨ o.op = 7 then true
     else if o.op = 6 then !busy
     else if o.op = 8 then !busy && (x.chunks.isEmpty || p.lacksModel c x || !p.strmRegionsOk c x.ent)
     else !armed)

/-- The operation takes effect; it no longer stands among the waiting ones. While a region of the stream is disabled or another context's,
every operation but END is refused (08 R194). -/
def doOp (p : Part) (c n : Nat) (x : Strm) (o : StrOp) (late : Bool) : Part :=
  let st := Ent.state x.ent
  let flag := fun (b : Nat) (v : Bool) => ((p.setStrm c n (x.put b 1 (b2n v))).strmBack c n).opDone n o
  if o.op = 0 then p.refuseOp c n o 0x0053
  else if (o.op = 1 ∨ o.op = 7) ∧ !p.modelHere c (Ent.cab x.ent) (Ent.model x.ent) then p.refuseOp c n o 0x0055
  else if o.op < 8 ∧ !p.strmRegionsOk c x.ent then p.refuseOp c n o 0x0058
  else match o.op with
  | 1 => p.chunkOp c n x o
  | 2 => p.setOp c n x o late
  | 3 => flag 3 true
  | 4 => flag 3 false
  | 5 => flag 4 true
  | 6 => if st = 1 then (p.setStrm c n { x with cur := x.cur ++ [o] }).strmState c n 2 else p.opDone n o
  | 7 =>
    if st = 3 then ((p.strmState c n 4).opDone n o).slotFreed c (Ent.cab x.ent)
    else p.opDone n o
  | _ => p.endOp c n x o

/-- Waiting operations take effect in order while they may. -/
def runOps (c n : Nat) (late : Bool) : Nat → Part → Part
  | 0, p => p
  | fuel + 1, p =>
    match p.strm c n with
    | none => p
    | some x =>
      match x.ops with
      | [] => p
      | o :: rest =>
        if p.opReady c n x o then
          let y := if o.op = 8 then x else { x with ops := rest }
          runOps c n late fuel ((p.setStrm c n y).doOp c n y o late)
        else p

def ops (p : Part) (c n : Nat) : Part :=
  match p.strm c n with
  | some x => runOps c n false (x.ops.length + 1) p
  | none => p

/-- Streams whose operations waited for a model to go may end now (R109). -/
def opsAll (p : Part) (c : Nat) : Part := (p.liveOf c).foldl (fun p n => p.ops c n) p

/-! ### Tasks -/

/-- The bits of a descriptor that an operation uses (R244). -/
def opMask (op marks : Nat) : Nat :=
  fm 0 4 + fm 16 18 +
    (if op = 1 then fm 4 5 + fm 34 16 + fm 64 128 + fm 192 (16 * marks) else if op = 2 then fm 64 128 + fm 320 40 + fm 384 32 else 0)

def opDescOk (d : Nat) : Bool :=
  let op := bits d 0 4
  d &&& opMask op (bits d 5 4) == d && (op != 1 || decide (bits d 5 4 ≤ 8)) && (op != 2 || bits d 326 2 == 0)

/-- A task of record (j, r) issues and its home Jig hands it to die `die` (R234). -/
def issueRec (p : Part) (j r home die c : Nat) (y : Rec) : Part :=
  let n := p.jig.nextIssue
  let p := { p with jig := { p.jig with nextIssue := n + 1 } }
  let p := (p.setRec j r { y with st := .issued, order := n }).bumpJig home c 2 1
  if die = home then p else p.bumpJig home c 3 1

/-- A stream table entry is read (R101; 10 R233, where the home Jig finds the slot): poison is fault 0x0480 (10 R226). -/
def strmEntry (c n : Nat) : Rd Nat := do
  let p ← Rd.part
  let r := p.ctlRead c (p.strmAddr c n) 128
  Rd.onPart fun _ => r.2
  match r.1 with
  | none => if (r.2.ctx c).bad.isSome then Rd.addrFault (p.strmAddr c n) else Rd.stop (.wait .dataLate .other fun _ => r.2)
  | some (bs, poison) => if poison then Rd.fault 0x0480 else return leNat bs

/-- A stream operation's task (R105, R244): its descriptor and its stream's entry are read. -/
def streamOp (p : Part) (code j r : Nat) (st : RdStat) (hw : Cells) : Part :=
  match p.liveRec j r with
  | none => p
  | some (x, y) =>
    if kindOf y.img ≠ 8 ∨ y.st ≠ .pending ∨ !p.recReady j x r y then p else
    (p.hostSees hw).engage ⟨x.ctx, x.cab, none, earlyKey (recKey j r), r, x.ring⟩ .clean st (fun _ p => p) do
      let d ← Rd.controlNat (bits y.img 128 64) 64
      Rd.opIs code 8 (bits d 0 4)
      Rd.need (opDescOk d)
      let n := bits d 16 18
      let p ← Rd.part
      let held : Bool := match p.strm x.ctx n with
        | some z => code == 1 && decide (4 ≤ z.chunks.length + (z.ops.filter fun o => o.op == 1).length)
        | none => false
      if held then Rd.cancel else
      if n < p.strmCount x.ctx then discard (strmEntry x.ctx n)
      let sd ← match p.strm x.ctx n with
        | some z => if code = 1 then Rd.seed (Ent.seedIdx z.ent) else pure (0, false)
        | none => pure (0, false)
      Rd.onPart fun p =>
        let c := x.ctx
        let o : StrOp := ⟨code, j, r, d, sd⟩
        let p := p.issueRec j r (p.homeDie x.cab) (p.strmDie c n x.cab) c { y with result := refusedResult n o }
        let p := if p.strmCount c ≤ n then p.refuseOp c n o 0x0051
          else match p.strm c n with
            | some z => (p.setStrm c n { z with ops := z.ops ++ [o] }).ops c n
            | none => if code = 0 then p.startOp c n o [] else p.refuseOp c n o 0x0053
        p.opsAll c

/-- MODEL_LOAD (R241, R73): held while a slot of the Gang is occupied. -/
def modelLoad (p : Part) (j r : Nat) (st : RdStat) (hw : Cells) : Part :=
  match p.liveRec j r with
  | none => p
  | some (x, y) =>
    if kindOf y.img ≠ 7 ∨ y.st ≠ .pending ∨ !p.recReady j x r y then p else
    (p.hostSees hw).engage ⟨x.ctx, x.cab, none, earlyKey (recKey j r), r, x.ring⟩ .clean st (fun _ p => p) do
      let d ← Rd.controlNat (bits y.img 128 64) 64
      let g := bits d 88 5
      let p ← Rd.part
      Rd.need (bits d 82 6 == 0 && bits d 93 3 == 0 && bits d 112 400 == 0 && bits d 0 64 % 64 == 0 && (p.cabGangs x.cab).contains g)
      if !(p.gangSlots g).isEmpty then Rd.cancel else
      let m ← Rd.asGang g (Rd.image (bits d 0 64) (bits d 64 18) g x.cab)
      Rd.onPart fun p =>
        let p := p.issueRec j r (p.homeDie x.cab) (g / 4) x.ctx y
        let h := bits d 96 16
        let p := p.takeModel g x.ctx x.cab h (bits d 0 64) (bits d 64 18) m
        let p := p.completeRec j r 0 false false (m.2.2.cur + m.2.2.bub * 2 ^ 24 + h * 2 ^ 48)
        (p.fillCab x.cab).opsAll x.ctx

/-! ### Saves, restores and exchanges -/

/-- STREAM_SAVE_DONE: the save of a SWAPPING stream completes. -/
def streamSaveDone (p : Part) (c n : Nat) : Part :=
  match p.strm c n, p.slotOf c n with
  | some x, some k =>
    if Ent.state x.ent ≠ 2 ∨ !p.ctxRuns c then p
    else (((p.saveStrm c n k).ops c n).slotFreed c (Ent.cab x.ent)).opsAll c
  | _, _ => p

/-- A step that would use data that came poisoned is poisoned for every slot of its Gang (04 R85): the Gang's status and counter, and the
fault 0x0430 that tears the context down. -/
def poisonMark (p : Part) (g c : Nat) : Part :=
  ((p.dropStep g).setRb .gangFeedStatus (p.phys (g / 4)) (g % 4) 3 true).bumpGang g c 12 1

def poisonStep (p : Part) (g c detail : Nat) : Part :=
  (p.poisonMark g c).ctxFault c ⟨0x0430, .engine, engUnit .lathe (8 * g), none, detail⟩

/-- DETAIL of a Lathe's fault: the record and ring of the step's CHUNK task (18 Table 18-4). -/
def chunkDetail (p : Part) (c n step : Nat) : Nat :=
  match (p.strm c n).bind fun x => x.chunkAt step with
  | some h => recDetail h.rix ((p.job h.job).map Job.ring |>.getD 0)
  | none => 0x7FFF

/-- An initial vector of `n` codes at its address, none for the all-zero vector (R104). -/
def initVec (a n : Nat) : Rd (List Nat × Bool) := do
  if a = 0 ∨ n = 0 then return (rep n 0, false) else
  let x ← Rd.read a n
  return (x.1.map BitVec.toNat, x.2)

/-- The entry with the fields that host software writes read again (R101), and the image in the table. -/
def rereadEnt (c n e : Nat) : Rd (Nat × Nat) := do
  let m ← strmEntry c n
  return (e ^^^ ((e ^^^ m) &&& strmHost), m)

/-- What a restore reads (R108): the slot's content and K with DOWN_RUN, and whether the initial vector came poisoned. The record's SEED and
MODE are held against the context's present entry of the index that the record names (03 R66). -/
def restoreRead (e elems : Nat) (reset : Bool) (s : Slot) : Rd (Slot × Nat × Bool) := do
  let s := { s with f := rep 64 0 }
  if !Ent.saved e then
    let v ← initVec (Ent.initPtr e) elems
    return ({ s with bank := v.1, init := some v.1 }, bits e 32 20, v.2)
  else
    let h ← Rd.read (Ent.savePtr e) 1024
    if h.2 then Rd.fault 0x0411
    let a := leNat (h.1.take 64)
    let sd ← Rd.seed (bits a 148 4)
    if bits a 256 128 ≠ sd.1 ∨ bit a 152 ≠ sd.2 then Rd.fault 0x0413
    let s := { s with
      f := (h.1.drop 64).take 64 |>.map BitVec.toNat
      out := (pieces 2 (bits a 154 9) (h.1.drop 256)).map leNat }
    if reset then
      let v ← initVec (Ent.initPtr e) elems
      return ({ s with bank := v.1, init := some v.1 }, bits a 128 20, v.2)
    else
      let m := bits a 48 13
      let b ← if m = 0 then pure ([], false) else Rd.read (Ent.savePtr e + 1024) (512 * cdiv m 512)
      if b.2 then Rd.fault 0x0411
      if crc32 (leBytes 64 (setBits a 480 32 0) ++ h.1.drop 64 ++ b.1) ≠ bits a 480 32 then Rd.fault 0x0411
      let codes := (b.1.take m).map BitVec.toNat
      return ({ s with bank := codes.take elems ++ rep (elems - codes.length) 0 }, bits a 128 20, false)

/-- The operation at the head of the waiting ones is a SWAP_OUT. -/
def swapWaits (x : Strm) : Bool :=
  match x.ops with
  | o :: _ => o.op == 6
  | [] => false

/-- The restore of a RESTORING stream into slot `k` (Table 5-5, R108). A SWAP_OUT that waited makes its checks now (R105). -/
def restoreStrm (p : Part) (c n k : Nat) (st : RdStat) (hw : Cells) : Part :=
  match p.strm c n, p.slot k with
  | some x, some s =>
    let g := k / 128
    let who : Who := ⟨c, Ent.cab x.ent, some (.lathe, k / 16), earlyStrm c n, 0x7FFF, 0⟩
    (p.hostSees hw).engage who .clean st (fun _ p => p) do
      let e ← rereadEnt c n x.ent
      let r ← restoreRead e.1 (Hdr.state (p.gang g).hdr) (Ent.resetNext e.1 || x.marked (Ent.step e.1)) s
      Rd.onPart fun p =>
        let p := p.setSlot k { r.1 with initBad := r.2.2 }
        let x := { x with ent := setBits e.1 32 20 r.2.1, wrote := e.2, armedAt := p.time }
        let p := (p.setStrm c n x).bumpStream (k / 512) c 2 1
        if !p.residentOn c (Ent.cab x.ent) then p.strmState c n 2
        else if swapWaits x && p.strmRegionsOk c x.ent then
          let p := p.strmState c n 2
          p.mapStrm c n fun x => { x with cur := x.cur ++ x.ops.take 1, ops := x.ops.drop 1 }
        else (((p.strmState c n 1).curDone c n).ops c n).opsAll c
  | _, _ => p

/-- STREAM_RESTORE_DONE: the restore of a RESTORING stream completes; where its hold is being saved, the stream is SWAPPING at once. -/
def streamRestoreDone (p : Part) (c n : Nat) (st : RdStat) (hw : Cells) : Part :=
  match p.strm c n, p.slotOf c n with
  | some x, some k => if Ent.state x.ent ≠ 5 ∨ !p.ctxRuns c then p else p.restoreStrm c n k st hw
  | _, _ => p

/-- The rank in which R110 prefers a resident stream for an exchange, lower first: paused streams before others, and in each group those
with no chunk pending. -/
def exchangeRank (x : Strm) : Nat :=
  (if Ent.paused x.ent then 0 else 2) + (if Ent.queued x.ent ≤ Ent.step x.ent then 0 else 1)

/-- STREAM_EXCHANGE (R110): a resident stream of a batch context's Gang that has no free slot makes room for a waiting one. -/
def streamExchange (p : Part) (g : Nat) : Part :=
  let x := p.gang g
  let d := p.phys (g / 4)
  if !x.loaded || !p.ctxRuns x.ctx || !p.residentOn x.ctx x.cab || p.realTime x.ctx || !p.rb .streamCtl d 0 16 ||
    (p.openSlot g).isSome || (p.chosen g).isNone then p else
  let idle := 1000 * p.rf .streamCtl d 0 0 16
  let l := (p.gangSlots g).filterMap fun e => (p.strm x.ctx e.2.strm).bind fun s =>
    if Ent.state s.ent = 1 ∧ !e.2.armed ∧ e.2.pend.isNone ∧ s.armedAt + idle ≤ p.time then some (e.2.strm, s) else none
  let best := l.foldl (fun (a : Option (Nat × Strm)) y => match a with
    | none => some y
    | some z =>
      if exchangeRank y.2 < exchangeRank z.2 ∨ (exchangeRank y.2 = exchangeRank z.2 ∧ y.2.armedAt < z.2.armedAt) then some y else some z) none
  match best with
  | some y => (p.bumpStream (g / 4) x.ctx 3 1).strmState x.ctx y.1 2
  | none => p

end Part

def execModelLoad (j r : Nat) (st : RdStat) (hw : Cells) (s : State) : Host.Outcome State Fault Refusal :=
  onWork s fun p => p.modelLoad j r st hw
def execStart (j r : Nat) (st : RdStat) (hw : Cells) (s : State) : Host.Outcome State Fault Refusal :=
  onWork s fun p => p.streamOp 0 j r st hw
def execChunk (j r : Nat) (st : RdStat) (hw : Cells) (s : State) : Host.Outcome State Fault Refusal :=
  onWork s fun p => p.streamOp 1 j r st hw
def execSet (j r : Nat) (st : RdStat) (hw : Cells) (s : State) : Host.Outcome State Fault Refusal :=
  onWork s fun p => p.streamOp 2 j r st hw
def execPause (j r : Nat) (st : RdStat) (hw : Cells) (s : State) : Host.Outcome State Fault Refusal :=
  onWork s fun p => p.streamOp 3 j r st hw
def execResume (j r : Nat) (st : RdStat) (hw : Cells) (s : State) : Host.Outcome State Fault Refusal :=
  onWork s fun p => p.streamOp 4 j r st hw
def execReset (j r : Nat) (st : RdStat) (hw : Cells) (s : State) : Host.Outcome State Fault Refusal :=
  onWork s fun p => p.streamOp 5 j r st hw
def execSwapOut (j r : Nat) (st : RdStat) (hw : Cells) (s : State) : Host.Outcome State Fault Refusal :=
  onWork s fun p => p.streamOp 6 j r st hw
def execSwapIn (j r : Nat) (st : RdStat) (hw : Cells) (s : State) : Host.Outcome State Fault Refusal :=
  onWork s fun p => p.streamOp 7 j r st hw
def execEndOp (j r : Nat) (st : RdStat) (hw : Cells) (s : State) : Host.Outcome State Fault Refusal :=
  onWork s fun p => p.streamOp 8 j r st hw
def execStreamSaveDone (c n : Nat) (s : State) : Host.Outcome State Fault Refusal := onWork s fun p => p.streamSaveDone c n
def execStreamRestoreDone (c n : Nat) (st : RdStat) (hw : Cells) (s : State) : Host.Outcome State Fault Refusal :=
  onWork s fun p => p.streamRestoreDone c n st hw
def execStreamExchange (g : Nat) (s : State) : Host.Outcome State Fault Refusal := onPart s fun p => p.streamExchange g

end Sys2Proof.Machine
end

