-- ==== Sys2Proof/Machine/Gangs.lean ====
section
/-!
DEFINITION. Sys2Proof/Machine/Gangs.lean: the steps of a Gang (04_lathes_and_gangs R71 to R96, 05 R113 to R118): arming, the Weight Feed row by row
through its FIFO, its Feed cycles as the Lathes take rows, the Punch, completion of a slot's step, output rows, conditioning, resets and chunks.
-/

namespace Sys2Proof.Machine
open Sys2Proof

/-- Assay statistics of a layer added under its record's address (02 R51): groups of G steps of the chunk. -/
def assayStat (d : OutDesc) (i : Nat) (s : Stat) (t : Tab Stat) : Tab Stat :=
  if d.assay = 0 then t else
  let a := d.assay + 16 * (if d.tensor then 0 else i / 2 ^ d.group)
  let o := Tab.getD t a {}
  Tab.put a { n := o.n + s.n, sats := o.sats + s.sats, sse := o.sse + s.sse, maxc := max o.maxc s.maxc } t

/-- Two collections of Assay statistics added. -/
def statsAdd (a b : Tab Stat) : Tab Stat :=
  b.foldl (fun t e =>
    let o := Tab.getD t e.1 {}
    Tab.put e.1 { n := o.n + e.2.n, sats := o.sats + e.2.sats, sse := o.sse + e.2.sse, maxc := max o.maxc e.2.maxc } t) a

/-- The step that a slot would be armed for next. -/
def Slot.next (s : Slot) (x : Strm) : Nat := Ent.step x.ent + b2n s.pend.isSome + b2n s.armed

/-- A reset applies to step `n` (R117). -/
def Strm.resets (x : Strm) (n : Nat) : Bool := Ent.resetNext x.ent || x.marked n

namespace Part

/-! ### Conditioning (R115, R116) -/

/-- The first position and the number of rows of step `n`'s record, and its offset in the row. -/
def condPlace (x : Strm) (n : Nat) : Nat × Nat × Nat :=
  match x.chunkAt n with
  | some h => (h.pos + (n - h.first) * x.cb / 512, cdiv x.cb 512, (n - h.first) * x.cb % 512)
  | none => (x.inPos, cdiv x.cb 512, 0)

/-- The record's rows are released (R91 condition 2). -/
def condReleased (p : Part) (x : Strm) (n : Nat) : Bool :=
  let c := condPlace x n
  let r := p.region (p.phys (Ent.inDie x.ent)) (Ent.inRegion x.ent)
  (x.chunkAt n).isSome && decide (r.head ≤ c.1) && decide (c.1 + c.2.1 ≤ r.tail)

/-- The record's rows lie in a gated bank: its wake is asked for. -/
def condGated (p : Part) (x : Strm) (n : Nat) : List Nat :=
  let c := condPlace x n
  let d := p.phys (Ent.inDie x.ent)
  ((span c.1 c.2.1).map fun q => p.regionRow d (Ent.inRegion x.ent) q).filter fun r => (p.bank d (bankOf r)).gated

/-- The record read row by row: its bytes, undefined where its region has another consumer, and whether any came poisoned. -/
def condRead (p : Part) (x : Strm) (n : Nat) (ecc : Ecc) : (List Byte × Bool) × Part :=
  let c := condPlace x n
  let d := p.phys (Ent.inDie x.ent)
  let r := (List.range c.2.1).foldl (fun (a : (List Byte × Bool) × Part) i =>
    let y := a.2.rowRead d (p.regionRow d (Ent.inRegion x.ent) (c.1 + i)) (if i = 0 then ecc else .clean)
    ((a.1.1 ++ y.1.1, a.1.2 || y.1.2), y.2)) (([], false), p)
  if p.crowded d (Ent.inRegion x.ent) then
    let f := r.2.frees x.cb 8
    ((f.1.map (BitVec.ofNat 8), r.1.2), f.2)
  else (((r.1.1.drop c.2.2).take x.cb, r.1.2), r.2)

/-- Rows of the input region that step `n` is the last to read are returned (R116). -/
def condReturn (p : Part) (x : Strm) (n : Nat) : Part :=
  match x.chunkAt n with
  | none => p
  | some h =>
    let i := n - h.first
    let d := p.phys (Ent.inDie x.ent)
    let lo := if x.cb < 512 then i * x.cb / 512 else i * (x.cb / 512)
    let hi := if i + 1 = h.len then x.rowsOf h.len else (i + 1) * x.cb / 512
    (span (h.pos + lo) (hi - lo)).foldl (fun p q => p.returnPos d (Ent.inRegion x.ent) q) p

/-! ### Arming (R91, R96) -/

/-- The output row buffer has room for the step's values, those of the step before included (R91 condition 3, R118). -/
def roomFor (p : Part) (s : Slot) (x : Strm) (bands : Nat) : Bool :=
  let d := p.phys (Ent.outDie x.ent)
  let r := p.region d (Ent.outRegion x.ent)
  let free := r.waiting.isEmpty && decide (r.rsvd + 1 ≤ r.head + p.regionSize d (Ent.outRegion x.ent)) &&
    p.strmRegionOk s.ctx (Ent.cab x.ent) (Ent.outDie x.ent) (Ent.outRegion x.ent)
  match s.pend with
  | none => decide (s.out.length + bands ≤ 256)
  | some q =>
    let last := match x.chunkAt q.step with
      | some h => q.step + 1 == h.first + h.len
      | none => false
    if last || decide (256 ≤ s.out.length + bands) then decide (s.out.length + bands ≤ 256) && free
    else decide (s.out.length + 2 * bands ≤ 256)

/-- Device time has reached the step's deadline less RUNAHEAD (R91 condition 4). -/
def paceOk (p : Part) (e n : Nat) : Bool :=
  Ent.rate e == 0 || bits e 320 32 == 0 || decide (Ent.deadline e n - Int.ofNat (bits e 320 32) ≤ Int.ofNat p.time)

/-- The slot's next step may be armed, its conditioning apart. -/
def armable (p : Part) (k : Nat) (s : Slot) (x : Strm) : Bool :=
  let n := s.next x
  Ent.state x.ent == 1 && !swapWaits x && !Ent.paused x.ent && decide (n < Ent.queued x.ent) && !s.armed &&
    p.roomFor s x (Hdr.bands (p.gang (k / 128)).hdr) && p.paceOk x.ent n &&
    (!x.resets n || Ent.initPtr x.ent == 0 || s.init.isSome || Hdr.state (p.gang (k / 128)).hdr == 0)

/-- The slot's conditioning record is at hand: read ahead, or released on the Gang's own die in powered banks. -/
def condHere (p : Part) (k : Nat) (s : Slot) (x : Strm) : Bool :=
  !s.cond.isEmpty || (Ent.inDie x.ent == k / 512 && p.benchUp (p.phys (k / 512)) && p.condReleased x (s.next x) && (p.condGated x (s.next x)).isEmpty)

/-- Arms a slot for its next step: its record is taken, and a reset applied (R54, R96, R117). Answers whether the
record, or the initial vector that the step would use, came poisoned (R104, R116). -/
def arm (p : Part) (k : Nat) (s : Slot) (x : Strm) : Bool × Part :=
  let h := (p.gang (k / 128)).hdr
  let n := s.next x
  let rd : (List Byte × Bool) × Part := match s.cond with
    | r :: _ => (r, p)
    | [] => p.condRead x n .clean
  let p := rd.2
  let zero := rep (Hdr.state h) 0
  let reset := x.resets n
  let bank := if reset then (if Ent.initPtr x.ent = 0 then zero else s.init.getD zero) else s.bank
  let e := x.ent
  let e := if reset then setBits (setBits (setBits e 32 8 (bits e 52 8)) 40 12 0) 4 1 0 else e
  let p := p.setStrm s.ctx s.strm { x with ent := e, armedAt := p.time }
  let p := if reset then p.bumpStream (k / 512) s.ctx 4 1 else p
  let p := p.setSlot k { s with
    armed := true, step := n, fresh := reset, input := rd.1.1, cond := s.cond.drop 1, bank := bank, wr := bank
    f := if reset then rep 64 0 else s.f, init := if reset then none else s.init
    scratch := rep (Hdr.scratch h) 0, logits := rep (Hdr.bands h * Hdr.perBand h) 0, opens := [], outs := [], stat := {}, lstats := [] }
  (rd.1.2 || s.initBad, p)

/-- The operations of a Gang's slots that wait for the boundary take effect; full row buffers are written first. -/
def stepOps (p : Part) (g : Nat) : Part :=
  ((p.gangSlots g).map Prod.fst).foldl (fun p k => match p.slot k with
    | some s => (p.flush k).ops s.ctx s.strm
    | none => p) p

/-- The slots of `ks` that may be armed, their conditioning apart. -/
def stepReady (p : Part) (ks : List Nat) : List Nat :=
  ks.filter fun k => match p.slot k with
    | some s => (match p.strm s.ctx s.strm with
      | some y => p.armable k s y
      | none => false)
    | none => false

/-- Gated banks that hold the conditioning of a slot of `ks` on the Gang's own die are woken. -/
def stepWakes (p : Part) (ks : List Nat) : Part :=
  ks.foldl (fun p k => match p.slot k with
    | some s => (match p.strm s.ctx s.strm with
      | some y => if s.cond.isEmpty && Ent.inDie y.ent == k / 512 && p.condReleased y (s.next y) then
          let d := p.phys (k / 512)
          (p.condGated y (s.next y)).foldl (fun p r => p.gateQueue d (bankOf r) (.wait r)) p
        else p
      | none => p)
    | none => p) p

/-- The slots of `ks` whose conditioning is at hand. -/
def stepRun (p : Part) (ks : List Nat) : List Nat :=
  ks.filter fun k => match p.slot k with
    | some s => (match p.strm s.ctx s.strm with
      | some y => p.condHere k s y
      | none => false)
    | none => false

/-- Arms the slots of `ks` in turn; answers the DETAIL of the first whose step would use poisoned data. -/
def armAll (p : Part) (ks : List Nat) : Option Nat × Part :=
  ks.foldl (fun (a : Option Nat × Part) k => match a.2.slot k with
    | some s => (match a.2.strm s.ctx s.strm with
      | some y =>
        let o := a.2.arm k s y
        (if o.1 && a.1.isNone then some (o.2.chunkDetail s.ctx s.strm (s.next y)) else a.1, o.2)
      | none => a)
    | none => a) (none, p)

/-- The armed slots of a Gang step together; the rest of its 128 slots sit the step out, a free one too, and are counted (R74). -/
def stepBegins (p : Part) (g : Nat) : Part :=
  let p := p.bumpGang g (p.gang g).ctx 9 (128 - ((p.gangSlots g).filter fun e => e.2.armed).length)
  p.setGang g { p.gang g with stepping := true, layer := 0, taken := 0, armedAt := p.time }

/-- GANG_STEP_START (R91, R74). Operations that wait for the boundary take effect first; a Gang whose clock is off asks for it (R86). -/
def gangStepStart (p : Part) (g : Nat) : Part :=
  let x := p.gang g
  if !x.loaded || x.stepping || !p.ctxRuns x.ctx || !p.residentOn x.ctx x.cab then p else
  let ks := (p.gangSlots g).map Prod.fst
  let p := p.stepOps g
  if !p.ctxRuns x.ctx then p else
  let ready := p.stepReady ks
  let p := p.stepWakes ready
  let run := p.stepRun ready
  if run.isEmpty then p
  else if !x.clock then p.setGang g { x with waking := true }
  else
    let r := p.armAll run
    match r.1 with
    | some detail => r.2.poisonStep g x.ctx detail
    | none => r.2.stepBegins g

/-! ### The Weight Feed (R82 to R85) -/

/-- The lowest armed slot's context-fatal DETAIL. -/
def stepDetail (p : Part) (g : Nat) : Nat :=
  match (p.gangSlots g).find? fun e => e.2.armed with
  | some e => p.chunkDetail e.2.ctx e.2.strm e.2.step
  | none => 0

/-- The key and mode of step `n` of a stream: the seed entry as its chunk's task read it at issue (03 R61). -/
def stepSeed (y : Strm) (n : Nat) : Rand.Seed :=
  match y.chunkAt n with
  | some h => ⟨h.seed.1, h.seed.2⟩
  | none => ⟨0, false⟩

/-- What an armed slot brings to the step. -/
def latheIn (x : Gang) (s : Slot) (y : Strm) : LIn :=
  let row := Hdr.condRow x.hdr
  { h := x.hdr
    seed := stepSeed y s.step
    strm := s.strm
    step := s.step
    prev := s.bank
    k := Ent.k y.ent
    f := s.f
    cond := (s.input.drop (if row then 64 else 0)).map BitVec.toNat
    condK := if row then signed 8 (leNat (s.input.take 1)) else 0 }

/-- One armed slot through consecutive Feed cycles of a layer, its events counted (R75, R80, 02 R39 R40 R44). -/
def slotCycles (p : Part) (g : Nat) (x : Gang) (l : Layer) (cs : List ((Nat × Nat × Nat) × List Num.WVal)) (k : Nat) : Part :=
  match p.slot k with
  | none => p
  | some s =>
    match p.strm s.ctx s.strm with
    | none => p
    | some y =>
      if !s.armed then p else
      let c : LCtx := ⟨latheIn x s y, l, roundBase (x.layers.map Layer.img) x.layer⟩
      let r := c.run { wr := s.wr, scratch := s.scratch, logits := s.logits, opens := s.opens, outs := s.outs, stat := s.stat } cs
      let i := match y.chunkAt s.step with
        | some h => s.step - h.first
        | none => 0
      let p := p.setSlot k { s with
        wr := r.wr, scratch := r.scratch, logits := r.logits, opens := r.opens, outs := r.outs, stat := r.stat
        lstats := assayStat (OutDesc.of l.out) i r.ls s.lstats }
      let e := k / 16
      (((p.bumpEng .lathe e s.ctx 0 r.acc).bumpEng .lathe e s.ctx 1 r.ovf).bumpEng .lathe e s.ctx 3 r.sat).bumpGang g s.ctx 14 r.clamp

/-- The end of a slot's last layer: the banks exchange, Anneal moves K, and the Punch is due (R77, R87, 02 R53). -/
def slotPend (p : Part) (x : Gang) (k : Nat) : Part :=
  match p.slot k with
  | none => p
  | some s =>
    match p.strm s.ctx s.strm with
    | none => p
    | some y =>
      if !s.armed then p else
      let e := y.ent
      let a := Num.anneal (Hdr.anneal x.hdr) 127 ⟨s.stat.n, s.stat.sats, s.stat.sse, s.stat.maxc, 0, false⟩ (Ent.k e) (bits e 40 12)
      let e' := if Hdr.state x.hdr = 0 then e else setBits (setBits e 32 8 (unsigned 8 a.1)) 40 12 a.2.1
      let p := p.setStrm s.ctx s.strm { y with ent := e' }
      p.setSlot k { s with
        armed := false, fresh := false, bank := s.wr, wr := [], scratch := [], logits := [], opens := [], outs := [], input := [], stat := {}
        lstats := []
        pend := some { step := s.step, ent := e, logits := s.logits, bank := s.bank, kr := bits e 32 20, fb := s.f, stat := s.stat, stats := s.lstats } }

/-! #### The order of the Feed's rows -/

/-- Code rows that a block of 4,096 codes takes (02 R33). -/
def blockRows (h : Nat) : Nat := if Hdr.fmt h = 2 then 2 else 4

/-- The directory entry of the block of code row `c` in a directory row: FIRST and COUNT (02 Table 2-4). -/
def dirEntry (h c : Nat) (row : List Byte) : Nat × Nat :=
  let d := leNat ((row.drop (8 * (c / blockRows h % 64))).take 8)
  (bits d 0 40, bits d 40 13)

/-- The rows, by kind and row of the weight section, that the Feed reads for code row `c` of a layer once it has the directory row `dir`: what
the row's Feed cycles need stands before their codes (R82; the order among them is DEDUCED, log entry 39). -/
def feedItems (h : Nat) (l : Layer) (c : Nat) (dir : Option (Nat × List Byte)) : List (Nat × Nat) :=
  let e := l.img
  let code := (0, Lay.codeRow e + c)
  if Hdr.fmt h = 1 then (if c % 16 = 0 then [(3, Lay.expRow e + c / 16)] else []) ++ [code]
  else if Num.hasEscapes (Hdr.fmt h) && c % blockRows h == 0 then
    let n := c / blockRows h / 64
    match dir with
    | some (k, row) =>
      if k ≠ n then [(1, Lay.dirRow e + n)] else
      let d := dirEntry h c row
      let f := 2 * d.1
      (if d.2 = 0 then [] else (span (f / 512) ((f + 2 * d.2 - 1) / 512 - f / 512 + 1)).map fun r => (2, Lay.sideRow e + r)) ++ [code]
    | none => [(1, Lay.dirRow e + n)]
  else [code]

/-- The row that the Feed fetches next: its kind and its row in the weight section. -/
def feedNext (x : Gang) : Option (Nat × Nat) :=
  (x.layers[x.feed.layer]?).bind fun l => (feedItems x.hdr l x.feed.row x.feed.dir)[x.feed.idx]?

/-- The Feed with a row in its FIFO, and the next one named: after the step's last row, the first of the next step's (R82). -/
def feedPush (x : Gang) (kind : Nat) (bs : List Byte) (poison : Bool) : Feed :=
  let f := { x.feed with fifo := x.feed.fifo ++ [⟨kind, bs, poison⟩] }
  match x.layers[f.layer]? with
  | none => f
  | some l =>
    if kind = 1 then { f with dir := some (f.row / blockRows x.hdr / 64, bs) }
    else if kind ≠ 0 then { f with idx := f.idx + 1 }
    else if f.row + 1 < Lay.codeRows x.hdr l.img then { f with row := f.row + 1, idx := 0 }
    else { f with layer := (f.layer + 1) % max x.layers.length 1, row := 0, idx := 0, dir := none }

/-! #### Feed cycles -/

/-- The weights of a code row, what is left of the block's side list and of its count of escapes, or the code of the fault that its data
raises: a reserved exponent (02 R32), a beat with a third escape (R34), an end of a block whose count differs (R33). -/
def rowWeights (x : Gang) (c n : Nat) (last : Bool) (codes : List Nat) : Except Nat (List Num.WVal × Feed) :=
  let h := x.hdr
  let f := x.feed
  if Hdr.fmt h = 1 then
    let es := (f.exps.drop (32 * (c % 16))).take (2 * n)
    if es.contains 0xFF then .error 0x0420
    else .ok (codes.mapIdx fun i k => .flt (Num.w4f k (es.getD (i / 32) 0).toNat), f)
  else if Num.hasEscapes (Hdr.fmt h) then
    let d := dirEntry h c f.dirs
    let first := c % blockRows h == 0
    let side := if first then (f.side.drop (2 * d.1 % 512)).take (2 * d.2) else f.side
    let esc := fun (l : List Nat) => (l.filter fun k => (Num.weightCode (Hdr.fmt h) k).isNone).length
    let m := (if first then 0 else f.escs) + esc codes
    if (pieces 64 (cdiv codes.length 64) codes).any fun b => decide (2 < esc b) then .error 0x0421
    else if (last || c % blockRows h + 1 == blockRows h) && m != d.2 then .error 0x0420
    else
      let vs := (pieces 2 (esc codes) side).map fun b => (Num.bf16 (leNat b)).1
      .ok (Rd.fillEscapes (Hdr.fmt h) codes vs, { f with side := side.drop (2 * esc codes), escs := m })
  else .ok (codes.map fun k => .code ((Num.weightCode (Hdr.fmt h) k).getD 0), f)

/-- The NaN values of a block's side list, counted by every Lathe as the block begins (02 R37). -/
def sideNans (x : Gang) (c : Nat) : Nat :=
  if Num.hasEscapes (Hdr.fmt x.hdr) && c % blockRows x.hdr == 0 then
    let d := dirEntry x.hdr c x.feed.dirs
    ((pieces 2 d.2 ((x.feed.side.drop (2 * d.1 % 512)).take (2 * d.2))).filter fun b => (Num.bf16 (leNat b)).2).length
  else 0

/-- The Feed cycles of the oldest code row run in lockstep (R74, R75): its data's faults drop the step; the layer's last row moves on to the
next layer, and the last layer ends the step's Feed. -/
def runRow (p : Part) (g : Nat) (x : Gang) (l : Layer) (bs : List Byte) : Part :=
  let c := x.taken
  let w := Hdr.wide x.hdr
  let cs := Lay.rowCycles x.hdr l.img c
  let last := decide (Lay.codeRows x.hdr l.img ≤ c + 1)
  let codes := (List.range (cs.length * w)).map (Num.elemCode (Hdr.fmt x.hdr) bs)
  match rowWeights x c cs.length last codes with
  | .error code =>
    let d := p.stepDetail g
    let who : Who := ⟨x.ctx, x.cab, some (.lathe, 8 * g), 0, d % 2 ^ 15, d / 2 ^ 15⟩
    (p.dropStep g).ctxFault x.ctx (who.recFault code)
  | .ok (ws, f) =>
    let p := (span (8 * g) 8).foldl (fun p i => p.bumpEng .lathe i x.ctx 2 (sideNans x c)) p
    let ks := (p.gangSlots g).map Prod.fst
    let p := ks.foldl (fun p k => p.slotCycles g x l (cs.zip (pieces w cs.length ws)) k) p
    if !last then p.setGang g { x with taken := c + 1, feed := f }
    else if x.layer + 1 < x.layers.length then p.setGang g { x with layer := x.layer + 1, taken := 0, feed := { f with side := [] } }
    else (ks.foldl (fun p k => p.slotPend x k) p).setGang g { x with stepping := false, layer := 0, taken := 0, feed := { f with side := [] } }

/-- What the next code row of the step needs is not ready: a read of the feedback vector, or the end of the step, while the Punch of the step
before is due (R81, R90). -/
def feedBlocked (p : Part) (g : Nat) : Bool :=
  let x := p.gang g
  ((p.gangSlots g).any fun e => e.2.pend.isSome) && (match x.feed.fifo, x.layers[x.layer]? with
    | r :: _, some l => r.kind == 0 &&
        ((Lay.rowCycles x.hdr l.img x.taken).any (fun f => Lay.inp l.img f.2.1 == 1) ||
          (decide (x.layers.length ≤ x.layer + 1) && decide (Lay.codeRows x.hdr l.img ≤ x.taken + 1)))
    | _, _ => false)

/-- The Lathes reach the oldest row of the FIFO: a poisoned one poisons the step (R85), one of a side array is kept for the codes that use
it, and a code row runs. -/
def feedTake (p : Part) (g : Nat) : Part :=
  let x := p.gang g
  match x.feed.fifo, x.layers[x.layer]? with
  | r :: rest, some l =>
    if r.poison then p.poisonStep g x.ctx (p.stepDetail g) else
    let f := { x.feed with fifo := rest }
    let x := { x with feed := f, fifoMin := min x.fifoMin rest.length }
    if r.kind = 0 then p.runRow g x l r.data
    else if r.kind = 1 then p.setGang g { x with feed := { f with dirs := r.data } }
    else if r.kind = 2 then p.setGang g { x with feed := { f with side := f.side ++ r.data } }
    else p.setGang g { x with feed := { f with exps := r.data } }
  | _, _ => p

/-- The Lathes take rows while more than `ahead` stand in the FIFO. -/
def feedGo (g ahead : Nat) : Nat → Part → Part
  | 0, p => p
  | fuel + 1, p =>
    if (p.gang g).stepping && decide (ahead < (p.gang g).feed.fifo.length) && !p.feedBlocked g then feedGo g ahead fuel (p.feedTake g) else p

/-- The Feed pauses for a row that is late (R84). -/
def feedSlip (p : Part) (g late : Nat) : Part :=
  let x := p.gang g
  let d := p.phys (g / 4)
  let p := (p.bumpGang g x.ctx 11 1).setRb .gangFeedStatus d (g % 4) 2 true
  if p.realTime x.ctx then
    (p.bump (benchCtr (g / 4) 2 (68 + g % 4) 18) late).bump (benchCtr (g / 4) 3 x.ctx 18) (p.cyclesNs d late)
  else p

/-- The next row arrives in the FIFO (R82, R83, R85): one corrected takes 4 cycles of slack. A row beyond the store or the grant, which only a
side list can be, takes the address fault (R78). -/
def feedFetch (p : Part) (g : Nat) (kind row : Nat) (ecc : Ecc) : Part :=
  let x := p.gang g
  let n := g / 4
  if decide (262144 ≤ x.row + row) || !p.rowInGrant x.ctx x.cab n (x.row + row) then
    (p.dropStep g).ctxFault x.ctx ⟨0x0402, .engine, engUnit .lathe (8 * g), none, benchAt n (512 * (x.row + row))⟩
  else
    let r := p.rowRead (p.phys n) (x.row + row) ecc
    let p := if ecc = .corrected && !r.1.2 then r.2.bumpGang g x.ctx 10 1 else r.2
    let f := feedPush x kind r.1.1 r.1.2
    p.setGang g { x with feed := { f with debt := if ecc = .corrected && !r.1.2 then f.debt + 4 else f.debt } }

/-- FEED_ROW_ARRIVE: the next row in Feed order (R82 to R85). The Lathes stay LEAD rows behind the Feed, one row less for each 16 cycles of
slack that corrections took; `late` is how many engine cycles the Gang paused for the row, which finds the FIFO empty (log entry 39). -/
def feedRow (p : Part) (g : Nat) (ecc : Ecc) (late : Nat) : Part :=
  let x := p.gang g
  let d := p.phys (g / 4)
  if !x.stepping || !p.ctxRuns x.ctx || !p.residentOn x.ctx x.cab || !p.benchUp d then p else
  let p := p.feedGo g (if late = 0 then x.lead else 0) 256
  let x := p.gang g
  match feedNext x with
  | none => p
  | some (kind, row) =>
    if !x.stepping || !p.ctxRuns x.ctx || decide (256 ≤ x.feed.fifo.length) || p.rowBusy d (x.row + row) (engKey .lathe (8 * g)) then p else
    let slip := decide (0 < late) && x.feed.fifo.isEmpty
    let p := if slip then p.feedSlip g late else p
    let p := p.feedFetch g kind row ecc
    let f := (p.gang g).feed
    let p := if f.debt < 16 then p else p.setGang g { p.gang g with feed := { f with debt := f.debt - 16 } }
    let p := p.feedGo g (if slip then 0 else (p.gang g).lead) 256
    if f.debt < 16 then p else p.feedGo g ((p.gang g).feed.fifo.length - 1) 1

/-! ### Read-ahead, resets, the Punch, completion -/

/-- COND_RECORD_ARRIVE (R116): the next record that the slot reads ahead, at most 16. -/
def condArrive (p : Part) (k : Nat) (ecc : Ecc) : Part :=
  match p.slot k with
  | none => p
  | some s =>
    match p.strm s.ctx s.strm with
    | none => p
    | some x =>
      let n := s.next x + s.cond.length
      let d := p.phys (Ent.inDie x.ent)
      if Ent.state x.ent ≠ 1 ∨ !p.ctxRuns s.ctx ∨ 16 ≤ s.cond.length ∨ Ent.queued x.ent ≤ n ∨ !p.benchUp d ∨ !p.condReleased x n ∨
          p.fabricHeld (.bench (p.phys (k / 512))) (.bench d) (benchAt (Ent.inDie x.ent) 0) then p else
      match p.condGated x n with
      | r :: rest => (r :: rest).foldl (fun p r => p.gateQueue d (bankOf r) (.wait r)) p
      | [] =>
        let r := p.condRead x n ecc
        r.2.setSlot k { s with cond := s.cond ++ [r.1] }

/-- INIT_VECTOR_LOADED (R96, R104): the initial vector for the reset of the slot's next step. -/
def initLoaded (p : Part) (k : Nat) (st : RdStat) (ecc : Ecc) (hw : Cells) : Part :=
  match p.slot k with
  | none => p
  | some s =>
    match p.strm s.ctx s.strm with
    | none => p
    | some x =>
      let n := s.next x
      if Ent.state x.ent ≠ 1 ∨ !p.ctxRuns s.ctx ∨ s.init.isSome ∨ !x.resets n then p else
      let who : Who := ⟨s.ctx, Ent.cab x.ent, some (.lathe, k / 16), earlyStrm s.ctx s.strm, 0x7FFF, 0⟩
      (p.hostSees hw).engage who ecc st (fun _ p => p) do
        let v ← initVec (Ent.initPtr x.ent) (Hdr.state (p.gang (k / 128)).hdr)
        Rd.onPart fun p => p.mapSlot k fun s => { s with init := some v.1, initBad := v.2 }

/-- The Punch of slot `e.1` draws its bands where its step's logits are in the buffer. -/
def punchSlot (g : Nat) (x : Gang) (p : Part) (e : Nat × Slot) : Part :=
  match e.2.pend with
  | none => p
  | some q =>
    if q.drawn then p else
    let sd := ((p.strm e.2.ctx e.2.strm).map fun y => stepSeed y q.step).getD ⟨0, false⟩
    let o := Punch.slot x.hdr q.ent e.2.strm q.step sd q.logits
    let n := Hdr.bands x.hdr
    let nan := if (Num.bf16 (bits q.ent 16 16)).2 then n * Punch.reads x.hdr else 0
    let p := p.setSlot e.1 { e.2 with pend := some { q with drawn := true, outs := o.1, f := o.2 } }
    (p.bumpGang g x.ctx 15 n).bumpEng .lathe (e.1 / 16) x.ctx 2 nan

/-- PUNCH_START (R87): every slot whose step's logits are in its buffer draws its bands, in slot order. -/
def punchStart (p : Part) (g : Nat) : Part :=
  let x := p.gang g
  if !p.ctxRuns x.ctx || !p.residentOn x.ctx x.cab then p else (p.gangSlots g).foldl (punchSlot g x) p

/-- A step that completes after its deadline, as its stream's entry stood when it was armed (R92). -/
def stepLate (p : Part) (q : Pend) : Bool := Ent.rate q.ent != 0 && decide (Ent.deadline q.ent q.step < Int.ofNat p.time)

/-- A stream's entry once step `n` has completed, late or not (R90, R92). -/
def stepEntry (ent n : Nat) (late : Bool) : Nat :=
  let e := setBits ent 64 64 (n + 1)
  if late then setBits (setBits e 5 1 1) 672 32 (min (bits e 672 32 + 1) (2 ^ 32 - 1)) else e

/-- The step of slot `k` whose values the Punch has drawn completes: feedback, output values, entry, conditioning, counters. -/
def stepEnds (p : Part) (k : Nat) (s : Slot) (q : Pend) (x : Strm) : Part :=
  let g := k / 128
  let late := p.stepLate q
  let last := match x.chunkAt q.step with
    | some h => q.step + 1 == h.first + h.len
    | none => false
  let out := s.out ++ q.outs
  let p := p.setSlot k { s with
    pend := none, f := if s.armed && s.fresh then s.f else q.f
    out := if last then out ++ rep (256 - out.length) 0 else out }
  let first := late && !bit x.ent 5
  let p := p.setStrm s.ctx s.strm { x with
    ent := stepEntry x.ent q.step late
    chunks := x.chunks.map fun h =>
      if h.first ≤ q.step ∧ q.step < h.first + h.len then { h with stats := statsAdd h.stats q.stats } else h }
  let p := p.condReturn x q.step
  let p := p.bumpGang g s.ctx 8 1
  let p := if late then p.bumpGang g s.ctx 13 1 else p
  let m := (Num.anneal (Hdr.anneal (p.gang g).hdr) 127 ⟨q.stat.n, q.stat.sats, q.stat.sse, q.stat.maxc, 0, false⟩
    (signed 8 (bits q.kr 0 8)) (bits q.kr 8 12)).2.2
  let p := if Hdr.state (p.gang g).hdr = 0 then p else p.countMove (k / 512) s.ctx m
  let p := if first then p.strmBack s.ctx s.strm else p
  p.flush k

/-- STEP_COMPLETE (R90, R92): the slot's feedback-ready cycle. -/
def stepComplete (p : Part) (k : Nat) : Part :=
  let p := match p.slot k with
    | some s => if p.ctxRuns s.ctx then p.flush k else p
    | none => p
  match p.slot k with
  | none => p
  | some s =>
    match s.pend, p.strm s.ctx s.strm with
    | some q, some x =>
      let n := Hdr.bands (p.gang (k / 128)).hdr
      if !q.drawn || !p.ctxRuns s.ctx || !p.residentOn s.ctx (Ent.cab x.ent) || decide (256 < s.out.length + n) then p else
      let u := p.stepEnds k s q x
      if s.armed then u else
      match u.strm s.ctx s.strm with
      | some y => runOps s.ctx s.strm (p.stepLate q) (y.ops.length + 1) u
      | none => u
    | _, _ => p

/-- Assay statistics are added to their records in memory (02 R51). -/
def assayStore (l : Tab Stat) : Rd Unit :=
  l.forM fun g => do
    let r := leNat (← Rd.operand 0x0430 g.1 16)
    Rd.store g.1 (leBytes 16 (Num.assayAdd r ⟨g.2.n, g.2.sats, g.2.sse, g.2.maxc, 0, false⟩))

/-- CHUNK_COMPLETE (R113): the oldest chunk, once the row that holds its last value has been written. -/
def chunkComplete (p : Part) (c n : Nat) : Part :=
  let p := match (p.slotOf c n) with
    | some k => if p.ctxRuns c then p.flush k else p
    | none => p
  match p.strm c n with
  | none => p
  | some x =>
    match x.chunks with
    | [] => p
    | h :: rest =>
      if !h.ended || (p.liveRec h.job h.rix).isNone then p else
      let eng := (p.slotOf c n).map fun k => (Cls.lathe, k / 16)
      p.engage ⟨c, Ent.cab x.ent, eng, earlyKey (recKey h.job h.rix), h.rix, (p.job h.job).map Job.ring |>.getD 0⟩ .clean .ok (fun _ p => p) do
        assayStore h.stats
        Rd.onPart fun p =>
          let p := (p.mapStrm c n fun x => { x with chunks := rest }).strmBack c n
          (p.completeRec h.job h.rix 0 false (bit x.ent 5) (chunkResult n h)).ops c n

/-! ### Idle Gangs (R86, R94) -/

/-- The first cause, in the order of 09 Table 9-5, that keeps a slot's next step from being armed by conditions 1 to 3 of R91; a record of
another die that has not arrived counts as absent (R116), and so does an initial vector that is not loaded (R96). -/
def slotIdle (p : Part) (k : Nat) (s : Slot) (y : Strm) : Option Nat :=
  let n := s.next y
  let d := p.phys (Ent.inDie y.ent)
  let c := condPlace y n
  let here := Ent.inDie y.ent == k / 512
  let absent := s.cond.isEmpty && !p.condHere k s y
  if absent && p.condReleased y n && here && !(p.condGated y n).isEmpty then some 6
  else if Ent.state y.ent ≠ 1 ∨ swapWaits y then some 1
  else if absent && !p.condReleased y n && (y.chunkAt n).isSome && decide (c.1 + c.2.1 ≤ (p.region d (Ent.inRegion y.ent)).rsvd) then some 3
  else if absent || (y.resets n && s.init.isNone && Ent.initPtr y.ent != 0) then some 0
  else if !p.roomFor s y (Hdr.bands (p.gang (k / 128)).hdr) then some 5
  else none

/-- The stall cause of an idle Gang of a real-time context (R94, Table 4-9, by index of Table 9-5): of its lowest slot that is blocked by
conditions 1 to 3 of R91, or its waking clock. -/
def gangIdle (p : Part) (g : Nat) : Option Nat :=
  let x := p.gang g
  if !x.loaded || x.stepping || !p.ctxRuns x.ctx || !p.residentOn x.ctx x.cab || !p.realTime x.ctx then none
  else if x.waking then some 6
  else
    match (p.gangSlots g).findSome? fun e => (p.strm e.2.ctx e.2.strm).bind fun y => p.slotIdle e.1 e.2 y with
    | some k => some k
    | none => if (p.chosen g).isSome then some 1 else none

/-- GANG_CLOCK_RELEASE (R86): the Feed prefills again when the clock is back. -/
def gangClockRelease (p : Part) (g : Nat) : Part :=
  let x := p.gang g
  if x.clock && !x.stepping && (p.gangSlots g).all fun e => !e.2.armed && e.2.pend.isNone then
    p.setGang g { x with clock := false, feed := {} } else p

end Part

def execChunkComplete (c n : Nat) (s : State) : Host.Outcome State Fault Refusal := onWork s fun p => p.chunkComplete c n
def execGangStepStart (g : Nat) (s : State) : Host.Outcome State Fault Refusal := onWork s fun p => p.gangStepStart g
def execFeedRowArrive (g : Nat) (ecc : Ecc) (late : Nat) (s : State) : Host.Outcome State Fault Refusal :=
  onWork s fun p => p.feedRow g ecc late
def execCondRecordArrive (slot : Nat) (_st : RdStat) (ecc : Ecc) (hw : Cells) (s : State) : Host.Outcome State Fault Refusal :=
  onWork s fun p => (p.hostSees hw).condArrive slot ecc
def execInitVectorLoaded (slot : Nat) (st : RdStat) (ecc : Ecc) (hw : Cells) (s : State) : Host.Outcome State Fault Refusal :=
  onWork s fun p => p.initLoaded slot st ecc hw
def execPunchStart (g : Nat) (s : State) : Host.Outcome State Fault Refusal := onPart s fun p => p.punchStart g
def execStepComplete (slot : Nat) (s : State) : Host.Outcome State Fault Refusal := onWork s fun p => p.stepComplete slot
def execGangClockRelease (g : Nat) (s : State) : Host.Outcome State Fault Refusal := onPart s fun p => p.gangClockRelease g

end Sys2Proof.Machine
end

