-- ==== Sys2Proof/Machine/CabCtx.lean ====
section
/-!
DEFINITION. Sys2Proof/Machine/CabCtx.lean: pre-emption, restore, eviction and teardown (11_cabinets_and_contexts R251 to R262).
-/

namespace Sys2Proof.Machine
open Sys2Proof

/-- Device addresses that an issued task uses: a Carrier's lines, a compute task's tensors, weights and caches. -/
def Task.addrs (t : Task) : List Nat :=
  if kindOf t.img = 3 then
    (srcBlks t.desc ++ dstBlks t.desc).flatMap fun b => if b.region then [] else (List.range b.count).map b.line
  else t.desc.tail.map fun b => bits b 0 64

namespace Part

/-! ### Save images (R258) -/

/-- E and G of an image: the Cabinet's compute engines and bench die Carriers, and its Gangs. -/
def imageE (p : Part) (b : Nat) : Nat :=
  (p.cabEngines b .planer).length + (p.cabEngines b .joiner).length + (p.cabEngines b .burnisher).length + (p.cabEngines b .carrier).length
def imageG (p : Part) (b : Nat) : Nat := (p.cabGangs b).length

/-- The offset of the share section. -/
def imageShare (p : Part) (b : Nat) : Nat := 45056 + 2048 * p.imageE b + 1024 * p.imageG b

def shareRows (p : Part) (b : Nat) : Nat := ((List.range 8).map fun n => (p.share b n).2).foldl (· + ·) 0

/-- IMAGE_BYTES of a Cabinet. -/
def imageBytes (p : Part) (b : Nat) : Nat := p.imageShare b + 512 * p.shareRows b

/-- The device address of the image of a hold. -/
def imageAt (p : Part) (c b : Nat) : Nat :=
  p.rv .ctxSave 0 c / 4096 * 4096 + popCount b (p.rv .ctxCabs 0 c) * p.rf .ctxSaveLen 0 c 0 40

/-- Tasks of a hold on engines and Carriers. -/
def holdTasks (p : Part) (c b : Nat) : List Task :=
  (p.jig.eng.map Prod.snd ++ p.jig.xfer.flatMap Prod.snd).filter fun t => t.ctx == c && t.cab == b

def stoppedOf (p : Part) (c b : Nat) : List Task := (p.jig.stopped.map Prod.snd).filter fun t => t.ctx == c && t.cab == b

/-- A memory stack or a Join member that an issued task uses lies outside the grant of Cabinet `b` (Table 11-14, bit 7). -/
def memoryLacks (p : Part) (b : Nat) (t : Task) : Bool :=
  t.addrs.any fun a => match locOf p.member a with
    | .hbm => p.rf .cabCtl 0 b 32 12 &&& stackSet p.hbmMode a != stackSet p.hbmMode a
    | .remote j _ _ => !p.rb .cabRemote 0 b j
    | _ => false

/-- Records of a hold that are ready or issued, by class (Table 11-14). -/
def holdRecs (p : Part) (c b : Nat) (cls : Cls) : List Nat :=
  (p.jobsOn c b).flatMap fun e => (p.jobRecs e.1).filterMap fun y =>
    if clsOf (kindOf y.2.img) = some cls ∧ (y.2.st = .issued ∨ y.2.st = .stopped ∨ (y.2.st = .pending ∧ p.recReady e.1 e.2 y.1 y.2)) then
      some y.2.img else none

def classes : List Cls := [.planer, .joiner, .burnisher, .carrier]

/-- FEATURES of an image (Table 11-14). -/
def features (p : Part) (c b : Nat) (h : Hold) : Nat :=
  b2n (!h.gangs.isEmpty) + 2 * b2n (!(p.holdRecs c b .planer).isEmpty) + 4 * b2n (!(p.holdRecs c b .joiner).isEmpty) +
    8 * b2n (!(p.holdRecs c b .burnisher).isEmpty) + 16 * b2n (!(p.holdRecs c b .carrier).isEmpty) +
    32 * b2n (classes.any fun k => (p.holdRecs c b k).any fun i => bits i 6 2 != 0) + 64 * b2n (p.shareRows b != 0) +
    128 * b2n ((p.holdTasks c b ++ p.stoppedOf c b).any fun t => t.addrs.any fun a => match locOf p.member a with
      | .hbm => true
      | .remote _ _ _ => true
      | _ => false)

/-- Whether the present composition of a Cabinet has what a saved hold needs (Table 11-14). -/
def hasFeatures (p : Part) (c b : Nat) (h : Hold) : Bool :=
  h.gangs.all (fun r => (p.cabGangs b).any fun g => g / 4 == r.die) &&
    classes.all (fun k => (p.holdRecs c b k).isEmpty || !(p.cabEngines b k).isEmpty) &&
    classes.all (fun k => (p.holdRecs c b k).all fun i => bits i 6 2 == 0 || !(p.eligible b k i).isEmpty) &&
    h.share.all (fun s => p.share b s.1 == (s.2.1, s.2.2)) && (p.stoppedOf c b).all fun t => !p.memoryLacks b t

/-- The image header as a number of 68 bytes, CHECK last (Table 11-13). -/
def imageHead (p : Part) (c b : Nat) (h : Hold) (check : Nat) : Nat :=
  let recs := ((p.jobsOn c b).map fun e => (p.jobRecs e.1).length).foldl (· + ·) 0
  let map := ((List.range 8).map fun n => ((p.share b n).1 / 16 + (p.share b n).2 / 16 * 2 ^ 14) * 2 ^ (32 * n)).foldl (· + ·) 0
  2 + c * 2 ^ 16 + b * 2 ^ 24 + p.features c b h * 2 ^ 32 + (p.time % 2 ^ 64) * 2 ^ 64 + ((p.ctx c).ens % 2 ^ 64) * 2 ^ 128 +
    (p.jobsOn c b).length * 2 ^ 192 + recs * 2 ^ 208 + p.imageE b * 2 ^ 220 + p.imageG b * 2 ^ 230 + map * 2 ^ 256 + check * 2 ^ 512

/-- Step 7 of Table 11-9: the share rows are copied to the image, and writes to them redirected (08 R202). -/
def copyShare (p : Part) (c b base : Nat) : Part :=
  ((List.range 8).foldl (fun (a : Part × Nat) n =>
    let s := a.1.share b n
    if s.2 = 0 then a else
    let d := a.1.phys n
    let q := (List.range s.2).foldl (fun (q : Part) i =>
      let r := benchAt d (512 * (s.1 + i))
      q.hbmStore (a.2 + 512 * i) (q.mem.read r 512) (q.mem.poisoned r)) a.1
    ({ q with bench := { q.bench with redirects := q.bench.redirects ++ [⟨c, d, s.1, s.2, a.2⟩] } }, a.2 + 512 * s.2)) (p, base)).1

/-- Step 3 of R259: the share rows come back and their redirection ends. -/
def pasteShare (p : Part) (c : Nat) (b base : Nat) : Part :=
  ((List.range 8).foldl (fun (a : Part × Nat) n =>
    let s := a.1.share b n
    if s.2 = 0 then a else
    let d := a.1.phys n
    let q := (List.range s.2).foldl (fun (q : Part) i =>
      let r := benchAt d (512 * (s.1 + i))
      q.onMem fun m => (m.write r (m.read (a.2 + 512 * i) 512)).setPoison r (m.anyPoison (a.2 + 512 * i) 512)) a.1
    ({ q with bench := { q.bench with redirects := q.bench.redirects.filter fun x => !(x.ctx == c && x.image == a.2) } }, a.2 + 512 * s.2))
    (p, base)).1

/-! ### Saves (R255, R256) -/

/-- CAB_CMD.SAVE: the resident hold is pre-empted, pinned or not (Table 11-5). -/
def cabSave (p : Part) (b : Nat) : Part :=
  match p.residentCtx b with
  | some c => p.startSave c b none
  | none => p

/-- QUANTUM_US has passed since the resident hold was placed (R252). -/
def quantumExpire (p : Part) (b : Nat) : Part :=
  match p.occupant b with
  | some (c, h) => if h.st = .resident then (p.setHold c b { h with quantum := true }).decideCab b else p
  | none => p

/-- No ready task of the hold has a free eligible engine, and none of its Gangs steps (R253). -/
def noneReady (p : Part) (c b : Nat) : Bool :=
  classes.all (fun k => (p.pick c b k).isNone) && (p.cabGangs b).all fun g => !(p.gang g).stepping

/-- Whether the resident hold is blocked now (R253, CAB_STATUS.BLOCKED): none of its engines does work. -/
def blockedNow (p : Part) (c b : Nat) : Bool :=
  p.noneReady c b &&
    p.jig.eng.all (fun e => !(e.2.ctx == c && e.2.cab == b) || !p.engWorks (engAt e.1).1 (engAt e.1).2 e.2) &&
    p.jig.xfer.all fun e => e.2.all fun t => !(t.ctx == c && t.cab == b) || !p.engWorks .carrier e.1 t

/-- The blocked holds of the non-pinned Cabinets (R253). -/
def blockedSet (p : Part) : List (Nat × Nat) :=
  (List.range 32).filterMap fun b =>
    if p.cabEn b && !p.cabPinned b then (p.residentCtx b).bind fun c => if p.blockedNow c b then some (c, b) else none else none

/-- Of a set of holds, that of the context with the least PROGRESS, ties to the lower context number (R253). -/
def leastProgress (p : Part) (l : List (Nat × Nat)) : Option (Nat × Nat) :=
  l.foldl (fun (a : Option (Nat × Nat)) e => match a with
    | none => some e
    | some m =>
      let x := (p.ctx e.1).progress
      let y := (p.ctx m.1).progress
      if x < y ∨ (x = y ∧ e.1 < m.1) then some e else some m) none

/-- GRACE_EVICT (R253): the command names no set; the model takes the largest, every Cabinet whose hold is blocked (log entry 84). The freed
Cabinet is placed as SAVE_COMPLETE says. -/
def graceEvict (p : Part) : Part :=
  if !p.rb .schedCtl 0 0 32 then p else
  if p.blockedSet.all fun e => (p.wset e.2).isEmpty then p else
  match p.leastProgress p.blockedSet with
  | none => p
  | some (c, b) => ((p.bump (pkgCtr 4 b 1) 1).bump (pkgCtr 3 c 17) 1).startSave c b (p.leastVt (p.wset b))

/-- DRAIN_RESPONSE (R256): the oldest read that drains for the Cabinet returns, and its data is discarded. -/
def drainResponse (p : Part) (b : Nat) : Part :=
  match p.join.reads.find? fun r => r.2.drain && r.2.cab == b with
  | some r => { p with join := { p.join with reads := Tab.del r.1 p.join.reads } }
  | none => p

/-- The waiting reservations of tasks leave their regions while the tasks are saved. -/
def unqueue (p : Part) (ids : List Nat) : Part :=
  { p with bench := { p.bench with regions := Tab.mapV (fun _ (x : Region) =>
    { x with waiting := x.waiting.filter fun w => !ids.contains w.1 }) p.bench.regions } }

/-- Step 4 of Table 11-9: every engine's task stops, and the ranges of the hold leave the scoreboards for the image (08 R189). -/
def saveTasks (p : Part) (c b : Nat) (h : Hold) : Part :=
  let ids := (p.holdTasks c b ++ p.stoppedOf c b).map Task.id
  let rs := p.bench.sb.flatMap fun e => e.2.filter fun s => ids.contains s.owner
  let p := (p.holdTasks c b).foldl (fun p t => p.stopTask t none) p
  let here := fun (k : Nat) => (p.job (k / 32768)).any fun x => x.ctx == c && x.cab == b
  let p := { p with jig := { p.jig with
    stopped := Tab.mapV (fun _ (t : Task) => if ids.contains t.id then { t with await := none } else t) p.jig.stopped
    parked := p.jig.parked.filter fun e => !here e.1
    early := Tab.keep (fun k _ => if 2 ^ 51 ≤ k then p.earlyCtx k != some c else !here (k - 2 ^ 50)) p.jig.early } }
  let p := { p with bench := { p.bench with sb := Tab.mapV (fun _ (l : List SbRange) => l.filter fun s => !ids.contains s.owner) p.bench.sb } }
  (p.unqueue ids).setHold c b { h with ranges := rs }

/-- What a Cabinet does after a save: the hold chosen for it is placed, unless QUIESCE has been set meanwhile; else it decides. -/
def afterSave (p : Part) (b : Nat) (next : Option Nat) : Part :=
  match next with
  | some w => if p.cabEn b && p.ctxRuns w && p.holdOut w b && !p.cabPinned b && !p.rb .cabCmd 0 b 1 then p.place w b else p.decideCab b
  | none => p.decideCab b

/-- The first page of an image that lies outside HBM or in a stack out of service (13 R302, 17 R400). -/
def imageGap (p : Part) (a n : Nat) : Option Nat :=
  ((span (a / 4096) ((a + n - 1) / 4096 - a / 4096 + 1)).map (4096 * ·)).find? fun x => !p.hbmServes x

/-- SAVE_COMPLETE (Table 11-9 steps 4 to 8). The bytes of the sections, whose fields Table 11-12 gives no places, are an open range; CHECK is
their CRC (log entry 26). It waits for reads that drain and for streams still RESTORING. -/
def saveComplete (p : Part) (b : Nat) : Part :=
  match p.occupant b with
  | none => p
  | some (c, h) =>
    let mine := p.slots.filter fun e => e.2.ctx == c && (p.cabGangs b).contains (e.1 / 128)
    let restoring := mine.any fun e => match p.strm c e.2.strm with
      | some x => Ent.state x.ent == 5
      | none => false
    if h.st ≠ .saving ∨ !p.ctxRuns c ∨ restoring ∨ p.join.reads.any fun r => r.2.drain && r.2.cab == b && r.2.msg.ctx == c then p else
    let base := p.imageAt c b
    let p := mine.foldl (fun p e => p.saveStrm c e.2.strm e.1) (p.saveTasks c b h)
    let h := (p.hold c b).getD h
    let p := h.gangs.foldl (fun p r => p.unbind r.gang) p
    let n := p.imageShare b
    match p.imageGap base (p.imageBytes b) with
    | some a => p.ctxFault c ⟨0x0402, .none, 0, none, a⟩
    | none =>
    let p := p.copyShare c b (base + n)
    let p := p.onMem fun m => m.openRange (base + 4096) (n - 4096) p.fresh p.hbmMode
    let p := { p with fresh := p.fresh + 1 }
    let check := crc32 (leBytes 4096 (p.imageHead c b h 0) ++ p.mem.read (base + 4096) (n - 4096))
    let hdr := p.imageHead c b h check
    let p := p.hbmStore base (leBytes 4096 hdr) false
    let sh : Nat → Nat × Nat := fun n => p.share b n
    let share : List (Nat × Nat × Nat) := (List.range 8).filterMap fun (n : Nat) => if (sh n).2 == 0 then none else some (n, (sh n).1, (sh n).2)
    let p := p.setHold c b { h with st := .saved, next := none, image := base, hdr := hdr, share := share }
    let p := (p.bump (pkgCtr 4 b 0) 1).bump (pkgCtr 3 c 16) 1
    p.clearDeadCabs.afterSave b h.next

/-! ### Restores (R259, R260) -/

/-- A restore that cannot go on faults the context (R260). -/
def restoreFault (p : Part) (c : Nat) (f : Nat × Nat) : Part := p.ctxFault c ⟨f.1, .none, 0, none, f.2⟩

/-- What step 2 finds in the record of a saved stream: a code with its DETAIL, or none. -/
def recordCheck (p : Part) (c b n : Nat) : Option (Nat × Nat) :=
  match p.strm c n with
  | none => none
  | some x =>
    match (p.ctlRead c (Ent.savePtr x.ent) 64).1 with
    | none => some (0x0402, Ent.savePtr x.ent)
    | some (hd, _) =>
      let a := leNat hd
      let len := 1024 + 512 * cdiv (bits a 48 13) 512
      match (p.ctlRead c (Ent.savePtr x.ent) len).1 with
      | none => some (0x0402, Ent.savePtr x.ent)
      | some (bs, poison) =>
        let at' := p.rv .ctxSeeds 0 c / 512 * 512 + 32 * bits a 148 4
        let sd := leNat (p.hbmBytes at' 32)
        if !p.hbmServes at' then some (0x0402, at')
        else if p.mem.anyPoison at' 32 then some (0x0480, 0x7FFF)
        else if poison || crc32 (leBytes 64 (setBits (leNat (bs.take 64)) 480 32 0) ++ bs.drop 64) != bits a 480 32 then some (0x0411, b)
        else if bits a 256 128 ≠ bits sd 0 128 ∨ bit a 152 ≠ bit sd 128 then some (0x0413, b)
        else none

/-- Steps 1 and 2 of R259: the first fault they find. The sections and the header pass CHECK where they stand as the save left them; what host
software has rewritten may fail or be restored, which is undefined (R258), and the model lets it fail (log entry 26). -/
def restoreCheck (p : Part) (c b : Nat) (h : Hold) : Option (Nat × Nat) :=
  let n := bits h.hdr 220 10 * 2048 + bits h.hdr 230 6 * 1024 + 45056
  if let some a := p.imageGap h.image n then some (0x0402, a)
  else if p.mem.anyPoison h.image n || p.mem.read h.image 4096 != leBytes 4096 h.hdr ||
    p.mem.cells.any (fun e => decide (h.image + 4096 ≤ e.1) && decide (e.1 < h.image + n)) then some (0x0411, b)
  else if !p.hasFeatures c b h then some (0x0412, b)
  else (h.gangs.flatMap GangRec.streams).findSome? fun s => p.recordCheck c b s

/-- Step 5 of R259: each Gang record in turn takes the lowest free Gang of the Cabinet on its die, or stays pending. -/
def bindSaved (p : Part) (c b : Nat) (l : List GangRec) : Part :=
  l.foldl (fun p r =>
    if !p.ctxRuns c then p else
    match (p.cabGangs b).find? fun g => g / 4 == r.die && !(p.gang g).loaded with
    | some g => p.reload g c b r.handle r.image r.row
    | none => p.setCtx c { p.ctx c with pendModels := (p.ctx c).pendModels ++ [(r.die, r.handle, r.image, r.row, b)] }) p

/-- Step 6 of R259: the streams of the Gang records, ascending, each into the lowest free slot of the lowest Gang with its MODEL. -/
def placeSaved (p : Part) (c b : Nat) (l : List Nat) : Part :=
  (l.foldl (fun a n => insNat n a) []).foldl (fun p n =>
    match p.strm c n with
    | none => p
    | some x =>
      if Ent.state x.ent ≠ 3 ∧ Ent.state x.ent ≠ 4 then p else
      match (p.boundGangs c b (Ent.model x.ent)).findSome? p.openSlot with
      | some k => (p.placeStrm c n k).restoreStrm c n k .ok []
      | none => if Ent.state x.ent = 3 then p.strmState c n 4 else p) p

/-- The waiting reservations of a restored task reach their regions again. -/
def requeue (p : Part) (t : Task) : Part :=
  t.waitPos.foldl (fun p (g : Range) => match g.region with
    | some i => p.reserve g.die i t.id g.n
    | none => p) p

/-- Step 7 of R259: issued tasks resume in their issue order, each where it can be placed now; a Carrier reads its block list again (09 R212).
A task that finds no engine resumes by its own command, before any other ready one (10 R238). -/
def resumeAll (p : Part) (c b : Nat) : Part :=
  let l := (p.stoppedOf c b).foldl (fun (a : Tab Task) t => Tab.put (t.order * 2 ^ 40 + t.id) t a) []
  let p := l.foldl (fun p e => p.requeue e.2) p
  l.foldl (fun p e =>
    let t := ((Tab.find (recKey e.2.job e.2.rix) p.jig.stopped)).getD e.2
    match p.job t.job, p.rec' t.job t.rix, clsOf (kindOf t.img) with
    | some x, some y, some cls =>
      match p.placeable b cls t.job t.rix t.img with
      | some n => if cls = .carrier then p.carrierOn x y t.job t.rix n .ok else p.resumeTask x cls n t
      | none => p
    | _, _, _ => p) p

/-- Steps 3 to 5 of R259: the share, the registered ranges, the models. -/
def bringBack (p : Part) (c b : Nat) (h : Hold) : Part :=
  let off := bits h.hdr 220 10 * 2048 + bits h.hdr 230 6 * 1024 + 45056
  let p := p.pasteShare c b (h.image + off)
  let p := h.ranges.foldl (fun p s => p.setSb s.range.die (p.sbOf s.range.die ++ [{ s with eng := 0x10000 + s.owner }])) p
  let p := p.setHold c b { h with st := .resident, gangs := [], ranges := [], share := [], placed := p.time, quantum := false }
  p.bindSaved c b h.gangs

/-- Its stopped tasks resume in their order, and fetch goes on (step 7 of R259). -/
def runAgain (p : Part) (c b : Nat) : Part :=
  let p := (p.resumeAll c b).fillCab b
  ((p.bump (pkgCtr 4 b 2) 1).bump (pkgCtr 3 c 18) 1).opsAll c

/-- The restore of the hold that a Cabinet has in restore: checked, then carried out (R259, R260). -/
def restoreHold (p : Part) (b c : Nat) (h : Hold) : Part :=
  if h.st ≠ .restoring ∨ !p.ctxRuns c then p else
  match p.restoreCheck c b h with
  | some f => p.restoreFault c f
  | none =>
    let p := p.bringBack c b h
    if !p.ctxRuns c then p else
    let p := p.placeSaved c b (h.gangs.flatMap GangRec.streams)
    if !p.ctxRuns c then p else p.runAgain c b

/-- RESTORE_COMPLETE (R259). -/
def restoreComplete (p : Part) (b : Nat) (hw : Cells) : Part :=
  let p := p.hostSees hw
  match p.occupant b with
  | none => p
  | some (c, h) => p.restoreHold b c h

/-! ### Teardown (R262) and translation (R251) -/

/-- TEARDOWN_DONE: steps 7 and 8 of Table 11-15, once the context's remote reads have drained (step 2). -/
def teardownDone (p : Part) (c : Nat) : Part :=
  let x := p.ctx c
  if x.state ≠ 4 ∨ p.join.reads.any fun r => r.2.drain && r.2.msg.ctx == c then p else
  let bs := p.heldCabs c
  let p := { p with
    holds := p.holds.filter fun e => e.1 / 32 != c
    bench := { p.bench with redirects := p.bench.redirects.filter fun r => r.ctx != c }
    join := { p.join with reads := p.join.reads.filter fun r => r.2.msg.ctx != c } }
  let p := (p.gangs.filter fun e => e.2.loaded && e.2.ctx == c).foldl (fun p e => p.unbind e.1) p
  let y := { p.ctx c with pendModels := [], ens := x.ens, seen := false, state := if x.clearEn then 0 else 5, clearEn := false }
  let p := (p.setCtx c y).bump (pkgCtr 3 c 15) 1
  let p := if x.clearEn then p.setRb .ctxCtl 0 c 63 false else p
  (bs.foldl decideCab p).clearDeadCabs

/-- CTX_TRANS_INVAL.INVAL: cached entries are dropped; while BUSY, an access may still use an old one. -/
def transInval (p : Part) (c : Nat) : Part :=
  let x := p.ctx c
  let old := x.trans.foldl (fun t e => Tab.put e.1 e.2 t) x.old
  (p.setCtx c { x with old := old, trans := [] }).setRb .ctxTransInval 0 c 1 true

def transInvalDone (p : Part) (c : Nat) : Part := (p.setCtx c { p.ctx c with old := [] }).setRb .ctxTransInval 0 c 1 false

end Part

def execQuantumExpire (b : Nat) (s : State) : Host.Outcome State Fault Refusal := onPart s fun p => p.quantumExpire b
def execGraceEvict (s : State) : Host.Outcome State Fault Refusal := onPart s fun p => p.graceEvict
def execDrainResponse (b : Nat) (s : State) : Host.Outcome State Fault Refusal := onPart s fun p => p.drainResponse b
def execSaveComplete (b : Nat) (s : State) : Host.Outcome State Fault Refusal := onWork s fun p => p.saveComplete b
def execRestoreComplete (b : Nat) (hw : Cells) (s : State) : Host.Outcome State Fault Refusal :=
  onWork s fun p => p.restoreComplete b hw
def execTeardownDone (c : Nat) (s : State) : Host.Outcome State Fault Refusal := onWork s fun p => p.teardownDone c
def execTransInvalDone (c : Nat) (s : State) : Host.Outcome State Fault Refusal := onPart s fun p => p.transInvalDone c

end Sys2Proof.Machine
end

