-- ==== Sys2Proof/Machine/Chest.lean ====
section
/-!
DEFINITION. Sys2Proof/Machine/Chest.lean: the Chest: its code, media management, Drawers and commands (13 R305 to R319, 17 R402 R403).
A block is numbered (channel * 8 + target) * 2^20 + block, and a page of it block number * 4096 + page.
-/

namespace Sys2Proof.Machine
open Sys2Proof

/-! ### The code (R307) -/

def rotr512 (x s : Nat) : Nat := (x >>> s ||| x <<< (512 - s)) % 2 ^ 512

/-- Whether column block `j` of the data has a block in row block `r`, and its rotation. -/
def ldpcHas (r j : Nat) : Bool := [0, 1, 3, 7].contains ((r + 64 - j) % 8)
def ldpcShift (r j : Nat) : Nat := (73 * r * (j + 1) + 29 * j) % 512

/-- σ_r of the 64 column blocks of a codeword's data. -/
def ldpcSigma (blks : List Nat) (r : Nat) : Nat :=
  (blks.zipIdx).foldl (fun a x => if ldpcHas r x.2 then a ^^^ rotr512 x.1 (ldpcShift r x.2) else a) 0

/-- The column blocks of a byte string, 64 bytes each. -/
def colBlocks (l : List Byte) : List Nat := (pieces 64 64 l).map leNat

/-- The parity column blocks 64 to 71: p_0 = σ_0 and p_r = σ_r XOR p_(r-1). -/
def ldpcParity (blks : List Nat) : List Nat :=
  ((List.range 8).foldl (fun (a : List Nat × Nat) r => (a.1 ++ [ldpcSigma blks r ^^^ a.2], ldpcSigma blks r ^^^ a.2)) ([], 0)).1

/-- Row block `r` of the syndrome of a codeword. -/
def ldpcSyndrome (blks par : List Nat) (r : Nat) : Nat :=
  ldpcSigma blks r ^^^ par.getD r 0 ^^^ (if r = 0 then 0 else par.getD (r - 1) 0)

/-- The 512 parity bytes of a codeword's 4,096 data bytes. -/
def ldpcEncode (l : List Byte) : List Byte := (ldpcParity (colBlocks l)).flatMap (leBytes 64)

/-- A logical page as stored in a physical page of `n` codewords: its 16,384 bytes and zeros after them (log entry 49), and the parity of each
codeword in the spare bytes. -/
def chPage (n : Nat) (l : List Byte) : ChPage :=
  let d := l ++ rep (4096 * n - l.length) 0
  { data := d, spare := (pieces 4096 n d).flatMap ldpcEncode }

/-! ### Drawer entries (Table 13-7) -/

namespace Dw

def id (e : Nat) : Nat := bits e 0 32
def mirror (e : Nat) : Bool := bit e 40
def size (e : Nat) : Nat := bits e 64 40
def crc (e : Nat) : Nat := bits e 128 32
def pages (e : Nat) : Nat := cdiv (size e) 16384

/-- A reserved value, or DRAWER_ID 0 (result ENTRY_BAD). -/
def bad (e : Nat) : Bool :=
  id e == 0 || bits e 41 23 != 0 || bits e 104 24 != 0 || size e == 0 || decide (2 ^ 36 < size e)

end Dw

namespace Part

def blkKey (ch t b : Nat) : Nat := (ch * 8 + t) * 2 ^ 20 + b
def blkChan (k : Nat) : Nat := k / 2 ^ 23
def blkTarget (k : Nat) : Nat := k / 2 ^ 20 % 8

def chBlk (p : Part) (k : Nat) : ChBlk := Tab.getD p.chest.blks k {}
def setBlk (p : Part) (k : Nat) (x : ChBlk) : Part := { p with chest := { p.chest with blks := Tab.put k x p.chest.blks } }

/-- Codewords of a channel's physical page (R307): four of a 16,384-byte page, eight of a 32,768-byte page. -/
def codewords (p : Part) (ch : Nat) : Nat := if (p.chan ch).large then 8 else 4

/-- A Chest event of a channel (Table 18-9): 0 to 7 in the order of Table 13-15, 8 SVC_CHEST_REPLACED. -/
def bumpCh (p : Part) (ch ev n : Nat) : Part := p.bump (frameCtr (ch / 4) 2 (ch % 4) ev) n

/-- DETAIL of a Chest fault (Table 18-4). -/
def chDetail (t n : Nat) : Nat := t + n * 2 ^ 8

/-- The blocks of a channel's target, ascending. -/
def blksOf (p : Part) (ch t : Nat) : List Nat := (List.range (p.chan ch).blocks).map (blkKey ch t)
def chBlks (p : Part) (ch : Nat) : List Nat := (List.range (p.chan ch).targets).flatMap (p.blksOf ch)

def goodBlks (p : Part) (ch : Nat) : List Nat := (p.chBlks ch).filter fun k => !(p.chBlk k).bad

/-- Free blocks: good and erased. -/
def freeBlks (p : Part) (ch : Nat) : List Nat := (p.goodBlks ch).filter fun k => (p.chBlk k).used == 0

/-- Blocks held back from Drawer writes (R313). -/
def chReserve (p : Part) (ch : Nat) : Nat := (p.goodBlks ch).length * p.rf .chestCtl 0 0 40 4 / 100

/-- FREE_BLOCKS (Table 13-14). -/
def freeOutside (p : Part) (ch : Nat) : Nat := (p.freeBlks ch).length - p.chReserve ch

def spareLow (p : Part) (ch : Nat) : Bool := decide (2 * (p.freeBlks ch).length < p.chReserve ch)

/-- An operation on the media: SPARE_LOW is set where it takes a channel's free blocks below half its reserve (R313). -/
def withSpare (p : Part) (f : Part → Part) : Part :=
  let q := f p
  if (List.range 16).any fun ch => !p.spareLow ch && q.spareLow ch then q.setRb .chestStatus 0 0 1 true else q

/-- Physical pages that hold a page of a committed Drawer, or of the write in progress. -/
def drawersAll (p : Part) : List Drawer :=
  p.chest.drawers.map Prod.snd ++ (match p.chest.cmd.bind ChCmd.commit with
    | some d => [d]
    | none => [])
def drawerPages (d : Drawer) : List Nat := d.pages.flatMap fun x => x.1 :: x.2.toList

/-- The place of pages lost with a replaced target (R403): a block number that no device has. -/
def lostAt (ch t : Nat) : Nat := blkKey ch t (2 ^ 20 - 1) * 4096
def lost (g : Nat) : Bool := g / 4096 % 2 ^ 20 == 2 ^ 20 - 1

def validPages (p : Part) : List Nat := (p.drawersAll.flatMap drawerPages).filter fun g => !lost g
def validIn (p : Part) (k : Nat) : List Nat := p.validPages.filter fun g => g / 4096 == k

/-- A block enters the bad-block table (R313). -/
def badBlock (p : Part) (k : Nat) : Part :=
  if (p.chBlk k).bad then p else
  let ch := blkChan k
  ((p.setBlk k { p.chBlk k with bad := true }).bumpCh ch 5 1).recordFault ⟨0x0131, .chestCh, ch, none, chDetail (blkTarget k) (k % 2 ^ 20)⟩

/-- A block erase; one whose count reaches the endurance is retired (R310). -/
def eraseBlk (p : Part) (k : Nat) : Part :=
  let x := p.chBlk k
  let p := (p.setBlk k { x with erases := x.erases + 1, reads := 0, used := 0 }).bumpCh (blkChan k) 6 1
  let p := { p with chest := { p.chest with pages := Tab.keep (fun g _ => g / 4096 != k) p.chest.pages } }
  if (p.chan (blkChan k)).endurance ≤ x.erases + 1 then p.badBlock k else p

/-- The least element by a measure, the first among equals. -/
def leastBy (f : Nat → Nat) (l : List Nat) : Option Nat :=
  l.foldl (fun (a : Option Nat) k => match a with
    | none => some k
    | some m => if f k < f m then some k else some m) none

/-- Where the next page of a target goes: its open block, else the free block with the lowest erase count (R310). `all`: the reserve may be
used. Block `not` is left out. -/
def allocIn (p : Part) (ch t : Nat) (all : Bool) (not : Option Nat) : Option Nat :=
  let l := (p.blksOf ch t).filter fun k => !(p.chBlk k).bad && some k != not
  match leastBy (fun k => (p.chBlk k).erases) (l.filter fun k => decide (0 < (p.chBlk k).used) && decide ((p.chBlk k).used < (p.chan ch).perBlock)) with
  | some k => some k
  | none =>
    if all || decide (0 < p.freeOutside ch) then leastBy (fun k => (p.chBlk k).erases) (l.filter fun k => (p.chBlk k).used == 0) else none

/-- The same for target `t`, else the next target that has room. -/
def alloc (p : Part) (ch t : Nat) (all : Bool) (not : Option Nat) : Option Nat :=
  let n := (p.chan ch).targets
  (List.range n).findSome? fun i => p.allocIn ch ((t + i) % n) all not

/-- Media work starts a channel's clock again (16 Table 16-3). -/
def wakeChan (p : Part) (ch : Nat) : Part :=
  if (p.chan ch).clockOff then (p.setChan ch { p.chan ch with clockOff := false }).bump (frameCtr (ch / 4) 0 1 2) 1 else p

/-- A page is programmed at the next page of a block. -/
def program (p : Part) (k : Nat) (x : ChPage) : Nat × Part :=
  let p := p.wakeChan (blkChan k)
  let b := p.chBlk k
  let g := k * 4096 + b.used
  (g, { (p.setBlk k { b with used := b.used + 1 }) with
    chest := { (p.setBlk k { b with used := b.used + 1 }).chest with pages := Tab.put g x p.chest.pages } })

/-- The map follows a moved page. -/
def remap (p : Part) (a b : Nat) : Part :=
  let sub := fun (g : Nat) => if g = a then b else g
  let dr := fun (d : Drawer) => { d with pages := d.pages.map fun x => (sub x.1, x.2.map sub) }
  { p with chest := { p.chest with
      drawers := Tab.mapV (fun _ d => dr d) p.chest.drawers
      cmd := p.chest.cmd.map fun c => { c with commit := c.commit.map dr }
      pages := Tab.del a p.chest.pages } }

/-- The valid pages of a block move to other blocks of the channel, codewords marked unreadable with them (R312). -/
def moveBlk (p : Part) (k : Nat) : Part :=
  let ch := blkChan k
  (p.validIn k).foldl (fun p g =>
    let x := (Tab.find g p.chest.pages).getD (chPage (p.codewords ch) [])
    let p := p.bumpCh ch 0 (p.codewords ch - x.bad.length)
    match p.alloc ch (blkTarget k) true (some k) with
    | none => p
    | some b =>
      let q := p.program b x
      q.2.remap g q.1) p

/-- A relocation: the block's pages move and the emptied block returns to the free pool. -/
def relocate (p : Part) (k : Nat) : Part :=
  let p := p.moveBlk k
  if (p.validIn k).isEmpty then p.eraseBlk k else p

/-- A block is retired as a grown bad block after its valid pages are moved (R310, R313). -/
def retireBlk (p : Part) (k : Nat) : Part := (p.moveBlk k).badBlock k

/-- Static levelling of a channel (R310). -/
def wearLevel (p : Part) (ch : Nat) : Part :=
  if !p.chOnline ch then p else
  let er := (p.goodBlks ch).map fun k => (p.chBlk k).erases
  if p.rf .chestCtl 0 0 16 16 < er.foldl max 0 - er.foldl min (er.foldl max 0) then
    match leastBy (fun k => (p.chBlk k).erases) ((p.goodBlks ch).filter fun k => !(p.validIn k).isEmpty) with
    | some k => p.relocate k
    | none => p
  else p

def wearAll (p : Part) : Part := (List.range 16).foldl wearLevel p

/-- Blocks of online channels that hold pages of no Drawer return to the free pool. -/
def reclaim (p : Part) : Part :=
  ((List.range 16).filter p.chOnline).foldl (fun p ch =>
    ((p.goodBlks ch).filter fun k => (p.chBlk k).used != 0 && (p.validIn k).isEmpty).foldl eraseBlk p) p

/-! ### Reading (R308, R311) -/

/-- What reading a page gave: its data, codewords that no level decodes, whether the read was marginal for R312. -/
structure PageRead where
  data : List Byte
  bad : List Nat
  marginal : Bool

/-- The decoding of codeword `i` of a page (R308). -/
def decodeCw (p : Part) (g : Nat) (o : CwRead) : Part :=
  let k := g / 4096
  let ch := blkChan k
  let pg := k % 2 ^ 20 * (p.chan ch).perBlock + g % 4096
  match o with
  | .hard _ => p.bumpCh ch 0 1
  | .soft _ => (p.bumpCh ch 1 1).recordFault ⟨0x0130, .chestCh, ch, none, chDetail (blkTarget k) pg⟩
  | .fail => ((p.bumpCh ch 2 1).setRb .chestStatus 0 0 2 true).recordFault ⟨0x0230, .chestCh, ch, none, chDetail (blkTarget k) pg⟩

/-- One read of a page with the outcomes of its codewords; a codeword marked unreadable decodes at no level. The read counts once against
its block (R311). -/
def pageRead (p : Part) (g : Nat) (cw : List CwRead) : PageRead × Part :=
  let p := p.wakeChan (blkChan (g / 4096))
  let n := p.codewords (blkChan (g / 4096))
  let x := (Tab.find g p.chest.pages).getD (chPage n [])
  let out := (List.range n).map fun i => if x.bad.contains i then CwRead.fail else cw.getD i (.hard 0)
  let p := out.foldl (fun p o => p.decodeCw g o) p
  let bad := (List.range n).filter fun i => out.getD i (.hard 0) == .fail
  let marg := out.any fun o => match o with
    | .hard n => decide (p.rf .chestCtl 0 0 32 8 < n)
    | .soft _ => true
    | .fail => false
  let b := p.chBlk (g / 4096)
  let p := p.setBlk (g / 4096) { b with reads := b.reads + 1 }
  (⟨x.data.take 16384, bad, marg⟩, { p with chest := { p.chest with pages := Tab.upd g (fun (y : ChPage) => { y with bad := bad }) p.chest.pages } })

/-- What a read leads to: a block with an uncorrectable codeword is retired, one whose reads reach the limit is relocated. -/
def afterRead (p : Part) (g : Nat) (r : PageRead) : Part :=
  let k := g / 4096
  if !r.bad.isEmpty then p.retireBlk k
  else if p.rf .chestCtl 0 0 8 8 * 1000 ≤ (p.chBlk k).reads then (p.relocate k).bumpCh (blkChan k) 3 1
  else p

/-! ### Commands (R316 to R318) -/

/-- Whether a range of HBM can be used by a command: in range, 64-byte aligned, on no offline stack. -/
def chAddrOk (p : Part) (a n : Nat) : Bool :=
  a % 64 == 0 && decide (a < hbmEnd) && decide (a + n ≤ hbmEnd) &&
    (span (a / 4096) ((a + max n 1 - 1) / 4096 - a / 4096 + 1)).all fun g => p.stackOn (stackAt p.hbmMode (g * 4096))

def chestBusy (p : Part) : Bool := p.rb .chestCmdStatus 0 0 0

def onlineChans (p : Part) : List Nat := (List.range 16).filter p.chOnline

/-- A page of a LOAD: the first copy, or its mirror where the channel is offline or a codeword unreadable (R315). It gives the data or a
result code, with the channels read and the outcomes left. -/
def loadPage (p : Part) (pg : Nat × Option Nat) (cw : List CwRead) : (Option (List Byte) × Nat × List Nat × List CwRead) × Part :=
  let on := fun (g : Nat) => p.chOnline (blkChan (g / 4096))
  let mir := pg.2.filter fun g => on g && !lost g
  let second := fun (p : Part) (cw : List CwRead) (chs : List Nat) => match mir with
    | none => ((none, 3, chs, cw), p)
    | some g =>
      let r := p.pageRead g cw
      ((if r.1.bad.isEmpty then some r.1.data else none, 3, chs ++ [blkChan (g / 4096)], cw.drop (p.codewords (blkChan (g / 4096)))), r.2.afterRead g r.1)
  if lost pg.1 then second p cw []
  else if on pg.1 then
    let rest := cw.drop (p.codewords (blkChan (pg.1 / 4096)))
    let r := p.pageRead pg.1 cw
    let q := r.2.afterRead pg.1 r.1
    if r.1.bad.isEmpty then ((some r.1.data, 0, [blkChan (pg.1 / 4096)], rest), q)
    else second q rest [blkChan (pg.1 / 4096)]
  else if mir.isSome then second p cw []
  else ((none, 6, [], cw), p)

/-- What a LOAD has gathered: its bytes, the first result that is not OK, the channels read, the outcomes left. -/
structure LoadAcc where
  bytes : List Byte := []
  code : Nat := 0
  chans : List Nat := []
  cw : List CwRead

def loadDrawer (p : Part) (d : Drawer) (cw : List CwRead) : LoadAcc × Part :=
  (List.range d.pages.length).foldl (fun (a : LoadAcc × Part) i =>
    if a.1.code ≠ 0 then a else
    -- the page's place is looked up anew: an earlier page's relocation may have moved it
    let here := ((Tab.find (Dw.id d.img) a.2.chest.drawers).getD d).pages.getD i (0, none)
    let r := a.2.loadPage here a.1.cw
    match r.1.1 with
    | some bs => ({ a.1 with bytes := a.1.bytes ++ bs, chans := r.1.2.2.1.foldl (fun l c => insNat c l) a.1.chans, cw := r.1.2.2.2 }, r.2)
    | none => ({ a.1 with code := r.1.2.1 }, r.2)) ({ cw := cw }, p)

def setCmd (p : Part) (c : ChCmd) : Part := { p with chest := { p.chest with cmd := some c } }

/-- LOAD (R317): the destination is undefined until the command ends with OK. -/
def chestLoad (p : Part) (id : Nat) (cw : List CwRead) : Part :=
  let dst := p.rv .chestArg0 0 0
  match Tab.find id p.chest.drawers with
  | none => p.setCmd { op := 1, id := id, result := 1 }
  | some d =>
    let n := Dw.size d.img
    if !p.chAddrOk dst n then p.setCmd { op := 1, id := id, result := 5 } else
    let r := p.loadDrawer d cw
    let p := { (r.2.onMem fun m => m.openRange dst n r.2.fresh r.2.hbmMode) with fresh := r.2.fresh + 1 }
    let bs := r.1.bytes.take n
    let code := if r.1.code ≠ 0 then r.1.code else if crc32 bs ≠ Dw.crc d.img then 2 else 0
    p.setCmd { op := 1, id := id, result := code, chans := r.1.chans, addr := dst, data := if code = 0 then bs else [] }

/-- A page is written to a channel; blocks of `fails` report a program failure and are retired, and the page goes elsewhere. -/
def writePage (p : Part) (ch t : Nat) (x : List Byte) (fails : List Nat) : Nat → Option (Nat × Part)
  | 0 => none
  | fuel + 1 =>
    match p.alloc ch t false none with
    | none => none
    | some k =>
      if fails.contains k then (p.retireBlk k).writePage ch t x fails fuel else
      some (p.program k (chPage (p.codewords ch) x))

/-- Logical page `i` of the Drawer being written, and its mirror (R315). -/
def writeLogical (p : Part) (chs : List Nat) (i : Nat) (mirror : Bool) (x : List Byte) (fails : List Nat) : Option Part :=
  let n := chs.length
  let ch := chs.getD (i % n) 0
  (p.writePage ch (i / n % max 1 (p.chan ch).targets) x fails (fails.length + 1)).bind fun a =>
    let ch2 := chs.getD ((i + n / 2) % n) 0
    let second : Option (Option Nat × Part) :=
      if mirror then (a.2.writePage ch2 (i / n % max 1 (p.chan ch2).targets) x fails (fails.length + 1)).map fun b => (some b.1, b.2)
      else some (none, a.2)
    second.map fun b =>
      { b.2 with chest := { b.2.chest with cmd := b.2.chest.cmd.map fun c =>
        { c with commit := c.commit.map fun d => { d with pages := d.pages ++ [(a.1, b.1)] } } } }

/-- WRITE (R316): its checks, and the pages; the commit is at its end. -/
def chestWrite (p : Part) (id : Nat) (fails : List Nat) : Part :=
  let src := p.rv .chestArg0 0 0
  let ea := p.rv .chestArg1 0 0
  let res := fun (code : Nat) => p.setCmd { op := 2, id := id, result := code }
  if !p.chAddrOk ea 32 then res 5 else
  let e := leNat (p.mem.read ea 32)
  if Dw.bad e then res 7 else
  if !p.chAddrOk src (Dw.size e) then res 5 else
  let chs := p.onlineChans
  if Dw.mirror e && decide (chs.length < 2) then res 6 else
  let bs := p.mem.read src (Dw.size e)
  if crc32 bs ≠ Dw.crc e then res 2 else
  if chs.isEmpty then res 4 else
  let start := p.setCmd { op := 2, id := Dw.id e, commit := some ⟨e, []⟩ }
  let r := (List.range (Dw.pages e)).foldl (fun (q : Option Part) i =>
    q.bind fun q => q.writeLogical chs i (Dw.mirror e) ((bs.drop (16384 * i)).take 16384) fails) (some start)
  match r with
  | none => res 4
  | some q => q.wearAll

def chestDelete (p : Part) (id : Nat) : Part :=
  p.setCmd { op := 3, id := id, result := if (Tab.find id p.chest.drawers).isSome then 0 else 1 }

def chestList (p : Part) : Part :=
  let dst := p.rv .chestArg0 0 0
  let l := (p.chest.drawers.take (p.rv .chestArg1 0 0)).flatMap fun e => leBytes 32 e.2.img
  if p.chAddrOk dst l.length then p.setCmd { op := 4, id := 0, count := l.length / 32, addr := dst, data := l }
  else p.setCmd { op := 4, id := 0, result := 5 }

/-- CHEST_CMD.GO (R314, R316): refused before READY and while a command runs. -/
def chestGo (p : Part) (op id : Nat) (cw : List CwRead) (fails : List Nat) : Part :=
  if !p.rb .chestStatus 0 0 0 || p.chestBusy then p.badAccess else
  let p := p.setRb .chestCmdStatus 0 0 0 true
  p.withSpare fun p =>
    if op = 1 then p.chestLoad id cw
    else if op = 2 then p.chestWrite id fails
    else if op = 3 then p.chestDelete id
    else p.chestList

/-- The journal commit of a WRITE or DELETE (R309, R315): GEN and WRITE_TIME, and pages of the old Drawer returned. -/
def chestCommit (p : Part) (c : ChCmd) : Part :=
  match c.commit with
  | some d =>
    let g := Tab.getD p.chest.gens c.id 0 + 1
    let e := setBits (setBits d.img 160 32 g) 192 64 p.time
    ({ p with chest := { p.chest with gens := Tab.put c.id g p.chest.gens, drawers := Tab.put c.id { d with img := e } p.chest.drawers } }).reclaim
  | none =>
    if c.op = 3 then ({ p with chest := { p.chest with drawers := Tab.del c.id p.chest.drawers } }).reclaim else p

/-- CHEST_CMD_DONE (R318). A LOAD's destination that was written before is left undefined (R317). -/
def chestCmdDone (p : Part) : Part :=
  match p.chest.cmd with
  | none => p
  | some c =>
    let touched := c.op == 1 && p.mem.cells.any fun e => decide (c.addr ≤ e.1) && decide (e.1 < c.addr + c.data.length)
    let p := { p with chest := { p.chest with cmd := none } }
    let p := if c.result ≠ 0 || touched then p
      else p.withSpare fun p => ((if c.data.isEmpty then p else p.hbmStore c.addr c.data false).chestCommit c).wearAll
    let p := if c.op = 1 ∧ c.result = 0 then c.chans.foldl (fun p ch => p.bumpCh ch 7 1) p else p
    p.setReg .chestCmdStatus 0 0 (2 + c.result * 2 ^ 8 + c.count * 2 ^ 32)

/-! ### Retention scrub and channels in service (R312, R402, R403) -/

/-- One page scrubbed: a marginal read relocates its block. -/
def scrubPage (p : Part) (g : Nat) (cw : List CwRead) : Part :=
  let ch := blkChan (g / 4096)
  let r := p.pageRead g cw
  if !r.1.bad.isEmpty then (r.2.afterRead g r.1).bumpCh ch 4 1
  else if r.1.marginal then (r.2.relocate (g / 4096)).bumpCh ch 4 1
  else r.2.afterRead g r.1

/-- RETENTION_SCRUB: the scrub of a page falls due. On an offline channel it waits for the return. -/
def retentionScrub (p : Part) (ch g : Nat) (cw : List CwRead) : Part :=
  let g := ch * 2 ^ 35 + g
  if !(p.validPages.contains g) || !p.rb .chestStatus 0 0 0 then p
  else if p.chOnline ch then p.withSpare fun p => p.scrubPage g cw
  else p.setChan ch { p.chan ch with overdue := insNat g (p.chan ch).overdue }

/-- ONLINE = 0 written: refused while a command runs. -/
def channelOffline (p : Part) (ch : Nat) : Part :=
  if p.chestBusy then p.badAccess else p.setChan ch { p.chan ch with leaving := true }

def channelOfflineDone (p : Part) (ch : Nat) : Part :=
  if (p.chan ch).leaving then (p.setChan ch { p.chan ch with leaving := false }).setRb .chestChCtl (ch / 4) (ch % 4) 0 false else p

def channelOnline (p : Part) (ch : Nat) : Part :=
  if p.frameUp (ch / 4) then p.setChan ch { p.chan ch with training := true, leaving := false } else p

/-- What training found on a channel: targets, blocks per target, pages per block, endurance, and whether pages are of 32 KiB. -/
def chanGeometry (x : Chan) (info : Nat) : Chan :=
  { x with targets := min (bits info 0 4) 8, blocks := min (bits info 4 20) (2 ^ 20 - 1), perBlock := min (bits info 24 13) 4096, endurance := bits info 37 27, large := bit info 64 }

/-- The factory markers of targets that the journal does not know (R313): blocks of `marked` enter the table. -/
def firstUse (p : Part) (ch : Nat) (marked : List Nat) : Part :=
  let old := Tab.getD p.chest.known ch 0
  let new := (List.range (p.chan ch).targets).filter fun t => !old.testBit t
  let p := (marked.filter fun k => blkChan k == ch && new.contains (blkTarget k)).foldl badBlock p
  { p with chest := { p.chest with known := Tab.put ch (old ||| (2 ^ (p.chan ch).targets - 1)) p.chest.known } }

/-- A replaced target (R403): its blocks are new and the pages on it lost. -/
def replaceTarget (p : Part) (ch t : Nat) : Part :=
  let mine := fun (k : Nat) => k / 2 ^ 20 == ch * 8 + t
  let sub := fun (g : Nat) => if mine (g / 4096) then lostAt ch t else g
  let p := p.bumpCh ch 8 1
  { p with chest := { p.chest with
      blks := Tab.keep (fun k _ => !mine k) p.chest.blks
      pages := Tab.keep (fun g _ => !mine (g / 4096)) p.chest.pages
      drawers := Tab.mapV (fun _ (d : Drawer) => { d with pages := d.pages.map fun x => (sub x.1, x.2.map sub) }) p.chest.drawers
      known := Tab.upd ch (fun m => m &&& (255 - 2 ^ t)) p.chest.known } }

/-- Training of a channel ends (R306, R313): FAILED with its fault, empty, or online. -/
def chanTrained (p : Part) (ch : Nat) (ok : Bool) (info : Nat) (marked : List Nat) : Part :=
  let p := p.setChan ch { p.chan ch with training := false }
  if !ok then p.chanFatal ch 0x0851 else
  let p := p.setChan ch (chanGeometry (p.chan ch) info)
  let p := (p.setRb .chestChStatus (ch / 4) (ch % 4) 4 false).setRf .chestChStatus (ch / 4) (ch % 4) 0 4 (p.chan ch).targets
  let p := p.setRb .chestChCtl (ch / 4) (ch % 4) 0 ((p.chan ch).targets != 0)
  p.firstUse ch marked

/-- CHANNEL_RETRAIN_DONE: overdue pages are scrubbed first, with the outcomes `cw` in turn. -/
def channelRetrainDone (p : Part) (ch : Nat) (ok : Bool) (info replaced : Nat) (marked : List Nat) (cw : List CwRead) : Part :=
  if !(p.chan ch).training then p else
  let p := if ok then (bitsSet 8 (replaced &&& Tab.getD p.chest.known ch 0)).foldl (fun p t => p.replaceTarget ch t) p else p
  let p := p.chanTrained ch ok info marked
  if !p.chOnline ch then p else
  let due := (p.chan ch).overdue
  let p := p.setChan ch { p.chan ch with overdue := [] }
  p.withSpare fun p => (due.foldl (fun (a : Part × List CwRead) g =>
    if a.1.validPages.contains g then (a.1.scrubPage g a.2, a.2.drop (a.1.codewords ch)) else a) (p, cw)).1

end Part

def execChestCmdDone (s : State) : Host.Outcome State Fault Refusal := onPart s fun p => p.chestCmdDone
def execRetentionScrub (ch page : Nat) (cw : List CwRead) (s : State) : Host.Outcome State Fault Refusal :=
  onPart s fun p => p.retentionScrub ch page cw
def execChannelOfflineDone (ch : Nat) (s : State) : Host.Outcome State Fault Refusal := onPart s fun p => p.channelOfflineDone ch
def execChannelRetrainDone (ch : Nat) (ok : Bool) (info replaced : Nat) (marked : List Nat) (cw : List CwRead) (s : State) :
    Host.Outcome State Fault Refusal :=
  onPart s fun p => p.channelRetrainDone ch ok info replaced marked cw

end Sys2Proof.Machine
end

