-- ==== Sys2Proof/Machine/Dovetail.lean ====
section
/-!
DEFINITION. Sys2Proof/Machine/Dovetail.lean: the commands of Dovetail links, their messages and the join (15).
-/

namespace Sys2Proof.Machine
open Sys2Proof

/-- A message with a defined operation whose bytes lie in one row (Table 15-5). -/
def DtMsg.known (m : DtMsg) : Bool :=
  ((m.cls == 0 && m.op == 0) || (m.cls == 1 && decide (m.op ≤ 2)) || (m.cls == 2 && m.op == 0) || (m.cls == 3 && decide (m.op ≤ 6))) &&
    decide (m.len ≤ 512) && decide (m.byte + m.len ≤ 512 ∨ m.cls = 3)

/-- The device address of a message's bytes at member `j`. -/
def remoteAddr (j : Nat) (m : DtMsg) : Nat := 0x200000000000 + j * 0x1000000000 + m.die * 0x100000000 + m.row * 512 + m.byte

/-- A received message leaves its buffer: its credits go back to the peer (R347). -/
def Link.frees (x : Link) (m : DtMsg) : Link := { x with given := modAt x.given m.cls (· + msgCredits m) }

namespace Part

/-! ### Flits (R344 to R349) -/

/-- The peer's ACK covers every flit up to `ack` (R348). -/
def ackFlits (p : Part) (l ack : Nat) : Part :=
  let x := p.link l
  if x.replay.any fun f => f.1 == ack then
    let rest := (x.replay.dropWhile fun f => f.1 != ack).drop 1
    p.setLink l { x with replay := rest, resent := x.resent.drop (x.replay.length - rest.length), retrains := 0 }
  else p

/-- Replay of every unacknowledged flit in order (R348). -/
def replayAll (p : Part) (l : Nat) : Part :=
  let x := p.link l
  if x.replay = [] then p
  else (p.setLink l { x with resent := x.resent.map (· + 1) }).bumpLink l 5 x.replay.length

/-- A DATA flit that passed its checks (R348): accepted in order, a duplicate, or answered with NAK. -/
def dataFlit (p : Part) (l : Nat) (f : Flit) : Part :=
  let x := p.link l
  let back := (x.expect + 65536 - f.seq) % 65536
  if f.seq = x.expect then
    let good := f.msgs.filter DtMsg.known
    let bad := f.msgs.filter fun m => !DtMsg.known m
    let x := { x with expect := (x.expect + 1) % 65536, nak := false, retrains := 0, rx := x.rx ++ good }
    ((p.setLink l (bad.foldl Link.frees x)).bumpLink l 1 1).bumpLink l 11 bad.length
  else if 1 ≤ back ∧ back ≤ 4096 then p.bumpLink l 6 1
  else p.setLink l { x with nak := true }

def flitReceive (p : Part) (l : Nat) (f : Flit) : Part :=
  if !([3, 4, 5].contains (p.linkSt l)) then p else
  let p := ((p.bumpLink l 2 f.fecCorr).bumpLink l 3 f.fecUe).bumpLink l 4 (b2n (!f.crcOk))
  if f.fecUe ≠ 0 ∨ !f.crcOk ∨ 2 ≤ f.kind then
    p.setLink l { p.link l with nak := true }
  else
    let p := p.ackFlits l f.ack
    let p := if f.nak then p.replayAll l else p
    let x := p.link l
    let p := p.setLink l { x with credits := modAt x.credits f.crClass (· + f.crCount) }
    let p := if f.kind = 1 then p.dataFlit l f else p
    ((p.pump l).reroute).ackNow

def startRetrain (p : Part) (l : Nat) : Part :=
  let x := p.link l
  let p := p.setLink l { x with back := p.linkSt l, retrains := x.retrains + 1 }
  ((p.setLinkSt l 6).bumpLink l 7 1).recordFault ⟨0x0141, .dtLink, l, none, 0⟩

def linkRuns (p : Part) (l : Nat) : Bool := [3, 4, 5].contains (p.linkSt l)

/-- A link enters HELLO or a retrained state with the lanes that trained (R351). -/
def lanesUp (p : Part) (l lanes : Nat) : Part :=
  let w := if lanes = 8 then 3 else 2
  let p := (p.setLinkWidth l w).setLink l { p.link l with full := w }
  if lanes = 8 then p else (p.bumpLink l 9 1).recordFault ⟨0x0141, .dtLink, l, none, 0⟩

def retrain (p : Part) (l : Nat) : Part := if p.linkRuns l && (p.link l).resent.any (16 ≤ ·) then p.startRetrain l else p

def retrainDone (p : Part) (l lanes : Nat) : Part :=
  if p.linkSt l ≠ 6 then p
  else if lanes = 0 ∨ 3 ≤ (p.link l).retrains then p.linkDown l
  else
    let p := (p.setLinkSt l (p.link l).back).lanesUp l lanes
    let p := p.replayAll l
    ((p.setLink l { p.link l with resent := (p.link l).resent.map fun _ => 0 }).pump l).reroute

/-- Sequences, buffers and credits at an entry to HELLO or UP (R347, R348). -/
def freshLink (p : Part) (l : Nat) : Part :=
  let x := p.link l
  p.setLink l { x with seq := 0, expect := 0, replay := [], credits := [1024, 1024, 1024, 1024], given := [0, 0, 0, 0], resent := [], retrains := 0, nak := false }

def trainDone (p : Part) (l lanes : Nat) : Part :=
  let st := p.linkSt l
  if !(p.linkEn l && (st == 1 || st == 2 || (st == 7 && !(p.link l).dead))) then p
  else if lanes = 0 then
    let p := if st = 7 then p else p.linkDown l
    p.setLink l { p.link l with dead := true }
  else
    let p := ((p.freshLink l).setLinkSt l 3).lanesUp l lanes
    let x := p.link l
    (p.setLink l { x with rx := [], peer := none, heard := false }).sendHello l

/-- EN written 1 trains the link (R351). -/
def linkEnable (p : Part) (l : Nat) : Part :=
  if p.linkSt l = 0 ∨ p.linkSt l = 7 then (p.setLink l {}).setLinkSt l 1 else p

/-- EN written 0 (R350): new messages stop until every flit is acknowledged; a link that carries nothing is OFF at once. -/
def linkDisable (p : Part) (l : Nat) : Part :=
  if p.linkRuns l || p.linkSt l == 6 then p.setLink l { p.link l with drain := true } else p.linkOff l

def drainEnd (p : Part) (l : Nat) : Part :=
  let x := p.link l
  if !x.drain then p else
  let p := (lostWriters x).foldl (fun p c => p.ctxFault c ⟨0x04A0, .dtLink, l, none, 0x7FFF⟩) p
  let p := p.linkOff l
  let p := match x.peer with
    | some h => if p.bundle h.member = [] then p.memberLost h.member else p
    | none => p
  p.reroute

def narrow (p : Part) (l : Nat) : Part :=
  let x := p.link l
  if p.linkSt l = 4 ∧ p.rf .dtCtl (l / 16) 0 0 16 ≠ 0 ∧ p.linkWidth l ≠ 1 ∧ x.wait.all (fun m => m.cls == 3) ∧
      x.replay.all (fun f => f.2.all fun m => m.cls == 3) then
    (p.setLinkWidth l 1).bumpLink l 10 1
  else p

def widenDone (p : Part) (l : Nat) : Part :=
  let x := p.link l
  if x.widening then (p.setLinkWidth l x.full).setLink l { x with widening := false } else p

def helloTimer (p : Part) (l : Nat) : Part := if p.linkRuns l then p.sendHello l else p

/-! ### Messages (R346, R356 to R363) -/

/-- Takes the first received message of an operation from a link; a JOINED package that meets a higher epoch is fenced (Table 15-7). -/
def takeMsg (p : Part) (l cls op : Nat) (f : Part → DtMsg → Part) : Part :=
  let x := p.link l
  match x.rx.find? fun m => m.cls == cls && m.op == op with
  | none => p
  | some m =>
    let p := p.setLink l (Link.frees { x with rx := x.rx.erase m } m)
    let p := if p.joinSt = 2 ∧ p.epoch < m.epoch then p.fenceSelf else p
    f p m

/-- The target's checks of a remote access (R356). -/
def remoteOk (p : Part) (m : DtMsg) : Bool :=
  p.benchUp (p.phys m.die) &&
    (List.range 32).any fun b => p.cabEn b && bit (p.rf .cabRemote 0 b 0 32) m.src && decide ((p.share b m.die).1 ≤ m.row) &&
      decide (m.row < (p.share b m.die).1 + (p.share b m.die).2) && (match p.hold m.ctx b with
        | some h => h.st != .new
        | none => false)

/-- Read data travels like any message, on its row's link of the bundle (R355). -/
def answer (p : Part) (m : DtMsg) (op : Nat) (poison : Bool) (bs : List Byte) : Part :=
  p.route { p.header 1 op m.src with poison := poison, ctx := m.ctx, tag := m.tag, die := m.die, row := m.row, byte := m.byte, len := bs.length, data := bs }

/-- READ at the target (R356, R358, R361): FENCED, REFUSED, or the row's bytes; it waits while the row is registered or its bank wakes. -/
def msgRead (p : Part) (l : Nat) : Part :=
  match (p.link l).rx.find? fun m => m.cls == 0 with
  | none => p
  | some m =>
    let d := p.phys m.die
    if m.epoch = p.epoch && p.remoteOk m && (p.dieHeld d || p.rowBusy d m.row 0xFFFE) then p
    else if m.epoch = p.epoch && p.remoteOk m && (p.bank d (bankOf m.row)).gated then p.gateQueue d (bankOf m.row) (.wait m.row)
    else p.takeMsg l 0 0 fun p m =>
      if m.epoch ≠ p.epoch then p.answer m 1 false []
      else if !p.remoteOk m then (p.bumpLink l 12 1).answer m 2 false []
      else
        let x := p.rowOf m.ctx d m.row .clean
        x.2.answer m 0 x.1.2 ((x.1.1.drop m.byte).take m.len)

/-- WRITE at the target (R356, R357, R361). -/
def msgWrite (p : Part) (l : Nat) : Part :=
  match (p.link l).rx.find? fun m => m.cls == 2 with
  | none => p
  | some m =>
    let d := p.phys m.die
    if m.epoch = p.epoch && p.remoteOk m && (p.dieHeld d || p.rowBusy d m.row 0xFFFE) then p
    else p.takeMsg l 2 0 fun p m =>
      if m.epoch ≠ p.epoch then
        let p := p.bump (pkgCtr 0 1 1) 1
        let recent := p.join.notices.any fun n => n.1 == m.src && decide (p.time < n.2 + 10000)
        if recent then p
        else
          let p := p.sendMgmt m.src 6 m.ctx (.notice noticeFence)
          { p with join := { p.join with notices := (m.src, p.time) :: p.join.notices.filter fun n => n.1 != m.src } }
      else
        let refused := m.arrivalEn && !(p.arrivalEn d m.arrival && p.rf .arrivalCfg d m.arrival 0 8 == m.ctx)
        if !p.remoteOk m || refused then
          let p := if p.remoteOk m then (p.bumpBench d 6 1).bump (benchCtr m.die 8 m.ctx 17) 1 else p
          (p.bumpLink l 12 1).sendMgmt m.src 6 m.ctx (.notice 0x0402)
        else
          p.rowWrite d ⟨m.ctx, m.row, m.byte, m.data, m.poison, if m.arrivalEn then some m.arrival else none, 0, none⟩ .clean

/-- DATA (R358): the requester gets the bytes; what arrives after a timeout, or for stopped work, is discarded. -/
def msgData (p : Part) (l : Nat) : Part :=
  p.takeMsg l 1 0 fun p m =>
    match Tab.find m.tag p.join.reads with
    | none => p
    | some r =>
      let p := { p with join := { p.join with reads := Tab.del m.tag p.join.reads } }
      let a := remoteAddr r.msg.dst r.msg
      if r.drain then p
      else if 2 ^ 50 ≤ r.task then
        { p with jig := { p.jig with
          early := Tab.put r.task (Tab.put a (m.data, m.poison) (Tab.getD p.jig.early r.task [])) p.jig.early } }
      else p.mapTask r.task fun t => { t with
        got := Tab.put a (m.data, m.poison) t.got
        remote := t.remote.filter (· != m.tag) }

/-- FENCED (R361): the requester holds its read until it is JOINED. -/
def msgFenced (p : Part) (l : Nat) : Part :=
  p.takeMsg l 1 1 fun p m =>
    match Tab.find m.tag p.join.reads with
    | none => p
    | some r =>
      if p.joinSt = 2 then p.route r.msg
      else { p with join := { p.join with reads := Tab.put m.tag { r with held := true } p.join.reads } }

/-- REFUSED (R356): the requester takes the address fault. -/
def msgRefused (p : Part) (l : Nat) : Part :=
  p.takeMsg l 1 2 fun p m =>
    match Tab.find m.tag p.join.reads with
    | none => p
    | some r =>
      let p := { p with join := { p.join with reads := Tab.del m.tag p.join.reads } }
      if r.drain then p else p.ctxFault r.msg.ctx ⟨0x0402, .none, 0, none, remoteAddr r.msg.dst r.msg⟩

/-- HELLO (R352, R359): the peer's identity; the link enters UP or MGMT_ONLY; agreement and election follow. -/
def msgHello (p : Part) (l : Nat) : Part :=
  p.takeMsg l 3 0 fun p m =>
    match m.mgmt with
    | .hello h =>
      let x := p.link l
      let p := p.setLink l { x with peer := some h, heard := true }
      let p := ((p.setRf .dtLinkStatus (l / 16) (l % 16) 8 5 h.member).setRf .dtLinkStatus (l / 16) (l % 16) 16 6 h.link).setRf
        .dtLinkStatus (l / 16) (l % 16) 32 8 h.fwMajor
      let p := if h.digest = p.digest then p else p.setRb .joinStatus 0 0 9 true
      let p := if h.fwMajor = p.fwMajor then p else p.setRb .joinStatus 0 0 10 true
      let p := if p.dupHere then p.setRb .joinStatus 0 0 11 true else p
      let p := if p.linkSt l = 3 then
          if h.fwMajor = p.fwMajor then (p.freshLink l).setLinkSt l 4 else p.setLinkSt l 5
        else p
      let p := (p.pump l).reroute
      if p.joinSt = 0 then p
      else if p.joinSt = 2 then p.reviewMembers
      else p.electNow
    | _ => p

/-- PREPARE (R360) from the elected master with an epoch above the package's own: new remote accesses are held, ACK follows. -/
def msgPrepare (p : Part) (l : Nat) : Part :=
  p.takeMsg l 3 1 fun p m =>
    match m.mgmt with
    | .mask e mask =>
      if p.joinSt ≠ 0 ∧ m.src = p.elect ∧ m.src ≠ p.member ∧ p.epoch < e then
        let p := { p with join := { p.join with answer := some (e, mask, m.src), acked := false } }
        ((p.setJoinSt 1).electNow).ackNow
      else p
    | _ => p

/-- ACK (R360): the master commits once every member of the mask has answered. -/
def msgAck (p : Part) (l : Nat) : Part :=
  p.takeMsg l 3 2 fun p m =>
    match p.join.prep, m.mgmt with
    | some (e, _), .mask e' _ =>
      if e = e' then
        let p := { p with join := { p.join with acks := p.join.acks ||| 2 ^ m.src } }
        if p.allAcked then p.commitNow else p
      else p
    | _, _ => p

/-- COMMIT (R360) that names the member. -/
def msgCommit (p : Part) (l : Nat) : Part :=
  p.takeMsg l 3 3 fun p m =>
    match m.mgmt with
    | .mask e mask => if (p.joinSt = 1 ∨ p.joinSt = 3) ∧ mask.testBit p.member ∧ p.epoch < e then p.adopt e mask else p
    | _ => p

/-- TIME_REQ (R363): stamped and answered, over the lowest link of the bundle (R355), or where there is none over the link it came on. -/
def msgTimeReq (p : Part) (l : Nat) : Part :=
  p.takeMsg l 3 4 fun p m =>
    match m.mgmt with
    | .time t1 _ _ => p.sendOn ((p.mgmtLink m.src).getD l) { p.header 3 5 m.src with mgmt := .time t1 p.time p.time }
    | _ => p

/-- The offset of R363, rounded toward zero. -/
def timeOffset (t1 t2 t3 t4 : Nat) : Int := ((Int.ofNat t2 - Int.ofNat t1) - (Int.ofNat t4 - Int.ofNat t3)).tdiv 2

/-- TIME_RESP (R363): aligned and slewing, stepped forward, or at half rate. -/
def msgTimeResp (p : Part) (l : Nat) : Part :=
  p.takeMsg l 3 5 fun p m =>
    match m.mgmt, p.join.t1 with
    | .time t1 t2 t3, some s =>
      if s ≠ t1 ∨ p.isMaster then p else
      let o := timeOffset t1 t2 t3 p.time
      let p := p.setRf .joinOffset 0 0 0 32 (unsigned 32 o)
      let p := { p with join := { p.join with t1 := none } }
      if o.natAbs ≤ 1000 then
        { p.setRb .joinStatus 0 0 8 true with join := { p.join with half := false, slew := o } }
      else
        let p := (p.setRb .joinStatus 0 0 8 false).bump (pkgCtr 0 1 2) 1
        if 0 < o then { p with time := (p.time + o.toNat) % 2 ^ 64, join := { p.join with half := false, slew := 0 } }
        else { p with join := { p.join with half := true, slew := o } }
    | _, _ => p

/-- NOTICE (R356, R360, R361): a refusal faults the sending context, a fence fences the package, a leaving member is lost. -/
def msgNotice (p : Part) (l : Nat) : Part :=
  p.takeMsg l 3 6 fun p m =>
    match m.mgmt with
    | .notice code =>
      if code = noticeFence then p.fenceSelf
      else if code = noticeLeave then p.memberLost m.src
      else p.ctxFault m.ctx ⟨0x0402, .none, 0, none, remoteAddr m.src m⟩
    | _ => p

/-- A remote read passes 50 us (R358, R256). -/
def readTimeout (p : Part) (tag : Nat) : Part :=
  match Tab.find tag p.join.reads with
  | none => p
  | some r =>
    if r.held ∨ p.unsent tag then p else
    let p := { p with join := { p.join with reads := Tab.del tag p.join.reads } }
    let p := match p.mgmtLink r.msg.dst with
      | some l => p.bumpLink l 13 1
      | none => p
    let p := p.bump (pkgCtr 3 r.msg.ctx 19) 1
    if r.drain then
      let p := p.bump (benchCtr (p.homeDie r.cab) 0 3 5) 1
      let up := fun (t : Tab Nat) (k : Nat) => Tab.put k (Tab.getD t k 0 + 1) t
      { p with join := { p.join with drained := up (up p.join.drained r.cab) (32 + r.msg.ctx) } }
    else p.ctxFault r.msg.ctx ⟨0x04A1, .dtLink, (p.mgmtLink r.msg.dst).getD 0, none, 0x7FFF⟩

/-! ### The join's timers (Table 15-7) -/

def quietExpire (p : Part) : Part := if p.joinSt = 1 ∧ p.isMaster ∧ p.join.prep = none then p.electNow.prepareNow else p

def commitTimeout (p : Part) : Part :=
  if p.joinSt = 1 ∧ p.join.acked then
    ({ p with join := { p.join with answer := none, acked := false } }).electNow
  else p

def helloLoss (p : Part) (j : Nat) : Part := if p.joinSt = 0 then p else p.memberLost j

def timeTimer (p : Part) : Part :=
  let j := p.elect
  if p.joinSt ≠ 0 ∧ j ≠ p.member then
    ({ p with join := { p.join with t1 := some p.time } }).sendMgmt j 4 0 (.time p.time 0 0)
  else p

/-- JOIN_CTL.EN written 1 (Table 15-7). -/
def joinStart (p : Part) : Part :=
  let p := (p.setJoinSt 1).electNow
  (List.range 64).foldl (fun p l => p.helloTimer l) p

/-- JOIN_CTL.EN written 0 (Table 15-7). -/
def joinStop (p : Part) : Part :=
  let p := (p.agreeing.map Hello.member).foldl (fun p j => p.sendMgmt j 6 0 (.notice noticeLeave)) p
  let p := { p with join := { p.join with prep := none, acks := 0, answer := none, acked := false, half := false, slew := 0 } }
  p.setJoinSt 0

end Part

def execDtFlitReceive (l : Nat) (f : Flit) (s : State) : Host.Outcome State Fault Refusal := onWork s fun p => p.flitReceive l f
def execDtRetrain (l : Nat) (s : State) : Host.Outcome State Fault Refusal := onPart s fun p => p.retrain l
def execDtRetrainDone (l lanes : Nat) (s : State) : Host.Outcome State Fault Refusal := onWork s fun p => p.retrainDone l lanes
def execDtTrainDone (l lanes : Nat) (s : State) : Host.Outcome State Fault Refusal := onWork s fun p => p.trainDone l lanes
def execDtHelloTimer (l : Nat) (s : State) : Host.Outcome State Fault Refusal := onPart s fun p => p.helloTimer l
def execDtNarrow (l : Nat) (s : State) : Host.Outcome State Fault Refusal := onPart s fun p => p.narrow l
def execDtWidenDone (l : Nat) (s : State) : Host.Outcome State Fault Refusal := onPart s fun p => p.widenDone l
def execDtDisableDrainEnd (l : Nat) (s : State) : Host.Outcome State Fault Refusal := onWork s fun p => p.drainEnd l
def execRead (l : Nat) (s : State) : Host.Outcome State Fault Refusal := onWork s fun p => p.msgRead l
def execData (l : Nat) (s : State) : Host.Outcome State Fault Refusal := onPart s fun p => p.msgData l
def execFenced (l : Nat) (s : State) : Host.Outcome State Fault Refusal := onPart s fun p => p.msgFenced l
def execRefusedMsg (l : Nat) (s : State) : Host.Outcome State Fault Refusal := onWork s fun p => p.msgRefused l
def execWrite (l : Nat) (s : State) : Host.Outcome State Fault Refusal := onWork s fun p => p.msgWrite l
def execHello (l : Nat) (s : State) : Host.Outcome State Fault Refusal := onWork s fun p => p.msgHello l
def execPrepare (l : Nat) (s : State) : Host.Outcome State Fault Refusal := onPart s fun p => p.msgPrepare l
def execAck (l : Nat) (s : State) : Host.Outcome State Fault Refusal := onWork s fun p => p.msgAck l
def execCommit (l : Nat) (s : State) : Host.Outcome State Fault Refusal := onWork s fun p => p.msgCommit l
def execTimeReq (l : Nat) (s : State) : Host.Outcome State Fault Refusal := onPart s fun p => p.msgTimeReq l
def execTimeResp (l : Nat) (s : State) : Host.Outcome State Fault Refusal := onPart s fun p => p.msgTimeResp l
def execNotice (l : Nat) (s : State) : Host.Outcome State Fault Refusal := onWork s fun p => p.msgNotice l
def execRemoteReadTimeout (tag : Nat) (s : State) : Host.Outcome State Fault Refusal := onWork s fun p => p.readTimeout tag
def execJoinQuietExpire (s : State) : Host.Outcome State Fault Refusal := onWork s fun p => p.quietExpire
def execJoinAckTimeout (s : State) : Host.Outcome State Fault Refusal := onWork s fun p => p.commitNow
def execJoinCommitTimeout (s : State) : Host.Outcome State Fault Refusal := onPart s fun p => p.commitTimeout
def execJoinHelloLoss (member : Nat) (s : State) : Host.Outcome State Fault Refusal := onWork s fun p => p.helloLoss member
def execTimeMeasureTimer (s : State) : Host.Outcome State Fault Refusal := onPart s fun p => p.timeTimer

end Sys2Proof.Machine
end

