-- ==== Sys2Proof/Machine/Dowel.lean ====
section
/-!
DEFINITION. Sys2Proof/Machine/Dowel.lean: the Dowel ports (01 R18 R20) and the random probe (03 R70).
-/

namespace Sys2Proof.Machine
open Sys2Proof

/-- The bench die that a port's failure takes out of service (R20, numbering of 18 Table 18-1): positions are physical. -/
def dowelDie (d : Nat) : Nat :=
  if d < 6 then 4 * (d / 3) + d % 3 + 1 else if d < 10 then d - 2 else (d - 10) / 2

namespace Part

/-- DOWEL_FLIT_CRC_ERR: a flit fails its check (`again`: in a replay). The 16th failed replay in a row retrains the port. -/
def dowelErr (p : Part) (d : Nat) (again : Bool) : Part :=
  let x := p.dowel d
  if 26 ≤ d ∨ x.training then p else
  let p := p.bump (pkgCtr 1 d 0) 1
  let n := if again then x.fails + 1 else 0
  if 16 ≤ n then
    ((p.setDowel d { fails := n, training := true }).bump (pkgCtr 1 d 2) 1).recordFault ⟨0x0140, .dowel, d, none, 0⟩
  else (p.setDowel d { x with fails := n }).bump (pkgCtr 1 d 1) 1

/-- DOWEL_RETRAIN_DONE: a port that fails to retrain takes a bench die out of service. -/
def dowelDone (p : Part) (d : Nat) (ok : Bool) : Part :=
  if !(p.dowel d).training then p else
  let p := p.setDowel d {}
  if ok || p.svcState (dowelDie d) == 6 then p else p.benchDieFatal (dowelDie d) 0x0870

/-- RAND_PROBE_CTL.GO: key and counter are latched, an earlier evaluation is discarded. -/
def probeGo (p : Part) : Part :=
  let key := p.rv .probeKeyLo 0 0 + p.rv .probeKeyHi 0 0 * 2 ^ 64
  let ctr := p.rv .probeCtrLo 0 0 + p.rv .probeCtrHi 0 0 * 2 ^ 64
  { p.setRb .probeCtl 0 0 1 false with probe := { key := key, ctr := ctr, busy := true } }

/-- RAND_PROBE_DONE: G of the latched key and counter. -/
def probeDone (p : Part) : Part :=
  if !p.probe.busy then p else
  let g := Rand.G p.probe.key p.probe.ctr
  let p := ((p.setReg .probeOutLo 0 0 (bits g 0 64)).setReg .probeOutHi 0 0 (bits g 64 64)).setRb .probeCtl 0 0 1 true
  { p with probe := { p.probe with busy := false } }

end Part

def execDowelFlitCrcErr (d : Nat) (again : Bool) (s : State) : Host.Outcome State Fault Refusal := onPart s fun p => p.dowelErr d again
def execDowelRetrainDone (d : Nat) (ok : Bool) (s : State) : Host.Outcome State Fault Refusal := onWork s fun p => p.dowelDone d ok
def execRandProbeDone (s : State) : Host.Outcome State Fault Refusal := onPart s fun p => p.probeDone

end Sys2Proof.Machine
end

