-- ==== Sys2Proof/Machine/HostRings.lean ====
section
/-!
DEFINITION. Sys2Proof/Machine/HostRings.lean: the watch loop, submission rings, return lines and moderated interrupts (12_host_rings).
-/

namespace Sys2Proof.Machine
open Sys2Proof

namespace Part

def watch (p : Part) (fn : Nat) : Watch := Tab.getD p.hif.watch fn {}
def setWatch (p : Part) (fn : Nat) (x : Watch) : Part := { p with hif := { p.hif with watch := Tab.put fn x p.hif.watch } }

def sqEn (p : Part) (r : Nat) : Bool := p.rb .sqCfg 0 r 63
def sqCtx (p : Part) (r : Nat) : Nat := p.rf .sqCfg 0 r 8 8
def sqCab (p : Part) (r : Nat) : Nat := p.rf .sqCfg 0 r 16 5
def sqSize (p : Part) (r : Nat) : Nat := 2 ^ p.rf .sqCfg 0 r 0 5

/-- The enabled rings of a function, ascending. -/
def ringsOf (p : Part) (fn : Nat) : List Nat := (List.range 1024).filter fun r => p.sqEn r && p.fnOf (p.sqCtx r) == fn

/-- A failed bitmap or doorbell read (R273). -/
def watchErr (p : Part) (fn : Nat) (st : RdStat) : Part := (p.bump (pkgCtr 0 0 1) 1).hostReadErr fn st

/-- A failed read of a ring structure faults the ring's context (R287). -/
def ringReadFault (p : Part) (c ring : Nat) (st : RdStat) : Part :=
  (p.hostReadErr (p.fnOf c) st).ctxFault c ⟨0x0490, .pciePort, p.portOf c, none, ring⟩

/-- WATCH_ROUND: the bitmap read is issued (R272). -/
def watchRound (p : Part) (fn : Nat) : Part :=
  let x := p.watch fn
  if p.rb .funcSummary 0 fn 0 && !(p.ringsOf fn).isEmpty && !x.reading && !x.round then
    ((p.setWatch fn { x with reading := true }).bumpFn fn 0).request fn
  else p

/-- The shadow line of a ring (R270). -/
def shadow (p : Part) (r : Nat) : Part :=
  let x := p.sq r
  if x.moved then
    (p.setSq r { x with moved := false }).hostPost (p.fnOf (p.sqCtx r)) (p.rv .sqShadow 0 r / 64 * 64)
      (leBytes 64 (x.consumed % 2 ^ 64 + (x.lastSeq % 2 ^ 64) * 2 ^ 64))
  else p

/-- A round ends once no doorbell or entry read of it is left: shadow lines are written and the interval is set (R270, R272). -/
def endRound (p : Part) (fn : Nat) : Part :=
  let x := p.watch fn
  let rs := p.ringsOf fn
  if x.round && rs.all fun r => !(p.sq r).dbRead && !(p.sq r).active then
    let p := rs.foldl shadow p
    p.setWatch fn { x with round := false, found := false, interval := if x.found then 250 else min (2 * x.interval) (p.rf .watchCtl 0 0 0 24) }
  else p

def sweepDue (p : Part) (r : Nat) : Part := if p.sqEn r then p.setSq r { p.sq r with sweep := true } else p

/-- BITMAP_READ_DONE: the doorbells of flagged rings and of rings whose sweep is due are read (R271 to R273). -/
def bitmapReadDone (p : Part) (fn : Nat) (st : RdStat) (hw : Cells) : Part :=
  let x := p.watch fn
  if !x.reading || !p.masters fn then p else
  let p := p.hostSees hw
  if st ≠ .ok then
    (p.setWatch fn { x with reading := false, interval := min (2 * x.interval) (p.rf .watchCtl 0 0 0 24) }).watchErr fn st
  else
    let bm := leNat (p.mem.hostRead (p.rv .funcSummary 0 fn / 64 * 64) (if p.rb .funcSummary 0 fn 1 then 128 else 64))
    let p := p.setWatch fn { x with reading := false, round := true, found := false }
    let rs := (p.ringsOf fn).filter fun r =>
      p.ctxRuns (p.sqCtx r) && (bit bm (p.rf .sqCfg 0 r 32 10) || (p.sq r).sweep)
    let p := rs.foldl (fun p r => (p.setSq r { p.sq r with dbRead := true, sweep := false }).bumpHif (p.sqCtx r) 0 1) p
    p.endRound fn

/-- DOORBELL_READ_DONE (R268, R273). -/
def doorbellReadDone (p : Part) (r : Nat) (st : RdStat) (hw : Cells) : Part :=
  let x := p.sq r
  let c := p.sqCtx r
  let fn := p.fnOf c
  if !x.dbRead || !p.masters fn then p else
  let p := p.hostSees hw
  if st ≠ .ok then ((p.setSq r { x with dbRead := false }).watchErr fn st).endRound fn
  else
    let v := leNat (p.mem.hostRead (p.rv .sqDb 0 r / 64 * 64) 8)
    let good := decide (x.consumed ≤ v) && decide (v ≤ x.consumed + p.sqSize r)
    let prod := if good then v else x.producer
    let p := if good then p else p.bumpHif c 2 1
    let work := decide (x.consumed < prod) && p.sqEn r && p.ctxRuns c
    let p := p.setSq r { x with dbRead := false, producer := prod, active := work }
    let p := if work then p.setWatch fn { p.watch fn with found := true } else p
    p.endRound fn

/-- The Jig of bench die `n` runs again, and its PLL before it (16 R381). -/
def wakeJig (p : Part) (n : Nat) : Part :=
  if !p.clocks.jigOff.contains n then p else
  let p := if p.clocks.pllOff.contains n then
      ({ p with clocks := { p.clocks with pllOff := p.clocks.pllOff.filter (· != n) } }).bump (benchCtr n 0 3 7) 1
    else p
  ({ p with clocks := { p.clocks with jigOff := p.clocks.jigOff.filter (· != n) } }).bump (benchCtr n 0 3 8) 1

/-- An accepted entry starts a job in flight (R223, R225); its hold comes into being (11). -/
def acceptJob (p : Part) (r seq graph : Nat) : Part :=
  let x := p.sq r
  let c := p.sqCtx r
  let b := p.sqCab r
  let fr := p.free
  let p := fr.2
  let j := p.jig.nextJob
  let job : Job :=
    { ring := r, seq := seq, ctx := c, cab := b, cq := p.rf .sqCfg 0 r 22 10, graph := graph, tag := fr.1.toNat % 2 ^ 32
      after := x.prevJob, accepted := p.time }
  let p := ((p.setJob j job).setSq r { x with lastSeq := seq, prevJob := some j }).wakeJig (p.homeDie b)
  let p := { p with jig := { p.jig with nextJob := j + 1 } }
  if (p.hold c b).isNone then p.setHold c b {} else p

/-- SUBMISSION_ENTRY: the next entry of a ring is read and checked (R223, R224, R267, R268). -/
def submissionEntry (p : Part) (r : Nat) (st : RdStat) (hw : Cells) : Part :=
  let x := p.sq r
  let c := p.sqCtx r
  let fn := p.fnOf c
  if !(p.sqEn r && p.ctxRuns c) || x.dbRead || decide (x.producer ≤ x.consumed) then
    (p.setSq r { x with active := false }).endRound fn
  else if 256 ≤ (p.jigJobs (p.homeDie (p.sqCab r))).length then (p.setSq r { x with active := false }).endRound fn
  else if !p.masters fn then p.request fn
  else
    let p := p.hostSees hw
    if st ≠ .ok then ((p.setSq r { x with active := false }).ringReadFault c r st).endRound fn
    else
      let e := leNat (p.mem.hostRead (p.rv .sqBase 0 r / 64 * 64 + (x.consumed % p.sqSize r) * 32) 32)
      let y := { x with consumed := x.consumed + 1, moved := true, active := decide (x.consumed + 1 < x.producer) }
      let p := (p.setSq r y).bumpHif c 1 1
      let bad : FaultRec := ⟨0x0401, .none, 0, none, recDetail 0x7FFF r⟩
      let p :=
        if bits e 128 10 ≠ r ∨ bits e 138 118 ≠ 0 then p.ctxFault c bad
        else if bits e 0 64 ≤ y.lastSeq then
          (p.bumpJig (p.homeDie (p.sqCab r)) c 4 1).bump (pkgCtr 0 0 2) 1
        else
          let p := p.acceptJob r (bits e 0 64) (bits e 64 64)
          if bits e 64 64 % 64 ≠ 0 then p.ctxFault c { bad with detail := recDetail 0 r } else p
      p.endRound fn

/-- A graph header is well formed (Table 10-1) and names the ring's Cabinet (R267). -/
def headerOk (p : Part) (x : Job) (h : Nat) : Bool :=
  bits h 0 4 == 0 && decide (bits h 4 2 ≤ 1) && bits h 6 5 == x.cab && bits h 11 5 == 0 && bits h 16 15 != 0 && bits h 31 1 == 0 &&
    bits h 64 448 == 0 && bits h 6 5 == p.sqCab x.ring

/-- GRAPH_HEADER_READ (R225, R267). -/
def graphHeaderRead (p : Part) (j : Nat) (st : RdStat) (hw : Cells) : Part :=
  match p.job j with
  | none => p
  | some x =>
    if x.header || !p.ctxRuns x.ctx then p else
    (p.hostSees hw).engage ⟨x.ctx, x.cab, none, earlyKey (recKey j 0), 0, x.ring⟩ .clean st (fun _ p => p) do
      let h ← Rd.controlNat x.graph 64
      let p ← Rd.part
      Rd.need (p.headerOk x h)
      Rd.onPart fun p => p.setJob j { x with
        header := true, tag := bits h 32 32, tasks := bits h 16 15, after := if bits h 4 2 = 1 then x.after else none }

/-- MSIX_MOD_TIMER (R277). -/
def msixModTimer (p : Part) (q : Nat) : Part :=
  if p.rb .cqCfg 0 q 27 && decide (0 < (p.cq q).u) && decide (p.rf .cqCfg 0 q 40 16 ≠ 0) then p.cqSignal q else p

/-- RETURN_LINE_POLL (R275): while an entry waits, the return line is read. -/
def returnLinePoll (p : Part) (q : Nat) : Part :=
  let x := p.cq q
  if x.pend = [] then p else p.readReturn q

/-- RETURN_LINE_READ_DONE (R275). -/
def returnLineReadDone (p : Part) (q : Nat) (st : RdStat) (hw : Cells) : Part :=
  let x := p.cq q
  let c := p.rf .cqCfg 0 q 8 8
  if !x.reading || !p.masters (p.fnOf c) then p else
  let p := (p.hostSees hw).setCq q { x with reading := false }
  if st ≠ .ok then p.ringReadFault c q st
  else
    let v := leNat (p.mem.hostRead (p.rv .cqReturn 0 q / 64 * 64) 8)
    if v < x.consumed ∨ x.posted < v then p.bumpHif c 5 1
    else cqDrain q (x.pend.length + x.ovr.length) (p.setCq q { x with reading := false, consumed := v })

/-- COMPLETION_TIMEOUT (R273, R287): a bitmap (kind 0), doorbell (1), submission entry (2), return line (3) or graph header (4) read, or any
other read for the job `idx`, gets no completion. -/
def completionTimeout (p : Part) (kind idx : Nat) : Part :=
  if kind = 0 then
    let x := p.watch idx
    if x.reading then
      (p.setWatch idx { x with reading := false, interval := min (2 * x.interval) (p.rf .watchCtl 0 0 0 24) }).watchErr idx .timeout
    else p
  else if kind = 1 then
    let fn := p.fnOf (p.sqCtx idx)
    if (p.sq idx).dbRead then ((p.setSq idx { p.sq idx with dbRead := false }).watchErr fn .timeout).endRound fn else p
  else if kind = 2 then
    if (p.sq idx).active && p.ctxRuns (p.sqCtx idx) then
      ((p.setSq idx { p.sq idx with active := false }).ringReadFault (p.sqCtx idx) idx .timeout).endRound (p.fnOf (p.sqCtx idx)) else p
  else if kind = 3 then
    if (p.cq idx).reading then (p.setCq idx { p.cq idx with reading := false }).ringReadFault (p.rf .cqCfg 0 idx 8 8) idx .timeout else p
  else
    match p.job idx with
    | some x => p.ringReadFault x.ctx x.ring .timeout
    | none => p

end Part

def execWatchRound (fn : Nat) (s : State) : Host.Outcome State Fault Refusal := onPart s fun p => p.watchRound fn
def execSweepDue (r : Nat) (s : State) : Host.Outcome State Fault Refusal := onPart s fun p => p.sweepDue r
def execBitmapReadDone (fn : Nat) (st : RdStat) (hw : Cells) (s : State) : Host.Outcome State Fault Refusal :=
  onPart s fun p => p.bitmapReadDone fn st hw
def execDoorbellReadDone (r : Nat) (st : RdStat) (hw : Cells) (s : State) : Host.Outcome State Fault Refusal :=
  onPart s fun p => p.doorbellReadDone r st hw
def execSubmissionEntry (r : Nat) (st : RdStat) (hw : Cells) (s : State) : Host.Outcome State Fault Refusal :=
  onWork s fun p => p.submissionEntry r st hw
def execGraphHeaderRead (j : Nat) (st : RdStat) (hw : Cells) (s : State) : Host.Outcome State Fault Refusal :=
  onWork s fun p => p.graphHeaderRead j st hw
def execMsixModTimer (q : Nat) (s : State) : Host.Outcome State Fault Refusal := onPart s fun p => p.msixModTimer q
def execReturnLinePoll (q : Nat) (s : State) : Host.Outcome State Fault Refusal := onPart s fun p => p.returnLinePoll q
def execReturnLineReadDone (q : Nat) (st : RdStat) (hw : Cells) (s : State) : Host.Outcome State Fault Refusal :=
  onWork s fun p => p.returnLineReadDone q st hw
def execCompletionTimeout (kind idx : Nat) (s : State) : Host.Outcome State Fault Refusal :=
  onWork s fun p => p.completionTimeout kind idx

end Sys2Proof.Machine
end

