-- ==== Sys2Proof/Machine/Pcie.lean ====
section
/-!
DEFINITION. Sys2Proof/Machine/Pcie.lean: resets and link events of the PCIe ports and functions (12 R249 R277 R281 R286, 16 R387). Functions are
numbered 0 to 255 with 256 the physical function on port 1.
-/

namespace Sys2Proof.Machine
open Sys2Proof

/-- The number of a function named by its port and its offset on it. -/
def fnKey (port fn : Nat) : Nat := if port = 1 then 256 else fn % 256

/-- Device ID and class code of a function's configuration space (Table 12-6). -/
def deviceId (fn : Nat) : Nat := if fn = 0 ∨ fn = 256 then 0x8840 else 0x8841
def classCode : Nat := 0x120000

/-- MSI-X vectors of a function (Table 12-6). -/
def vecCount (fn : Nat) : Nat := if fn = 0 ∨ fn = 256 then 2048 else 16

namespace Part

/-- The Device Serial Number that every instance of the physical function reports: the package's (R279, R280). -/
def serialNumber (p : Part) : Nat := p.rv .factSerial 0 0

/-- Configuration space and MSI-X tables of the functions that `f` names are reset (R286; log entry 15). -/
def configReset (p : Part) (f : Nat → Bool) : Part :=
  { p with hif := { p.hif with
    bme := p.hif.bme.filter fun n => !f n
    d3 := p.hif.d3.filter fun n => !f n
    msix := p.hif.msix.filter fun n => !f n
    fmask := p.hif.fmask.filter fun n => !f n
    aer := Tab.keep (fun k _ => !f k) p.hif.aer
    vecs := Tab.keep (fun k _ => !f (k / 2048)) p.hif.vecs } }

/-- A reset of the physical function on port 0 clears VF Enable. -/
def vfsOff (p : Part) : Part := { p with hif := { p.hif with vfEn := false, numVfs := 0 } }

/-- The contexts that `f` names and that are not torn down already take fault 0x0416 (R286). -/
def portEvent (p : Part) (port : Nat) (f : Part → Nat → Bool) : Part :=
  let cs := (List.range 256).filter fun c => p.ctxEn c && decide ((p.ctx c).state ≠ 5) && f p c
  (cs.foldl (fun p c => p.ctxFault c ⟨0x0416, .pciePort, port, none, p.fnOf c % 256 + 256 * p.portOf c⟩) p).bumpPort port 1

/-- Every function of a port is reset, and the contexts whose traffic uses the port are torn down. -/
def portReset (p : Part) (port : Nat) : Part :=
  let p := p.configReset fun n => portOfFn n == port
  let p := if port = 0 then p.vfsOff else p
  p.portEvent port fun q c => q.portOf c == port

def linkLost (p : Part) (port : Nat) (trains : Bool) : Part :=
  let t := p.hif.training.filter (· != port)
  { p with hif := { p.hif with linkUp := p.hif.linkUp.filter (· != port), training := if trains then insNat port t else t } }

def perstAssert (p : Part) (port : Nat) : Part :=
  if 2 ≤ port ∨ p.hif.perst.contains port then p else
  let p := (p.linkLost port false).portReset port
  { p with hif := { p.hif with perst := insNat port p.hif.perst } }

/-- PERST_DEASSERT: the port enters Detect once its frame die is up (Table 16-7). -/
def perstDeassert (p : Part) (port : Nat) : Part :=
  let p := { p with hif := { p.hif with perst := p.hif.perst.filter (· != port) } }
  if port < 2 ∧ p.frameUp (2 * port) ∧ !p.hif.linkUp.contains port then
    { p with hif := { p.hif with training := insNat port p.hif.training } }
  else p

def linkUpEvent (p : Part) (port : Nat) : Part :=
  if p.hif.training.contains port && p.frameUp (2 * port) && !p.hif.perst.contains port then
    { p with hif := { p.hif with training := p.hif.training.filter (· != port), linkUp := insNat port p.hif.linkUp } }
  else p

def hotReset (p : Part) (port : Nat) : Part :=
  if p.hif.linkUp.contains port then (p.linkLost port true).portReset port else p

def linkDownEvent (p : Part) (port : Nat) : Part :=
  if p.hif.linkUp.contains port then (p.linkLost port true).portReset port else p

/-- A function-level reset of the physical function on a port (Table 12-14). -/
def pfReset (p : Part) (port : Nat) : Part :=
  if port = 0 then
    let p := (p.configReset fun n => n != 256).vfsOff
    p.portEvent 0 fun q c => q.fnOf c != 256
  else (p.configReset fun n => n == 256).portEvent 1 fun q c => q.fnOf c == 256

def pfFlr (p : Part) (port : Nat) : Part := if p.hif.linkUp.contains port then p.pfReset port else p

/-- A function-level reset of virtual function `v`. -/
def vfReset (p : Part) (v : Nat) : Part := (p.configReset fun n => n == v).portEvent 0 fun q c => q.fnOf c == v

def vfFlr (p : Part) (v : Nat) : Part :=
  if 1 ≤ v && p.hif.linkUp.contains 0 && p.fnEnabled v then p.vfReset v else p

/-- VF_ENABLE_CLEAR: VF Enable cleared, or NumVFs lowered. -/
def vfEnableClear (p : Part) (n : Nat) (en : Bool) : Part :=
  if !p.hif.vfEn || (en && decide (p.hif.numVfs ≤ n)) then p else
  let p := { p with hif := { p.hif with vfEn := en, numVfs := if en then n else p.hif.numVfs } }
  let off := fun (v : Nat) => decide (1 ≤ v) && decide (v ≤ 255) && (!en || decide (n < v))
  (p.configReset off).portEvent 0 fun q c => off (q.fnOf c)

/-- D3HOT_ENTRY: as the function-level reset of that function; the function is then in D3hot. -/
def d3Entry (p : Part) (port fn : Nat) : Part :=
  let k := fnKey port fn
  if p.hif.d3.contains k || !p.hif.linkUp.contains (portOfFn k) || !p.fnEnabled k then p else
  let p := if k = 0 ∨ k = 256 then p.pfReset (portOfFn k) else p.vfReset k
  { p with hif := { p.hif with d3 := insNat k p.hif.d3 } }

/-- A set of functions with `k` in it or not. -/
def fnSet (l : List Nat) (k : Nat) (on : Bool) : List Nat := if on then insNat k (l.filter (· != k)) else l.filter (· != k)

/-- CONFIG_WRITE: Bus Master Enable, MSI-X Enable and MSI-X Function Mask of a function; on the physical function of port 0, VF Enable set or
NumVFs raised. A function that is written is in D0. Messages that nothing masks any more are sent. -/
def configWrite (p : Part) (port fn : Nat) (ctl : FnCtl) (vfEn : Bool) (numVfs : Nat) : Part :=
  let k := fnKey port fn
  if !p.hif.linkUp.contains (portOfFn k) || !p.fnEnabled k then p else
  let p := { p with hif := { p.hif with
    d3 := p.hif.d3.filter (· != k)
    bme := fnSet p.hif.bme k ctl.bme
    msix := fnSet p.hif.msix k ctl.msix
    fmask := fnSet p.hif.fmask k ctl.mask } }
  let p := ((p.hif.vecs.map Prod.fst).filter fun v => v / 2048 == k).foldl (fun p v => sendPending k p (v % 2048)) p
  if k ≠ 0 then p
  else if !p.hif.vfEn then { p with hif := { p.hif with vfEn := vfEn, numVfs := min numVfs 255 } }
  else if vfEn then { p with hif := { p.hif with numVfs := max p.hif.numVfs (min numVfs 255) } }
  else p

/-- MSIX_VECTOR_UNMASK: a write of a vector's entry of the MSI-X table in BAR2, with its message address, data and Vector Mask; unmasked, a
pending message of the vector is sent. -/
def unmask (p : Part) (port fn : Nat) (w : VecWrite) : Part :=
  let k := fnKey port fn
  if vecCount k ≤ w.vec || !p.hif.linkUp.contains (portOfFn k) || !p.fnEnabled k then p else
  sendPending k (p.setVec k w.vec { addr := w.addr % 2 ^ 64 / 4 * 4, data := w.data % 2 ^ 32, masked := w.mask, pending := (p.vec k w.vec).pending }) w.vec

end Part

def execPerstAssert (port : Nat) (s : State) : Host.Outcome State Fault Refusal := onWork s fun p => p.perstAssert port
def execHotReset (port : Nat) (s : State) : Host.Outcome State Fault Refusal := onWork s fun p => p.hotReset port
def execPcieLinkDown (port : Nat) (s : State) : Host.Outcome State Fault Refusal := onWork s fun p => p.linkDownEvent port
def execPfFlr (port : Nat) (s : State) : Host.Outcome State Fault Refusal := onWork s fun p => p.pfFlr port
def execVfEnableClear (numVfs : Nat) (en : Bool) (s : State) : Host.Outcome State Fault Refusal :=
  onWork s fun p => p.vfEnableClear numVfs en
def execVfFlr (vf : Nat) (s : State) : Host.Outcome State Fault Refusal := onWork s fun p => p.vfFlr vf
def execD3hotEntry (port fn : Nat) (s : State) : Host.Outcome State Fault Refusal := onWork s fun p => p.d3Entry port fn
def execPerstDeassert (port : Nat) (s : State) : Host.Outcome State Fault Refusal := onPart s fun p => p.perstDeassert port
def execPcieLinkUp (port : Nat) (s : State) : Host.Outcome State Fault Refusal := onPart s fun p => p.linkUpEvent port
def execConfigWrite (port fn : Nat) (ctl : FnCtl) (vfEn : Bool) (numVfs : Nat) (s : State) : Host.Outcome State Fault Refusal :=
  onPart s fun p => p.configWrite port fn ctl vfEn numVfs
def execMsixVectorUnmask (port fn : Nat) (w : VecWrite) (s : State) : Host.Outcome State Fault Refusal :=
  onPart s fun p => p.unmask port fn w

end Sys2Proof.Machine
end

