-- ==== Sys2Proof/Machine/Power.lean ====
section
/-!
DEFINITION. Sys2Proof/Machine/Power.lean: supply, reset, bring-up, temperature, measured power and block clocks (16 R367 to R392), and the die-fatal
faults of frame dies (18 R413).
-/

namespace Sys2Proof.Machine
open Sys2Proof

/-! ### Firmware images (R385) -/

def imgMajor (bs : List Byte) : Nat := (bs.getD 4 0).toNat
def imgMinor (bs : List Byte) : Nat := (bs.getD 5 0).toNat
def imgLength (bs : List Byte) : Nat := leNat ((bs.drop 8).take 4)

/-- MAGIC and LENGTH of an image's header, which may have `room` bytes with its body. -/
def imgHead (bs : List Byte) (room : Nat) : Bool :=
  leNat (bs.take 4) == 0x4C568840 && decide (1 ≤ imgLength bs) && decide (imgLength bs ≤ 8388592) && decide (imgLength bs + 16 ≤ room)

/-- The CRC-32 of an image's body. -/
def imgCrc (bs : List Byte) : Bool := crc32 ((bs.drop 16).take (imgLength bs)) == leNat ((bs.drop 12).take 4)

/-- The code that a package-fatal trip leaves for the restart, by CAUSE (R414). -/
def tripCode (cause : Nat) : Nat := if cause = 2 then 0x0F12 else if cause = 3 then 0x0F13 else if cause = 4 then 0x0F10 else 0x0F11

namespace Part

/-! ### Reset (R383) -/

/-- A page whose commit reset interrupts reads wholly as before or wholly as committed (17 R406): a free bit decides. -/
def markReset (p : Part) : Hallmark × Part :=
  let x := p.mark
  match x.busy with
  | none => ({ nv := x.nv, wear := x.wear, shadow := x.nv }, p)
  | some g =>
    let f := p.free
    let nv := if f.1.toNat % 2 = 1 then Cells.write x.nv (256 * g) (Cells.read x.shadow (256 * g) 256) else x.nv
    ({ nv := nv, wear := x.wear, shadow := nv }, f.2)

/-- Everything cleared but the non-volatile logs, the Hallmark area, the content of the Chest, the boot flash, and the always-on domain's
own state. A slot whose programming reset interrupts is invalid (17 R405). -/
def cleared (p : Part) : Part :=
  let m := p.markReset
  let slots := match p.svc.slotGo with
    | some (s, 0, _, _) => modAt p.svc.slots s fun x => { x with head := false }
    | _ => p.svc.slots
  { fresh := m.2.fresh
    mem := { host := p.mem.host }
    hif := { perst := p.hif.perst, sent := p.hif.sent }
    bench := { repairLog := p.bench.repairLog }
    stks := Tab.mapV (fun _ (x : Stack) => ({ cands := x.cands, repaired := x.repaired } : Stack)) p.stks
    chest := { known := p.chest.known, gens := p.chest.gens, blks := p.chest.blks, pages := p.chest.pages, drawers := p.chest.drawers }
    power := { p.power with started := false, stuck := false, railsOn := [], lit := [], heat := [], eighths := 0 }
    svc := { slots := slots }
    mark := m.1 }

/-- Every rail but the always-on one goes off; what a restart will show is kept (R414). -/
def packageOff (p : Part) (cause : Nat) : Part :=
  let p := p.cleared
  { p with power := { p.power with rails := false, pwrOk := false, trip := some cause, armed := false, released := false } }

/-! ### Release (R384) -/

/-! ### Rails (R371) -/

/-- A rail of a unit is in regulation. -/
def inRegulation (p : Part) (u : Nat) (r : Rail) : Bool := ((railOrder u).take (Tab.getD p.power.lit u 0)).contains r

/-- The next rail of a unit comes into regulation after the one before it, or the last one on goes off. -/
def railStep (p : Part) (u : Nat) : Part :=
  let n := Tab.getD p.power.lit u 0
  let m := if p.power.railsOn.contains u then min (n + 1) (railOrder u).length else n - 1
  { p with power := { p.power with lit := Tab.put u m p.power.lit } }

/-- Every rail of a unit is in regulation, as a stage or a service command that needs them ends. -/
def railsLit (p : Part) (u : Nat) : Part := { p with power := { p.power with lit := Tab.put u (railOrder u).length p.power.lit } }

/-- The units whose rails are on their way. -/
def railsMoving (p : Part) : List Nat :=
  (List.range 16).filter fun u => Tab.getD p.power.lit u 0 != (if p.power.railsOn.contains u then (railOrder u).length else 0)

/-- A tick of the sequencer: a rail takes up to 1 ms, so a free bit says whether the one that each unit waits for is there (log entry 88). -/
def tickRails (p : Part) : Part :=
  p.railsMoving.foldl (fun p u =>
    let f := p.free
    if f.1.toNat % 2 = 1 then f.2.railStep u else f.2) p

/-- The boot straps are sampled and bring-up begins, frame die 0's rails first; device time is 0. -/
def release (p : Part) (straps : Nat) : Part :=
  let sel := bits straps 0 2
  let now := bits straps 2 2
  let clk := p.power.clkMode.getD now
  let bad := decide (2 ≤ sel) || clk != now || clk == 3
  let p := { p with power := { p.power with started := true, clkMode := some clk, straps := straps } }
  (p.railsUp 8).setReg .bootStatus 0 0 (sel + clk * 2 ^ 2 + b2n bad * 2 ^ 4 + p.power.cause * 2 ^ 8)

/-- The part powers up again after a trip or from nothing (R369, R370, R377, R414): in reset while RST_N is low, else released. -/
def restart (p : Part) (cause : Nat) (fatal : Option Nat) (straps : Nat) : Part :=
  let p := p.cleared
  let p := { p with power := { p.power with rails := true, pwrOk := true, aon := true, trip := none, armed := false, released := false, cause := cause } }
  let p := match fatal with
    | some code => { p with flog := { p.flog with packageFatal := some code } }
    | none => p
  if p.power.held then p else
  let p := p.release straps
  match p.flog.packageFatal with
  | some code => ({ p with flog := { p.flog with packageFatal := none } }).recordFault ⟨code, .none, 0, none, 0⟩
  | none => p

/-- POWER_ON_RESET: VIN_48 rises above lockout. The always-on rail had been lost (`aonLost`), or the part waits after a brown-out. -/
def powerOn (p : Part) (mv : Nat) (aonLost : Bool) (straps : Nat) : Part :=
  if mv < 38000 then p
  else if aonLost then
    let cause := if p.power.trip = some 5 then 5 else 0
    ({ p with power := { p.power with clkMode := some (bits straps 2 2) } }).restart cause none straps
  else if p.power.trip = some 2 then p.restart 2 (some (tripCode 2)) straps
  else p

def brownOut (p : Part) : Part := if p.power.rails then p.packageOff 2 else p

/-- OVER_VOLTAGE between 62 and 66 V. -/
def overVoltage (p : Part) (mv : Nat) : Part := if 62000 < mv ∧ p.power.rails then p.packageOff 3 else p

def ovRecovery (p : Part) (straps : Nat) : Part := if p.power.trip = some 3 then p.restart 3 (some (tripCode 3)) straps else p

/-- A thermal trip ends once RST_N has been asserted and released and every sensor reads below 85 C (R377). -/
def thermalEnd (p : Part) : Part :=
  if p.power.trip = some 4 ∧ p.power.released ∧ !p.power.hot then p.restart 4 (some (tripCode 4)) p.power.straps else p

/-- RST_N_ASSERT: a low level of 1 us or more. -/
def rstAssert (p : Part) (ns : Nat) : Part :=
  if ns < 1000 ∨ p.power.held then p else
  let p := if p.power.rails then
      let p := p.cleared
      { p with power := { p.power with cause := 1 } }
    else p
  { p with power := { p.power with held := true, armed := p.power.trip.isSome, released := false } }

/-- RST_N_RELEASE: the release takes effect while PWR_OK is asserted. -/
def rstRelease (p : Part) (straps : Nat) : Part :=
  if !p.power.held then p else
  let p := { p with power := { p.power with held := false } }
  if p.power.trip = some 4 then
    (if p.power.armed then { p with power := { p.power with released := true, straps := straps } } else p).thermalEnd
  else if p.power.rails && p.power.pwrOk then
    let p := p.release straps
    match p.flog.packageFatal with
    | some code => ({ p with flog := { p.flog with packageFatal := none } }).recordFault ⟨code, .none, 0, none, 0⟩
    | none => p
  else p

/-! ### Frame dies (18 Table 18-2) -/

/-- The PCIe port on a frame die. -/
def portOn (m : Nat) : Option Nat := if m = 0 then some 0 else if m = 2 then some 1 else none

/-- A die-fatal fault of frame die `m`: its units leave service, and the contexts that need them are torn down. -/
def frameDieFatal (p : Part) (m code : Nat) : Part :=
  let p := p.recordFault ⟨code, .frameDie, m, none, 0⟩
  let hits := fun (q : Part) (c : Nat) => m == 0 || (portOn m == some (q.portOf c)) ||
    (bitsSet 32 (q.rv .ctxCabs 0 c)).any fun b => q.cabEn b && bits (q.rf .cabCtl 0 b 32 12) (3 * m) 3 != 0
  let p := p.setRb .bringupStatus 0 0 m false
  let p := (span (3 * m) 3).foldl stackDown p
  let p := (span (4 * m) 4).foldl chanDown p
  let p := ((span (16 * m) 16).filter fun l => p.linkSt l != 0).foldl linkDown p
  let p := p.setCup m {}
  let p := { p with
    power := { p.power with railsOn := p.power.railsOn.filter (· != 8 + m) }
    audio := { p.audio with ports := Tab.keep (fun a _ => a / 8 != m) p.audio.ports, heard := Tab.keep (fun k _ => k / 4 * 2 != m) p.audio.heard } }
  let p := (span (8 * m) 8).foldl (fun p a => ((p.aesFlag a 0 false).aesFlag a 1 false).aesFlag a 2 false) p
  let p := if m = 0 ∨ m = 2 then (p.setRefState (m / 2) 0).allHear else p
  let p := match portOn m with
    | some n => { p with hif := { p.hif with linkUp := p.hif.linkUp.filter (· != n), training := p.hif.training.filter (· != n) } }
    | none => p
  p.teardownAll hits code

/-! ### Regulators (R372) -/

/-- A section that feeds the always-on rail fails: the other takes over, or the package is lost. -/
def aonFault (p : Part) (die : Nat) : Part :=
  let p := { p with power := { p.power with aonFailed := insNat die p.power.aonFailed } }
  let other := 17 - die
  if p.power.aonFailed.contains other then
    let p := p.packageOff 5
    { p with power := { p.power with aon := false } }
  else if (die == 9) == p.power.standby then
    { p with power := { p.power with standby := !p.power.standby, switches := p.power.switches + 1 } }
  else p

/-- REGULATOR_FAULT of a die's section: 0 the frame section (or the only one), 1 the AON section of dies 8 and 9. -/
def regulatorFault (p : Part) (die sect : Nat) : Part :=
  if !p.power.rails then (if sect = 1 ∧ (die = 8 ∨ die = 9) then p.aonFault die else p)
  else if sect = 1 then (if die = 8 ∨ die = 9 then p.aonFault die else p)
  else if die < 8 then
    (if p.svcState die != 6 && (p.power.railsOn.contains die || p.rb .bringupStatus 0 0 (8 + die) || p.svcState die != 0) then
      p.benchDieFatal die 0x0860 else p)
  else if die < 12 then (if p.frameUp (die - 8) then p.frameDieFatal (die - 8) 0x0860 else p)
  else (span (3 * (die - 12)) 3).foldl (fun p s => if p.rb .stackStatus (s / 3) (s % 3) 5 then p else p.stackFatal s 0x0860) (p.railsDown die)

/-! ### Bring-up (R385 to R389) -/

/-- The firmware starts: PKG_IDENT and BOOT_STATUS show it (R2). -/
def fwStart (p : Part) (source major minor : Nat) (fallback : Bool) : Part :=
  let p := (p.setRf .pkgIdent 0 0 32 8 major).setRf .pkgIdent 0 0 40 8 minor
  let p := ((p.setRf .bootStatus 0 0 16 2 source).setRb .bootStatus 0 0 18 fallback).setRf .bootStatus 0 0 24 8 0
  [9, 10, 11].foldl railsUp p

/-- Stage 4 with BOOT_SEL 00b: the slot with the higher version, A on a tie, then the other (R385). `ok` is the first read's check beside
what the slot holds. -/
def slotBoot (p : Part) (ok : Bool) : Part :=
  let a := p.svc.slots.getD 0 { head := false }
  let b := p.svc.slots.getD 1 { head := false }
  let bFirst := b.head && (!a.head || decide (a.major * 256 + a.minor < b.major * 256 + b.minor))
  let first := if bFirst then b else a
  let other := if bFirst then a else b
  let n := if bFirst then 2 else 1
  if first.head && first.crc && ok then p.fwStart n first.major first.minor false
  else if other.head && other.crc then p.fwStart (3 - n) other.major other.minor first.head
  else (p.setRb .bootStatus 0 0 18 first.head).setRf .bootStatus 0 0 24 8 1

/-- BRINGUP_STATUS bits of which one of each pair is set once a die has ended its stage. -/
def dieEnded (p : Part) (up failed : Nat) : Bool := p.rb .bringupStatus 0 0 up || p.rb .bringupStatus 0 0 failed

def framesEnded (p : Part) : Bool := (List.range 4).all fun m => p.dieEnded m (4 + m)
def benchesEnded (p : Part) : Bool := (List.range 8).all fun k => p.dieEnded (8 + k) (16 + k)
def stacksEnded (p : Part) : Bool :=
  (List.range 12).all fun s => p.rb .stackStatus (s / 3) (s % 3) 0 || p.rb .stackStatus (s / 3) (s % 3) 5

def fwRuns (p : Part) : Bool := p.rf .pkgIdent 0 0 32 8 != 0

/-- A PCIe port whose reset is released trains once its frame die is up (Table 16-7, stage 3). -/
def portsDetect (p : Part) : Part :=
  let on := [0, 1].filter fun n => p.frameUp (2 * n) && !p.hif.perst.contains n && !p.hif.linkUp.contains n
  { p with hif := { p.hif with training := on.foldl (fun l n => insNat n l) p.hif.training } }

/-- The repair log is applied to a bench die (08 R182). -/
def applyRepairs (p : Part) (k : Nat) : Part :=
  (p.bench.repairLog.filter fun r => r / 2 ^ 18 == k).foldl (fun p r =>
    let b := bankOf (r % 2 ^ 18)
    let n := p.sparesUsed k b + 1
    let p := p.setRf .benchSpares k (b / 8) (8 * (b % 8)) 7 n
    let p := if 60 ≤ n then p.setRb .benchStatus k 0 3 true else p
    { p with bench := { p.bench with mapped := p.bench.mapped ++ [r] } }) p

/-- Every row of a bench die is zero (08 R184). -/
def zeroBench (p : Part) (k : Nat) : Part :=
  (p.onMem fun m => { m with
    cells := Cells.clear m.cells (benchAt k 0) 0x8000000
    opens := m.opens.filter fun o => !(decide (benchAt k 0 ≤ o.base) && decide (o.base < benchAt k 0 + 0x8000000))
    poison := m.poison.filter fun u => decide (u < benchAt k 0) || decide (benchAt k 0 + 0x8000000 ≤ u) }).setRb .benchStatus k 0 5 true

/-- Bench dies come up in pairs: a pair's rails turn on once stage 6 and the pair before it have ended (Table 16-7). -/
def pairRails (p : Part) : Part :=
  if !p.rb .bringupStatus 0 0 24 then p else
  match (List.range 4).find? fun i => !(p.dieEnded (8 + 2 * i) (16 + 2 * i) && p.dieEnded (9 + 2 * i) (17 + 2 * i)) with
  | some i => [2 * i, 2 * i + 1].foldl (fun p k => if p.dieEnded (8 + k) (16 + k) || p.svcState k == 6 then p else p.railsUp k) p
  | none => p

/-- Stage 7 of one bench die: `cause` names what failed. -/
def benchStage (p : Part) (k : Nat) (ok : Bool) (cause : Nat) : Part :=
  if p.dieEnded (8 + k) (16 + k) then p else
  if p.svcState k = 6 then p.setRb .bringupStatus 0 0 (16 + k) true else
  let p := p.applyRepairs k
  if ok then ((p.railsLit k).zeroBench k).setRb .bringupStatus 0 0 (8 + k) true else
  let code := if cause = 0x0830 ∨ cause = 0x0841 then cause else 0x0861
  let p := if code = 0x0830 then p.bump (benchCtr (p.logi k) 0 3 4) 1 else p
  (p.benchDieFatal k code).setRb .bringupStatus 0 0 (16 + k) true

/-- Stage 6 of one stack (13 R300, R304). -/
def stackStage (p : Part) (s : Nat) (ok : Bool) : Part :=
  if !p.frameUp (s / 3) || p.rb .stackStatus (s / 3) (s % 3) 0 || p.rb .stackStatus (s / 3) (s % 3) 5 then p else
  if ok then ((p.railsLit (12 + s / 3)).onMem fun m => m.zeroStack p.hbmMode s).setRb .stackStatus (s / 3) (s % 3) 0 true
  else p.stackFatal s 0x0850

/-- BRINGUP_STAGE_END (R387, R389): `unit` is the frame die, stack, bench die or Chest channel that ends its part of the stage; 16 ends
the Chest scan. -/
def stageEnd (p : Part) (stage unit : Nat) (ok : Bool) (info : Nat) (marked : List Nat) : Part :=
  if !p.power.started || p.power.stuck || !p.power.rails then p
  else if stage = 2 then
    if p.frameUp 0 then p
    else if ok then ((p.railsLit 8).setRb .bringupStatus 0 0 0 true).portsDetect
    else { p.setRb .bringupStatus 0 0 4 true with power := { p.power with stuck := true } }
  else if stage = 4 then
    if p.frameUp 0 && !p.fwRuns && p.power.straps % 4 == 0 then p.slotBoot ok else p
  else if stage = 5 then
    if !p.fwRuns || unit = 0 || 4 ≤ unit || p.dieEnded unit (4 + unit) then p
    else
      let p := if ok then ((p.railsLit (8 + unit)).setRb .bringupStatus 0 0 unit true).portsDetect
        else (p.frameDieFatal unit 0x0862).setRb .bringupStatus 0 0 (4 + unit) true
      if p.framesEnded then ((List.range 4).filter p.frameUp).foldl (fun p m => p.railsUp (12 + m)) p else p
  else if stage = 6 then
    if !p.fwRuns || !p.framesEnded || 12 ≤ unit then p else
    let p := p.stackStage unit ok
    if p.stacksEnded then (p.setRb .bringupStatus 0 0 24 true).pairRails else p
  else if stage = 7 then
    if !p.rb .bringupStatus 0 0 24 || 8 ≤ unit then p else (p.benchStage unit ok info).pairRails
  else if stage = 8 then
    if !p.benchesEnded || p.rb .bringupStatus 0 0 25 then p
    else if unit < 16 then (if p.frameUp (unit / 4) then p.chanTrained unit ok info marked else p)
    else (((p.reclaim.setRb .chestStatus 0 0 0 true).setRb .bringupStatus 0 0 25 true).setRb .bringupStatus 0 0 26 true)
  else p

/-! ### Host load (R386) -/

/-- BOOT_HOST_CTL.GO: refused while the firmware runs or BOOT_SEL is 00b. -/
def bootHostGo (p : Part) : Part :=
  if p.fwRuns || p.power.straps % 4 == 0 then p.badAccess else { p with svc := { p.svc with hostLoad := true } }

/-- BOOT_HOST_LOAD_DONE: the image read by DMA under port 0's physical function, which is discarded without Bus Master Enable. -/
def bootHostDone (p : Part) (st : RdStat) (hw : Cells) : Part :=
  if !p.svc.hostLoad then p else
  let p := ({ p with svc := { p.svc with hostLoad := false } }).hostSees hw
  let len := p.rf .bootHostCtl 0 0 0 24
  let bs := p.mem.hostRead (p.rv .bootHostAddr 0 0 / 4096 * 4096) len
  let ready := p.masters 0
  let p := if !ready then p.bumpFn 0 1 else if st != .ok then p.hostReadErr 0 st else p
  let err : Nat := if st != .ok || !ready then 2 else if !imgHead bs len || imgMajor bs == 0 then 3 else if !imgCrc bs then 4 else 0
  if err == 0 then p.fwStart 3 (imgMajor bs) (imgMinor bs) false else p.setRf .bootStatus 0 0 24 8 err

/-! ### Temperature (R375 to R378) -/

/-- One die's sensor: TEMP_k, and throttling. -/
def dieTemp (p : Part) (k t : Nat) : Part :=
  let old := p.rv .temp 0 k
  let p := p.setReg .temp 0 k (t + max t (bits old 8 8) * 2 ^ 8)
  let on := p.rb .thermStatus 0 0 (8 + k)
  if !on && decide (100 ≤ t) then (p.setRb .thermStatus 0 0 (8 + k) true).setRb .thermStatus 0 0 2 true
  else if on && decide (t ≤ 97) then p.setRb .thermStatus 0 0 (8 + k) false
  else p

def stackTemp (p : Part) (s t : Nat) : Part :=
  let p := p.setRf .stackStatus (s / 3) (s % 3) 24 8 t
  let on := p.power.heat.contains s
  if !on && decide (95 ≤ t) then
    let p := p.setRb .thermStatus 0 0 2 true
    { p with power := { p.power with heat := insNat s p.power.heat } }
  else if on && decide (t ≤ 92) then { p with power := { p.power with heat := p.power.heat.filter (· != s) } }
  else p

/-- THERM_ALERT_N (R378). -/
def thermAlert (p : Part) (dies stks : List Nat) : Part :=
  let ad := p.rf .thermCtl 0 0 0 8
  let ah := p.rf .thermCtl 0 0 8 8
  let hit := dies.any (fun t => decide (ad ≤ t)) || stks.any fun t => decide (ah ≤ t)
  let cool := dies.all (fun t => decide (t + 3 ≤ ad)) && stks.all fun t => decide (t + 3 ≤ ah)
  let on := p.rb .thermStatus 0 0 0
  if !on && hit then ((p.setRb .thermStatus 0 0 0 true).setRb .thermStatus 0 0 1 true).bump (pkgCtr 0 0 3) 1
  else if on && cool then p.setRb .thermStatus 0 0 0 false
  else p

/-- SENSOR_POLL: the junction temperatures of bench dies 0 to 7 and frame dies 0 to 3, and of stacks 0 to 11. -/
def sensorPoll (p : Part) (dies stks : List Nat) : Part :=
  let p := { p with power := { p.power with hot := (dies ++ stks).any fun t => decide (85 ≤ t) } }
  if !p.power.rails then p.thermalEnd
  else if dies.any (fun t => decide (110 ≤ t)) || stks.any fun t => decide (105 ≤ t) then
    let p := p.packageOff 4
    p.setRb .thermStatus 0 0 0 true
  else if !p.power.started then p
  else
    let p := (dies.zipIdx).foldl (fun p x => p.dieTemp x.2 x.1) p
    let p := (stks.zipIdx).foldl (fun p x => p.stackTemp x.2 x.1) p
    let p := (p.setRf .thermStatus 0 0 32 8 (dies.foldl max 0)).setRf .thermStatus 0 0 40 8 (stks.foldl max 0)
    p.thermAlert dies stks

/-- PWR_MEAS_UPDATE (R379): POWER in 1/8 W is POWER / 8 mJ in a ms. -/
def pwrUpdate (p : Part) (power vin iin : Nat) : Part :=
  if !p.power.started || !p.power.rails then p else
  let peak := max power (p.rf .pwrMeas 0 0 48 16)
  let p := p.setReg .pwrMeas 0 0 (power + vin * 2 ^ 16 + iin * 2 ^ 32 + peak * 2 ^ 48)
  let e := p.power.eighths + power
  let p := { p with power := { p.power with eighths := e % 8 } }
  p.setReg .pwrEnergy 0 0 ((p.rv .pwrEnergy 0 0 + e / 8) % 2 ^ 64)

/-! ### Block clocks (R373, R374, R381) -/

/-- The engines of bench die `n` whose clocks Table 16-3 stops one by one, as keys. -/
def clockKeys (n : Nat) : List Nat :=
  (span (8 * n) 8).map (engKey .planer) ++ (span (4 * n) 4).map (engKey .joiner) ++ (span (8 * n) 8).map (engKey .burnisher) ++
    (span (16 * n) 16).map (engKey .carrier)

/-- Every engine of a die is clock off. -/
def enginesOff (p : Part) (n : Nat) : Bool :=
  (clockKeys n).all p.clocks.off.contains && (span (4 * n) 4).all fun g => match Tab.find g p.gangs with
    | some x => !x.clock
    | none => true

/-- No record is in flight at the Jig of die `n`. -/
def jigIdle (p : Part) (n : Nat) : Bool := p.jig.jobs.all fun e => p.homeDie e.2.cab != n

/-- The Jig of a die stops once every engine is clock off. -/
def jigOffNow (p : Part) (n : Nat) : Part :=
  if p.enginesOff n && p.jigIdle n then { p with clocks := { p.clocks with jigOff := insNat n p.clocks.jigOff } } else p

/-- BLOCK_CLOCK_OFF of an engine without an issued task; a wake that waits wins (R374). -/
def blockOff (p : Part) (cls : Cls) (e : Nat) : Part :=
  let key := engKey cls e
  let busy : Bool := match cls with
    | .carrier => !(Tab.getD p.jig.xfer e []).isEmpty
    | _ => (Tab.find key p.jig.eng).isSome
  if cls = .lathe then p.jigOffNow (e / 32)
  else if (cls = .carrier ∧ 128 ≤ e) ∨ busy ∨ p.clocks.waking.contains key then p
  else
    let p := { p with clocks := { p.clocks with off := insNat key p.clocks.off } }
    p.jigOffNow (engDie cls e)

def pllOff (p : Part) (n : Nat) : Part :=
  if p.enginesOff n && p.clocks.jigOff.contains n && (clockKeys n).all fun k => !p.clocks.waking.contains k then
    { p with clocks := { p.clocks with pllOff := insNat n p.clocks.pllOff } }
  else p

def chestClockOff (p : Part) (ch : Nat) : Part :=
  let x := p.chan ch
  if p.chOnline ch && !p.chestBusy && !x.leaving && !x.training then p.setChan ch { x with clockOff := true } else p

/-- The die's Jig and PLL run again before a block of it starts; a PLL that does not lock in three attempts is die-fatal. -/
def dieClock (p : Part) (n : Nat) (lockFail : Bool) : Part :=
  let p := if p.clocks.pllOff.contains n then
      let p := { p with clocks := { p.clocks with pllOff := p.clocks.pllOff.filter (· != n) } }
      if lockFail then p.benchDieFatal (p.phys n) 0x0861 else p.bump (benchCtr n 0 3 7) 1
    else p
  if p.clocks.jigOff.contains n then
    ({ p with clocks := { p.clocks with jigOff := p.clocks.jigOff.filter (· != n) } }).bump (benchCtr n 0 3 8) 1
  else p

/-- BLOCK_CLOCK_START: a requested clock starts. For the class Lathe, `e` is the Gang. -/
def blockStart (p : Part) (cls : Cls) (e : Nat) (lockFail : Bool) : Part :=
  match cls with
  | .lathe =>
    match Tab.find e p.gangs with
    | none => p
    | some x =>
      if !x.waking then p else
      let p := p.dieClock (e / 4) lockFail
      if !p.benchUp (p.phys (e / 4)) then p else
      ({ p with gangs := Tab.upd e (fun (x : Gang) => { x with clock := true, waking := false }) p.gangs }).bump (benchCtr (e / 4) 0 3 8) 1
  | _ =>
    let key := engKey cls e
    if !p.clocks.waking.contains key then p else
    let n := engDie cls e
    let p := p.dieClock n lockFail
    if !p.benchUp (p.phys n) then p else
    ({ p with clocks := { p.clocks with off := p.clocks.off.filter (· != key), waking := p.clocks.waking.filter (· != key) } }).bump
      (benchCtr n 0 3 8) 1

end Part

/-- POWER_ON_RESET. Above the absolute maximum no statement of the manual binds the part (R4, R367). -/
def execPowerOnReset (mv : Nat) (aonLost : Bool) (straps : Nat) (s : State) : Host.Outcome State Fault Refusal :=
  if 66000 < mv then .fault .absoluteMaximum else onPart s fun p => p.powerOn mv aonLost straps
def execRstNAssert (ns : Nat) (s : State) : Host.Outcome State Fault Refusal := onPart s fun p => p.rstAssert ns
def execRstNRelease (straps : Nat) (s : State) : Host.Outcome State Fault Refusal := onPart s fun p => p.rstRelease straps
def execBrownOut (s : State) : Host.Outcome State Fault Refusal := onPart s fun p => p.brownOut
/-- OVER_VOLTAGE. Above the absolute maximum no statement of the manual binds the part (R4, R367). -/
def execOverVoltage (mv : Nat) (s : State) : Host.Outcome State Fault Refusal :=
  if 66000 < mv then .fault .absoluteMaximum else onPart s fun p => p.overVoltage mv
def execOvRecovery (straps : Nat) (s : State) : Host.Outcome State Fault Refusal := onPart s fun p => p.ovRecovery straps
def execRegulatorFault (die sect : Nat) (s : State) : Host.Outcome State Fault Refusal := onWork s fun p => p.regulatorFault die sect
def execSensorPoll (dies stks : List Nat) (s : State) : Host.Outcome State Fault Refusal := onPart s fun p => p.sensorPoll dies stks
def execPwrMeasUpdate (power vin iin : Nat) (s : State) : Host.Outcome State Fault Refusal := onPart s fun p => p.pwrUpdate power vin iin
def execBlockClockOff (cls : Cls) (e : Nat) (s : State) : Host.Outcome State Fault Refusal := onPart s fun p => p.blockOff cls e
def execPllOff (die : Nat) (s : State) : Host.Outcome State Fault Refusal := onPart s fun p => p.pllOff die
def execChestClockOff (ch : Nat) (s : State) : Host.Outcome State Fault Refusal := onPart s fun p => p.chestClockOff ch
def execBlockClockStart (cls : Cls) (e : Nat) (lockFail : Bool) (s : State) : Host.Outcome State Fault Refusal :=
  onWork s fun p => p.blockStart cls e lockFail
def execBringupStageEnd (stage unit : Nat) (ok : Bool) (info : Nat) (marked : List Nat) (s : State) : Host.Outcome State Fault Refusal :=
  onWork s fun p => p.stageEnd stage unit ok info marked

def execBootHostLoadDone (st : RdStat) (hw : Cells) (s : State) : Host.Outcome State Fault Refusal :=
  onPart s fun p => p.bootHostDone st hw

end Sys2Proof.Machine
end

