-- ==== Sys2Proof/Machine/Smbus.lean ====
section
/-!
DEFINITION. Sys2Proof/Machine/Smbus.lean: the SMBus sideband (16 R391): block reads from the assertion of PWR_OK. An answer stands in
`Hif.resp` as its bytes' little-endian number; none is a NACK or a sideband that does not answer.
-/

namespace Sys2Proof.Machine
open Sys2Proof

namespace Part

/-- The answer of the last read is `v`. -/
def respond (p : Part) (v : Option Nat) : Part := { p with hif := { p.hif with resp := v } }

/-- A block read of Table 16-9. -/
def smbRead (p : Part) (f : Part → Nat) : Part := p.respond (if p.power.pwrOk then some (f p) else none)

/-- TEMP of bench dies 0 to 7 and frame dies 0 to 3, one byte each. -/
def dieTemps (p : Part) : Nat := leNat ((List.range 12).map fun k => BitVec.ofNat 8 (p.rf .temp 0 k 0 8))

/-- TEMP of stacks 0 to 11. -/
def stackTemps (p : Part) : Nat := leNat ((List.range 12).map fun s => BitVec.ofNat 8 (p.rf .stackStatus (s / 3) (s % 3) 24 8))

/-- Any command code but 0x00 to 0x07, and every write, is NACKed: nothing changes but the answer. -/
def smbNack (p : Part) (code : Nat) (write : Bool) : Part := if write ∨ 8 ≤ code then p.respond none else p

end Part

def execSmbReadPkgIdent (s : State) : Host.Outcome State Fault Refusal := onPart s fun p => p.smbRead fun p => p.rv .pkgIdent 0 0
def execSmbReadBootStatus (s : State) : Host.Outcome State Fault Refusal := onPart s fun p => p.smbRead fun p => p.rv .bootStatus 0 0
def execSmbReadBringupStatus (s : State) : Host.Outcome State Fault Refusal := onPart s fun p => p.smbRead fun p => p.rv .bringupStatus 0 0
/-- The read does not clear PEAK. -/
def execSmbReadPwrMeas (s : State) : Host.Outcome State Fault Refusal := onPart s fun p => p.smbRead fun p => p.rv .pwrMeas 0 0
def execSmbReadPwrEnergy (s : State) : Host.Outcome State Fault Refusal := onPart s fun p => p.smbRead fun p => p.rv .pwrEnergy 0 0
/-- The read does not clear the W1C bits. -/
def execSmbReadThermStatus (s : State) : Host.Outcome State Fault Refusal := onPart s fun p => p.smbRead fun p => p.rv .thermStatus 0 0
def execSmbReadDieTemps (s : State) : Host.Outcome State Fault Refusal := onPart s fun p => p.smbRead Part.dieTemps
def execSmbReadStackTemps (s : State) : Host.Outcome State Fault Refusal := onPart s fun p => p.smbRead Part.stackTemps

def execSmbNack (code : Nat) (write : Bool) (s : State) : Host.Outcome State Fault Refusal := onPart s fun p => p.smbNack code write

end Sys2Proof.Machine
end

