-- ==== Sys2Proof/Machine/RegRead.lean ====
section
/-!
DEFINITION. Sys2Proof/Machine/RegRead.lean: what a read of a set-up register, a counter or a virtual function's window returns (00 R10, 12 R283,
16 R388, 18 R420 R421, 19 R422 to R424), and the reads with effects (Table 19-6).
-/

namespace Sys2Proof.Machine
open Sys2Proof

namespace Part

/-- The state of CAB_STATUS (Table 11-4). -/
def cabState (p : Part) (b : Nat) : Nat :=
  if !p.cabEn b then 0 else
  match p.occupant b with
  | none => 1
  | some (c, h) =>
    if (p.ctx c).state = 4 then 5
    else match h.st with
      | .saving => 3
      | .restoring => 4
      | _ => 2

def cabStatus (p : Part) (b : Nat) : Nat :=
  let o := p.occupant b
  let c := (o.map Prod.fst).getD 0
  let blocked := match o with
    | some (c, h) => h.st == .resident && p.blockedNow c b
    | none => false
  p.cabState b + c * 2 ^ 8 + b2n blocked * 2 ^ 16

/-- The state of CTX_STATUS (Table 11-8). -/
def ctxState (p : Part) (c : Nat) : Nat :=
  if !p.ctxEn c then 0
  else if (p.ctx c).state ≠ 0 then (p.ctx c).state
  else if (p.heldCabs c).isEmpty then 1
  else if (p.heldCabs c).any (p.residentOn c) then 2 else 3

def ctxStatus (p : Part) (c : Nat) : Nat :=
  let res := ((List.range 32).filter (p.residentOn c)).foldl (fun m b => m + 2 ^ b) 0
  p.ctxState c + p.rf .ctxStatus 0 c 16 16 * 2 ^ 16 + res * 2 ^ 32

/-- JIG_STATUS (Table 10-17) of logical die `n`. -/
def jigStatus (p : Part) (n : Nat) : Nat :=
  let f := p.inFlight n
  let held := decide (2048 ≤ f) && (p.jigJobs n).any fun e => Job.unfetched e.2
  f + (p.jigJobs n).length * 2 ^ 12 + b2n held * 2 ^ 21

/-- GANG_FEED_STATUS (Table 4-7) of local Gang `j` on physical die `d`. -/
def feedStatus (p : Part) (d j : Nat) : Nat :=
  let x := p.gang (p.logi d * 4 + j)
  b2n x.loaded + b2n x.clock * 2 + bits (p.rv .gangFeedStatus d j) 2 2 * 2 ^ 2 + (x.fifoMin % 256) * 2 ^ 8 +
    (if x.loaded then x.stepCycles % 2 ^ 24 else 0) * 2 ^ 16

/-- HBM_STACK_STATUS (Table 13-5). -/
def stackStatus (p : Part) (m j : Nat) : Nat :=
  let x := p.stack (3 * m + j)
  setBits (setBits (p.rv .stackStatus m j) 8 8 (min x.cands.length 255)) 16 8 (min x.repaired 255)

/-- A word of the fault log (Table 18-3): word `i % 4` of entry `i / 4`. -/
def faultWord (p : Part) (i : Nat) : Nat := bits (Tab.getD p.flog.entries (i / 4) 0) (64 * (i % 4)) 64

/-- The value of a register as port `port` reads it: hardware values for RO fields, 0 for WO and RSV (R10). Bench windows name the physical
die. -/
def regValue (p : Part) (port : Nat) (r : RegId) : Nat :=
  let d := r.die
  let i := r.idx
  match r.name with
  | .streamLive => p.strms.length
  | .devTime => p.time % 2 ^ 64
  | .hallmarkCtl => p.rf .hallmarkCtl 0 0 0 5 + b2n p.mark.lock * 2 ^ 16
  | .hallmarkWear => Tab.getD p.mark.wear (p.rf .hallmarkCtl 0 0 0 5) 0 % 2 ^ 32
  | .hallmarkShadow => leNat (Cells.read p.mark.shadow (8 * i) 8)
  | .joinDigest => p.digest
  | .faultLogCount => p.flog.seq
  | .faultLog => p.faultWord i
  | .cabStatus => p.cabStatus i
  | .ctxStatus => p.ctxStatus i
  | .hifPort => port % 2
  | .cqPosted => (p.cq i).posted
  | .sqLastSeq => (p.sq i).lastSeq
  | .sqConsumed => (p.sq i).consumed
  | .gangFeedStatus => p.feedStatus d i
  | .regionTail => (p.region d i).tail
  | .regionHead => (p.region d i).head
  | .regionRsvd => (p.region d i).rsvd
  | .jigStatus => p.jigStatus (p.logi d)
  | .stackStatus => p.stackStatus d i
  | .chestStatus => setBits (p.rv .chestStatus 0 0) 16 16 (p.onlineChans.foldl (fun m c => m + 2 ^ c) 0)
  | .chestChStatus => setBits (p.rv .chestChStatus d i) 32 32 (p.freeOutside (4 * d + i))
  | .aesPortStatus => p.aesStatus (8 * d + i)
  | n => p.rv n d i

/-- Whether the windows of a die are served (R388): bench windows by logical die. -/
def windowUp (p : Part) (w : Win) (d : Nat) : Bool :=
  match w with
  | .glob => true
  | .bench => p.benchUp (p.phys d)
  | .frame => p.frameUp d

/-- The register at an offset with the physical die behind a bench window; none where no table lists the offset. -/
def regHere (p : Part) (off : Nat) : Option RegId :=
  (regAt off).map fun r => if (regRow r.name).win = .bench then { r with die := p.phys r.die } else r

/-- Whether a served window lies at an offset; an offset outside the windows counts as served. -/
def offUp (p : Part) (off : Nat) : Bool :=
  match winOf off with
  | some (w, d, _) => p.windowUp w d
  | none => true

/-- A counter as it reads (R421): 0 in the windows of a die that is not up. -/
def ctrValue (p : Part) (off : Nat) : Nat :=
  if off < 0x3800000 then (if p.windowUp .bench ((off - 0x3000000) / 0x100000) then p.ctr off else 0)
  else if off < 0x3C00000 then (if p.windowUp .frame ((off - 0x3800000) / 0x100000) then p.ctr off else 0)
  else p.ctr off

/-- The 64-bit value at a BAR0 offset: 0 where no register stands or the window's die is not up. -/
def bar0Value (p : Part) (port off : Nat) : Nat :=
  if inCounterWindow off then p.ctrValue off
  else if !p.offUp off then 0
  else match p.regHere off with
    | some r => p.regValue port r
    | none => 0

/-- The registers whose low-half read latches the high half (R424). -/
def latches (off : Nat) : Bool := inCounterWindow off || (regAt off).map RegId.name == some .devTime

/-- A read of a register or of half of it; a high half that the port has latched reads as latched (R424). -/
def readHalf (p : Part) (port off : Nat) (h : Half) : Nat :=
  let v := p.bar0Value port off
  match h with
  | .full => v
  | .lo => v % 2 ^ 32
  | .hi => match Tab.find port p.hif.latch with
    | some (a, x) => if a = off then x else v / 2 ^ 32
    | none => v / 2 ^ 32

/-- The views of virtual function `vf` (Table 12-8): a context or ring of another function reads 0. -/
def vfRead (p : Part) (vf o : Nat) : Nat :=
  if o = 0 then p.rv .pkgIdent 0 0
  else if o = 8 then vf
  else if 0x1000 ≤ o ∧ o < 0x2000 ∧ o % 8 = 0 then
    let c := (o - 0x1000) / 16
    if p.fnOf c ≠ vf then 0 else if o % 16 = 0 then p.ctxStatus c else p.rv .ctxSlowdown 0 c
  else if 0x4000 ≤ o ∧ o < 0x8000 ∧ o % 8 = 0 then
    let r := (o - 0x4000) / 16
    if p.fnOf (p.rf .sqCfg 0 r 8 8) ≠ vf then 0 else if o % 16 = 0 then (p.sq r).lastSeq else (p.sq r).consumed
  else 0

/-! ### Reads with effects (Table 19-6) -/

/-- LOW_HALF_READ: the high half of DEV_TIME or of a counter is latched for the port. -/
def lowHalfRead (p : Part) (port off : Nat) : Part :=
  let v := p.bar0Value port off
  let p := p.respond (some (v % 2 ^ 32))
  if latches off then { p with hif := { p.hif with latch := Tab.put port (off, v / 2 ^ 32) p.hif.latch } } else p

/-- PWR_MEAS_READ: PEAK restarts from the next 1 ms mean (16 R379). -/
def pwrMeasRead (p : Part) (port : Nat) (h : Half) : Part :=
  (p.respond (some (p.readHalf port (regOff .pwrMeas 0 0) h))).setRf .pwrMeas 0 0 48 16 0

/-- The BAR0 offset of GANG_FEED_STATUS of a Gang. -/
def feedStatusOff (g : Nat) : Nat := regOff .gangFeedStatus (g / 4) (g % 4)

/-- GANG_FEED_STATUS_READ: FIFO_MIN restarts from the present lead. -/
def feedRead (p : Part) (port g : Nat) (h : Half) : Part :=
  let q := p.respond (some (p.readHalf port (feedStatusOff g) h))
  if p.windowUp .bench (g / 4) then { q with gangs := Tab.upd g (fun (x : Gang) => { x with fifoMin := x.feed.fifo.length }) q.gangs }
  else q

/-- Whether a port carries accesses. -/
def portUp (p : Part) (port : Nat) : Bool := p.hif.linkUp.contains port

end Part

end Sys2Proof.Machine
end

