-- ==== Sys2Proof/Machine/Service.lean ====
section
/-!
DEFINITION. Sys2Proof/Machine/Service.lean: bench die service, firmware slots and the Hallmark area (17 R394 to R407, 19 R426).
-/

namespace Sys2Proof.Machine
open Sys2Proof

namespace Part

/-! ### Service commands (R395 to R399) -/

def svcBusy (p : Part) : Bool := p.rb .svcDieStatus 0 0 0

/-- Every physical die but `k` is IN_SERVICE or FAILED (R395). -/
def othersSettled (p : Part) (k : Nat) : Bool :=
  (List.range 8).all fun i => i == k || p.svcState i == 0 || p.svcState i == 6

/-- A hold, a job's home Jig or a foreign engine's range stands on logical die `n` (result HOLDS). -/
def leaveHeld (p : Part) (n : Nat) : Bool :=
  (List.range 32).any (fun b => (p.cabDies b).contains n && (p.occupant b).isSome) ||
    p.jig.jobs.any (fun e => p.homeDie e.2.cab == n) ||
    (Tab.getD p.bench.sb (p.phys n) []).any fun s =>
      let cls := [Cls.lathe, .planer, .joiner, .burnisher, .carrier].getD (s.eng / 256) .lathe
      !(decide (s.eng < 0x500) && (cls != .carrier || decide (s.eng % 256 < 128)) && engDie cls (s.eng % 256) == n)

/-- Logical die `m` cannot stand in for `n` (result STANDIN_BAD). -/
def standinBad (p : Part) (n m : Nat) : Bool :=
  m == n || p.svcState (p.phys m) != 0 || !p.benchUp (p.phys m) ||
    (List.range 32).any (fun b => p.cabEn b && (p.cabDies b).contains m) ||
    (List.range 256).any (fun i => p.rb .regionCfg (p.phys m) i 63) || (List.range 1024).any fun i => p.rb .arrivalCfg (p.phys m) i 63

/-- What is known of a command at its GO: a result other than OK ends it without effect. -/
def svcResult (p : Part) (op k m : Nat) : Nat :=
  let st := p.svcState k
  if !p.othersSettled k then 1
  else if op = 1 then
    if st ≠ 0 ∨ !p.benchUp k then 1 else if p.leaveHeld (p.logi k) then 2 else if p.standinBad (p.logi k) m then 3 else 0
  else if op = 2 then (if st = 2 ∨ st = 6 then 0 else 1)
  else if op = 3 then (if st = 2 then 0 else 1)
  else if st = 2 ∧ p.svc.passed.contains k then 0 else 1

/-- SVC_DIE_CTL.GO: refused while BUSY. -/
def svcGo (p : Part) : Part :=
  if p.svcBusy then p.badAccess else
  let k := p.rf .svcDieCtl 0 0 0 3
  let m := p.rf .svcDieCtl 0 0 4 3
  let op := p.rf .svcDieCtl 0 0 8 4
  let r := p.svcResult op k m
  let p := p.setRb .svcDieStatus 0 0 0 true
  let p := { p with svc := { p.svc with cmd := some ⟨op, k, m, r⟩, holding := if op = 1 ∧ r = 0 then some (p.logi k) else none } }
  if r ≠ 0 then p else
  let p := p.setSvcState k (if op = 1 then 1 else if op = 2 then 3 else if op = 3 then 4 else 5)
  if op = 2 then p.railsUp k else p

/-- Step 4's copies of R426: RW fields of the window of physical die `a` into `b`, whose W1C fields are cleared. -/
def copyWindow (p : Part) (a b : Nat) : Part :=
  let rows := allRegs.filter fun r => (regRow r).win == .bench
  rows.foldl (fun p r =>
    let w := regRow r
    (List.range w.count).foldl (fun p i =>
      if (Tab.find (regOff r a i) p.regs).isNone && (Tab.find (regOff r b i) p.regs).isNone then p else
      let v := (p.rv r a i &&& w.rw) ||| (p.rv r b i - (p.rv r b i &&& (w.rw ||| w.w1c)))
      p.setReg r b i v) p) p

/-- Step 3 of R396: the counts of regions, arrival counter values and redirections. -/
def copyCounts (p : Part) (a b : Nat) : Part :=
  let p := (List.range 256).foldl (fun p i => match Tab.find (a * 256 + i) p.bench.regions with
    | some x => p.setRegion b i x
    | none => { p with bench := { p.bench with regions := Tab.del (b * 256 + i) p.bench.regions } }) p
  let p := (List.range 1024).foldl (fun p i => if p.rv .arrivalValue a i = p.rv .arrivalValue b i then p else
    p.setReg .arrivalValue b i (p.rv .arrivalValue a i)) p
  { p with bench := { p.bench with redirects := p.bench.redirects.map fun r => if r.die = a then { r with die := b } else r } }

/-- The counter windows of two logical dies change places: counters stay with the silicon. -/
def swapCtrs (p : Part) (n m : Nat) : Part :=
  let win := fun (k : Nat) => (k - 0x3000000) / 0x100000
  let move := fun (k : Nat) =>
    if k < 0x3000000 ∨ 0x3800000 ≤ k then k
    else if win k = n then k - n * 0x100000 + m * 0x100000
    else if win k = m then k - m * 0x100000 + n * 0x100000
    else k
  { p with ctrs := p.ctrs.foldl (fun t e => Tab.put (move e.1) e.2 t) [] }

/-- A task's waits and ranges follow its logical die from physical die `a` to `b` (R394). -/
def moveTask (a b : Nat) (t : Task) : Task :=
  let g := fun (r : Range) => if r.die = a then { r with die := b } else r
  { t with
    wait := t.wait.map fun w => if w.1 = a then (b, w.2) else w
    toReg := t.toReg.map g
    waitPos := t.waitPos.map g
    dst := t.dst.map fun x => if x.1 = a then (b, x.2) else x
    filled := t.filled.foldl (fun l e => Tab.put (if e.1 / 2 ^ 18 = a then rowKey b (e.1 % 2 ^ 18) else e.1) e.2 l) [] }

/-- What tasks, saved holds and held accesses have on physical die `a` is on die `b` from now on. -/
def moveDie (p : Part) (a b : Nat) : Part :=
  let h := fun (s : SbRange) => if s.range.die = a then { s with range := { s.range with die := b } } else s
  { p with
    jig := { p.jig with
      eng := Tab.mapV (fun _ t => moveTask a b t) p.jig.eng
      xfer := Tab.mapV (fun _ (l : List Task) => l.map (moveTask a b)) p.jig.xfer
      stopped := Tab.mapV (fun _ t => moveTask a b t) p.jig.stopped }
    holds := Tab.mapV (fun _ (x : Hold) => { x with ranges := x.ranges.map h }) p.holds
    bench := { p.bench with waits := p.bench.waits.map fun e => if e.1 = a then (b, e.2) else e } }

/-- The swap that ends a LEAVE (R396, R426). -/
def leaveSwap (p : Part) (k m : Nat) : Part :=
  let n := p.logi k
  let b := p.phys m
  let p := ((p.copyWindow k b).copyCounts k b).moveDie k b
  let p := (p.setRf .svcDieMap 0 0 (4 * n) 3 b).setRf .svcDieMap 0 0 (4 * m) 3 k
  let p := (p.swapCtrs n m).bump (pkgCtr 0 1 3) 1
  let p := if p.svcState k = 6 then p else p.setSvcState k 2
  { p with svc := { p.svc with passed := p.svc.passed.filter (· != k) } }

/-- TEST ends (R398): rows that failed are mapped out, engines and generators have passed or not, the store is zero. -/
def testEnd (p : Part) (k : Nat) (rows : List Nat) (engineOk genOk : Bool) : Nat × Part :=
  let p := rows.foldl (fun p r => if p.svcState k = 6 then p else p.mapOut k r false) p
  if p.svcState k = 6 then (4, p)
  else if !engineOk then (4, p.benchDieFatal k 0x0863)
  else if !genOk then (4, (p.bump (benchCtr (p.logi k) 0 3 4) 1).benchDieFatal k 0x0830)
  else
    let p := (p.zeroBench k).setSvcState k 2
    (0, { p with svc := { p.svc with passed := insNat k p.svc.passed } })

/-- The image at SVC_FW_ADDR: its bytes, at most a slot's. -/
def svcImage (p : Part) : List Byte :=
  let a := p.rv .svcFwAddr 0 0 / 64 * 64
  p.hbmBytes a (16 + min (imgLength (p.hbmBytes a 16)) 8388592)

def imageGood (bs : List Byte) : Bool := imgHead bs 8388608 && imgCrc bs

/-- UPDATE ends. -/
def updateEnd (p : Part) (k : Nat) : Nat × Part :=
  let bs := p.svcImage
  let p := p.setSvcState k 2
  let p := { p with svc := { p.svc with passed := p.svc.passed.filter (· != k) } }
  if !imageGood bs then (5, p)
  else if imgMajor bs ≠ p.rf .pkgIdent 0 0 32 8 then (6, p)
  else (0, { p with svc := { p.svc with minors := Tab.put k (imgMinor bs) p.svc.minors } })

/-- REJOIN ends: the generator test again, counters zero, the die IN_SERVICE under its logical index. -/
def rejoinEnd (p : Part) (k : Nat) (genOk : Bool) : Nat × Part :=
  let n := p.logi k
  if !genOk then (4, (p.bump (benchCtr n 0 3 4) 1).benchDieFatal k 0x0830) else
  let p := { p with ctrs := Tab.keep (fun a _ => decide (a < 0x3000000 + n * 0x100000) || decide (0x3000000 + (n + 1) * 0x100000 ≤ a)) p.ctrs }
  (0, (p.setSvcState k 0).setRb .bringupStatus 0 0 (8 + k) true)

/-- A bank of a physical die has a write in flight (R396, step 2). -/
def writesAt (p : Part) (k : Nat) : Bool :=
  p.bench.banks.any fun e => e.1 / 64 == k && (e.2.queue ++ e.2.blocked).any fun a => match a with
    | .write _ _ => true
    | _ => false

/-- SVC_CMD_DONE, but for the accesses that it releases. A die-fatal fault meanwhile has set the result or the die's state. -/
def svcDone (p : Part) (rows : List Nat) (engineOk genOk : Bool) : Part :=
  match p.svc.cmd with
  | none => p
  | some x =>
    if x.op = 1 ∧ x.result = 0 ∧ p.writesAt x.die then p else
    let p := { p with svc := { p.svc with cmd := none, holding := none } }
    let r : Nat × Part :=
      if x.result ≠ 0 then (x.result, if x.op = 1 ∧ p.svcState x.die = 1 then p.setSvcState x.die 0 else p)
      else if x.op = 1 then (0, p.leaveSwap x.die x.standin)
      else if p.svcState x.die = 6 then (4, p)
      else if x.op = 2 then p.testEnd x.die rows engineOk genOk
      else if x.op = 3 then p.updateEnd x.die
      else p.rejoinEnd x.die genOk
    r.2.setReg .svcDieStatus 0 0 (2 + r.1 * 2 ^ 8)

/-! ### Firmware slots (R405) -/

/-- FW_SLOT_CTL.GO. -/
def fwSlotGo (p : Part) : Part :=
  if p.svc.slotGo.isSome then p.badAccess else
  let s := p.rf .fwSlotCtl 0 0 0 1
  let bs := p.svcImage
  let r := if p.rf .bootStatus 0 0 16 2 = s + 1 then 7 else if imageGood bs then 0 else 5
  let p := p.setRb .fwSlotStatus 0 0 0 true
  { p with svc := { p.svc with slotGo := some (s, r, imgMajor bs, imgMinor bs) } }

/-- FW_SLOT_DONE: a read-back that differs leaves the slot invalid. -/
def fwSlotDone (p : Part) (spiOk : Bool) : Part :=
  match p.svc.slotGo with
  | none => p
  | some (s, r, major, minor) =>
    let slots := if r = 0 then setAt p.svc.slots s { head := true, crc := spiOk, major := major, minor := minor } else p.svc.slots
    let p := { p with svc := { p.svc with slotGo := none, slots := slots } }
    p.setReg .fwSlotStatus 0 0 (2 + (if r = 0 ∧ !spiOk then 8 else r) * 2 ^ 8)

/-! ### The Hallmark area (R406, R407) -/

/-- A write of the window: the bytes of one register or of half of it, at byte `o` of the area. -/
def markWrite (p : Part) (o : Nat) (bs : List Byte) : Part :=
  if p.mark.lock || p.mark.busy == some (o / 256) then p.badAccess
  else { p with mark := { p.mark with shadow := Cells.write p.mark.shadow o bs } }

/-- COMMIT of page PAGE. -/
def markCommit (p : Part) : Part :=
  if p.mark.lock || p.mark.busy.isSome then p.badAccess
  else
    let p := { p with mark := { p.mark with busy := some (p.rf .hallmarkCtl 0 0 0 5) } }
    p.setRb .hallmarkStatus 0 0 0 true

def markLock (p : Part) : Part := { p with mark := { p.mark with lock := true } }

/-- HALLMARK_COMMIT_DONE: a commit beyond 100,000 sets WORN. -/
def markDone (p : Part) : Part :=
  match p.mark.busy with
  | none => p
  | some g =>
    let n := Tab.getD p.mark.wear g 0 + 1
    let nv := Cells.write p.mark.nv (256 * g) (Cells.read p.mark.shadow (256 * g) 256)
    let p := { p with mark := { p.mark with nv := nv, wear := Tab.put g n p.mark.wear, busy := none } }
    let p := (p.setRb .hallmarkStatus 0 0 0 false).setRb .hallmarkStatus 0 0 1 true
    (if 100000 < n then p.setRb .hallmarkStatus 0 0 2 true else p).bump (pkgCtr 0 1 5) 1

end Part

def execFwSlotDone (spiOk : Bool) (s : State) : Host.Outcome State Fault Refusal := onPart s fun p => p.fwSlotDone spiOk
def execHallmarkCommitDone (s : State) : Host.Outcome State Fault Refusal := onPart s fun p => p.markDone

end Sys2Proof.Machine
end

