-- ==== Sys2Proof/Machine/RegSet.lean ====
section
/-!
DEFINITION. Sys2Proof/Machine/RegSet.lean: what an accepted write access does to each set-up register: fields by access type (00 R10 R11 R14,
18 R419), and the checks and actions of the owning chapters.
-/

namespace Sys2Proof.Machine
open Sys2Proof

/-- A write as it reaches a register: the register (bench windows by physical die), the bits written, their values, the W1C events of the same
cycle, and, for a Chest command, what its page reads and programs find. -/
structure Acc where
  r : RegId
  mask : Nat
  val : Nat
  ev : Nat := 0
  cw : List CwRead := []
  fails : List Nat := []
  deriving DecidableEq, Repr, Inhabited

/-- A 1 is written to bit `b`. -/
def Acc.one (a : Acc) (b : Nat) : Bool := bit a.mask b && bit a.val b

/-- A 0 is written to bit `b`. -/
def Acc.zero (a : Acc) (b : Nat) : Bool := bit a.mask b && !bit a.val b

/-- The encodings that a field may take, as first bit, width, least and greatest value; all others are reserved. DESIGN CHOICE (log entry 51): SRC = 2
of AES_CH_CFG_A, which Table 14-7 gives to channel B only without calling it reserved for channel A, is reserved there. -/
def fieldRanges (r : RegName) : List (Nat × Nat × Nat × Nat) :=
  match r with
  | .hbmMap => [(0, 2, 0, 2)]
  | .thermCtl => [(0, 8, 60, 105), (8, 8, 60, 100)]
  | .svcDieCtl => [(8, 4, 1, 4)]
  | .hallmarkCtl => [(0, 5, 0, 23)]
  | .schedCtl => [(0, 16, 1, 65535), (16, 16, 1, 65535)]
  | .ctxCtl => [(8, 8, 1, 255)]
  | .watchCtl => [(0, 24, 250, 1000000), (32, 16, 1, 65535)]
  | .sqCfg => [(0, 5, 4, 16)]
  | .cqCfg => [(0, 5, 4, 16), (32, 8, 1, 255)]
  | .benchPwrCtl => [(0, 8, 1, 255), (8, 16, 1, 65535)]
  | .gangFeedCtl => [(0, 8, 8, 248), (8, 8, 1, 255)]
  | .streamCtl => [(0, 16, 1, 65535)]
  | .benchCtl => [(8, 8, 1, 255), (16, 4, 1, 15), (24, 8, 1, 255)]
  | .regionCfg => [(24, 19, 1, 262144)]
  | .stallCtl => [(0, 16, 1, 65535)]
  | .hbmCtl => [(0, 8, 1, 255), (8, 8, 1, 255)]
  | .chestCtl => [(0, 8, 1, 255), (8, 8, 1, 255), (16, 16, 1, 65535), (32, 8, 1, 255), (40, 4, 1, 15)]
  | .chestCmd => [(0, 3, 1, 4)]
  | .aesPortCtl => [(2, 2, 0, 2), (8, 7, 1, 64)]
  | .aesChCfgA => [(18, 2, 0, 1)]
  | .aesChCfgB => [(18, 2, 0, 2)]
  | .framePwrCtl => [(0, 8, 1, 255)]
  | _ => []

/-- A field that the access writes carries a reserved encoding. -/
def reservedIn (mask v : Nat) (f : Nat × Nat × Nat × Nat) : Bool :=
  bits mask f.1 f.2.1 != 0 && (decide (bits v f.1 f.2.1 < f.2.2.1) || decide (f.2.2.2 < bits v f.1 f.2.1))

/-- The registers whose upper half commits the pair (R12). -/
def paired (r : RegName) : Bool :=
  match r with
  | .bootHostCtl | .svcDieCtl | .joinCtl | .cabCtl | .ctxCtl | .sqCfg | .cqCfg | .regionCfg | .chestCmd | .aesPortCtl => true
  | _ => false

namespace Part

/-- The stored image of a register. -/
def old (p : Part) (r : RegId) : Nat := p.rv r.name r.die r.idx

/-- The RW fields as the access writes them, reserved encodings included. -/
def raw (p : Part) (a : Acc) : Nat :=
  let o := p.old a.r
  let m := a.mask &&& (regRow a.r.name).rw
  (o - (o &&& m)) + (a.val &&& m)

/-- Whether the access carries a reserved encoding (R14). -/
def carriesReserved (p : Part) (a : Acc) : Bool := (fieldRanges a.r.name).any (reservedIn a.mask (p.raw a))

/-- The register as the access leaves it: a field with a reserved encoding keeps its value (R14), a W1C bit written 1 clears unless its event
comes in the same cycle (R419). -/
def newImage (p : Part) (a : Acc) : Nat :=
  let o := p.old a.r
  let v := ((fieldRanges a.r.name).filter (reservedIn a.mask (p.raw a))).foldl (fun v f => setBits v f.1 f.2.1 (bits o f.1 f.2.1)) (p.raw a)
  let w := (regRow a.r.name).w1c
  let clr := a.mask &&& a.val &&& w
  (v - (v &&& clr)) ||| (a.ev &&& w)

def putImage (p : Part) (r : RegId) (v : Nat) : Part := if v = p.old r then p else p.setReg r.name r.die r.idx v

/-- CNT_HIF_BAD_ACCESS advances once for an access, however many rules refuse it (R14): here where `f` has not counted it. -/
def once (p : Part) (bad : Bool) (f : Part → Part) : Part :=
  let q := f p
  if bad && q.ctr (pkgCtr 0 0 0) == p.ctr (pkgCtr 0 0 0) then q.badAccess else q

/-- The fields of the write take effect by their access types, then `f` does what the write triggers. -/
def store (p : Part) (a : Acc) (f : Part → Part) : Part :=
  p.once (p.carriesReserved a) fun p => f (p.putImage a.r (p.newImage a))

/-- As `store`, where `f` is handed the new image and stores what it accepts. -/
def act (p : Part) (a : Acc) (f : Part → Nat → Part) : Part := p.once (p.carriesReserved a) fun p => f p (p.newImage a)

/-! ### Package registers -/

/-- A poisoned unit's place under another interleave mode: the same sector of the same stack. -/
def movePoison (old new u : Nat) : Nat := if hbmEnd ≤ u then u else deviceAt new (stackAt old u) (localAt old u)

/-- HBM_MAP (R290): refused while a context is enabled; a change of MODE leaves HBM undefined until it is written again. -/
def setHbmMap (p : Part) (a : Acc) : Part :=
  if (List.range 256).any p.ctxEn then p.badAccess else
  let was := p.hbmMode
  p.store a fun p =>
    let now := p.hbmMode
    if now = was then p else
    let q := p.onMem fun m => { m.openRange 0 hbmEnd p.fresh now with poison := (m.poison.map (movePoison was now)).foldl (fun l u => insNat u l) [] }
    { q with fresh := p.fresh + 1, cups := Tab.mapV (fun _ (x : Cupboard) => { x with lines := [] }) p.cups }

/-- A command register: a GO that is refused leaves the whole register as it was. -/
def setGo (p : Part) (a : Acc) (refused : Bool) (go : Part → Part) : Part :=
  if a.one 63 && refused then p.badAccess else p.store a fun p => if a.one 63 then go p else p

def setBootHost (p : Part) (a : Acc) : Part := p.setGo a (p.fwRuns || p.power.straps % 4 == 0) bootHostGo

/-- A GO with no valid OP, written or held, starts nothing. -/
def setSvcDie (p : Part) (a : Acc) : Part :=
  p.setGo a p.svcBusy fun p => if p.rf .svcDieCtl 0 0 8 4 = 0 then p else p.svcGo

def setFwSlot (p : Part) (a : Acc) : Part := p.setGo a p.svc.slotGo.isSome fwSlotGo

def setChestCmd (p : Part) (a : Acc) : Part :=
  p.setGo a (!p.rb .chestStatus 0 0 0 || p.chestBusy) fun p =>
    if p.rf .chestCmd 0 0 0 3 = 0 then p else p.chestGo (p.rf .chestCmd 0 0 0 3) (p.rf .chestCmd 0 0 8 32) a.cw a.fails

/-- HALLMARK_CTL: PAGE, then COMMIT of that page, then LOCK. -/
def setHallmark (p : Part) (a : Acc) : Part :=
  p.store a fun p =>
    let p := if a.one 8 then p.markCommit else p
    if a.one 16 then p.markLock else p

/-- A write of the Hallmark window. -/
def setShadow (p : Part) (a : Acc) : Part :=
  let o := 8 * a.r.idx
  let bs := leBytes 8 a.val
  if bits a.mask 0 32 = 0 then p.markWrite (o + 4) (bs.drop 4)
  else if bits a.mask 32 32 = 0 then p.markWrite o (bs.take 4)
  else p.markWrite o bs

/-- JOIN_CTL (Table 15-8). -/
def setJoin (p : Part) (a : Acc) : Part :=
  if p.rb .joinCtl 0 0 63 then
    if !a.zero 63 || (List.range 32).any (fun b => p.cabEn b && p.rf .cabRemote 0 b 0 32 != 0) then p.badAccess
    else p.joinStop.setRb .joinCtl 0 0 63 false
  else p.store a fun p => if p.rb .joinCtl 0 0 63 then p.joinStart else p

/-- FAULT_CTL: a message that awaits its time is not sent for entries written before IRQ_EN was cleared (R418). -/
def setFaultCtl (p : Part) (a : Acc) : Part :=
  p.store a fun p => if p.rb .faultCtl 0 0 12 then p else { p with flog := { p.flog with owed := false } }

/-! ### Cabinets (11 R246, R252, 17 R397) -/

/-- The rows of two shares meet: both hold rows, and each begins below the other's end. -/
def sharesMeet (x y : Nat × Nat) : Bool := x.2 != 0 && y.2 != 0 && decide (x.1 < y.1 + y.2) && decide (y.1 < x.1 + x.2)

/-- A Cabinet's composition is refused (R246). -/
def cabRefused (p : Part) (b stks : Nat) : Bool :=
  let others := (List.range 32).filter fun k => k != b && p.cabEn k
  let dies := List.range 8
  let other := fun (n : Nat) => (p.cabGangs b).any (fun g => g / 4 == n) || (p.cabEngines b .planer).any (fun e => e / 8 == n) ||
    (p.cabEngines b .joiner).any (fun e => e / 4 == n) || (p.cabEngines b .burnisher).any (fun e => e / 8 == n)
  others.any (fun k => [Cls.lathe, .planer, .joiner, .burnisher, .carrier].any fun c => (p.cabEngines b c).any (p.cabEngines k c).contains) ||
    others.any (fun k => dies.any fun n => sharesMeet (p.share b n) (p.share k n)) ||
    dies.any (fun n => (p.share b n).2 != 0 && decide (262144 < (p.share b n).1 + (p.share b n).2)) ||
    (p.cabEngineDies b).isEmpty ||
    (p.cabEngines b .carrier).any (fun e => !other (e / 16) && (p.share b (e / 16)).2 == 0) ||
    (List.range 256).any (fun c => p.ctxEn c && p.rb .ctxCabs 0 c b && decide (p.rf .ctxSaveLen 0 c 0 40 < p.imageBytes b)) ||
    dies.any (fun n => (p.share b n).2 != 0 && ((p.share b n).1 % 16 != 0 || (p.share b n).2 % 16 != 0)) ||
    (List.range 12).any fun s => stks.testBit s && (p.rb .stackStatus (s / 3) (s % 3) 5 || !p.rb .stackCtl (s / 3) (s % 3) 0)

/-- CAB_CTL. -/
def setCabCtl (p : Part) (a : Acc) : Part :=
  let b := a.r.idx
  if p.cabEn b then
    if !a.zero 63 || (p.occupant b).isSome then p.badAccess else p.setRb .cabCtl 0 b 63 false
  else if a.one 63 && (!p.ready || p.cabRefused b (bits (p.newImage a) 32 12)) then p.badAccess
  else p.store a fun p => if a.one 63 then p.decideCab b else p

/-- QUIESCE was cleared: a pinned Cabinet's hold is placed at once (R397), any other Cabinet takes a decision. -/
def quiesceEnd (p : Part) (b : Nat) : Part :=
  if p.cabPinned b then
    let c := p.rf .cabCtl 0 b 8 8
    if p.cabEn b && p.ctxRuns c && p.holdOut c b && (p.occupant b).isNone then p.place c b else p
  else p.decideCab b

/-- CAB_CMD: QUIESCE, then SAVE. -/
def setCabCmd (p : Part) (a : Acc) : Part :=
  let b := a.r.idx
  let was := p.rb .cabCmd 0 b 1
  p.store a fun p =>
    let p := if a.one 0 then p.cabSave b else p
    if was && !p.rb .cabCmd 0 b 1 then p.quiesceEnd b else p

/-- Another register of Table 11-1: refused while EN is 1. -/
def setCabReg (p : Part) (b : Nat) (a : Acc) : Part := if p.cabEn b then p.badAccess else p.store a fun p => p

/-! ### Contexts (11 R249, R250, 18 R420) -/

/-- The creation of a context with CTX_CTL image `v` is refused (R249). -/
def ctxRefused (p : Part) (c v : Nat) : Bool :=
  let cabs := bitsSet 32 (p.rv .ctxCabs 0 c)
  let f := bits v 16 8
  let fn := if f = 0 then (if p.rb .hifCtxPort 0 (c / 64) (c % 64) then 256 else 0) else f
  !p.ready || cabs.any (fun b => !p.cabEn b) ||
    cabs.any (fun b => if bit v 0 then !p.cabPinned b || p.rf .cabCtl 0 b 8 8 != c else p.cabPinned b) ||
    decide (18 < p.rf .ctxStreams 0 c 0 5) || cabs.any (fun b => decide (p.rf .ctxSaveLen 0 c 0 40 < p.imageBytes b)) || !p.fnEnabled fn

/-- The counters of a context are cleared (R420): package group 3, and groups 3 to 8 of every bench die. -/
def clearCtxCtrs (p : Part) (c : Nat) : Part :=
  let mine := fun (k : Nat) =>
    (decide (0x3000000 ≤ k) && decide (k < 0x3800000) && decide (3 ≤ k / 0x10000 % 16) && decide (k / 0x10000 % 16 ≤ 8) && k / 0x100 % 256 == c) ||
      (decide (0x3C00000 ≤ k) && (k - 0x3C00000) / 0x10000 == 3 && k / 0x100 % 256 == c)
  { p with ctrs := Tab.keep (fun k _ => !mine k) p.ctrs }

/-- The context comes into being: FAULT and its counters clear, and its holds on pinned Cabinets become resident (R250). -/
def ctxCreate (p : Part) (c : Nat) : Part :=
  let p := ((p.clearCtxCtrs c).setRf .ctxStatus 0 c 16 16 0).setCtx c {}
  (bitsSet 32 (p.rv .ctxCabs 0 c)).foldl (fun p b =>
    if !p.cabPinned b then p else
    let p := p.setHold c b {}
    if p.rb .cabCmd 0 b 1 then p else p.place c b) p

/-- EN of an enabled context is cleared: a teardown with code 0x0415 unless it is torn down already. -/
def ctxEnd (p : Part) (c : Nat) : Part :=
  if (p.ctx c).state = 5 then (p.setRb .ctxCtl 0 c 63 false).setCtx c { p.ctx c with state := 0 }
  else
    let p := p.ctxFault c ⟨0x0415, .none, 0, none, 0⟩
    p.setCtx c { p.ctx c with clearEn := true }

/-- CTX_CTL: while EN is 1 only SHARE and EN can change. -/
def setCtxCtl (p : Part) (a : Acc) : Part :=
  let c := a.r.idx
  if p.ctxEn c then
    let v := p.newImage a
    let o := p.old a.r
    let bad := p.carriesReserved a || bit v 0 != bit o 0 || bits v 16 8 != bits o 16 8
    p.once bad fun p =>
      let p := p.setRf .ctxCtl 0 c 8 8 (bits v 8 8)
      if a.zero 63 then p.ctxEnd c else p
  else if a.one 63 && p.ctxRefused c (p.newImage a) then p.badAccess
  else p.store a fun p => if a.one 63 then p.ctxCreate c else p

/-- Another register of Table 11-6: refused while EN is 1. -/
def setCtxReg (p : Part) (a : Acc) : Part := if p.ctxEn a.r.idx then p.badAccess else p.store a fun p => p

/-! ### Host interface (12 R281, R284, R285) -/

/-- HIF_CTX_PORT: the bits of enabled contexts keep their values. -/
def setCtxPort (p : Part) (a : Acc) : Part :=
  let o := p.old a.r
  let fixed := (List.range 64).foldl (fun m k => if p.ctxEn (64 * a.r.idx + k) then m + 2 ^ k else m) 0
  let v := p.newImage a
  p.once ((v ^^^ o) &&& fixed != 0) fun p => p.putImage a.r ((v - (v &&& fixed)) + (o &&& fixed))

/-- FUNC_SUMMARY: EN is not cleared while an enabled submission ring uses the bitmap. -/
def setSummary (p : Part) (a : Acc) : Part :=
  if p.rb .funcSummary 0 a.r.idx 0 && a.zero 0 && !(p.ringsOf a.r.idx).isEmpty then p.badAccess else p.store a fun p => p

/-- The enabling of a submission ring with image `v` is refused (R285). -/
def sqRefused (p : Part) (r v : Nat) : Bool :=
  let c := bits v 8 8
  let q := bits v 22 10
  let fn := p.fnOf c
  let k := bits v 32 10
  !p.ready || !p.ctxEn c || !p.rb .ctxCabs 0 c (bits v 16 5) || !p.rb .cqCfg 0 q 63 || p.rf .cqCfg 0 q 8 8 != c ||
    decide (bits v 0 5 < 4) || decide (16 < bits v 0 5) || !p.rb .funcSummary 0 fn 0 || (decide (512 ≤ k) && !p.rb .funcSummary 0 fn 1) ||
    (p.ringsOf fn).any fun x => x != r && p.rf .sqCfg 0 x 32 10 == k

/-- SQ_CFG. A ring's last round ends with its disabling, and its shadow line is written then (R270, log entry 85). The watch loop of a function
starts, at the longest interval, with its first ring (R272). -/
def setSqCfg (p : Part) (a : Acc) : Part :=
  let r := a.r.idx
  if p.sqEn r then
    if !a.zero 63 then p.badAccess else
    let fn := p.fnOf (p.sqCtx r)
    let p := p.shadow r
    ((p.setRb .sqCfg 0 r 63 false).setSq r { p.sq r with dbRead := false, active := false }).endRound fn
  else if a.one 63 && p.sqRefused r (p.raw a) then p.badAccess
  else p.store a fun p =>
    if a.one 63 then
      let fn := p.fnOf (p.sqCtx r)
      let p := if p.ringsOf fn = [r] then p.setWatch fn { interval := p.rf .watchCtl 0 0 0 24 } else p
      p.setSq r { prevJob := (p.sq r).prevJob }
    else p

def setSqReg (p : Part) (a : Acc) : Part := if p.sqEn a.r.idx then p.badAccess else p.store a fun p => p

/-- The enabling of a completion ring with image `v` is refused (R285). -/
def cqRefused (p : Part) (v : Nat) : Bool :=
  !p.ready || !p.ctxEn (bits v 8 8) || decide (bits v 0 5 < 4) || decide (16 < bits v 0 5) || bits v 32 8 == 0 ||
    decide (vecCount (p.fnOf (bits v 8 8)) ≤ bits v 16 11)

/-- A completion ring is in use: an enabled submission ring names it, a job reports to it, or an entry waits for it (R285). -/
def cqInUse (p : Part) (q : Nat) : Bool :=
  (List.range 1024).any (fun r => p.sqEn r && p.rf .sqCfg 0 r 22 10 == q) || p.jig.jobs.any (fun e => e.2.cq == q) ||
    !(p.cq q).pend.isEmpty || !(p.cq q).ovr.isEmpty

/-- CQ_CFG. -/
def setCqCfg (p : Part) (a : Acc) : Part :=
  let q := a.r.idx
  if p.rb .cqCfg 0 q 63 then
    if !a.zero 63 || p.cqInUse q then p.badAccess else p.setRb .cqCfg 0 q 63 false
  else if a.one 63 && p.cqRefused (p.raw a) then p.badAccess
  else p.store a fun p => if a.one 63 then p.setCq q {} else p

def setCqReg (p : Part) (a : Acc) : Part := if p.rb .cqCfg 0 a.r.idx 63 then p.badAccess else p.store a fun p => p

/-! ### Bench dies (08 R193, R194, R198) -/

/-- A task names region `i` of physical die `d`: its ranges, its blocks, or its region list. -/
def namesRegion (p : Part) (d i : Nat) (t : Task) : Bool :=
  let hit := fun (g : Range) => g.die == d && g.region == some i
  t.toReg.any hit || t.waitPos.any hit || (p.sbOf d).any (fun s => s.owner == t.id && hit s.range) ||
    (kindOf t.img == 3 &&
      ((srcBlks t.desc).any (fun b => b.region && b.regionIdx == i && p.phys b.regionDie == d) ||
        (dstRegions t.desc).any fun x => x.2.2.1 == i && p.phys x.2.1 == d)) ||
    (kindOf t.img == 4 && (PTask.of t).q.regions && (List.range (PTask.of t).q.n).any fun n =>
      let e := (PTask.of t).region t n
      bits e 8 8 == i && p.phys (bits e 0 3) == d)

/-- EN of a region was cleared: the context of each issued task that names it takes the address fault (R194). -/
def regionEnd (p : Part) (d i : Nat) : Part :=
  let ts := (p.jig.eng.map Prod.snd ++ p.jig.xfer.flatMap Prod.snd ++ p.jig.stopped.map Prod.snd).filter (p.namesRegion d i)
  let addr := benchAt (p.logi d) (512 * p.rf .regionCfg d i 0 18)
  (ts.map Task.ctx).eraseDups.foldl (fun p c => if p.ctxRuns c then p.ctxFault c ⟨0x0402, .none, 0, none, addr⟩ else p) p

/-- Streams that name the region: an END that waits for their chunks takes effect at once (R194). -/
def regionStrms (p : Part) (d i : Nat) : Part :=
  (p.strms.filter fun e => (p.phys (Ent.inDie e.2.ent) == d && Ent.inRegion e.2.ent == i) ||
    (p.phys (Ent.outDie e.2.ent) == d && Ent.outRegion e.2.ent == i)).foldl (fun p e => p.ops (e.1 / 2 ^ 18) (e.1 % 2 ^ 18)) p

/-- BENCH_REGION_CFG (R193). -/
def setRegionCfg (p : Part) (a : Acc) : Part :=
  let d := a.r.die
  let i := a.r.idx
  let v := p.raw a
  if p.rb .regionCfg d i 63 then
    if !a.zero 63 then p.badAccess else p.once (p.carriesReserved a) fun p => ((p.regionEnd d i).putImage a.r (p.newImage a)).regionStrms d i
  else if a.one 63 && (bits v 24 19 == 0 || decide (262144 < bits v 0 18 + bits v 24 19)) then p.badAccess
  else p.store a fun p => if a.one 63 then p.setRegion d i {} else p

/-- A free bit decides whether an armed wait on a counter whose EN changed is taken as over (R198). -/
def loosenWaits (p : Part) (d i : Nat) : Part :=
  let armed := fun (t : Task) => match t.wait with
    | some (x, k, _) => x == d && k == i
    | none => false
  let f := p.free
  if (p.jig.eng.map Prod.snd ++ p.jig.xfer.flatMap Prod.snd ++ p.jig.stopped.map Prod.snd).any armed then
    let loosen := fun (t : Task) => if armed t && f.1.toNat.testBit (t.id % 64) then { t with wait := none } else t
    { f.2 with jig := { f.2.jig with
        eng := Tab.mapV (fun _ t => loosen t) p.jig.eng
        xfer := Tab.mapV (fun _ (l : List Task) => l.map loosen) p.jig.xfer
        stopped := Tab.mapV (fun _ t => loosen t) p.jig.stopped } }
  else p

/-- BENCH_ARRIVAL_CFG (R198). -/
def setArrivalCfg (p : Part) (a : Acc) : Part :=
  let d := a.r.die
  let i := a.r.idx
  let was := p.rb .arrivalCfg d i 63
  p.store a fun p =>
    if p.rb .arrivalCfg d i 63 == was then p
    else
      let p := if was then p else p.setReg .arrivalValue d i 0
      p.loosenWaits d i

/-! ### Frame dies (09 R219, 13 R302 R303 R313, 14 R339, 15 R349 to R351) -/

/-- HBM_STACK_CTL: ONLINE, then REPAIR. -/
def setStackCtl (p : Part) (a : Acc) : Part :=
  let m := a.r.die
  let j := a.r.idx
  let s := 3 * m + j
  let on := p.rb .stackCtl m j 0
  let failed := p.rb .stackStatus m j 5
  let named := (List.range 32).any fun b => p.cabEn b && p.rb .cabCtl 0 b (32 + s)
  if on && a.zero 0 && (named || p.chestBusy) then p.badAccess
  else if !on && a.one 0 && p.rb .stackStatus m j 3 then p.badAccess
  else
    let p := if on && a.zero 0 then (p.setRb .stackCtl m j 0 false).dropLines s
      else if a.one 0 && !failed then p.setRb .stackCtl m j 0 true else p
    if !a.one 1 then p
    else if p.rb .stackCtl m j 0 || (List.range 12).any (fun k => p.rb .stackStatus (k / 3) (k % 3) 3) then p.badAccess
    else p.setRb .stackStatus m j 3 true

def setChestCh (p : Part) (a : Acc) : Part :=
  let ch := 4 * a.r.die + a.r.idx
  if a.one 0 then p.channelOnline ch else if a.zero 0 then p.channelOffline ch else p

/-- AES_PORT_CTL (R339). -/
def setAesPort (p : Part) (a : Acc) : Part :=
  let n := 8 * a.r.die + a.r.idx
  if p.aesEn n then (if a.zero 63 then p.aesDisable n else p.badAccess)
  else if !a.one 63 then p.store a fun p => p
  else if bits (p.raw a) 8 7 = 0 then p.badAccess
  else p.act a fun p v => p.aesEnable n v

def setAesReg (p : Part) (a : Acc) : Part := if p.aesEn (8 * a.r.die + a.r.idx) then p.badAccess else p.store a fun p => p

def setAesRef (p : Part) (a : Acc) : Part := p.aesRefWrite (a.r.die / 2) (p.newImage a)

/-- CUPBOARD_CTL: EN written 0 and FLUSH invalidate every line. -/
def setCupboard (p : Part) (a : Acc) : Part :=
  let m := a.r.die
  p.store a fun p =>
    if a.zero 0 || a.one 1 then (p.setCup m { p.cup m with lines := [] }).setRb .cupboardStatus m 0 2 true else p

/-- DT_LINK_CTL: EN, then RETRAIN. -/
def setDtLink (p : Part) (a : Acc) : Part :=
  let l := 16 * a.r.die + a.r.idx
  let was := p.linkEn l
  p.store a fun p =>
    let p := if !was && p.linkEn l then p.linkEnable l else if was && !p.linkEn l then p.linkDisable l else p
    if a.one 1 && p.linkRuns l then p.startRetrain l else p

/-! ### Every register -/

/-- A write that reaches its register. -/
def applyWrite (p : Part) (a : Acc) : Part :=
  match a.r.name with
  | .probeCtl => if a.one 0 then p.probeGo else p
  | .hbmMap => p.setHbmMap a
  | .bootHostCtl => p.setBootHost a
  | .svcDieCtl => p.setSvcDie a
  | .fwSlotCtl => p.setFwSlot a
  | .hallmarkCtl => p.setHallmark a
  | .hallmarkShadow => p.setShadow a
  | .joinCtl => p.setJoin a
  | .faultCtl => p.setFaultCtl a
  | .cabCtl => p.setCabCtl a
  | .cabCmd => p.setCabCmd a
  | .cabGangs | .cabPlaners | .cabJoiners | .cabBurnishers | .cabCarriersLo | .cabCarriersHi | .cabRemote | .cabStatus =>
    p.setCabReg a.r.idx a
  | .cabShare => p.setCabReg (a.r.idx / 8) a
  | .ctxCtl => p.setCtxCtl a
  | .ctxTransInval => if a.one 0 then p.transInval a.r.idx else p
  | .ctxCabs | .ctxStreams | .ctxSeeds | .ctxTrans | .ctxTransLen | .ctxSave | .ctxSaveLen | .ctxStatus | .ctxSlowdown => p.setCtxReg a
  | .hifCtxPort => p.setCtxPort a
  | .funcSummary => p.setSummary a
  | .sqCfg => p.setSqCfg a
  | .sqBase | .sqDb | .sqShadow | .sqLastSeq | .sqConsumed => p.setSqReg a
  | .cqCfg => p.setCqCfg a
  | .cqBase | .cqReturn | .cqPosted => p.setCqReg a
  | .regionCfg => p.setRegionCfg a
  | .arrivalCfg => p.setArrivalCfg a
  | .stackCtl => p.setStackCtl a
  | .chestCmd => p.setChestCmd a
  | .chestChCtl => p.setChestCh a
  | .aesPortCtl => p.setAesPort a
  | .aesChCfgA | .aesChCfgB | .aesPortSide => p.setAesReg a
  | .aesRefCtl => p.setAesRef a
  | .cupboardCtl => p.setCupboard a
  | .dtLinkCtl => p.setDtLink a
  | _ => p.store a fun p => p

end Part

end Sys2Proof.Machine
end

