-- ==== Sys2Proof/Machine/RegAccess.lean ====
section
/-!
DEFINITION. Sys2Proof/Machine/RegAccess.lean: accesses that arrive at a PCIe port: sizes, halves and staging (00 R12), windows that are held,
down or unlisted (01 R23, 16 R388, 19 R423 R426), and the commands that are writes of one register. The data of a half write stands in
the low 32 bits of its operand.
-/

namespace Sys2Proof.Machine
open Sys2Proof

/-- The bits that an access of a register covers. -/
def halfMask (h : Half) : Nat :=
  match h with
  | .full => 2 ^ 64 - 1
  | .lo => 2 ^ 32 - 1
  | .hi => 2 ^ 64 - 2 ^ 32

/-- Write data at its place in the register. -/
def halfData (h : Half) (v : Nat) : Nat :=
  match h with
  | .full => v % 2 ^ 64
  | .lo => v % 2 ^ 32
  | .hi => (v % 2 ^ 32) * 2 ^ 32

/-- Write data with bit `b` of the register given, where the access covers it. -/
def forceBit (h : Half) (v : Reg) (b : Nat) (on : Bool) : Reg :=
  match h with
  | .full => BitVec.ofNat 64 (setBits v.toNat b 1 (b2n on))
  | .lo => if b < 32 then BitVec.ofNat 64 (setBits v.toNat b 1 (b2n on)) else v
  | .hi => if b < 32 then v else BitVec.ofNat 64 (setBits v.toNat (b - 32) 1 (b2n on))

/-- Write data of a command register: GO set, and the operation code in bits `w`:`lo` where the access covers it. -/
def forceOp (h : Half) (v : Reg) (lo w op : Nat) : Reg :=
  forceBit h (match h with
    | .hi => v
    | _ => BitVec.ofNat 64 (setBits v.toNat lo w op)) 63 true

namespace Part

/-- The offset lies in a bench window that a LEAVE holds (R426). -/
def heldOff (p : Part) (off : Nat) : Bool :=
  match p.svc.holding, p.svc.cmd, winOf off with
  | some n, some x, some (.bench, k, _) => k == n || k == x.standin
  | _, _, _ => false

/-- The staged half of a register at a port (R12). -/
def stagedHalf (p : Part) (port off : Nat) : Option Nat :=
  (p.hif.staged.find? fun e => e.1 == port && e.2.1 == off).map fun e => e.2.2

def unstage (p : Part) (port off : Nat) : Part :=
  { p with hif := { p.hif with staged := p.hif.staged.filter fun e => !(e.1 == port && e.2.1 == off) } }

def stage (p : Part) (port off v : Nat) : Part :=
  let q := p.unstage port off
  { q with hif := { q.hif with staged := q.hif.staged ++ [(port, off, v % 2 ^ 32)] } }

/-- A write that no LEAVE holds: refused at an offset without a register and in a window that is not up, staged, or applied. -/
def writeNow (p : Part) (port off : Nat) (h : Half) (v ev : Nat) (cw : List CwRead) (fails : List Nat) : Part :=
  match p.regHere off with
  | none => p.badAccess
  | some r =>
    if !p.offUp off then p.badAccess
    else if paired r.name then
      match h with
      | .full => (p.unstage port off).applyWrite ⟨r, halfMask .full, halfData .full v, ev, cw, fails⟩
      | .lo => p.stage port off v
      | .hi => match p.stagedHalf port off with
        | some lo => (p.unstage port off).applyWrite ⟨r, halfMask .full, lo + halfData .hi v, ev, cw, fails⟩
        | none => p.applyWrite ⟨r, halfMask .hi, halfData .hi v, ev, cw, fails⟩
    else p.applyWrite ⟨r, halfMask h, halfData h v, ev, cw, fails⟩

def hold426 (p : Part) (x : Nat × Nat × Half × Option (Nat × Nat)) : Part :=
  { p with hif := { p.hif with held := p.hif.held ++ [x] } }

/-- A write arrives at a port whose link is up. -/
def writeAcc (p : Part) (port off : Nat) (h : Half) (v ev : Nat) (cw : List CwRead) (fails : List Nat) : Part :=
  if !p.portUp port then p
  else if p.heldOff off then p.hold426 (port, off, h, some (v, ev))
  else p.writeNow port off h v ev cw fails

def writeReg (p : Part) (port off : Nat) (h : Half) (v : Reg) : Part := p.writeAcc port off h v.toNat 0 [] []

/-- A read that no LEAVE holds, with its effects (R23, R423, R424). -/
def readNow (p : Part) (port off : Nat) (h : Half) : Part :=
  if inCounterWindow off then
    (if h = .lo then p.lowHalfRead port off else p.respond (some (p.readHalf port off h)))
  else match regAt off with
    | none => p.badAccess.respond (some 0)
    | some r =>
      match r.name with
      | .pwrMeas => p.pwrMeasRead port h
      | .gangFeedStatus => p.feedRead port (4 * r.die + r.idx) h
      | _ => if h = .lo then p.lowHalfRead port off else p.respond (some (p.readHalf port off h))

/-- A read arrives at a port whose link is up. -/
def readAcc (p : Part) (port off : Nat) (h : Half) : Part :=
  if !p.portUp port then p else if p.heldOff off then p.hold426 (port, off, h, none) else p.readNow port off h

/-- An access of another size or alignment (R12). -/
def badSize (p : Part) (port off size : Nat) (write : Bool) : Part :=
  if !p.portUp port || (size == 4 && off % 4 == 0) || (size == 8 && off % 8 == 0) then p
  else if write then p.badAccess else p.badAccess.respond (some (256 ^ size - 1))

/-- The virtual function whose BAR0 an offset of UNMAPPED_ACCESS names: 0x400_0000 + v * 0x1_0000 stands for BAR0 of virtual function v. -/
def vfAt (p : Part) (port off : Nat) : Option Nat :=
  let vf := (off - 0x4000000) / 0x10000
  if 0x4000000 ≤ off ∧ port = 0 ∧ p.hif.vfEn ∧ 1 ≤ vf ∧ vf ≤ p.hif.numVfs then some vf else none

/-- An access that reaches no register of a served window: outside the windows, at an unlisted offset, in a counter window, in the window of a
die that is not up (R23, R388, R420, R423), or in a virtual function's BAR0 (12 R283). -/
def unmapped (p : Part) (port off : Nat) (h : Half) (write : Bool) : Part :=
  if !p.portUp port then p
  else if 0x4000000 ≤ off then
    match p.vfAt port off with
    | none => p
    | some vf =>
      let v := p.vfRead vf (off % 0x10000)
      if write then p.badAccess
      else p.respond (some (match h with
        | .full => v
        | .lo => v % 2 ^ 32
        | .hi => v / 2 ^ 32))
  else if (regAt off).isSome && p.offUp off then p
  else if write then p.writeAcc port off h 0 0 [] [] else p.readAcc port off h

/-- SVC_CMD_DONE: after the swap the held accesses apply under the new map, in their order (R426). -/
def svcCmdDone (p : Part) (rows : List Nat) (engineOk genOk : Bool) : Part :=
  if p.svc.cmd.isNone then p else
  let held := p.hif.held
  let p := p.svcDone rows engineOk genOk
  if p.svc.cmd.isSome then p else
  let p := { p with hif := { p.hif with held := [] } }
  held.foldl (fun p x => match x.2.2.2 with
    | some (v, ev) => p.writeNow x.1 x.2.1 x.2.2.1 v ev [] []
    | none => p.readNow x.1 x.2.1 x.2.2.1) p

end Part

/-! ### Commands -/

def execRegWrite (port off : Nat) (h : Half) (v : Reg) (s : State) : Host.Outcome State Fault Refusal :=
  onWork s fun p => p.writeReg port off h v
def execStagedHalfWrite (port off : Nat) (v : Reg) (s : State) : Host.Outcome State Fault Refusal :=
  onWork s fun p => p.writeReg port off .lo v
def execBadSizeAccess (port off size : Nat) (write : Bool) (s : State) : Host.Outcome State Fault Refusal :=
  onPart s fun p => p.badSize port off size write
def execUnmappedAccess (port off : Nat) (h : Half) (write : Bool) (s : State) : Host.Outcome State Fault Refusal :=
  onPart s fun p => p.unmapped port off h write
def execW1cClear (port off : Nat) (h : Half) (v ev : Reg) (s : State) : Host.Outcome State Fault Refusal :=
  onWork s fun p => p.writeAcc port off h v.toNat ev.toNat [] []
def execCounterWindowWrite (port off : Nat) (h : Half) (v : Reg) (s : State) : Host.Outcome State Fault Refusal :=
  onPart s fun p => if inCounterWindow off then p.writeReg port off h v else p
def execPwrMeasRead (port : Nat) (h : Half) (s : State) : Host.Outcome State Fault Refusal :=
  onPart s fun p => p.readAcc port (regOff .pwrMeas 0 0) h
def execGangFeedStatusRead (port g : Nat) (h : Half) (s : State) : Host.Outcome State Fault Refusal :=
  onPart s fun p => p.readAcc port (Part.feedStatusOff g) h
def execLowHalfRead (port off : Nat) (s : State) : Host.Outcome State Fault Refusal := onPart s fun p => p.readAcc port off .lo
def execRandProbeGo (port : Nat) (s : State) : Host.Outcome State Fault Refusal :=
  onPart s fun p => p.writeReg port (regOff .probeCtl 0 0) .full 1
def execCabEnWrite (port b : Nat) (h : Half) (v : Reg) (s : State) : Host.Outcome State Fault Refusal :=
  onWork s fun p => p.writeReg port (regOff .cabCtl 0 b) h v
def execSave (port b : Nat) (s : State) : Host.Outcome State Fault Refusal :=
  onWork s fun p => p.writeReg port (regOff .cabCmd 0 b) .full (BitVec.ofNat 64 (1 + 2 * b2n (p.rb .cabCmd 0 b 1)))
def execQuiesce (port b : Nat) (q : Bool) (s : State) : Host.Outcome State Fault Refusal :=
  onWork s fun p => p.writeReg port (regOff .cabCmd 0 b) .full (BitVec.ofNat 64 (2 * b2n q))
def execCtxEnSet (port c : Nat) (h : Half) (v : Reg) (s : State) : Host.Outcome State Fault Refusal :=
  onWork s fun p => p.writeReg port (regOff .ctxCtl 0 c) h (forceBit h v 63 true)
def execCtxEnClear (port c : Nat) (h : Half) (v : Reg) (s : State) : Host.Outcome State Fault Refusal :=
  onWork s fun p => p.writeReg port (regOff .ctxCtl 0 c) h (forceBit h v 63 false)
def execTransInval (port c : Nat) (s : State) : Host.Outcome State Fault Refusal :=
  onPart s fun p => p.writeReg port (regOff .ctxTransInval 0 c) .full 1
def execSqEnSet (port r : Nat) (h : Half) (v : Reg) (s : State) : Host.Outcome State Fault Refusal :=
  onWork s fun p => p.writeReg port (regOff .sqCfg 0 r) h (forceBit h v 63 true)
def execSqEnClear (port r : Nat) (h : Half) (v : Reg) (s : State) : Host.Outcome State Fault Refusal :=
  onWork s fun p => p.writeReg port (regOff .sqCfg 0 r) h (forceBit h v 63 false)
def execCqEnSet (port q : Nat) (h : Half) (v : Reg) (s : State) : Host.Outcome State Fault Refusal :=
  onWork s fun p => p.writeReg port (regOff .cqCfg 0 q) h (forceBit h v 63 true)
def execCqEnClear (port q : Nat) (h : Half) (v : Reg) (s : State) : Host.Outcome State Fault Refusal :=
  onWork s fun p => p.writeReg port (regOff .cqCfg 0 q) h (forceBit h v 63 false)
def execRegionCfgWrite (port die i : Nat) (h : Half) (v : Reg) (s : State) : Host.Outcome State Fault Refusal :=
  onWork s fun p => p.writeReg port (regOff .regionCfg die i) h v
def execArrivalCfgWrite (port die i : Nat) (h : Half) (v : Reg) (s : State) : Host.Outcome State Fault Refusal :=
  onWork s fun p => p.writeReg port (regOff .arrivalCfg die i) h v
def execCupboardFlush (port m : Nat) (s : State) : Host.Outcome State Fault Refusal :=
  onPart s fun p => p.writeReg port (regOff .cupboardCtl m 0) .full (BitVec.ofNat 64 (b2n (p.cupEn m) + 2))
def execCupboardDisable (port m : Nat) (s : State) : Host.Outcome State Fault Refusal :=
  onPart s fun p => p.writeReg port (regOff .cupboardCtl m 0) .full 0
def execHbmMapWrite (port : Nat) (h : Half) (v : Reg) (s : State) : Host.Outcome State Fault Refusal :=
  onPart s fun p => p.writeReg port (regOff .hbmMap 0 0) h v
def execStackOffline (port st : Nat) (s : State) : Host.Outcome State Fault Refusal :=
  onWork s fun p => p.writeReg port (regOff .stackCtl (st / 3) (st % 3)) .full 0
def execStackOnline (port st : Nat) (s : State) : Host.Outcome State Fault Refusal :=
  onWork s fun p => p.writeReg port (regOff .stackCtl (st / 3) (st % 3)) .full 1
def execRepair (port st : Nat) (s : State) : Host.Outcome State Fault Refusal :=
  onPart s fun p => p.writeReg port (regOff .stackCtl (st / 3) (st % 3)) .full (BitVec.ofNat 64 (b2n (p.rb .stackCtl (st / 3) (st % 3) 0) + 2))
def execChestLoad (port : Nat) (h : Half) (v : Reg) (cw : List CwRead) (s : State) : Host.Outcome State Fault Refusal :=
  onPart s fun p => p.writeAcc port (regOff .chestCmd 0 0) h (forceOp h v 0 3 1).toNat 0 cw []
def execChestWrite (port : Nat) (h : Half) (v : Reg) (fails : List Nat) (s : State) : Host.Outcome State Fault Refusal :=
  onPart s fun p => p.writeAcc port (regOff .chestCmd 0 0) h (forceOp h v 0 3 2).toNat 0 [] fails
def execDelete (port : Nat) (h : Half) (v : Reg) (s : State) : Host.Outcome State Fault Refusal :=
  onPart s fun p => p.writeReg port (regOff .chestCmd 0 0) h (forceOp h v 0 3 3)
def execList (port : Nat) (h : Half) (v : Reg) (s : State) : Host.Outcome State Fault Refusal :=
  onPart s fun p => p.writeReg port (regOff .chestCmd 0 0) h (forceOp h v 0 3 4)
def execChannelOffline (port ch : Nat) (s : State) : Host.Outcome State Fault Refusal :=
  onPart s fun p => p.writeReg port (regOff .chestChCtl (ch / 4) (ch % 4)) .full 0
def execChannelOnline (port ch : Nat) (s : State) : Host.Outcome State Fault Refusal :=
  onPart s fun p => p.writeReg port (regOff .chestChCtl (ch / 4) (ch % 4)) .full 1
def execAesPortEnable (port a : Nat) (h : Half) (v : Reg) (s : State) : Host.Outcome State Fault Refusal :=
  onPart s fun p => p.writeReg port (regOff .aesPortCtl (a / 8) (a % 8)) h (forceBit h v 63 true)
def execAesPortDisable (port a : Nat) (h : Half) (v : Reg) (s : State) : Host.Outcome State Fault Refusal :=
  onPart s fun p => p.writeReg port (regOff .aesPortCtl (a / 8) (a % 8)) h (forceBit h v 63 false)
def execAesRefEnable (port ref : Nat) (h : Half) (v : Reg) (s : State) : Host.Outcome State Fault Refusal :=
  onPart s fun p => p.writeReg port (regOff .aesRefCtl (refDie ref) 0) h (forceBit h v 0 true)
def execDtLinkEnable (port l : Nat) (s : State) : Host.Outcome State Fault Refusal :=
  onWork s fun p => p.writeReg port (regOff .dtLinkCtl (l / 16) (l % 16)) .full 1
def execDtLinkDisable (port l : Nat) (s : State) : Host.Outcome State Fault Refusal :=
  onWork s fun p => p.writeReg port (regOff .dtLinkCtl (l / 16) (l % 16)) .full 0
def execDtRetrainForce (port l : Nat) (s : State) : Host.Outcome State Fault Refusal :=
  onWork s fun p => p.writeReg port (regOff .dtLinkCtl (l / 16) (l % 16)) .full (BitVec.ofNat 64 (b2n (p.linkEn l) + 2))
def execJoinEnable (port : Nat) (h : Half) (v : Reg) (s : State) : Host.Outcome State Fault Refusal :=
  onPart s fun p => p.writeReg port (regOff .joinCtl 0 0) h (forceBit h v 63 true)
def execJoinDisable (port : Nat) (h : Half) (v : Reg) (s : State) : Host.Outcome State Fault Refusal :=
  onPart s fun p => p.writeReg port (regOff .joinCtl 0 0) h (forceBit h v 63 false)
def execBootHostGo (port : Nat) (h : Half) (v : Reg) (s : State) : Host.Outcome State Fault Refusal :=
  onPart s fun p => p.writeReg port (regOff .bootHostCtl 0 0) h (forceBit h v 63 true)
def execLeave (port : Nat) (h : Half) (v : Reg) (s : State) : Host.Outcome State Fault Refusal :=
  onPart s fun p => p.writeReg port (regOff .svcDieCtl 0 0) h (forceOp h v 8 4 1)
def execTest (port : Nat) (h : Half) (v : Reg) (s : State) : Host.Outcome State Fault Refusal :=
  onPart s fun p => p.writeReg port (regOff .svcDieCtl 0 0) h (forceOp h v 8 4 2)
def execUpdate (port : Nat) (h : Half) (v : Reg) (s : State) : Host.Outcome State Fault Refusal :=
  onPart s fun p => p.writeReg port (regOff .svcDieCtl 0 0) h (forceOp h v 8 4 3)
def execRejoin (port : Nat) (h : Half) (v : Reg) (s : State) : Host.Outcome State Fault Refusal :=
  onPart s fun p => p.writeReg port (regOff .svcDieCtl 0 0) h (forceOp h v 8 4 4)
def execSvcCmdDone (rows : List Nat) (engineOk genOk : Bool) (s : State) : Host.Outcome State Fault Refusal :=
  onWork s fun p => p.svcCmdDone rows engineOk genOk
def execFwSlotGo (port : Nat) (h : Half) (v : Reg) (s : State) : Host.Outcome State Fault Refusal :=
  onPart s fun p => p.writeReg port (regOff .fwSlotCtl 0 0) h (forceBit h v 63 true)
def execHallmarkShadowWrite (port off : Nat) (h : Half) (v : Reg) (s : State) : Host.Outcome State Fault Refusal :=
  onPart s fun p => if (regAt off).map RegId.name = some .hallmarkShadow then p.writeReg port off h v else p
def execHallmarkCommit (port : Nat) (h : Half) (v : Reg) (s : State) : Host.Outcome State Fault Refusal :=
  onPart s fun p => p.writeReg port (regOff .hallmarkCtl 0 0) h (forceBit h v 8 true)
def execHallmarkLock (port : Nat) (s : State) : Host.Outcome State Fault Refusal :=
  onPart s fun p => p.writeReg port (regOff .hallmarkCtl 0 0) .full (BitVec.ofNat 64 (p.rf .hallmarkCtl 0 0 0 5 + 2 ^ 16))

end Sys2Proof.Machine
end

