-- ==== Sys2Proof/Machine/Ticks.lean ====
section
/-!
DEFINITION. Sys2Proof/Machine/Ticks.lean: PILOT_TICK, 40 ns of real time: device time (16 R382, 15 R363), what is charged and counted by the ns
(11 R252 R254 R263, 16 R376, 08 R201, 10 R230, 05 R121), and the fault interrupt's timer (18 R418).
-/

namespace Sys2Proof.Machine
open Sys2Proof

namespace Part

/-! ### Device time -/

/-- The ns that the tick adds, and the join's slewing after it: half rate until within 1 us, or at most 20 ppm, one ns in 1,250 ticks. -/
def tickNs (j : Join) : Nat × Join :=
  if j.half then
    let s := j.slew + 20
    if s.natAbs ≤ 1000 ∨ 0 ≤ s then (20, { j with half := false, slew := 0 }) else (20, { j with slew := s })
  else if j.slew = 0 then (40, { j with slewWait := min (j.slewWait + 1) 1250 })
  else if j.slewWait < 1249 then (40, { j with slewWait := j.slewWait + 1 })
  else if 0 < j.slew then (41, { j with slew := j.slew - 1, slewWait := 0 })
  else (39, { j with slew := j.slew + 1, slewWait := 0 })

def tickTime (p : Part) : Part :=
  let t := tickNs p.join
  { p with time := (p.time + t.1) % 2 ^ 64, join := t.2 }

/-! ### Charges (R254) and PROGRESS (R253) -/

/-- Engine-ns charged to a context under a class; `work` where the engine works. -/
def charge (p : Part) (c : Nat) (cls : Cls) (n : Nat) (work : Bool) : Part :=
  let x := p.ctx c
  (p.setCtx c { x with ens := x.ens + n, progress := if work then x.progress + n else x.progress }).bump (pkgCtr 3 c (8 + clsCode cls)) n

/-- Engine cycles of physical bench die `k` in a tick: 64 at 1.6 GHz, 32 while it throttles (R376). -/
def tickCycles (p : Part) (k : Nat) : Nat := if p.rb .thermStatus 0 0 (8 + k) then 32 else 64

def chargeEngines (p : Part) : Part :=
  p.jig.eng.foldl (fun p e =>
    p.charge e.2.ctx (engAt e.1).1 40 (p.engWorks (engAt e.1).1 (engAt e.1).2 e.2)) p

def chargeGangs (p : Part) : Part :=
  (Tab.keys p.gangs).foldl (fun p g =>
    let x := p.gang g
    if x.stepping then p.charge x.ctx .lathe 320 true
    else match p.gangIdle g with
      | some k =>
        ((p.charge x.ctx .lathe 320 false).bump (benchCtr (g / 4) 2 (68 + g % 4) (16 + k)) (p.tickCycles (p.phys (g / 4)))).bump
          (benchCtr (g / 4) 3 x.ctx (16 + k)) 40
      | none => p) p

/-- A bench die Carrier is charged while it holds a transfer, a frame die Carrier while it moves a multicast one. -/
def chargeCarriers (p : Part) : Part :=
  p.jig.xfer.foldl (fun p e =>
    match e.2 with
    | [] => p
    | t :: _ =>
      let w := (p.working e.1).getD t
      p.charge w.ctx .carrier 40 (p.engWorks .carrier e.1 w)) p

/-- Saves and restores move on frame die Carriers (R255, 09 R204), those of a hold on up to eight, a single stream's record on one: how many in
this tick is a free value. -/
def chargeMoves (p : Part) : Part :=
  let p := (p.holds.filter fun e => e.2.st == .saving || e.2.st == .restoring).foldl (fun p e =>
    let f := p.free
    f.2.charge (e.1 / 32) .carrier (40 * (f.1.toNat % 9)) false) p
  (p.strms.filter fun e => (Ent.state e.2.ent == 2 || Ent.state e.2.ent == 5) && p.residentOn (e.1 / 2 ^ 18) (Ent.cab e.2.ent)).foldl (fun p e =>
    let f := p.free
    f.2.charge (e.1 / 2 ^ 18) .carrier (40 * (f.1.toNat % 2)) false) p

/-- A context whose ENS advanced has been in no W and resident nowhere since; a resident one whose ENS stood has been resident (R252). -/
def tickSeen (before p : Part) : Part :=
  { p with ctxs := Tab.mapV (fun c (x : Ctx) =>
    if (before.ctx c).ens < x.ens then { x with seen := false }
    else if p.holds.any (fun e => e.1 / 32 == c && e.2.st == .resident) then { x with seen := true }
    else x) p.ctxs }

/-- T_away of R263: the job's hold is out while runnable, or being saved or restored. -/
def tickAway (p : Part) : Part :=
  { p with jig := { p.jig with jobs := Tab.mapV (fun _ (x : Job) =>
    let away := match p.hold x.ctx x.cab with
      | some h => (match h.st with
        | .resident => false
        | .saving => true
        | .restoring => true
        | _ => p.runnable x.ctx x.cab)
      | none => false
    if away then { x with away := x.away + 40 } else x) p.jig.jobs } }

/-! ### Counters of time -/

def tickThrottle (p : Part) : Part :=
  let p := (List.range 8).foldl (fun p k => if p.rb .thermStatus 0 0 (8 + k) then p.bump (benchCtr (p.logi k) 0 3 6) 40 else p) p
  let p := (List.range 4).foldl (fun p m => if p.rb .thermStatus 0 0 (16 + m) then p.bump (frameCtr m 0 1 0) 40 else p) p
  p.power.heat.foldl (fun p s => p.bump (frameCtr (s / 3) 1 (s % 3) 5) 40) p

def tickGates (p : Part) : Part :=
  (p.bench.banks.filter fun e => !e.2.blocked.isEmpty).foldl (fun p e => p.bumpBench (e.1 / 64) 10 (p.tickCycles (e.1 / 64))) p

/-- CNT_JIG_FETCH_HOLD (R230): a Jig with 2,048 records in flight and a resident job left to fetch. -/
def tickFetch (p : Part) : Part :=
  (List.range 8).foldl (fun p n =>
    match (p.jigJobs n).find? fun e => Part.Job.unfetched e.2 && p.residentOn e.2.ctx e.2.cab with
    | some e => if 2048 ≤ p.inFlight n then p.bumpJig n e.2.ctx 5 (p.tickCycles (p.phys n)) else p
    | none => p) p

/-- A real-time SHARED task that waits for a slot of its frame die's Carriers counts the wait under CREDIT (09 R217), at the first of them. -/
def tickParked (p : Part) : Part :=
  p.jig.parked.foldl (fun p e =>
    match p.parkedLive e.1 with
    | some x =>
      let m := listFrame p.hbmMode e.2
      if p.realTime x.ctx && p.multicast x.cab e.2 && (p.freeCarrier (span (128 + 8 * m) 8)).isNone then
        (p.bump (frameCtr m 7 0 21) (if p.rb .thermStatus 0 0 (16 + m) then 24 else 48)).bump (benchCtr ((p.cabDies x.cab).head?.getD 0) 7 x.ctx 21) 40
      else p
    | none => p) p

/-- CNT_STREAM_ABSENT_NS (R114): a stream with an accepted chunk that is out, or on its way in. -/
def tickAbsent (p : Part) : Part :=
  (p.strms.filter fun e => p.realTime (e.1 / 2 ^ 18) && (Ent.state e.2.ent == 4 || Ent.state e.2.ent == 5) && !e.2.chunks.isEmpty).foldl (fun p e =>
    let c := e.1 / 2 ^ 18
    p.bumpStream (p.strmDie c (e.1 % 2 ^ 18) (Ent.cab e.2.ent)) c 6 40) p

def tickHeld (p : Part) : Part := if p.svc.holding.isSome then p.bump (pkgCtr 0 1 4) 40 else p

/-- PILOT_TICK: nothing while the part is in reset or off. -/
def pilotTick (p : Part) : Part :=
  if p.power.held || !p.power.started || !p.power.rails then p else
  let q := p.chargeEngines.chargeGangs.chargeCarriers.chargeMoves
  let q := (tickSeen p q).tickAway
  q.tickThrottle.tickGates.tickFetch.tickParked.tickAbsent.tickHeld.tickRails.tickTime

/-- FAULT_IRQ_TIMER: 10 us have passed since the last message (R418). -/
def faultTimer (p : Part) : Part :=
  if !p.flog.spacing then p
  else if p.flog.owed && p.rb .faultCtl 0 0 12 then
    ({ p with flog := { p.flog with owed := false } }).signal (if p.rb .faultCtl 0 0 11 then 256 else 0) (p.rf .faultCtl 0 0 0 11)
  else { p with flog := { p.flog with owed := false, spacing := false } }

end Part

def execPilotTick (s : State) : Host.Outcome State Fault Refusal := onPart s fun p => p.pilotTick
def execFaultIrqTimer (s : State) : Host.Outcome State Fault Refusal := onPart s fun p => p.faultTimer

end Sys2Proof.Machine
end

