-- ==== Sys2Proof/Machine/Dispatch.lean ====
section
/-!
DEFINITION. Sys2Proof/Machine/Dispatch.lean: one arm per command, each one call of its meaning.
-/

namespace Sys2Proof.Machine
open Sys2Proof

def exec (i : Instr) (s : State) : Host.Outcome State Fault Refusal :=
  match i with
  | .regWrite port off h v => Sys2Proof.Machine.execRegWrite port off h v s
  | .stagedHalfWrite port off v => Sys2Proof.Machine.execStagedHalfWrite port off v s
  | .badSizeAccess port off size write => Sys2Proof.Machine.execBadSizeAccess port off size write s
  | .unmappedAccess port off h write => Sys2Proof.Machine.execUnmappedAccess port off h write s
  | .w1cClear port off h v ev => Sys2Proof.Machine.execW1cClear port off h v ev s
  | .counterWindowWrite port off h v => Sys2Proof.Machine.execCounterWindowWrite port off h v s
  | .pwrMeasRead port h => Sys2Proof.Machine.execPwrMeasRead port h s
  | .gangFeedStatusRead port g h => Sys2Proof.Machine.execGangFeedStatusRead port g h s
  | .lowHalfRead port off => Sys2Proof.Machine.execLowHalfRead port off s
  | .randProbeGo port => Sys2Proof.Machine.execRandProbeGo port s
  | .randProbeDone => Sys2Proof.Machine.execRandProbeDone s
  | .cabEnWrite port b h v => Sys2Proof.Machine.execCabEnWrite port b h v s
  | .save port b => Sys2Proof.Machine.execSave port b s
  | .quiesce port b q => Sys2Proof.Machine.execQuiesce port b q s
  | .ctxEnSet port c h v => Sys2Proof.Machine.execCtxEnSet port c h v s
  | .ctxEnClear port c h v => Sys2Proof.Machine.execCtxEnClear port c h v s
  | .teardownDone c => Sys2Proof.Machine.execTeardownDone c s
  | .transInval port c => Sys2Proof.Machine.execTransInval port c s
  | .transInvalDone c => Sys2Proof.Machine.execTransInvalDone c s
  | .sqEnSet port r h v => Sys2Proof.Machine.execSqEnSet port r h v s
  | .sqEnClear port r h v => Sys2Proof.Machine.execSqEnClear port r h v s
  | .cqEnSet port q h v => Sys2Proof.Machine.execCqEnSet port q h v s
  | .cqEnClear port q h v => Sys2Proof.Machine.execCqEnClear port q h v s
  | .regionCfgWrite port die k h v => Sys2Proof.Machine.execRegionCfgWrite port die k h v s
  | .arrivalCfgWrite port die k h v => Sys2Proof.Machine.execArrivalCfgWrite port die k h v s
  | .cupboardFlush port m => Sys2Proof.Machine.execCupboardFlush port m s
  | .cupboardDisable port m => Sys2Proof.Machine.execCupboardDisable port m s
  | .cupboardFlushDone m => Sys2Proof.Machine.execCupboardFlushDone m s
  | .hbmMapWrite port h v => Sys2Proof.Machine.execHbmMapWrite port h v s
  | .stackOffline port x_s => Sys2Proof.Machine.execStackOffline port x_s s
  | .stackOnline port x_s => Sys2Proof.Machine.execStackOnline port x_s s
  | .repair port x_s => Sys2Proof.Machine.execRepair port x_s s
  | .repairDone x_s unspared failed rest => Sys2Proof.Machine.execRepairDone x_s unspared failed rest s
  | .chestLoad port h v cw => Sys2Proof.Machine.execChestLoad port h v cw s
  | .chestWrite port h v fails => Sys2Proof.Machine.execChestWrite port h v fails s
  | .delete port h v => Sys2Proof.Machine.execDelete port h v s
  | .list port h v => Sys2Proof.Machine.execList port h v s
  | .chestCmdDone => Sys2Proof.Machine.execChestCmdDone s
  | .retentionScrub ch page cw => Sys2Proof.Machine.execRetentionScrub ch page cw s
  | .channelOffline port ch => Sys2Proof.Machine.execChannelOffline port ch s
  | .channelOfflineDone ch => Sys2Proof.Machine.execChannelOfflineDone ch s
  | .channelOnline port ch => Sys2Proof.Machine.execChannelOnline port ch s
  | .channelRetrainDone ch ok info replaced marked cw => Sys2Proof.Machine.execChannelRetrainDone ch ok info replaced marked cw s
  | .aesPortEnable port a h v => Sys2Proof.Machine.execAesPortEnable port a h v s
  | .aesPortDisable port a h v => Sys2Proof.Machine.execAesPortDisable port a h v s
  | .aesRefEnable port ref h v => Sys2Proof.Machine.execAesRefEnable port ref h v s
  | .dtLinkEnable port l => Sys2Proof.Machine.execDtLinkEnable port l s
  | .dtLinkDisable port l => Sys2Proof.Machine.execDtLinkDisable port l s
  | .dtDisableDrainEnd l => Sys2Proof.Machine.execDtDisableDrainEnd l s
  | .dtRetrainForce port l => Sys2Proof.Machine.execDtRetrainForce port l s
  | .joinEnable port h v => Sys2Proof.Machine.execJoinEnable port h v s
  | .joinDisable port h v => Sys2Proof.Machine.execJoinDisable port h v s
  | .bootHostGo port h v => Sys2Proof.Machine.execBootHostGo port h v s
  | .bootHostLoadDone st hw => Sys2Proof.Machine.execBootHostLoadDone st hw s
  | .leave port h v => Sys2Proof.Machine.execLeave port h v s
  | .test port h v => Sys2Proof.Machine.execTest port h v s
  | .update port h v => Sys2Proof.Machine.execUpdate port h v s
  | .rejoin port h v => Sys2Proof.Machine.execRejoin port h v s
  | .svcCmdDone rows engineOk genOk => Sys2Proof.Machine.execSvcCmdDone rows engineOk genOk s
  | .fwSlotGo port h v => Sys2Proof.Machine.execFwSlotGo port h v s
  | .fwSlotDone spiOk => Sys2Proof.Machine.execFwSlotDone spiOk s
  | .hallmarkShadowWrite port off h v => Sys2Proof.Machine.execHallmarkShadowWrite port off h v s
  | .hallmarkCommit port h v => Sys2Proof.Machine.execHallmarkCommit port h v s
  | .hallmarkCommitDone => Sys2Proof.Machine.execHallmarkCommitDone s
  | .hallmarkLock port => Sys2Proof.Machine.execHallmarkLock port s
  | .smbReadPkgIdent => Sys2Proof.Machine.execSmbReadPkgIdent s
  | .smbReadBootStatus => Sys2Proof.Machine.execSmbReadBootStatus s
  | .smbReadBringupStatus => Sys2Proof.Machine.execSmbReadBringupStatus s
  | .smbReadPwrMeas => Sys2Proof.Machine.execSmbReadPwrMeas s
  | .smbReadPwrEnergy => Sys2Proof.Machine.execSmbReadPwrEnergy s
  | .smbReadThermStatus => Sys2Proof.Machine.execSmbReadThermStatus s
  | .smbReadDieTemps => Sys2Proof.Machine.execSmbReadDieTemps s
  | .smbReadStackTemps => Sys2Proof.Machine.execSmbReadStackTemps s
  | .smbNack code write => Sys2Proof.Machine.execSmbNack code write s
  | .powerOnReset mv aonLost straps => Sys2Proof.Machine.execPowerOnReset mv aonLost straps s
  | .rstNAssert ns => Sys2Proof.Machine.execRstNAssert ns s
  | .rstNRelease straps => Sys2Proof.Machine.execRstNRelease straps s
  | .brownOut => Sys2Proof.Machine.execBrownOut s
  | .overVoltage mv => Sys2Proof.Machine.execOverVoltage mv s
  | .ovRecovery straps => Sys2Proof.Machine.execOvRecovery straps s
  | .regulatorFault die sect => Sys2Proof.Machine.execRegulatorFault die sect s
  | .sensorPoll dies stks => Sys2Proof.Machine.execSensorPoll dies stks s
  | .pwrMeasUpdate power vin iin => Sys2Proof.Machine.execPwrMeasUpdate power vin iin s
  | .blockClockOff cls e => Sys2Proof.Machine.execBlockClockOff cls e s
  | .pllOff die => Sys2Proof.Machine.execPllOff die s
  | .chestClockOff ch => Sys2Proof.Machine.execChestClockOff ch s
  | .gangClockRelease g => Sys2Proof.Machine.execGangClockRelease g s
  | .blockClockStart cls e lockFail => Sys2Proof.Machine.execBlockClockStart cls e lockFail s
  | .perstAssert port => Sys2Proof.Machine.execPerstAssert port s
  | .hotReset port => Sys2Proof.Machine.execHotReset port s
  | .pcieLinkDown port => Sys2Proof.Machine.execPcieLinkDown port s
  | .pfFlr port => Sys2Proof.Machine.execPfFlr port s
  | .vfEnableClear numVfs en => Sys2Proof.Machine.execVfEnableClear numVfs en s
  | .vfFlr vf => Sys2Proof.Machine.execVfFlr vf s
  | .d3hotEntry port fn => Sys2Proof.Machine.execD3hotEntry port fn s
  | .watchRound fn => Sys2Proof.Machine.execWatchRound fn s
  | .sweepDue r => Sys2Proof.Machine.execSweepDue r s
  | .bitmapReadDone fn st hw => Sys2Proof.Machine.execBitmapReadDone fn st hw s
  | .doorbellReadDone r st hw => Sys2Proof.Machine.execDoorbellReadDone r st hw s
  | .submissionEntry r st hw => Sys2Proof.Machine.execSubmissionEntry r st hw s
  | .graphHeaderRead j st hw => Sys2Proof.Machine.execGraphHeaderRead j st hw s
  | .recordFetch j st hw => Sys2Proof.Machine.execRecordFetch j st hw s
  | .nop j r => Sys2Proof.Machine.execNop j r s
  | .fence j r => Sys2Proof.Machine.execFence j r s
  | .computeTaskComplete cls e => Sys2Proof.Machine.execComputeTaskComplete cls e s
  | .msixModTimer q => Sys2Proof.Machine.execMsixModTimer q s
  | .returnLinePoll q => Sys2Proof.Machine.execReturnLinePoll q s
  | .returnLineReadDone q st hw => Sys2Proof.Machine.execReturnLineReadDone q st hw s
  | .modelLoad j r st hw => Sys2Proof.Machine.execModelLoad j r st hw s
  | .start j r st hw => Sys2Proof.Machine.execStart j r st hw s
  | .chunk j r st hw => Sys2Proof.Machine.execChunk j r st hw s
  | .set j r st hw => Sys2Proof.Machine.execSet j r st hw s
  | .pause j r st hw => Sys2Proof.Machine.execPause j r st hw s
  | .resume j r st hw => Sys2Proof.Machine.execResume j r st hw s
  | .reset j r st hw => Sys2Proof.Machine.execReset j r st hw s
  | .swapOut j r st hw => Sys2Proof.Machine.execSwapOut j r st hw s
  | .swapIn j r st hw => Sys2Proof.Machine.execSwapIn j r st hw s
  | .endOp j r st hw => Sys2Proof.Machine.execEndOp j r st hw s
  | .streamSaveDone c n => Sys2Proof.Machine.execStreamSaveDone c n s
  | .streamRestoreDone c n st hw => Sys2Proof.Machine.execStreamRestoreDone c n st hw s
  | .streamExchange g => Sys2Proof.Machine.execStreamExchange g s
  | .chunkComplete c n => Sys2Proof.Machine.execChunkComplete c n s
  | .gangStepStart g => Sys2Proof.Machine.execGangStepStart g s
  | .feedRowArrive g ecc late => Sys2Proof.Machine.execFeedRowArrive g ecc late s
  | .condRecordArrive slot st ecc hw => Sys2Proof.Machine.execCondRecordArrive slot st ecc hw s
  | .initVectorLoaded slot st ecc hw => Sys2Proof.Machine.execInitVectorLoaded slot st ecc hw s
  | .punchStart g => Sys2Proof.Machine.execPunchStart g s
  | .stepComplete slot => Sys2Proof.Machine.execStepComplete slot s
  | .conv j r st hw => Sys2Proof.Machine.execConv j r st hw s
  | .tconv j r st hw => Sys2Proof.Machine.execTconv j r st hw s
  | .maxpool j r st hw => Sys2Proof.Machine.execMaxpool j r st hw s
  | .avgpool j r st hw => Sys2Proof.Machine.execAvgpool j r st hw s
  | .s2c j r st hw => Sys2Proof.Machine.execS2c j r st hw s
  | .c2s j r st hw => Sys2Proof.Machine.execC2s j r st hw s
  | .gemm j r st hw => Sys2Proof.Machine.execGemm j r st hw s
  | .aa j r st hw => Sys2Proof.Machine.execAa j r st hw s
  | .attn j r st hw => Sys2Proof.Machine.execAttn j r st hw s
  | .add j r st hw => Sys2Proof.Machine.execAdd j r st hw s
  | .mul j r st hw => Sys2Proof.Machine.execMul j r st hw s
  | .max j r st hw => Sys2Proof.Machine.execMax j r st hw s
  | .min j r st hw => Sys2Proof.Machine.execMin j r st hw s
  | .convert j r st hw => Sys2Proof.Machine.execConvert j r st hw s
  | .lut j r st hw => Sys2Proof.Machine.execLut j r st hw s
  | .rmsnorm j r st hw => Sys2Proof.Machine.execRmsnorm j r st hw s
  | .layernorm j r st hw => Sys2Proof.Machine.execLayernorm j r st hw s
  | .softmax j r st hw => Sys2Proof.Machine.execSoftmax j r st hw s
  | .gather j r st hw => Sys2Proof.Machine.execGather j r st hw s
  | .dropout j r st hw => Sys2Proof.Machine.execDropout j r st hw s
  | .fillUniform j r st hw => Sys2Proof.Machine.execFillUniform j r st hw s
  | .fillNormal j r st hw => Sys2Proof.Machine.execFillNormal j r st hw s
  | .operandDataArrive cls e st ecc buf cause stall hw => Sys2Proof.Machine.execOperandDataArrive cls e st ecc buf cause stall hw s
  | .benchRead die row ecc => Sys2Proof.Machine.execBenchRead die row ecc s
  | .correctedWriteback die row => Sys2Proof.Machine.execCorrectedWriteback die row s
  | .benchWrite c die row first data poison arrival ecc => Sys2Proof.Machine.execBenchWrite c die row first data poison arrival ecc s
  | .transposedRead c die row stride width ecc => Sys2Proof.Machine.execTransposedRead c die row stride width ecc s
  | .stridedRead c die row stride seg ecc => Sys2Proof.Machine.execStridedRead c die row stride seg ecc s
  | .patrolScrub die ecc => Sys2Proof.Machine.execPatrolScrub die ecc s
  | .scoreboardRegister cls e => Sys2Proof.Machine.execScoreboardRegister cls e s
  | .regionReserve c die k n => Sys2Proof.Machine.execRegionReserve c die k n s
  | .regionReturn c die k pos => Sys2Proof.Machine.execRegionReturn c die k pos s
  | .bankGate die bank => Sys2Proof.Machine.execBankGate die bank s
  | .bankWakeDone die bank => Sys2Proof.Machine.execBankWakeDone die bank s
  | .carrier j r st hw => Sys2Proof.Machine.execCarrier j r st hw s
  | .carrierDataArrive e st ecc cause stall hw => Sys2Proof.Machine.execCarrierDataArrive e st ecc cause stall hw s
  | .transferComplete e => Sys2Proof.Machine.execTransferComplete e s
  | .cupboardFillDone m line ecc => Sys2Proof.Machine.execCupboardFillDone m line ecc s
  | .batchSwitch cls e => Sys2Proof.Machine.execBatchSwitch cls e s
  | .quantumExpire b => Sys2Proof.Machine.execQuantumExpire b s
  | .graceEvict => Sys2Proof.Machine.execGraceEvict s
  | .drainResponse b => Sys2Proof.Machine.execDrainResponse b s
  | .saveComplete b => Sys2Proof.Machine.execSaveComplete b s
  | .restoreComplete b hw => Sys2Proof.Machine.execRestoreComplete b hw s
  | .hbmRead addr lineRead ecc => Sys2Proof.Machine.execHbmRead addr lineRead ecc s
  | .hbmWrite addr data poison ecc => Sys2Proof.Machine.execHbmWrite addr data poison ecc s
  | .hbmRefresh x_s bank => Sys2Proof.Machine.execHbmRefresh x_s bank s
  | .selfRefreshEnter x_s => Sys2Proof.Machine.execSelfRefreshEnter x_s s
  | .stackWakeDone x_s => Sys2Proof.Machine.execStackWakeDone x_s s
  | .odeccPoll x_s n => Sys2Proof.Machine.execOdeccPoll x_s n s
  | .hbmPatrolScrub x_s ecc => Sys2Proof.Machine.execHbmPatrolScrub x_s ecc s
  | .aesFrame a => Sys2Proof.Machine.execAesFrame a s
  | .aesSideArrive a st ecc hw => Sys2Proof.Machine.execAesSideArrive a st ecc hw s
  | .aesFeedArrive a ch ecc => Sys2Proof.Machine.execAesFeedArrive a ch ecc s
  | .aesRampEnd a ch => Sys2Proof.Machine.execAesRampEnd a ch s
  | .aesTaperEnd a ch => Sys2Proof.Machine.execAesTaperEnd a ch s
  | .refWindow ref ppm16 => Sys2Proof.Machine.execRefWindow ref ppm16 s
  | .refAbsentTimeout ref => Sys2Proof.Machine.execRefAbsentTimeout ref s
  | .refRateBroadcast ref => Sys2Proof.Machine.execRefRateBroadcast ref s
  | .dowelFlitCrcErr d again => Sys2Proof.Machine.execDowelFlitCrcErr d again s
  | .dowelRetrainDone d ok => Sys2Proof.Machine.execDowelRetrainDone d ok s
  | .dtFlitReceive l f => Sys2Proof.Machine.execDtFlitReceive l f s
  | .dtRetrain l => Sys2Proof.Machine.execDtRetrain l s
  | .dtRetrainDone l lanes => Sys2Proof.Machine.execDtRetrainDone l lanes s
  | .dtTrainDone l lanes => Sys2Proof.Machine.execDtTrainDone l lanes s
  | .dtHelloTimer l => Sys2Proof.Machine.execDtHelloTimer l s
  | .dtNarrow l => Sys2Proof.Machine.execDtNarrow l s
  | .dtWidenDone l => Sys2Proof.Machine.execDtWidenDone l s
  | .read l => Sys2Proof.Machine.execRead l s
  | .data l => Sys2Proof.Machine.execData l s
  | .fenced l => Sys2Proof.Machine.execFenced l s
  | .refusedMsg l => Sys2Proof.Machine.execRefusedMsg l s
  | .write l => Sys2Proof.Machine.execWrite l s
  | .hello l => Sys2Proof.Machine.execHello l s
  | .prepare l => Sys2Proof.Machine.execPrepare l s
  | .ack l => Sys2Proof.Machine.execAck l s
  | .commit l => Sys2Proof.Machine.execCommit l s
  | .timeReq l => Sys2Proof.Machine.execTimeReq l s
  | .timeResp l => Sys2Proof.Machine.execTimeResp l s
  | .notice l => Sys2Proof.Machine.execNotice l s
  | .remoteReadTimeout tag => Sys2Proof.Machine.execRemoteReadTimeout tag s
  | .joinQuietExpire => Sys2Proof.Machine.execJoinQuietExpire s
  | .joinAckTimeout => Sys2Proof.Machine.execJoinAckTimeout s
  | .joinCommitTimeout => Sys2Proof.Machine.execJoinCommitTimeout s
  | .joinHelloLoss member => Sys2Proof.Machine.execJoinHelloLoss member s
  | .timeMeasureTimer => Sys2Proof.Machine.execTimeMeasureTimer s
  | .faultIrqTimer => Sys2Proof.Machine.execFaultIrqTimer s
  | .pilotTick => Sys2Proof.Machine.execPilotTick s
  | .bringupStageEnd stage unit ok info marked => Sys2Proof.Machine.execBringupStageEnd stage unit ok info marked s
  | .perstDeassert port => Sys2Proof.Machine.execPerstDeassert port s
  | .pcieLinkUp port => Sys2Proof.Machine.execPcieLinkUp port s
  | .completionTimeout kind idx => Sys2Proof.Machine.execCompletionTimeout kind idx s
  | .configWrite port fn ctl vfEn numVfs => Sys2Proof.Machine.execConfigWrite port fn ctl vfEn numVfs s
  | .msixVectorUnmask port fn w => Sys2Proof.Machine.execMsixVectorUnmask port fn w s
  | .refEdgesPresent ref => Sys2Proof.Machine.execRefEdgesPresent ref s

end Sys2Proof.Machine
end

