-- ==== Sys2Proof/Safety.lean ====
section
/-!
DEFINITION. Sys2Proof/Safety.lean: what counts as a safe run: no step of it ends in a fault or a refusal.
-/

namespace Sys2Proof.Safety
open Sys2Proof Sys2Proof.Machine

/-- A state whose step answers a next state. -/
def Steps (s : State) : Prop := ∃ t, step s = .next t

/-- `n` steps from `s`; none where one of them stops. -/
def run : Nat → State → Option State
  | 0, s => some s
  | n + 1, s =>
    match step s with
    | .next t => run n t
    | .fault _ => none
    | .refused _ => none

/-- `n` steps from `s` are safe. -/
def Safe (n : Nat) (s : State) : Prop := ∃ t, run n s = some t

/-- What every command keeps of the part: device and host memory in canonical form; the counters a table of numbers of 64 bits (18 R420), the
registers a table, keys rising; the fault log at most 1,024 entries (18 R416). -/
structure Good (p : Part) : Prop where
  mem : p.mem.wf = true
  regs : Tab.wf p.regs = true
  ctrs : Tab.wf p.ctrs = true
  sat : ∀ e ∈ p.ctrs, e.2 < 2 ^ 64
  flog : Tab.wf p.flog.entries = true
  slots : ∀ e ∈ p.flog.entries, e.1 < 1024

/-- The part after a command whose own effect made `q` of `p`: what waited and is free to go goes on (08 R187, R190, R197), contexts whose
control access led nowhere (01 R24) or whose ring was found full (12 R275) are faulted, and the Cabinet decisions that fall due are taken
(11 R252). -/
def after (p q : Part) : Part := p.react q.proceed.settle

/-- Nothing falls due between `p` and `q`: nothing that waits in `q` is free to go, no control access of `q` led nowhere, no ring of it was found
full, and each hold that is due in `q` was due before in the same way. -/
def Calm (p q : Part) : Prop :=
  q.proceed = q ∧ (∀ e ∈ q.ctxs, e.2.bad = none) ∧ (∀ e ∈ q.hif.cq, e.2.full = false) ∧
    ∀ e ∈ q.holds, q.due (e.1 / 32) (e.1 % 32) = true →
      p.due (e.1 / 32) (e.1 % 32) = true ∧ p.holdOut (e.1 / 32) (e.1 % 32) = q.holdOut (e.1 / 32) (e.1 % 32)

/-- An access of BAR0 offset `off` at a port reaches register `r`: the port's link is up, no LEAVE holds the window, and a table lists the
offset in a window that is up. Bench windows name the physical die behind the index. -/
structure Served (p : Part) (port off : Nat) (r : RegId) : Prop where
  link : p.portUp port = true
  free : p.heldOff off = false
  here : p.regHere off = some r
  up : p.offUp off = true

/-- The image of register `r` after a write of the whole of it with `v`: its RW fields from `v`, every other bit as before. -/
def imageOf (p : Part) (r : RegId) (v : Nat) : Nat := p.old r - (p.old r &&& (regRow r.name).rw) + (v &&& (regRow r.name).rw)

/-- No field of such a write carries a reserved encoding. -/
def Plain (p : Part) (r : RegId) (v : Nat) : Prop := (fieldRanges r.name).any (reservedIn (2 ^ 64 - 1) (imageOf p r v)) = false

/-- The part once register `r` holds a whole write of `v`: a staged half of a paired register is discarded with it (00 R12). -/
def written (p : Part) (port off : Nat) (r : RegId) (v : Nat) : Part :=
  let u := if paired r.name then p.unstage port off else p
  u.putImage r (imageOf u r v)

/-- The next state in which the part is `q` and the queue as it was. -/
def becomes (s : State) (q : Part) : Host.Outcome State Fault Refusal := .next { s with part := q }

/-- The next state of a command whose own effect makes `q` of the part. -/
def settlesTo (s : State) (q : Part) : Host.Outcome State Fault Refusal := .next { s with part := after s.part q }

/-- Work `m` of `w` on the machine `s` ends with answer `a` and leaves it as `t`. -/
def Answers {α : Type} (m : Rd α) (w : Who) (s : RS) (a : α) (t : RS) : Prop := (m w).run s = (.ok a, t)

/-- Command `i` issues record (j, r) on class `cls`, the engine reading its task by `read`: where the Jig picks the record for engine `e`, its
stopped task resumes there (10 R238), or the task that its descriptor spells is placed with its declared ranges and its wait. What came early
of its remote reads is forgotten. -/
def TakesTask (s : State) (j r : Nat) (st : RdStat) (hw : Cells) (cls : Cls) (read : Nat → Nat → Rd Task) (i : Instr) : Prop :=
  ∀ (x : Job) (y : Rec) (e : Nat), s.part.liveRec j r = some (x, y) → s.part.pick x.ctx x.cab cls = some (j, r, e) →
    let id := s.part.jig.nextTask + 1
    let key := earlyKey (recKey j r)
    let w : Who := ⟨x.ctx, x.cab, some (cls, e), key, r, x.ring⟩
    (∀ t, s.part.stoppedTask j r = some t → exec i s = settlesTo s (s.part.resumeTask x cls e t)) ∧
    ∀ t rs wt t1 t2 t3, s.part.stoppedTask j r = none → Answers (read e y.img) w ⟨s.part.hostSees hw, .clean, st⟩ t t1 →
      Answers (Rd.writeList y.img) w t1 rs t2 → Answers (Rd.armWait y.img) w t2 wt t3 →
      let p : Part := { t3.p with jig := { t3.p.jig with nextTask := id, nextIssue := t3.p.jig.nextIssue + 1 } }
      exec i s = settlesTo s ((p.install x cls e { t with
        id := id, job := j, rix := r, ctx := x.ctx, cab := x.cab, img := y.img, wait := wt, toReg := rs ++ t.toReg
        order := t3.p.jig.nextIssue }).forget key)

/-- Commands that neither store to memory nor post, nor touch contexts, jobs, streams and Gangs: reads, timers, clocks, link upkeep. -/
def Quiet (i : Instr) : Prop :=
  match i with
  | .badSizeAccess _ _ _ _ => True
  | .counterWindowWrite _ _ _ _ => True
  | .pwrMeasRead _ _ => True
  | .randProbeGo _ => True
  | .randProbeDone => True
  | .hallmarkCommitDone => True
  | .smbReadPkgIdent => True
  | .smbReadBootStatus => True
  | .smbReadBringupStatus => True
  | .smbReadPwrMeas => True
  | .smbReadPwrEnergy => True
  | .smbReadThermStatus => True
  | .smbReadDieTemps => True
  | .smbReadStackTemps => True
  | .smbNack _ _ => True
  | .sweepDue _ => True
  | .watchRound _ => True
  | .returnLinePoll _ => True
  | .msixModTimer _ => True
  | .msixVectorUnmask _ _ _ => True
  | .perstDeassert _ => True
  | .pcieLinkUp _ => True
  | .configWrite _ _ _ _ _ => True
  | .faultIrqTimer => True
  | .dowelFlitCrcErr _ _ => True
  | .drainResponse _ => True
  | .dtHelloTimer _ => True
  | .dtNarrow _ => True
  | .dtWidenDone _ => True
  | .pwrMeasUpdate _ _ _ => True
  | .blockClockOff _ _ => True
  | .pllOff _ => True
  | .chestClockOff _ => True
  | _ => False

/-- A command that keeps the supply within the absolute maximum of 66 V (16 R367): the one kind that can stop the machine does not. -/
def WithinRatings (i : Instr) : Prop :=
  match i with
  | .powerOnReset mv _ _ => mv ≤ 66000
  | .overVoltage mv => mv ≤ 66000
  | _ => True

end Sys2Proof.Safety
end

