-- ==== Sys2Proof/Certificates/Slice0/Obligations.lean ====
section
/-!
DEFINITION. Sys2Proof/Certificates/Slice0/Obligations.lean: the statements for the provers. `after` and `Served` stand in Safety.lean.
-/

open Sys2Proof Sys2Proof.Machine Sys2Proof.Safety

/-- REG_WRITE of a register that only stores: its RW fields take the bits written, every other bit keeps its value, and nothing else
changes (00 R10, R11, 19 R422). -/
def Obligations.RegisterWriteStoresItsFields : Prop :=
  ∀ (s : State) (port off : Nat) (h : Half) (v : Reg) (r : RegId), Served s.part port off r →
    r.name ∈ [.probeKeyLo, .probeKeyHi, .probeCtrLo, .probeCtrHi, .thermCtl, .bootHostAddr, .svcFwAddr, .joinId, .joinTag, .schedCtl, .watchCtl,
      .benchPwrCtl, .gangFeedCtl, .streamCtl, .benchCtl, .stallCtl, .hbmCtl, .chestCtl, .chestArg0, .chestArg1, .dtCtl, .framePwrCtl] →
    s.part.carriesReserved ⟨r, halfMask h, halfData h v.toNat, 0, [], []⟩ = false →
    exec (.regWrite port off h v) s = .next { s with part := after s.part (s.part.putImage r
      (s.part.old r - (s.part.old r &&& (halfMask h &&& (regRow r.name).rw)) + (halfData h v.toNat &&& (halfMask h &&& (regRow r.name).rw)))) }

/-- The low half of a register whose high half commits the pair is staged, and changes nothing that the part acts on (00 R12); the high half
written next through the same port acts as one write of the whole register. STAGED_HALF_WRITE, REG_WRITE. -/
def Obligations.StagedHalvesCommitTogether : Prop :=
  ∀ (s : State) (port off : Nat) (v : Reg) (r : RegId), Served s.part port off r → paired r.name = true →
    exec (.stagedHalfWrite port off v) s = .next { s with part := after s.part (s.part.stage port off v.toNat) } ∧
    (s.part.stage port off v.toNat).stagedHalf port off = some (v.toNat % 2 ^ 32) ∧
    (s.part.stage port off v.toNat).regs = s.part.regs ∧
    ∀ lo, lo < 2 ^ 32 → s.part.stagedHalf port off = some lo →
      exec (.regWrite port off .hi v) s = exec (.regWrite port off .full (BitVec.ofNat 64 (lo + v.toNat % 2 ^ 32 * 2 ^ 32))) s

/-- A write that carries a reserved encoding leaves that field at its value, acts on the other fields, and counts one bad access (00 R14).
REG_WRITE. -/
def Obligations.ReservedEncodingKeepsItsField : Prop :=
  ∀ (s : State) (port off : Nat) (h : Half) (v : Reg) (r : RegId), Served s.part port off r →
    r.name ∈ [.thermCtl, .schedCtl, .watchCtl, .benchPwrCtl, .gangFeedCtl, .streamCtl, .benchCtl, .stallCtl, .hbmCtl, .chestCtl, .framePwrCtl] →
    ∀ a : Acc, a = ⟨r, halfMask h, halfData h v.toNat, 0, [], []⟩ → s.part.carriesReserved a = true →
      exec (.regWrite port off h v) s = .next { s with part := after s.part (s.part.putImage r
        (((fieldRanges r.name).filter (reservedIn a.mask (s.part.raw a))).foldl
          (fun x f => setBits x f.1 f.2.1 (bits (s.part.old r) f.1 f.2.1)) (s.part.raw a))).badAccess }

/-- Accesses that are discarded (00 R12, 01 R23, 18 R420, 19 R423): one of another size or alignment is answered with all bits set; within BAR0
of a physical function an offset that no table lists reads 0 and discards writes; so does a write of a counter window. Each is counted
once. BAD_SIZE_ACCESS, UNMAPPED_ACCESS, COUNTER_WINDOW_WRITE. -/
def Obligations.BadAccessesAreDiscardedAndCounted : Prop :=
  ∀ (s : State) (port off : Nat), s.part.portUp port = true →
    (∀ size, ¬(size = 4 ∧ off % 4 = 0) → ¬(size = 8 ∧ off % 8 = 0) →
      exec (.badSizeAccess port off size true) s = .next { s with part := s.part.bump (pkgCtr 0 0 0) 1 } ∧
      exec (.badSizeAccess port off size false) s =
        .next { s with part := { s.part.bump (pkgCtr 0 0 0) 1 with hif := { s.part.hif with resp := some (256 ^ size - 1) } } }) ∧
    ∀ h : Half, s.part.heldOff off = false → off < 0x4000000 → regAt off = none →
      (inCounterWindow off = false →
        exec (.unmappedAccess port off h true) s = .next { s with part := s.part.bump (pkgCtr 0 0 0) 1 } ∧
        exec (.unmappedAccess port off h false) s =
          .next { s with part := { s.part.bump (pkgCtr 0 0 0) 1 with hif := { s.part.hif with resp := some 0 } } }) ∧
      (inCounterWindow off = true → ∀ v : Reg,
        exec (.counterWindowWrite port off h v) s = .next { s with part := s.part.bump (pkgCtr 0 0 0) 1 })

/-- A write of 1 clears a W1C bit unless the bit's event comes in the same cycle, a write of 0 and every other field change nothing
(18 R419). W1C_CLEAR. -/
def Obligations.WriteOneClearsUnlessItsEventComes : Prop :=
  ∀ (s : State) (port off : Nat) (h : Half) (v ev : Reg) (r : RegId), Served s.part port off r →
    r.name ∈ [.thermStatus, .svcDieStatus, .fwSlotStatus, .hallmarkStatus, .joinStatus, .faultStatus, .gangFeedStatus, .benchStatus, .stackStatus,
      .chestStatus, .chestCmdStatus, .aesPortStatus, .aesRefStatus, .cupboardStatus, .dtLinkStatus] →
    exec (.w1cClear port off h v ev) s = .next { s with part := after s.part (s.part.putImage r
      ((s.part.old r - (s.part.old r &&& (halfMask h &&& halfData h v.toNat &&& (regRow r.name).w1c))) ||| (ev.toNat &&& (regRow r.name).w1c))) }

/-- Reads (16 R380, R391, 19 R424, Tables 16-9, 19-6): the read of PWR_MEAS answers its value and restarts PEAK, the read of GANG_FEED_STATUS
restarts FIFO_MIN, the read of the low half of DEV_TIME or of a counter latches the high half; an SMBus read answers while PWR_OK is
asserted, else it is not acknowledged, as are writes and other command codes, and changes nothing but the answer. PWR_MEAS_READ,
GANG_FEED_STATUS_READ, LOW_HALF_READ, SMB_READ_PKG_IDENT to SMB_READ_STACK_TEMPS, SMB_NACK. -/
def Obligations.ReadsAnswerAndSomeRestart : Prop :=
  ∀ s : State,
    let answer := fun (v : Option Nat) => (Host.Outcome.next { s with part := { s.part with hif := { s.part.hif with resp := v } } } :
      Host.Outcome State Fault Refusal)
    (∀ (port : Nat) (h : Half), s.part.portUp port = true →
      (exec (.pwrMeasRead port h) s = .next { s with part :=
        ({ s.part with hif := { s.part.hif with resp := some (s.part.readHalf port (regOff .pwrMeas 0 0) h) } } : Part).setRf .pwrMeas 0 0 48 16 0 }) ∧
      (∀ g, g < 32 → s.part.heldOff (Part.feedStatusOff g) = false → s.part.benchUp (s.part.phys (g / 4)) = true →
        exec (.gangFeedStatusRead port g h) s = .next { s with part := { s.part with
          hif := { s.part.hif with resp := some (s.part.readHalf port (Part.feedStatusOff g) h) }
          gangs := Tab.upd g (fun x => { x with fifoMin := x.feed.fifo.length }) s.part.gangs } }) ∧
      ∀ off, s.part.heldOff off = false → inCounterWindow off = true ∨ off = regOff .devTime 0 0 →
        exec (.lowHalfRead port off) s = .next { s with part := { s.part with hif := { s.part.hif with
          resp := some (s.part.bar0Value port off % 2 ^ 32)
          latch := Tab.put port (off, s.part.bar0Value port off / 2 ^ 32) s.part.hif.latch } } }) ∧
    (s.part.power.pwrOk = true →
      exec .smbReadPkgIdent s = answer (some (s.part.rv .pkgIdent 0 0)) ∧ exec .smbReadBootStatus s = answer (some (s.part.rv .bootStatus 0 0)) ∧
      exec .smbReadBringupStatus s = answer (some (s.part.rv .bringupStatus 0 0)) ∧ exec .smbReadPwrMeas s = answer (some (s.part.rv .pwrMeas 0 0)) ∧
      exec .smbReadPwrEnergy s = answer (some (s.part.rv .pwrEnergy 0 0)) ∧ exec .smbReadThermStatus s = answer (some (s.part.rv .thermStatus 0 0)) ∧
      exec .smbReadDieTemps s = answer (some (leNat ((List.range 12).map fun k => BitVec.ofNat 8 (s.part.rf .temp 0 k 0 8)))) ∧
      exec .smbReadStackTemps s = answer (some (leNat ((List.range 12).map fun k => BitVec.ofNat 8 (s.part.rf .stackStatus (k / 3) (k % 3) 24 8))))) ∧
    (s.part.power.pwrOk = false → ∀ c ∈ [Instr.smbReadPkgIdent, .smbReadBootStatus, .smbReadBringupStatus, .smbReadPwrMeas, .smbReadPwrEnergy,
      .smbReadThermStatus, .smbReadDieTemps, .smbReadStackTemps], exec c s = answer none) ∧
    ∀ code write, write = true ∨ 8 ≤ code → exec (.smbNack code write) s = answer none
/-- RAND_PROBE_GO latches key and counter and clears DONE; RAND_PROBE_DONE stores G of the latched key and counter and sets DONE
(03 R65, R66). -/
def Obligations.RandomProbeStoresG : Prop :=
  ∀ (s : State) (port : Nat),
    (Served s.part port (regOff .probeCtl 0 0) ⟨.probeCtl, 0, 0⟩ →
      exec (.randProbeGo port) s = .next { s with part := { s.part.setRb .probeCtl 0 0 1 false with probe := {
        key := s.part.rv .probeKeyLo 0 0 + s.part.rv .probeKeyHi 0 0 * 2 ^ 64
        ctr := s.part.rv .probeCtrLo 0 0 + s.part.rv .probeCtrHi 0 0 * 2 ^ 64
        busy := true } } }) ∧
    (s.part.probe.busy = true →
      exec .randProbeDone s = .next { s with part :=
        { ((s.part.setReg .probeOutLo 0 0 (bits (Rand.G s.part.probe.key s.part.probe.ctr) 0 64)).setReg .probeOutHi 0 0
            (bits (Rand.G s.part.probe.key s.part.probe.ctr) 64 64)).setRb .probeCtl 0 0 1 true with
          probe := { s.part.probe with busy := false } } })

/-- The Hallmark area (17 R406, R407, Table 17-5): a write of the window reaches the shadow unless LOCK is set or its page is being committed,
COMMIT starts on the page that the same write names, its end stores the page, counts the commit and sets DONE, and LOCK refuses the rest.
HALLMARK_SHADOW_WRITE, HALLMARK_COMMIT, HALLMARK_COMMIT_DONE, HALLMARK_LOCK. -/
def Obligations.HallmarkCommitsItsShadow : Prop :=
  ∀ (s : State) (port : Nat),
    (∀ (i : Nat) (h : Half) (v : Reg), i < 768 → Served s.part port (regOff .hallmarkShadow 0 i) ⟨.hallmarkShadow, 0, i⟩ →
      let sh := match h with
        | .full => Cells.write s.part.mark.shadow (8 * i) (leBytes 8 v.toNat)
        | .lo => Cells.write s.part.mark.shadow (8 * i) (leBytes 4 v.toNat)
        | .hi => Cells.write s.part.mark.shadow (8 * i + 4) (leBytes 4 v.toNat)
      let q : Part := { s.part with mark := { s.part.mark with shadow := sh } }
      let refused := s.part.mark.lock = true ∨ s.part.mark.busy = some (i / 32)
      exec (.hallmarkShadowWrite port (regOff .hallmarkShadow 0 i) h v) s = .next { s with part := if refused then s.part.badAccess else q }) ∧
    (Served s.part port (regOff .hallmarkCtl 0 0) ⟨.hallmarkCtl, 0, 0⟩ →
      (∀ v : Reg, let x := (forceBit .full v 8 true).toNat
        Plain s.part ⟨.hallmarkCtl, 0, 0⟩ x → x.testBit 16 = false → s.part.mark.lock = false → s.part.mark.busy = none →
        exec (.hallmarkCommit port .full v) s = .next { s with part :=
          { (s.part.putImage ⟨.hallmarkCtl, 0, 0⟩ (imageOf s.part ⟨.hallmarkCtl, 0, 0⟩ x)).setRb .hallmarkStatus 0 0 0 true with
            mark := { s.part.mark with busy := some (bits x 0 5) } } }) ∧
      (s.part.rf .hallmarkCtl 0 0 0 5 < 24 →
        exec (.hallmarkLock port) s = .next { s with part := { s.part with mark := { s.part.mark with lock := true } } })) ∧
    ∀ g, s.part.mark.busy = some g →
      let n := Tab.getD s.part.mark.wear g 0 + 1
      let nv := Cells.write s.part.mark.nv (256 * g) (Cells.read s.part.mark.shadow (256 * g) 256)
      let p : Part := { s.part with mark := { s.part.mark with nv := nv, wear := Tab.put g n s.part.mark.wear, busy := none } }
      let q := (p.setRb .hallmarkStatus 0 0 0 false).setRb .hallmarkStatus 0 0 1 true
      exec .hallmarkCommitDone s =
        .next { s with part := (if 100000 < n then q.setRb .hallmarkStatus 0 0 2 true else q).bump (pkgCtr 0 1 5) 1 }

/-- Firmware images (17 R405, 16 R386): FW_SLOT_CTL.GO takes the image at SVC_FW_ADDR, and the end writes the slot or reports why not;
BOOT_HOST_CTL.GO asks for an image by DMA, and its end starts the firmware from it or reports why not. FW_SLOT_GO, FW_SLOT_DONE,
BOOT_HOST_GO, BOOT_HOST_LOAD_DONE. -/
def Obligations.FirmwareImagesAreTakenOrReported : Prop :=
  ∀ (s : State) (port : Nat),
    (∀ v : Reg, Served s.part port (regOff .fwSlotCtl 0 0) ⟨.fwSlotCtl, 0, 0⟩ → s.part.svc.slotGo = none →
      let x := (forceBit .full v 63 true).toNat
      let p := s.part.putImage ⟨.fwSlotCtl, 0, 0⟩ (imageOf s.part ⟨.fwSlotCtl, 0, 0⟩ x)
      let bs := p.svcImage
      let code := if p.rf .bootStatus 0 0 16 2 = p.rf .fwSlotCtl 0 0 0 1 + 1 then 7 else if Part.imageGood bs then 0 else 5
      exec (.fwSlotGo port .full v) s = .next { s with part :=
        { p.setRb .fwSlotStatus 0 0 0 true with svc := { p.svc with slotGo := some (p.rf .fwSlotCtl 0 0 0 1, code, imgMajor bs, imgMinor bs) } } }) ∧
    (∀ k code major minor ok, s.part.svc.slotGo = some (k, code, major, minor) →
      let slots := if code = 0 then setAt s.part.svc.slots k { head := true, crc := ok, major := major, minor := minor } else s.part.svc.slots
      let p : Part := { s.part with svc := { s.part.svc with slotGo := none, slots := slots } }
      exec (.fwSlotDone ok) s =
        .next { s with part := p.setReg .fwSlotStatus 0 0 (2 + (if code = 0 ∧ ok = false then 8 else code) * 2 ^ 8) }) ∧
    (∀ v : Reg, Served s.part port (regOff .bootHostCtl 0 0) ⟨.bootHostCtl, 0, 0⟩ →
      s.part.rf .pkgIdent 0 0 32 8 = 0 → s.part.power.straps % 4 ≠ 0 →
      let p := s.part.unstage port (regOff .bootHostCtl 0 0)
      let q := p.putImage ⟨.bootHostCtl, 0, 0⟩ (imageOf p ⟨.bootHostCtl, 0, 0⟩ (forceBit .full v 63 true).toNat)
      exec (.bootHostGo port .full v) s = .next { s with part := { q with svc := { q.svc with hostLoad := true } } }) ∧
    ∀ st hw, s.part.svc.hostLoad = true →
      let p := ({ s.part with svc := { s.part.svc with hostLoad := false } } : Part).hostSees hw
      let bs := p.mem.hostRead (p.rv .bootHostAddr 0 0 / 4096 * 4096) (p.rf .bootHostCtl 0 0 0 24)
      (s.part.masters 0 = false → exec (.bootHostLoadDone st hw) s = .next { s with part := (p.bumpFn 0 1).setRf .bootStatus 0 0 24 8 2 }) ∧
      (s.part.masters 0 = true → st ≠ .ok → exec (.bootHostLoadDone st hw) s =
        .next { s with part := (p.hostReadErr 0 st).setRf .bootStatus 0 0 24 8 2 }) ∧
      (s.part.masters 0 = true → st = .ok →
        let err : Nat := if imgHead bs (p.rf .bootHostCtl 0 0 0 24) = false ∨ imgMajor bs = 0 then 3 else if imgCrc bs = false then 4 else 0
        exec (.bootHostLoadDone st hw) s =
          .next { s with part := if err = 0 then p.fwStart 3 (imgMajor bs) (imgMinor bs) false else p.setRf .bootStatus 0 0 24 8 err })

/-- A service command that may run (17 R395 to R399, Table 17-3): SVC_DIE_CTL takes its fields, BUSY is set, and the die shows LEAVING, TESTING,
UPDATING or REJOINING. `p` is the part once the register holds the write. LEAVE, TEST, UPDATE, REJOIN. -/
def Obligations.ServiceCommandsBegin : Prop :=
  ∀ (s : State) (port : Nat) (v : Reg), Served s.part port (regOff .svcDieCtl 0 0) ⟨.svcDieCtl, 0, 0⟩ → s.part.svcBusy = false →
    ∀ op, op ∈ [1, 2, 3, 4] →
      let x := (forceOp .full v 8 4 op).toNat
      let u := s.part.unstage port (regOff .svcDieCtl 0 0)
      let p := u.putImage ⟨.svcDieCtl, 0, 0⟩ (imageOf u ⟨.svcDieCtl, 0, 0⟩ x)
      let k := p.rf .svcDieCtl 0 0 0 3
      let m := p.rf .svcDieCtl 0 0 4 3
      let hold := if op = 1 then some (p.logi k) else none
      let q : Part := { p.setRb .svcDieStatus 0 0 0 true with svc := { p.svc with cmd := some ⟨op, k, m, 0⟩, holding := hold } }
      let c := if op = 1 then Instr.leave port .full v else if op = 2 then .test port .full v else if op = 3 then .update port .full v
        else .rejoin port .full v
      p.rf .svcDieCtl 0 0 8 4 = op ∧
      (p.svcResult op k m = 0 →
        (op ≠ 2 → exec c s = .next { s with part := q.setSvcState k (if op = 1 then 1 else if op = 3 then 4 else 5) }) ∧
        (op = 2 → exec c s = .next { s with part := (q.setSvcState k 3).railsUp k }))

/-- A service command ends (17 R396 to R399, R426): the status shows DONE and its result; after a LEAVE the stand-in answers under the die's index and
the die is OUT, where no write to it is in flight; after a TEST without a failure its store is zero and the die has passed; after a REJOIN its
counters are zero and it is IN_SERVICE. No access is held here. SVC_CMD_DONE. -/
def Obligations.ServiceCommandsEnd : Prop :=
  ∀ (s : State) (x : SvcCmd), s.part.svc.cmd = some x → s.part.hif.held = [] → s.part.svcState x.die ≠ 6 →
    let p : Part := { s.part with svc := { s.part.svc with cmd := none, holding := none }, hif := { s.part.hif with held := [] } }
    let done := fun (q : Part) (code : Nat) => after s.part (q.setReg .svcDieStatus 0 0 (2 + code * 2 ^ 8))
    (x.result ≠ 0 → x.op ≠ 1 → ∀ rows e g, exec (.svcCmdDone rows e g) s = .next { s with part := done p x.result }) ∧
    (x.result = 0 → x.op = 1 → s.part.writesAt x.die = false → ∀ rows e g, exec (.svcCmdDone rows e g) s = .next { s with part := done (p.leaveSwap x.die x.standin) 0 }) ∧
    (x.result = 0 → x.op = 2 → exec (.svcCmdDone [] true true) s =
      .next { s with part := done { (p.zeroBench x.die).setSvcState x.die 2 with svc := { p.svc with passed := insNat x.die p.svc.passed } } 0 }) ∧
    (x.result = 0 → x.op = 3 → ∀ rows e g, exec (.svcCmdDone rows e g) s =
      .next { s with part := done (p.updateEnd x.die).2 (p.updateEnd x.die).1 }) ∧
    (x.result = 0 → x.op = 4 → ∀ rows e,
      let n := p.logi x.die
      let q : Part := { p with ctrs := Tab.keep (fun a _ => decide (a < 0x3000000 + n * 0x100000) || decide (0x3000000 + (n + 1) * 0x100000 ≤ a)) p.ctrs }
      exec (.svcCmdDone rows e true) s = .next { s with part := done ((q.setSvcState x.die 0).setRb .bringupStatus 0 0 (8 + x.die) true) 0 })


/-- Cabinets (11 R246, R252, R255, 17 R397, Table 11-5): a write that sets EN of a sound composition stores it and takes a decision, one that
R246 refuses is discarded and counted, EN clears where no hold occupies the Cabinet; SAVE starts the save of the resident hold; QUIESCE is
stored, and its end places what waits. `p` is the part once the register holds the write. CAB_EN_WRITE, SAVE, QUIESCE. -/
def Obligations.CabinetsOpenSaveAndQuiesce : Prop :=
  ∀ (s : State) (port b : Nat),
    (∀ v : Reg, Served s.part port (regOff .cabCtl 0 b) ⟨.cabCtl, 0, b⟩ →
      let u := s.part.unstage port (regOff .cabCtl 0 b)
      let refused := u.cabRefused b (bits (imageOf u ⟨.cabCtl, 0, b⟩ v.toNat) 32 12)
      (s.part.cabEn b = false → v.toNat.testBit 63 = true → s.part.ready = true →
        exec (.cabEnWrite port b .full v) s = settlesTo s
          (if refused = true then u.badAccess else (written s.part port (regOff .cabCtl 0 b) ⟨.cabCtl, 0, b⟩ v.toNat).decideCab b)) ∧
      (s.part.cabEn b = true → v.toNat.testBit 63 = false → s.part.occupant b = none →
        exec (.cabEnWrite port b .full v) s = settlesTo s (u.setRb .cabCtl 0 b 63 false))) ∧
    (Served s.part port (regOff .cabCmd 0 b) ⟨.cabCmd, 0, b⟩ →
      (∀ c, s.part.residentCtx b = some c → exec (.save port b) s = settlesTo s (s.part.startSave c b none)) ∧
      ∀ q : Bool,
        let p := written s.part port (regOff .cabCmd 0 b) ⟨.cabCmd, 0, b⟩ (2 * b2n q)
        exec (.quiesce port b q) s =
          settlesTo s (if s.part.rb .cabCmd 0 b 1 = true ∧ q = false then p.quiesceEnd b else p))

/-- Contexts (11 R249, R250, R251, R261, R262): EN set where R249 allows it creates the context; EN cleared tears it down with code 0x0415, its steps
7 and 8 end in EN 0, once its remote reads have drained; an invalidation keeps the cached entries as old ones until it ends. CTX_EN_SET, CTX_EN_CLEAR,
TEARDOWN_DONE, TRANS_INVAL, TRANS_INVAL_DONE. -/
def Obligations.ContextsBeginAndEnd : Prop :=
  ∀ (s : State) (port c : Nat),
    (∀ v : Reg, Served s.part port (regOff .ctxCtl 0 c) ⟨.ctxCtl, 0, c⟩ →
      let u := s.part.unstage port (regOff .ctxCtl 0 c)
      let image := imageOf u ⟨.ctxCtl, 0, c⟩
      (s.part.ctxEn c = false → let x := (forceBit .full v 63 true).toNat
        Plain s.part ⟨.ctxCtl, 0, c⟩ x → exec (.ctxEnSet port c .full v) s = settlesTo s
          (if u.ctxRefused c (image x) = true then u.badAccess
            else (written s.part port (regOff .ctxCtl 0 c) ⟨.ctxCtl, 0, c⟩ x).ctxCreate c)) ∧
      (s.part.ctxEn c = true → (s.part.ctx c).state = 0 → let x := (forceBit .full v 63 false).toNat
        Plain s.part ⟨.ctxCtl, 0, c⟩ x → bit (image x) 0 = s.part.rb .ctxCtl 0 c 0 → bits (image x) 16 8 = s.part.rf .ctxCtl 0 c 16 8 →
        let p := (u.setRf .ctxCtl 0 c 8 8 (bits (image x) 8 8)).ctxFault c ⟨0x0415, .none, 0, none, 0⟩
        exec (.ctxEnClear port c .full v) s = settlesTo s (p.setCtx c { p.ctx c with clearEn := true }))) ∧
    ((s.part.ctx c).state = 4 → (s.part.join.reads.any fun r => r.2.drain && r.2.msg.ctx == c) = false →
      let p : Part := { s.part with
        holds := s.part.holds.filter fun e => e.1 / 32 != c
        bench := { s.part.bench with redirects := s.part.bench.redirects.filter fun r => r.ctx != c }
        join := { s.part.join with reads := s.part.join.reads.filter fun r => r.2.msg.ctx != c } }
      let p := (p.gangs.filter fun e => e.2.loaded && e.2.ctx == c).foldl (fun p e => p.unbind e.1) p
      let x := s.part.ctx c
      let p := (p.setCtx c { p.ctx c with pendModels := [], ens := x.ens, seen := false, state := if x.clearEn then 0 else 5, clearEn := false }).bump
        (pkgCtr 3 c 15) 1
      let p := if x.clearEn then p.setRb .ctxCtl 0 c 63 false else p
      exec (.teardownDone c) s = settlesTo s ((s.part.heldCabs c).foldl Part.decideCab p).clearDeadCabs) ∧
    (Served s.part port (regOff .ctxTransInval 0 c) ⟨.ctxTransInval, 0, c⟩ →
      let x := s.part.ctx c
      exec (.transInval port c) s = becomes s
        ((s.part.setCtx c { x with old := x.trans.foldl (fun t e => Tab.put e.1 e.2 t) x.old, trans := [] }).setRb .ctxTransInval 0 c 1 true)) ∧
    exec (.transInvalDone c) s =
      becomes s ((s.part.setCtx c { s.part.ctx c with old := [] }).setRb .ctxTransInval 0 c 1 false)

/-- Rings (12 R284, R285): EN set where R285 allows it starts a ring with its counts at 0, otherwise the write is discarded and counted; EN of a
submission ring clears at any time, its shadow line is written (log entry 85: the model's choice) and the round in progress goes on without it; the
first ring of a function starts its watch loop at WATCH_MAX_NS; EN of a completion ring clears only out of use. SQ_EN_SET, SQ_EN_CLEAR, CQ_EN_SET,
CQ_EN_CLEAR. -/
def Obligations.RingsStartEmptyAndStop : Prop :=
  ∀ (s : State) (port r : Nat) (v : Reg),
    (Served s.part port (regOff .sqCfg 0 r) ⟨.sqCfg, 0, r⟩ →
      let u := s.part.unstage port (regOff .sqCfg 0 r)
      (s.part.sqEn r = false → let x := (forceBit .full v 63 true).toNat
        Plain s.part ⟨.sqCfg, 0, r⟩ x → exec (.sqEnSet port r .full v) s = settlesTo s
          (if u.sqRefused r (imageOf u ⟨.sqCfg, 0, r⟩ x) = true then u.badAccess else
            let p := written s.part port (regOff .sqCfg 0 r) ⟨.sqCfg, 0, r⟩ x
            let fn := p.fnOf (p.sqCtx r)
            (if p.ringsOf fn = [r] then p.setWatch fn { interval := p.rf .watchCtl 0 0 0 24 } else p).setSq r
              { prevJob := (s.part.sq r).prevJob })) ∧
      (s.part.sqEn r = true →
        let p := u.shadow r
        exec (.sqEnClear port r .full v) s = settlesTo s
          (((p.setRb .sqCfg 0 r 63 false).setSq r { p.sq r with dbRead := false, active := false }).endRound (s.part.fnOf (s.part.sqCtx r))))) ∧
    (Served s.part port (regOff .cqCfg 0 r) ⟨.cqCfg, 0, r⟩ →
      let u := s.part.unstage port (regOff .cqCfg 0 r)
      (s.part.rb .cqCfg 0 r 63 = false → let x := (forceBit .full v 63 true).toNat
        Plain s.part ⟨.cqCfg, 0, r⟩ x → exec (.cqEnSet port r .full v) s = settlesTo s
          (if u.cqRefused (imageOf u ⟨.cqCfg, 0, r⟩ x) = true then u.badAccess
            else (written s.part port (regOff .cqCfg 0 r) ⟨.cqCfg, 0, r⟩ x).setCq r {})) ∧
      (s.part.rb .cqCfg 0 r 63 = true → exec (.cqEnClear port r .full v) s = settlesTo s
        (if u.cqInUse r = true then u.badAccess else u.setRb .cqCfg 0 r 63 false)))

/-- Regions and arrival counters of a bench die (08 R193, R194, R198): EN set makes a region empty, a geometry beyond the store is refused;
EN cleared faults the contexts of tasks that name it; EN of a counter set from 0 zeroes its VALUE, a change of EN may end an armed wait on
it. Bench die `n` reaches the physical `die`. REGION_CFG_WRITE, ARRIVAL_CFG_WRITE. -/
def Obligations.RegionsAndArrivalCountersAreSetUp : Prop :=
  ∀ (s : State) (port n die i : Nat) (v : Reg),
    (Served s.part port (regOff .regionCfg n i) ⟨.regionCfg, die, i⟩ → Plain s.part ⟨.regionCfg, die, i⟩ v.toNat →
      let u := s.part.unstage port (regOff .regionCfg n i)
      let p := written s.part port (regOff .regionCfg n i) ⟨.regionCfg, die, i⟩ v.toNat
      (s.part.rb .regionCfg die i 63 = false → v.toNat.testBit 63 = true →
        exec (.regionCfgWrite port n i .full v) s = settlesTo s
          (if 262144 < bits v.toNat 0 18 + bits v.toNat 24 19 then u.badAccess else p.setRegion die i {})) ∧
      (s.part.rb .regionCfg die i 63 = true → v.toNat.testBit 63 = false →
        let q := u.regionEnd die i
        exec (.regionCfgWrite port n i .full v) s = settlesTo s
          ((q.putImage ⟨.regionCfg, die, i⟩ (imageOf u ⟨.regionCfg, die, i⟩ v.toNat)).regionStrms die i))) ∧
    (Served s.part port (regOff .arrivalCfg n i) ⟨.arrivalCfg, die, i⟩ →
      let p := written s.part port (regOff .arrivalCfg n i) ⟨.arrivalCfg, die, i⟩ v.toNat
      let was := s.part.rb .arrivalCfg die i 63
      exec (.arrivalCfgWrite port n i .full v) s = settlesTo s
        (if v.toNat.testBit 63 = was then p else (if was = true then p else p.setReg .arrivalValue die i 0).loosenWaits die i))

/-- Sectors of HBM (13 R293, R297, R298): a read past the Cupboard delivers the sector, poisoned where it is poisoned or its code cannot
correct it, which poisons it; a write of a whole sector stores its bytes and its poison and leaves every other byte, poison bit and
register. HBM_READ, HBM_WRITE. -/
def Obligations.SectorsReadAndWrite : Prop :=
  ∀ (s : State) (a : Nat), a % 32 = 0 → a < hbmEnd → s.part.stackOn (stackAt s.part.hbmMode a) = true →
    (s.part.stack (stackAt s.part.hbmMode a)).asleep = false →
    (∀ line, s.part.cupEn (stackAt s.part.hbmMode a / 3) = false →
      (s.part.mem.poisoned a = false →
        exec (.hbmRead a line .clean) s = becomes s (s.part.deliver (s.part.mem.read a 32, false)) ∧
        ∃ q : Part, exec (.hbmRead a line .uncorrectable) s = becomes s q ∧ q.mem.poisoned a = true ∧
          q.bench.rowOut = some (s.part.mem.read a 32, true) ∧ ∀ b, q.mem.get b = s.part.mem.get b) ∧
      (s.part.mem.poisoned a = true → ∀ ecc,
        exec (.hbmRead a line ecc) s = becomes s (s.part.deliver (s.part.mem.read a 32, true)))) ∧
    ∀ (data : List Byte) (poison : Bool), data.length = 32 →
      ∃ q : Part, exec (.hbmWrite a data poison .clean) s = becomes s q ∧ q.mem.poisoned a = poison ∧
        (∀ b, q.mem.get b = if a ≤ b ∧ b < a + 32 then data.getD (b - a) 0 else s.part.mem.get b) ∧
        (∀ u, u ≠ a → (u ∈ q.mem.poison ↔ u ∈ s.part.mem.poison)) ∧ q.mem.host = s.part.mem.host ∧ q.regs = s.part.regs ∧ q.ctrs = s.part.ctrs

/-- What stacks do in the background (13 R294, R295, R299, R301): a refresh changes nothing, an idle trained stack enters self-refresh where
HBM_CTL allows it, a wake that was asked for runs the queued requests in order and is counted, the count of on-die corrections is added,
and a scrub read that finds no error moves to the next sector, with empty tallies after the last. HBM_REFRESH, SELF_REFRESH_ENTER,
STACK_WAKE_DONE, ODECC_POLL, HBM_PATROL_SCRUB. -/
def Obligations.StacksRefreshSleepAndScrub : Prop :=
  ∀ (s : State) (k : Nat),
    let x := s.part.stack k
    (∀ bank, exec (.hbmRefresh k bank) s = becomes s s.part) ∧
    (s.part.trained k = true →
      (∀ n, exec (.odeccPoll k n) s = becomes s (s.part.bumpStack k 2 n)) ∧
      (s.part.rb .stackStatus (k / 3) (k % 3) 3 = false → x.asleep = false →
        (s.part.rf .hbmCtl (k / 3) 0 16 16 ≠ 0 → exec (.selfRefreshEnter k) s = becomes s (s.part.setStack k { x with asleep := true })) ∧
        exec (.hbmPatrolScrub k .clean) s = becomes s (s.part.setStack k { x with
          scrub := if x.scrub + 1 = sectorsPerStack then 0 else x.scrub + 1
          tally := if x.scrub + 1 = sectorsPerStack then [] else x.tally }))) ∧
    (x.asleep = true → x.waking = true →
      let p := (s.part.setStack k { x with asleep := false, waking := false, queue := [] }).bumpStack k 3 1
      exec (.stackWakeDone k) s = becomes s (x.queue.foldl Part.runHAcc p))

/-- A repair (13 R303, R304) is started on an offline stack while no other stack repairs. At its end the repaired candidates leave the log
and count, the stack reads zero without poison, and a failed test fails the stack. REPAIR, REPAIR_DONE. -/
def Obligations.RepairsEndWithAZeroStack : Prop :=
  ∀ (s : State) (port k : Nat),
    (Served s.part port (regOff .stackCtl (k / 3) (k % 3)) ⟨.stackCtl, k / 3, k % 3⟩ → s.part.rb .stackCtl (k / 3) (k % 3) 0 = false →
      (∀ j, j < 12 → s.part.rb .stackStatus (j / 3) (j % 3) 3 = false) →
      exec (.repair port k) s = becomes s (s.part.setRb .stackStatus (k / 3) (k % 3) 3 true)) ∧
    (s.part.rb .stackStatus (k / 3) (k % 3) 3 = true → ∀ (unspared failed : List Nat) (rest : Nat),
      let x := s.part.stack k
      let left := Part.candsLeft x unspared failed
      ∃ q : Part, exec (.repairDone k unspared failed rest) s =
          becomes s (if failed.eraseDups.length + rest ≤ 64 then q else q.stackFatal k 0x0850) ∧
        (∀ r, r ∈ left ↔ r ∈ failed ∨ (r ∈ x.cands ∧ r ∈ unspared)) ∧
        q.stack k = { x with
          cands := left, repaired := x.repaired + (x.cands.filter fun r => !left.contains r).length, tally := [] } ∧
        q.mem = s.part.mem.zeroStack s.part.hbmMode k ∧ q.rb .stackStatus (k / 3) (k % 3) 3 = false ∧
        (left ≠ [] → q.rb .stackStatus (k / 3) (k % 3) 4 = true) ∧
        ∀ a, a < hbmEnd → stackAt s.part.hbmMode a = k → (∀ o ∈ s.part.mem.opens, o.mode = s.part.hbmMode) → q.mem.get a = 0)

/-- HBM_MAP and the stacks' ONLINE bits (13 R290, R302): a change of MODE while no context is enabled leaves the content of HBM open and
every Cupboard empty; a stack that no enabled Cabinet names goes offline with its lines dropped while no Chest command runs, and comes
online unless it has failed or repairs. HBM_MAP_WRITE, STACK_OFFLINE, STACK_ONLINE. -/
def Obligations.MapAndStacksAreSwitched : Prop :=
  ∀ (s : State) (port : Nat),
    (∀ v : Reg, Served s.part port (regOff .hbmMap 0 0) ⟨.hbmMap, 0, 0⟩ → Plain s.part ⟨.hbmMap, 0, 0⟩ v.toNat →
      (List.range 256).any s.part.ctxEn = false →
      let p := written s.part port (regOff .hbmMap 0 0) ⟨.hbmMap, 0, 0⟩ v.toNat
      let m := p.mem.openRange 0 hbmEnd p.fresh p.hbmMode
      let q : Part := { p with
        mem := { m with poison := (m.poison.map (Part.movePoison s.part.hbmMode p.hbmMode)).foldl (fun l u => insNat u l) [] }
        fresh := p.fresh + 1
        cups := Tab.mapV (fun _ (x : Cupboard) => { x with lines := [] }) p.cups }
      p.hbmMode = bits v.toNat 0 2 ∧
      exec (.hbmMapWrite port .full v) s = becomes s (if p.hbmMode = s.part.hbmMode then p else q)) ∧
    ∀ k, Served s.part port (regOff .stackCtl (k / 3) (k % 3)) ⟨.stackCtl, k / 3, k % 3⟩ →
      (s.part.rb .stackCtl (k / 3) (k % 3) 0 = true → s.part.chestBusy = false →
        (∀ b, b < 32 → s.part.cabEn b = true → s.part.rb .cabCtl 0 b (32 + k) = false) →
        exec (.stackOffline port k) s =
          settlesTo s ((s.part.setRb .stackCtl (k / 3) (k % 3) 0 false).dropLines k)) ∧
      (s.part.rb .stackCtl (k / 3) (k % 3) 0 = false → s.part.rb .stackStatus (k / 3) (k % 3) 3 = false →
        s.part.rb .stackStatus (k / 3) (k % 3) 5 = false →
        exec (.stackOnline port k) s = settlesTo s (s.part.setRb .stackCtl (k / 3) (k % 3) 0 true))

/-- Cupboards (09 R219): FLUSH and EN written 0 drop every line and show BUSY until the flush ends; the fill of a line that was asked for
delivers its 64 bytes and keeps the line while the Cupboard is on. CUPBOARD_FLUSH, CUPBOARD_DISABLE, CUPBOARD_FLUSH_DONE,
CUPBOARD_FILL_DONE. -/
def Obligations.CupboardsFillAndFlush : Prop :=
  ∀ (s : State) (port m : Nat),
    (Served s.part port (regOff .cupboardCtl m 0) ⟨.cupboardCtl, m, 0⟩ →
      let drop := fun (p : Part) => (p.setCup m { p.cup m with lines := [] }).setRb .cupboardStatus m 0 2 true
      exec (.cupboardFlush port m) s =
        becomes s (drop (written s.part port (regOff .cupboardCtl m 0) ⟨.cupboardCtl, m, 0⟩ (b2n (s.part.cupEn m) + 2))) ∧
      exec (.cupboardDisable port m) s = becomes s (drop (written s.part port (regOff .cupboardCtl m 0) ⟨.cupboardCtl, m, 0⟩ 0))) ∧
    exec (.cupboardFlushDone m) s = becomes s (s.part.setRb .cupboardStatus m 0 2 false) ∧
    ∀ line, (s.part.cup m).fills.contains line = true → s.part.cupEn m = true → s.part.mem.poisoned (line * 64) = false →
      s.part.mem.poisoned (line * 64 + 32) = false →
      let x : Cupboard := { s.part.cup m with fills := (s.part.cup m).fills.filter (· != line) }
      let p := s.part.setCup m x
      exec (.cupboardFillDone m line .clean) s =
        becomes s ((p.setCup m (Part.cupTouch x line)).deliver (s.part.mem.read (line * 64) 32 ++ s.part.mem.read (line * 64 + 32) 32, false))

/-- A Chest command that may run (13 R314, R316, Table 13-13): CHEST_CMD takes its fields, BUSY is set, and the Chest does what OP says; a GO
before READY or while a command runs is discarded and counted. `p` is the part once the register holds the write. CHEST_LOAD,
CHEST_WRITE, DELETE, LIST. -/
def Obligations.ChestCommandsBegin : Prop :=
  ∀ (s : State) (port : Nat) (v : Reg), Served s.part port (regOff .chestCmd 0 0) ⟨.chestCmd, 0, 0⟩ →
    ∀ op, op ∈ [1, 2, 3, 4] → ∀ (cw : List CwRead) (fails : List Nat),
      let x := (forceOp .full v 0 3 op).toNat
      let p := (written s.part port (regOff .chestCmd 0 0) ⟨.chestCmd, 0, 0⟩ x).setRb .chestCmdStatus 0 0 0 true
      let id := bits v.toNat 8 32
      let c := if op = 1 then Instr.chestLoad port .full v cw else if op = 2 then .chestWrite port .full v fails
        else if op = 3 then .delete port .full v else .list port .full v
      (s.part.rb .chestStatus 0 0 0 = true → s.part.chestBusy = false →
        p.rf .chestCmd 0 0 0 3 = op ∧ p.rf .chestCmd 0 0 8 32 = id ∧
        exec c s = becomes s (p.withSpare fun p =>
          if op = 1 then p.chestLoad id cw else if op = 2 then p.chestWrite id fails else if op = 3 then p.chestDelete id else p.chestList)) ∧
      (s.part.rb .chestStatus 0 0 0 = false ∨ s.part.chestBusy = true →
        exec c s = becomes s (s.part.unstage port (regOff .chestCmd 0 0)).badAccess)

/-- What the commands find at once (13 R315 to R318): a LOAD or DELETE of an absent Drawer is NOT_FOUND, a LOAD to an address that is not
64-byte aligned is ADDR_BAD. At the end the status shows DONE with the result and count; a DELETE has removed the Drawer, a LOAD whose
destination was left alone has stored the Drawer's bytes, and a result that is not OK changes nothing else. CHEST_CMD_DONE. -/
def Obligations.ChestCommandsEnd : Prop :=
  (∀ (p : Part) (id : Nat), Tab.find id p.chest.drawers = none →
    (∀ cw, p.chestLoad id cw = p.setCmd { op := 1, id := id, result := 1 }) ∧ p.chestDelete id = p.setCmd { op := 3, id := id, result := 1 }) ∧
  (∀ (p : Part) (id : Nat) (d : Drawer), Tab.find id p.chest.drawers = some d →
    (∀ cw, p.rv .chestArg0 0 0 % 64 ≠ 0 → p.chestLoad id cw = p.setCmd { op := 1, id := id, result := 5 }) ∧
      p.chestDelete id = p.setCmd { op := 3, id := id, result := 0 }) ∧
  ∀ (s : State) (c : ChCmd), s.part.chest.cmd = some c →
    let p : Part := { s.part with chest := { s.part.chest with cmd := none } }
    let ends := fun (q : Part) => becomes s (q.setReg .chestCmdStatus 0 0 (2 + c.result * 2 ^ 8 + c.count * 2 ^ 32))
    (c.result ≠ 0 → exec .chestCmdDone s = ends p) ∧
    (c.result = 0 → c.op = 3 → c.commit = none → c.data = [] →
      exec .chestCmdDone s = ends (p.withSpare fun p =>
        ({ p with chest := { p.chest with drawers := Tab.del c.id p.chest.drawers } } : Part).reclaim.wearAll)) ∧
    (c.result = 0 → c.op = 1 → c.commit = none → c.data ≠ [] → (∀ e ∈ s.part.mem.cells, ¬(c.addr ≤ e.1 ∧ e.1 < c.addr + c.data.length)) →
      exec .chestCmdDone s = ends (c.chans.foldl (fun p ch => p.bumpCh ch 7 1)
        (p.withSpare fun p => (p.hbmStore c.addr c.data false).wearAll)))

/-- Channels of the Chest (13 R306, R312, R313, 17 R402, R403, 18 R413): a channel goes offline after a write of ONLINE = 0 while no command runs,
trains on a write of 1, and ends its training failed or with the devices found, ONLINE where there are any; a page's scrub falls due at once, or waits
for an offline channel's return. CHANNEL_OFFLINE, CHANNEL_OFFLINE_DONE, CHANNEL_ONLINE, CHANNEL_RETRAIN_DONE, RETENTION_SCRUB. -/
def Obligations.ChannelsLeaveAndReturn : Prop :=
  ∀ (s : State) (port ch : Nat),
    let x := s.part.chan ch
    (Served s.part port (regOff .chestChCtl (ch / 4) (ch % 4)) ⟨.chestChCtl, ch / 4, ch % 4⟩ →
      exec (.channelOffline port ch) s =
        becomes s (if s.part.chestBusy = true then s.part.badAccess else s.part.setChan ch { x with leaving := true }) ∧
      (s.part.frameUp (ch / 4) = true → exec (.channelOnline port ch) s =
        becomes s (s.part.setChan ch { x with training := true, leaving := false }))) ∧
    ((s.part.chan ch).leaving = true → exec (.channelOfflineDone ch) s =
      becomes s ((s.part.setChan ch { s.part.chan ch with leaving := false }).setRb .chestChCtl (ch / 4) (ch % 4) 0 false)) ∧
    ((s.part.chan ch).training = true → ∀ info replaced marked cw,
      exec (.channelRetrainDone ch false info replaced marked cw) s =
        becomes s ((s.part.setChan ch { s.part.chan ch with training := false }).chanFatal ch 0x0851)) ∧
    ((s.part.chan ch).training = true → (s.part.chan ch).overdue = [] → ∀ info replaced cw, replaced &&& Tab.getD s.part.chest.known ch 0 = 0 →
      ∃ q : Part, exec (.channelRetrainDone ch true info replaced [] cw) s = becomes s q ∧
        (q.chan ch).training = false ∧ (q.chan ch).targets = min (bits info 0 4) 8 ∧ (q.chan ch).large = bit info 64 ∧
        q.rf .chestChStatus (ch / 4) (ch % 4) 0 4 = min (bits info 0 4) 8 ∧ q.rb .chestChStatus (ch / 4) (ch % 4) 4 = false ∧
        q.rb .chestChCtl (ch / 4) (ch % 4) 0 = decide (bits info 0 4 ≠ 0) ∧ q.mem = s.part.mem) ∧
    ∀ page cw, s.part.validPages.contains (ch * 2 ^ 35 + page) = true → s.part.rb .chestStatus 0 0 0 = true →
      exec (.retentionScrub ch page cw) s = becomes s (if s.part.chOnline ch = true
        then s.part.withSpare fun p => p.scrubPage (ch * 2 ^ 35 + page) cw
        else s.part.setChan ch { s.part.chan ch with overdue := insNat (ch * 2 ^ 35 + page) (s.part.chan ch).overdue })

/-- AES3 ports and references (14 R325, R339): a write that sets EN of a disabled port enables it with both channels SILENT and their FIFOs
empty, or is discarded and counted where R339 refuses it; EN cleared lets every channel that is not SILENT taper before the port stops, a
port with both SILENT stops at once; EN of a reference is stored. AES_PORT_ENABLE, AES_PORT_DISABLE, AES_REF_ENABLE. -/
def Obligations.AudioPortsStartAndStop : Prop :=
  ∀ (s : State) (port a : Nat) (v : Reg),
    (Served s.part port (regOff .aesPortCtl (a / 8) (a % 8)) ⟨.aesPortCtl, a / 8, a % 8⟩ →
      let u := s.part.unstage port (regOff .aesPortCtl (a / 8) (a % 8))
      let x := imageOf u ⟨.aesPortCtl, a / 8, a % 8⟩ (forceBit .full v 63 true).toNat
      (s.part.aesEn a = false → Plain s.part ⟨.aesPortCtl, a / 8, a % 8⟩ (forceBit .full v 63 true).toNat →
        (u.aesRefused a x = true → exec (.aesPortEnable port a .full v) s = becomes s u.badAccess) ∧
        (u.aesRefused a x = false → ∃ q : Part, exec (.aesPortEnable port a .full v) s = becomes s q ∧ q.aesEn a = true ∧
          q.rv .aesPortCtl (a / 8) (a % 8) = x ∧ q.aesRunning a = true ∧
          (∀ ch, (q.aesCh a ch).st = 0 ∧ (q.aesCh a ch).fifo = []) ∧ (∀ b, b ≠ a → q.aesPort b = s.part.aesPort b) ∧ q.mem = s.part.mem)) ∧
      (s.part.aesEn a = true → ∃ q : Part, exec (.aesPortDisable port a .full v) s = becomes s q ∧ q.aesEn a = false ∧
        (∀ ch, (s.part.aesCh a ch).st = 1 ∨ (s.part.aesCh a ch).st = 2 → (q.aesCh a ch).st = 3) ∧
        ((s.part.aesCh a 0).st = 0 → (s.part.aesCh a 1).st = 0 → q.aesRunning a = false) ∧
        (∀ b, b ≠ a → q.aesPort b = s.part.aesPort b) ∧ q.mem = s.part.mem)) ∧
    ∀ ref, Served s.part port (regOff .aesRefCtl (refDie ref) 0) ⟨.aesRefCtl, refDie ref, 0⟩ →
      let x := (forceBit .full v 0 true).toNat
      exec (.aesRefEnable port ref .full v) s =
        becomes s (s.part.setReg .aesRefCtl (refDie ref) 0 (imageOf s.part ⟨.aesRefCtl, refDie ref, 0⟩ x))

/-- Reference inputs (14 R324, R325, Table 14-7): edges take an ABSENT enabled input to measuring, a window of 64 frames stores its rate and
locks within 200 ppm, an input without edges is ABSENT again, a rate is broadcast to the frame dies that are up, and the ports that follow
hear each change. REF_EDGES_PRESENT, REF_WINDOW, REF_ABSENT_TIMEOUT, REF_RATE_BROADCAST. -/
def Obligations.ReferencesLockAndAreHeard : Prop :=
  ∀ (s : State) (ref : Nat), s.part.refEn ref = true →
    (s.part.refState ref = 0 → exec (.refEdgesPresent ref) s = becomes s (s.part.setRefState ref 1)) ∧
    (s.part.refState ref ≠ 0 →
      exec (.refAbsentTimeout ref) s = becomes s (s.part.setRefState ref 0).allHear ∧
      ∀ ppm16 : Int,
        let p := s.part.setRf .aesRefStatus (refDie ref) 0 16 16 (unsigned 16 (clampI (-32768) 32767 ppm16))
        exec (.refWindow ref ppm16) s = becomes s (p.setRefState ref (if -3200 ≤ ppm16 ∧ ppm16 ≤ 3200 then 2 else 3)).allHear) ∧
    (Tab.wf s.part.audio.heard = true → ∃ h : Tab Int, exec (.refRateBroadcast ref) s = becomes s ({ s.part with audio := { s.part.audio with heard := h } } : Part).allHear ∧
      ∀ m, m < 4 → m ≠ refDie ref → s.part.frameUp m = true →
        Tab.find (ref * 4 + m) h =
          if s.part.refState ref = 2 then some (signed 16 (s.part.rf .aesRefStatus (refDie ref) 0 16 16)) else none)

/-- A frame of a running port without a reference whose channels are both SILENT and below START_FILL (14 R331, R336, R337): two subframes of
zero words, valid unless MUTE asks otherwise, with the block's channel status and user bits, and the next frame of 192. AES_FRAME. -/
def Obligations.SilentFramesCarryZeroWords : Prop :=
  ∀ (s : State) (a : Nat), s.part.aesRunning a = true → s.part.frameUp (a / 8) = true → s.part.aesCtl a 2 2 = 0 → s.part.aesSrc a 1 ≠ 2 →
    let x := s.part.aesPort a
    x.a.st = 0 → x.b.st = 0 → x.a.fifo.length < s.part.aesCtl a 32 14 → x.b.fifo.length < s.part.aesCtl a 32 14 → x.frame ≠ 0 →
      let mute := s.part.aesCtl a 4 1 == 1
      let sa := subframe 0 0 mute (blockBit (sideBlock x.side 48) x.frame) (blockBit (statusBlock x.side 0) x.frame)
      let sb := subframe 1 0 mute (blockBit (sideBlock x.side 72) x.frame) (blockBit (statusBlock x.side 24) x.frame)
      exec (.aesFrame a) s =
        becomes s ((s.part.setPort a { x with sent := some (sa, sb), frame := (x.frame + 1) % 192 }).bumpPortAes a 0)

/-- A subframe holds its word in bits 27:4 and V, U, C in bits 28 to 30, and has even parity over bits 31:4 (14 R336, Table 14-4). -/
def Obligations.SubframesHaveEvenParity : Prop :=
  ∀ (pre word : Nat) (v u c : Bool), pre < 16 →
    let f := subframe pre word v u c
    f < 2 ^ 32 ∧ bits f 0 4 = pre ∧ bits f 4 24 = word % 2 ^ 24 ∧ bit f 28 = v ∧ bit f 29 = u ∧ bit f 30 = c ∧ popCount 28 (f / 16) % 2 = 0

/-- The feed and fades of an AES3 channel (14 R323, R331, R332, R335): a released row of the bound region, which no other consumer reads and which is
not poisoned, enters the FIFO as values of 16 bits; a ramp ends in PLAYING; the taper of a stopping port's channel, or of one that fades, ends SILENT
with its FIFO empty; an arriving side record applies from the next block. AES_FEED_ARRIVE, AES_RAMP_END, AES_TAPER_END, AES_SIDE_ARRIVE. -/
def Obligations.AudioChannelsFeedRampAndTaper : Prop :=
  ∀ (s : State) (a ch : Nat),
    let y := s.part.aesCh a ch
    (∀ c n die i, y.bind = some (c, n, die, i) → ∀ d, d = s.part.phys die → s.part.aesEn a = true → s.part.aesRunning a = true →
      s.part.benchUp d = true → s.part.regionEn d i = true → s.part.regionCtx d i = c → Part.rowLeft y ≠ 0 → y.pos < (s.part.region d i).tail →
      (s.part.region d i).head ≤ y.pos → s.part.crowded d i = false → y.fifo.length + 256 ≤ 8192 →
      ∀ row, row = s.part.regionRow d i y.pos → (s.part.bank d (bankOf row)).gated = false →
        s.part.mem.poisoned (benchAt d (512 * row)) = false →
        let r := s.part.rowRead d row .clean
        let vs := (span y.skip (Part.rowLeft y)).map fun j => leNat ((r.1.1.drop (2 * j)).take 2)
        let z := Part.passRow y (Part.rowLeft y)
        let p := r.2.setAesCh a ch { z.1 with fifo := y.fifo ++ vs }
        exec (.aesFeedArrive a ch .clean) s =
          settlesTo s (((if z.2 = true then p.returnPos d i y.pos else p).rampIn a ch).playChecks a ch)) ∧
    (y.st = 1 → s.part.aesN a ≤ y.n →
      exec (.aesRampEnd a ch) s = becomes s ((s.part.setAesCh a ch { y with st := 2, n := 0 }).playChecks a ch)) ∧
    (y.st = 3 → s.part.aesN a ≤ y.n →
      let p := s.part.setAesCh a ch { y with st := 0, n := 0, fifo := [], acc := 0, ovr := false }
      ((s.part.aesPort a).stopping = true → exec (.aesTaperEnd a ch) s = becomes s (p.aesStop a)) ∧
      ((s.part.aesPort a).stopping = false → y.fade = true → exec (.aesTaperEnd a ch) s = becomes s p)) ∧
    ((s.part.aesPort a).reading = true → bit (s.part.sidePtr a) 63 = false → s.part.sidePtr a + 320 ≤ hbmEnd → s.part.mem.poison = [] →
      (∀ k, k < 12 → s.part.stackOn k = true) → (∀ m, m < 4 → s.part.cupEn m = false) →
      let g := leNat (s.part.mem.read (s.part.sidePtr a) 8)
      let g' := leNat (s.part.mem.read (s.part.sidePtr a + 8) 8)
      let side := s.part.mem.read (s.part.sidePtr a + (if g < g' then 192 else 64)) 128
      exec (.aesSideArrive a .ok .clean []) s =
        settlesTo s (s.part.setPort a { s.part.aesPort a with reading := false, failed := false, next := some side }))

/-- Rows of a Bench store (08 R173, R178, R180, R186, R195, R196): a read of a row in an awake bank delivers it, poisoned where it is poisoned,
and counts; a write in no redirected or foreign row stores exactly its bytes, sets or clears the row's poison, counts, and advances its
arrival counter, at once where no registered range holds the row; an access waits while another engine's range holds the row; a corrected
row written back is counted. Whose range a BENCH_WRITE writes is the model's choice (log entry 72). BENCH_READ, BENCH_WRITE,
CORRECTED_WRITEBACK. -/
def Obligations.BenchRowsReadAndWrite : Prop :=
  ∀ (s : State) (n r : Nat) (d : Nat), d = s.part.phys n → s.part.benchUp d = true → r < 262144 → (s.part.bank d (bankOf r)).gated = false →
    s.part.dieHeld d = false →
    (s.part.rowBusy d r 0xFFFE = false → exec (.benchRead n r .clean) s =
      settlesTo s ((s.part.bumpBench d 0 1).deliver (s.part.mem.read (benchAt d (512 * r)) 512, s.part.mem.poisoned (benchAt d (512 * r))))) ∧
    (s.part.rowBusy d r 0xFFFE = true → ∀ ecc, exec (.benchRead n r ecc) s =
      settlesTo s { s.part with bench := { s.part.bench with waits := s.part.bench.waits ++ [(d, .read r ecc)] } }) ∧
    (∀ (c : Nat) (data : List Byte) (poison : Bool) (arrival : Option Nat), data.length = 512 →
      (∀ k, arrival = some k → s.part.arrivalEn d k = true ∧ s.part.rf .arrivalCfg d k 0 8 = c) → s.part.redirectOf c d r = none →
      s.part.rowOwner (s.part.logi d) r = none →
      s.part.rowBusy d r (s.part.engOf (((s.part.rangeFor c d r).map SbRange.owner).getD 0)) = false →
      ∃ q : Part, exec (.benchWrite c n r 0 data poison arrival .clean) s = settlesTo s q ∧ q.mem.poisoned (benchAt d (512 * r)) = poison ∧
        (∀ b, q.mem.get b = if benchAt d (512 * r) ≤ b ∧ b < benchAt d (512 * r) + 512 then data.getD (b - benchAt d (512 * r)) 0
          else s.part.mem.get b) ∧
        (∀ k, arrival = some k → (∀ x ∈ s.part.sbOf d, s.part.rangeIdx d x.range r = none) →
          q.rv .arrivalValue d k = (s.part.rv .arrivalValue d k + 1) % 2 ^ 32) ∧
        (∀ u, u ≠ benchAt d (512 * r) → (u ∈ q.mem.poison ↔ u ∈ s.part.mem.poison)) ∧ q.mem.host = s.part.mem.host) ∧
    (s.part.bench.wback.contains (rowKey d r) = true → exec (.correctedWriteback n r) s = becomes s
      (({ s.part with bench := { s.part.bench with wback := s.part.bench.wback.filter (· != rowKey d r) } } : Part).bumpBench d 1 1))

/-- Transposed and strided reads (08 R175 to R177): of 16 granted rows of awake banks, none poisoned or held by a range, a transposed read of width w
delivers element `col` of row i at byte (16 col + i) w, a strided read byte [32 SEG + b] of row i at byte 32 i + b; a row outside the grant is the
address fault. TRANSPOSED_READ, STRIDED_READ. -/
def Obligations.ModeReadsGatherSixteenRows : Prop :=
  ∀ (s : State) (c n r stride : Nat), s.part.benchUp (s.part.phys n) = true → s.part.dieHeld (s.part.phys n) = false →
    let d := s.part.phys n
    let byteAt := fun i b => s.part.mem.get (benchAt d (512 * (r + i * stride)) + b)
    ((∀ i, i < 16 → r + i * stride < 262144 ∧ s.part.rowGranted c n (r + i * stride) = true ∧
        (s.part.bank d (bankOf (r + i * stride))).gated = false ∧ s.part.rowBusy d (r + i * stride) 0xFFFE = false ∧
        s.part.mem.poisoned (benchAt d (512 * (r + i * stride))) = false) →
      let p := (List.range 16).foldl (fun (p : Part) _ => p.bumpBench d 0 1) s.part
      (∀ w, w = 1 ∨ w = 2 ∨ w = 4 → ∃ out : List Byte, exec (.transposedRead c n r stride w .clean) s = settlesTo s (p.deliver (out, false)) ∧
        out.length = 8192 ∧ ∀ col i b, col < 512 / w → i < 16 → b < w → out.getD ((16 * col + i) * w + b) 0 = byteAt i (col * w + b)) ∧
      ∀ seg, seg < 16 → ∃ out : List Byte, exec (.stridedRead c n r stride seg .clean) s = settlesTo s (p.deliver (out, false)) ∧
        out.length = 512 ∧ ∀ i b, i < 16 → b < 32 → out.getD (32 * i + b) 0 = byteAt i (32 * seg + b)) ∧
    (s.part.rowGranted c n r = false → ∀ width, exec (.transposedRead c n r stride width .clean) s =
      settlesTo s (s.part.ctxFault c ⟨0x0402, .none, 0, none, benchAt n (512 * r)⟩))

/-- Banks and patrol scrub (08 R183, R199 to R201): a bank that no Feed holds and no access waits for gates where BENCH_CTL allows it; its wake runs
the queued accesses in order; the scrub of an awake bank's row that shows no error only moves on and counts a read. BANK_GATE, BANK_WAKE_DONE,
PATROL_SCRUB. -/
def Obligations.BanksGateAndWake : Prop :=
  ∀ (s : State) (n b : Nat), s.part.benchUp (s.part.phys n) = true →
    let d := s.part.phys n
    let x := s.part.bank d b
    (s.part.rb .benchCtl d 0 0 = true → x.gated = false → (∀ g ∈ s.part.bench.feedBanks, g.1 / 4 = n → g.2.contains b = false) →
      (∀ e ∈ s.part.bench.waits, e.1 = d → bankOf (Part.accRow e.2) ≠ b) →
      exec (.bankGate n b) s = becomes s ((s.part.setBank d b { x with gated := true }).bumpBench d 7 1)) ∧
    (x.gated = true → x.queue ≠ [] →
      let p := (s.part.setBank d b { gated := false, queue := [], blocked := [] }).bumpBench d 8 1
      exec (.bankWakeDone n b) s = settlesTo s ((x.queue ++ x.blocked).foldl (fun p a => p.runAcc d a) p)) ∧
    (let r := Tab.getD s.part.bench.scrub d 0
     (s.part.bank d (bankOf r)).gated = false →
      exec (.patrolScrub n .clean) s = settlesTo s
        (({ s.part with bench := { s.part.bench with scrub := Tab.put d ((r + 1) % 262144) s.part.bench.scrub } } : Part).bumpBench d 0 1))

/-- The scoreboard and circular regions (08 R185, R190, R191, R194): the next range of an issued task enters the scoreboard while fewer than 8,192
stand in it; a reservation that fits a region without waiters takes the next positions at once and is registered, a larger one than the region
faults; a released position that is returned moves HEAD over every contiguous one. SCOREBOARD_REGISTER, REGION_RESERVE, REGION_RETURN. -/
def Obligations.RegionsReserveAndReturn : Prop :=
  ∀ (s : State),
    (∀ (e : Nat) (t : Task) (g h : Range) (rest : List Range), Tab.find (engKey .planer e) s.part.jig.eng = some t → t.toReg = g :: h :: rest →
      (s.part.sbOf g.die).length < 8192 → exec (.scoreboardRegister .planer e) s = becomes s
        ((s.part.setSb g.die (s.part.sbOf g.die ++ [⟨t.id, engKey .planer e, g, 2 ^ g.n - 1, []⟩])).mapTask t.id
          fun t => { t with toReg := h :: rest, sbWait := false })) ∧
    ∀ (c n i k : Nat), s.part.benchUp (s.part.phys n) = true →
      let d := s.part.phys n
      let x := s.part.region d i
      (s.part.ctxRuns c = true → k ≠ 0 → s.part.regionOk c n i = true → s.part.regionSize d i < k →
        exec (.regionReserve c n i k) s = settlesTo s (s.part.ctxFault c ⟨0x0401, .none, 0, none, 0x7FFF⟩)) ∧
      (s.part.ctxRuns c = true → k ≠ 0 → s.part.regionOk c n i = true → x.waiting = [] → k ≤ s.part.regionSize d i →
        (s.part.sbOf d).length < 8192 → x.rsvd + k ≤ x.head + s.part.regionSize d i →
        ∃ q : Part, exec (.regionReserve c n i k) s = settlesTo s q ∧ q.region d i = { x with rsvd := x.rsvd + k, sbWait := false } ∧
          q.sbOf d = s.part.sbOf d ++ [⟨rawOwner c, s.part.engOf (rawOwner c), ⟨d, 0, k, some i, x.rsvd⟩, 2 ^ k - 1, []⟩] ∧
          q.mem = s.part.mem ∧ q.regs = s.part.regs) ∧
      (s.part.regionEn d i = true → s.part.regionCtx d i = c → x.waiting = [] → ∀ pos, x.head ≤ pos → pos < x.tail →
        x.returned.contains pos = false → exec (.regionReturn c n i pos) s = settlesTo s (s.part.setRegion d i (Part.regionReturned x [pos])) ∧
          x.head ≤ (Part.regionReturned x [pos]).head ∧ (pos = x.head → pos < (Part.regionReturned x [pos]).head))

/-- A Dovetail link's states (15 R348 to R351, Table 15-6): EN set trains a link that is OFF or DOWN, EN cleared drains a running link and turns any
other OFF; a forced retrain and the 16th resend of a flit retrain it; training ends in HELLO with its first HELLO sent; a retrain ends in
the state before with every unacknowledged flit replayed, the third in a row DOWN. DT_LINK_ENABLE, DT_LINK_DISABLE, DT_RETRAIN_FORCE,
DT_RETRAIN, DT_RETRAIN_DONE, DT_TRAIN_DONE, DT_DISABLE_DRAIN_END. -/
def Obligations.LinksTrainRetrainAndStop : Prop :=
  ∀ (s : State) (port l : Nat),
    (Served s.part port (regOff .dtLinkCtl (l / 16) (l % 16)) ⟨.dtLinkCtl, l / 16, l % 16⟩ →
      let w := written s.part port (regOff .dtLinkCtl (l / 16) (l % 16)) ⟨.dtLinkCtl, l / 16, l % 16⟩
      (s.part.linkEn l = false → s.part.linkSt l = 0 ∨ s.part.linkSt l = 7 →
        exec (.dtLinkEnable port l) s = settlesTo s (((w 1).setLink l {}).setLinkSt l 1)) ∧
      (s.part.linkEn l = true → exec (.dtLinkDisable port l) s = settlesTo s
        (if s.part.linkRuns l = true ∨ s.part.linkSt l = 6 then (w 0).setLink l { s.part.link l with drain := true } else (w 0).linkOff l)) ∧
      (s.part.linkRuns l = true → exec (.dtRetrainForce port l) s = settlesTo s ((w (b2n (s.part.linkEn l) + 2)).startRetrain l))) ∧
    (s.part.linkRuns l = true → (s.part.link l).resent.any (16 ≤ ·) = true → ∃ q : Part, exec (.dtRetrain l) s = becomes s q ∧ q.linkSt l = 6 ∧
      (q.link l).back = s.part.linkSt l ∧ (q.link l).retrains = (s.part.link l).retrains + 1 ∧ (q.link l).replay = (s.part.link l).replay) ∧
    (s.part.linkSt l = 6 → ∀ lanes, exec (.dtRetrainDone l lanes) s = settlesTo s
      (if lanes = 0 ∨ 3 ≤ (s.part.link l).retrains then s.part.linkDown l else
        let p := ((s.part.setLinkSt l (s.part.link l).back).lanesUp l lanes).replayAll l
        ((p.setLink l { p.link l with resent := (p.link l).resent.map fun _ => 0 }).pump l).reroute)) ∧
    (s.part.linkEn l = true → s.part.linkSt l = 1 → ∀ lanes, exec (.dtTrainDone l lanes) s = settlesTo s
      (if lanes = 0 then (s.part.linkDown l).setLink l { (s.part.linkDown l).link l with dead := true } else
        let p := ((s.part.freshLink l).setLinkSt l 3).lanesUp l lanes
        (p.setLink l { p.link l with rx := [], peer := none, heard := false }).sendHello l)) ∧
    ((s.part.link l).drain = true → (s.part.link l).wait = [] → (s.part.link l).replay = [] → (s.part.link l).peer = none →
      exec (.dtDisableDrainEnd l) s = settlesTo s (s.part.linkOff l).reroute)

/-- A flit that arrives on a running link (15 R344, R347, R348): one that fails its checks is answered with NAK; a good one acknowledges what its
ACK covers and adds its credits, and a DATA flit is taken in its order only, a duplicate changes nothing more. Then what waits is sent. HELLO
goes out on a running link's timer, an idle link narrows and a narrowed one widens again. DT_FLIT_RECEIVE, DT_HELLO_TIMER, DT_NARROW,
DT_WIDEN_DONE. -/
def Obligations.FlitsAreTakenInOrder : Prop :=
  ∀ (s : State) (l : Nat), s.part.linkRuns l = true →
    let x := s.part.link l
    (∀ f : Flit,
      let p := ((s.part.bumpLink l 2 f.fecCorr).bumpLink l 3 f.fecUe).bumpLink l 4 (b2n (!f.crcOk))
      (f.fecUe ≠ 0 ∨ f.crcOk = false → exec (.dtFlitReceive l f) s = settlesTo s (p.setLink l { x with nak := true })) ∧
      (f.fecUe = 0 → f.crcOk = true → f.nak = false → f.kind ≤ 1 → ∃ q : Part,
        exec (.dtFlitReceive l f) s = settlesTo s ((q.pump l).reroute).ackNow ∧
        (q.link l).credits = modAt x.credits f.crClass (· + f.crCount) ∧
        (q.link l).replay = (if x.replay.any (fun e => e.1 == f.ack) = true then (x.replay.dropWhile fun e => e.1 != f.ack).drop 1
          else x.replay) ∧
        (f.kind = 1 → f.seq = x.expect →
          (q.link l).expect = (x.expect + 1) % 65536 ∧ (q.link l).rx = x.rx ++ f.msgs.filter DtMsg.known ∧ (q.link l).nak = false) ∧
        (f.kind = 0 ∨ f.seq ≠ x.expect → (q.link l).expect = x.expect ∧ (q.link l).rx = x.rx))) ∧
    exec (.dtHelloTimer l) s = becomes s (s.part.sendHello l) ∧
    (s.part.linkSt l = 4 → s.part.rf .dtCtl (l / 16) 0 0 16 ≠ 0 → s.part.linkWidth l ≠ 1 → x.wait = [] → x.replay = [] →
      exec (.dtNarrow l) s = becomes s ((s.part.setLinkWidth l 1).bumpLink l 10 1)) ∧
    (x.widening = true →
      exec (.dtWidenDone l) s = becomes s ((s.part.setLinkWidth l x.full).setLink l { x with widening := false }))

/-- Remote accesses (15 R356 to R358, R361): a READ of the present epoch that an enabled Cabinet allows is answered with the row's bytes, one it
does not allow with REFUSED, one of another epoch with FENCED; the requester keeps the bytes, holds a fenced read until it has joined again
or sends it again where it has, faults the context of a refused one or one that times out. An allowed WRITE writes the row, another is
discarded with a NOTICE, of fencing at most one per member in 10 us. READ, DATA, FENCED, REFUSED, REMOTE_READ_TIMEOUT, WRITE. -/
def Obligations.RemoteAccessesAreChecked : Prop :=
  ∀ (s : State) (l : Nat) (m : DtMsg) (rest : List DtMsg), (s.part.link l).rx = m :: rest → ¬(s.part.joinSt = 2 ∧ s.part.epoch < m.epoch) →
    let p := s.part.setLink l (Link.frees { s.part.link l with rx := rest } m)
    (m.cls = 0 → m.op = 0 →
      (m.epoch ≠ s.part.epoch → exec (.read l) s = settlesTo s (p.answer m 1 false [])) ∧
      (m.epoch = s.part.epoch → s.part.remoteOk m = false → exec (.read l) s = settlesTo s ((p.bumpLink l 12 1).answer m 2 false [])) ∧
      (m.epoch = s.part.epoch → s.part.remoteOk m = true → s.part.dieHeld (s.part.phys m.die) = false →
        s.part.rowBusy (s.part.phys m.die) m.row 0xFFFE = false → (s.part.bank (s.part.phys m.die) (bankOf m.row)).gated = false →
        let r := p.rowOf m.ctx (s.part.phys m.die) m.row .clean
        exec (.read l) s = settlesTo s (r.2.answer m 0 r.1.2 ((r.1.1.drop m.byte).take m.len)))) ∧
    (∀ r : RdReq, Tab.find m.tag s.part.join.reads = some r → m.cls = 1 →
      let q : Part := { p with join := { p.join with reads := Tab.del m.tag p.join.reads } }
      let a := remoteAddr r.msg.dst r.msg
      (m.op = 0 → r.drain = false → r.task < 2 ^ 50 → exec (.data l) s = becomes s (q.mapTask r.task fun t => { t with
        got := Tab.put a (m.data, m.poison) t.got, remote := t.remote.filter (· != m.tag) })) ∧
      (m.op = 0 → r.drain = false → 2 ^ 50 ≤ r.task → exec (.data l) s = becomes s { q with jig := { q.jig with
        early := Tab.put r.task (Tab.put a (m.data, m.poison) (Tab.getD q.jig.early r.task [])) q.jig.early } }) ∧
      (m.op = 1 → s.part.joinSt ≠ 2 → exec (.fenced l) s =
        becomes s { p with join := { p.join with reads := Tab.put m.tag { r with held := true } p.join.reads } }) ∧
      (m.op = 1 → s.part.joinSt = 2 → exec (.fenced l) s = becomes s (p.route r.msg)) ∧
      (m.op = 2 → r.drain = false →
        exec (.refusedMsg l) s = settlesTo s (q.ctxFault r.msg.ctx ⟨0x0402, .none, 0, none, a⟩))) ∧
    (m.cls = 2 → m.op = 0 →
      let d := s.part.phys m.die
      let recent := s.part.join.notices.any fun n => n.1 == m.src && decide (s.part.time < n.2 + 10000)
      (m.epoch ≠ s.part.epoch → recent = true → exec (.write l) s = settlesTo s (p.bump (pkgCtr 0 1 1) 1)) ∧
      (m.epoch ≠ s.part.epoch → recent = false →
        let q := (p.bump (pkgCtr 0 1 1) 1).sendMgmt m.src 6 m.ctx (.notice noticeFence)
        exec (.write l) s = settlesTo s { q with join := { q.join with
          notices := (m.src, q.time) :: q.join.notices.filter fun n => n.1 != m.src } }) ∧
      (m.epoch = s.part.epoch → s.part.remoteOk m = false → exec (.write l) s =
        settlesTo s ((p.bumpLink l 12 1).sendMgmt m.src 6 m.ctx (.notice 0x0402))) ∧
      (m.epoch = s.part.epoch → s.part.remoteOk m = true → s.part.dieHeld d = false → s.part.rowBusy d m.row 0xFFFE = false → m.arrivalEn = false →
        exec (.write l) s = settlesTo s (p.rowWrite d ⟨m.ctx, m.row, m.byte, m.data, m.poison, none, 0, none⟩ .clean))) ∧
    ∀ (tag k : Nat) (r : RdReq), Tab.find tag s.part.join.reads = some r → r.held = false → r.drain = false →
      s.part.unsent tag = false → s.part.mgmtLink r.msg.dst = some k →
      let q : Part := { s.part with join := { s.part.join with reads := Tab.del tag s.part.join.reads } }
      exec (.remoteReadTimeout tag) s = settlesTo s
        (((q.bumpLink k 13 1).bump (pkgCtr 3 r.msg.ctx 19) 1).ctxFault r.msg.ctx ⟨0x04A1, .dtLink, k, none, 0x7FFF⟩)

/-- The messages of the join (15 R359 to R361, Table 15-7): a HELLO stores the peer and brings a link in HELLO up, or to MGMT_ONLY where the
firmware's major versions differ; a PREPARE of the elected master with a higher epoch is answered; an ACK counts toward the epoch prepared;
a COMMIT that names the member is adopted; a NOTICE of fencing fences, one of an access faults its context. HELLO, PREPARE, ACK, COMMIT,
NOTICE. -/
def Obligations.JoinMessagesAct : Prop :=
  ∀ (s : State) (l : Nat) (m : DtMsg) (rest : List DtMsg), (s.part.link l).rx = m :: rest → ¬(s.part.joinSt = 2 ∧ s.part.epoch < m.epoch) →
    m.cls = 3 →
    let p := s.part.setLink l (Link.frees { s.part.link l with rx := rest } m)
    (∀ h : Hello, m.op = 0 → m.mgmt = .hello h → s.part.linkSt l = 3 → s.part.joinSt = 0 → h.member < 32 → h.link < 64 → h.fwMajor < 256 →
      ∃ q : Part, exec (.hello l) s = settlesTo s ((q.pump l).reroute) ∧ (q.link l).peer = some h ∧ (q.link l).heard = true ∧
        q.linkSt l = (if h.fwMajor = s.part.fwMajor then 4 else 5) ∧
        q.rf .dtLinkStatus (l / 16) (l % 16) 8 5 = h.member ∧ q.rf .dtLinkStatus (l / 16) (l % 16) 16 6 = h.link ∧
        q.rf .dtLinkStatus (l / 16) (l % 16) 32 8 = h.fwMajor ∧
        (h.fwMajor ≠ s.part.fwMajor → q.rb .joinStatus 0 0 10 = true)) ∧
    (∀ e mask, m.mgmt = .mask e mask →
      (m.op = 1 → s.part.joinSt ≠ 0 → m.src = p.elect → m.src ≠ p.member → s.part.epoch < e → exec (.prepare l) s = becomes s
        ((({ p with join := { p.join with answer := some (e, mask, m.src), acked := false } } : Part).setJoinSt 1).electNow.ackNow)) ∧
      (m.op = 2 → ∀ mask', s.part.join.prep = some (e, mask') →
        let q : Part := { p with join := { p.join with acks := p.join.acks ||| 2 ^ m.src } }
        exec (.ack l) s = settlesTo s (if q.allAcked = true then q.commitNow else q)) ∧
      (m.op = 3 → s.part.joinSt = 1 ∨ s.part.joinSt = 3 → mask.testBit s.part.member = true → s.part.epoch < e →
        exec (.commit l) s = settlesTo s (p.adopt e mask))) ∧
    (∀ code, m.op = 6 → m.mgmt = .notice code →
      (code = noticeFence → s.part.joinSt = 2 → exec (.notice l) s = settlesTo s (p.setJoinSt 3)) ∧
      (code = noticeLeave → exec (.notice l) s = settlesTo s (p.memberLost m.src)) ∧
      (code ≠ noticeFence → code ≠ noticeLeave →
        exec (.notice l) s = settlesTo s (p.ctxFault m.ctx ⟨0x0402, .none, 0, none, remoteAddr m.src m⟩)))

/-- Time in the join (15 R363): a request is answered with the times of its arrival and answer; an offset within 1 us aligns the package and
slews it, a larger positive one steps device time forward, a larger negative one runs at half rate; a member asks the master.
TIME_REQ, TIME_RESP, TIME_MEASURE_TIMER. -/
def Obligations.JoinTimeIsMeasured : Prop :=
  ∀ (s : State) (l : Nat) (m : DtMsg) (rest : List DtMsg) (t1 t2 t3 : Nat), (s.part.link l).rx = m :: rest →
    ¬(s.part.joinSt = 2 ∧ s.part.epoch < m.epoch) → m.cls = 3 → m.mgmt = .time t1 t2 t3 →
    let p := s.part.setLink l (Link.frees { s.part.link l with rx := rest } m)
    let o := Part.timeOffset t1 t2 t3 s.part.time
    let q : Part := { p.setRf .joinOffset 0 0 0 32 (unsigned 32 o) with join := { p.join with t1 := none } }
    let late := (q.setRb .joinStatus 0 0 8 false).bump (pkgCtr 0 1 2) 1
    (m.op = 4 → exec (.timeReq l) s =
      becomes s (p.sendOn ((p.mgmtLink m.src).getD l) { p.header 3 5 m.src with mgmt := .time t1 s.part.time s.part.time })) ∧
    (m.op = 5 → s.part.join.t1 = some t1 → s.part.isMaster = false →
      (o.natAbs ≤ 1000 → exec (.timeResp l) s =
        becomes s { q.setRb .joinStatus 0 0 8 true with join := { q.join with half := false, slew := o } }) ∧
      (1000 < o → exec (.timeResp l) s =
        becomes s { late with time := (s.part.time + o.toNat) % 2 ^ 64, join := { q.join with half := false, slew := 0 } }) ∧
      (o < -1000 → exec (.timeResp l) s = becomes s { late with join := { q.join with half := true, slew := o } })) ∧
    (s.part.joinSt ≠ 0 → s.part.elect ≠ s.part.member → exec .timeMeasureTimer s =
      becomes s (({ s.part with join := { s.part.join with t1 := some s.part.time } } : Part).sendMgmt s.part.elect 4 0 (.time s.part.time 0 0)))

/-- The join begins and ends (15 R359, R360, Table 15-7, Table 15-8): EN set starts an election and HELLO on every running link; EN cleared is
refused while an enabled Cabinet names a remote member, else the members are told; an elected master prepares once its links have been
quiet and commits at the end of its wait; a member that acknowledged elects anew; a silent member is lost. JOIN_ENABLE, JOIN_DISABLE,
JOIN_QUIET_EXPIRE, JOIN_ACK_TIMEOUT, JOIN_COMMIT_TIMEOUT, JOIN_HELLO_LOSS. -/
def Obligations.JoinsBeginAndEnd : Prop :=
  ∀ (s : State) (port : Nat) (v : Reg),
    (Served s.part port (regOff .joinCtl 0 0) ⟨.joinCtl, 0, 0⟩ →
      let u := s.part.unstage port (regOff .joinCtl 0 0)
      let p := written s.part port (regOff .joinCtl 0 0) ⟨.joinCtl, 0, 0⟩ (forceBit .full v 63 true).toNat
      (s.part.rb .joinCtl 0 0 63 = false → exec (.joinEnable port .full v) s =
        becomes s ((List.range 64).foldl (fun p l => p.helloTimer l) ((p.setJoinSt 1).electNow))) ∧
      (s.part.rb .joinCtl 0 0 63 = true → exec (.joinDisable port .full v) s = becomes s
        (if (List.range 32).any (fun b => u.cabEn b && u.rf .cabRemote 0 b 0 32 != 0) = true then u.badAccess
          else u.joinStop.setRb .joinCtl 0 0 63 false))) ∧
    (s.part.joinSt = 1 → s.part.isMaster = true → s.part.join.prep = none →
      exec .joinQuietExpire s = settlesTo s s.part.electNow.prepareNow) ∧
    (∀ e mask, s.part.join.prep = some (e, mask) →
      let got := (s.part.join.acks &&& mask) ||| 2 ^ s.part.member
      let p := (bitsSet 32 got).foldl (fun p j => if j = p.member then p else p.sendMgmt j 3 0 (.mask e got)) s.part
      exec .joinAckTimeout s = settlesTo s (p.adopt e got)) ∧
    (s.part.joinSt = 1 → s.part.join.acked = true → exec .joinCommitTimeout s =
      becomes s (({ s.part with join := { s.part.join with answer := none, acked := false } } : Part).electNow)) ∧
    (s.part.joinSt ≠ 0 → ∀ j, exec (.joinHelloLoss j) s = settlesTo s (s.part.memberLost j))

/-- Supply and reset (16 R367 to R370, R383, R384, R388, R414): losing the supply or too high a voltage switches every rail but the always-on one
off and clears the part; RST_N clears it with every set-up register at its reset value; its release samples the straps and starts bring-up
with device time 0; what survives is the fault to log, the Hallmark area, the Chest's content and the repair log. POWER_ON_RESET, BROWN_OUT,
OVER_VOLTAGE, OV_RECOVERY, RST_N_ASSERT, RST_N_RELEASE. -/
def Obligations.ResetClearsThePart : Prop :=
  ∀ s : State,
    let blank := fun (q : Part) => q.regs = [] ∧ q.ctrs = [] ∧ q.jig = {} ∧ q.ctxs = [] ∧ q.holds = [] ∧ q.mem.cells = [] ∧ q.mem.host = s.part.mem.host ∧
      q.mark.wear = s.part.mark.wear ∧ q.chest.drawers = s.part.chest.drawers ∧ q.bench.repairLog = s.part.bench.repairLog
    (∀ ns, 1000 ≤ ns → s.part.power.held = false → s.part.power.rails = true →
      ∃ q : Part, exec (.rstNAssert ns) s = becomes s q ∧ blank q ∧ q.power.held = true ∧ q.power.cause = 1) ∧
    (∀ straps, s.part.power.held = true → s.part.power.trip = none → s.part.power.rails = true → s.part.power.pwrOk = true →
      s.part.flog.packageFatal = none → exec (.rstNRelease straps) s =
        becomes s (({ s.part with power := { s.part.power with held := false } } : Part).release straps)) ∧
    (s.part.power.rails = true →
      (∃ q : Part, exec .brownOut s = becomes s q ∧ blank q ∧ q.power.rails = false ∧ q.power.pwrOk = false ∧ q.power.trip = some 2) ∧
      ∀ mv, 62000 < mv → mv ≤ 66000 → ∃ q : Part, exec (.overVoltage mv) s = becomes s q ∧ blank q ∧ q.power.rails = false ∧
        q.power.trip = some 3) ∧
    (∀ straps, s.part.power.trip = some 3 → s.part.power.held = true → ∃ q : Part, exec (.ovRecovery straps) s = becomes s q ∧ blank q ∧
      q.power.rails = true ∧ q.power.pwrOk = true ∧ q.power.cause = 3 ∧ q.flog.packageFatal = some 0x0F13) ∧
    ∀ mv straps, 38000 ≤ mv → mv ≤ 66000 → s.part.power.held = true → s.part.power.trip = none →
      ∃ q : Part, exec (.powerOnReset mv true straps) s = becomes s q ∧ blank q ∧ q.power.rails = true ∧ q.power.cause = 0 ∧
        q.power.clkMode = some (bits straps 2 2)

/-- A release of RST_N shows the boot straps in BOOT_STATUS, BOOT_CFG_ERR where they cannot be used, and the cause of the reset (16 R384). -/
def Obligations.ReleaseSamplesTheStraps : Prop :=
  ∀ (p : Part) (straps : Nat), p.power.cause < 256 →
    let clk := p.power.clkMode.getD (bits straps 2 2)
    (p.release straps).rf .bootStatus 0 0 0 2 = bits straps 0 2 ∧
    (clk < 4 → (p.release straps).rf .bootStatus 0 0 2 2 = clk ∧
      (p.release straps).rb .bootStatus 0 0 4 = (decide (2 ≤ bits straps 0 2) || clk != bits straps 2 2 || clk == 3) ∧
      (p.release straps).rf .bootStatus 0 0 8 8 = p.power.cause) ∧
    (p.release straps).power.started = true ∧ (p.release straps).mem = p.mem

/-- Faults of regulators and what sensors and meters report (16 R372, R375 to R379): a section of a serving bench die or frame die takes the die
out with 0x0860; a poll below every threshold stores its temperatures with their highest values, at 110 C or above the part goes off; a
measurement stores power, voltage and current, the highest power, and the energy in mJ. REGULATOR_FAULT, SENSOR_POLL, PWR_MEAS_UPDATE. -/
def Obligations.SensorsAndRegulatorsReport : Prop :=
  ∀ s : State, s.part.power.rails = true →
    (∀ die, die < 8 → s.part.benchUp die = true → exec (.regulatorFault die 0) s = settlesTo s (s.part.benchDieFatal die 0x0860)) ∧
    (∀ m, m < 4 → s.part.frameUp m = true → exec (.regulatorFault (8 + m) 0) s = settlesTo s (s.part.frameDieFatal m 0x0860)) ∧
    (∀ dies stks : List Nat, (∃ t ∈ dies, 110 ≤ t) ∨ (∃ t ∈ stks, 105 ≤ t) → ∃ q : Part, exec (.sensorPoll dies stks) s = becomes s q ∧
      q.power.rails = false ∧ q.power.trip = some 4 ∧ q.rb .thermStatus 0 0 0 = true) ∧
    (s.part.power.started = true → ∀ dies stks : List Nat, dies.length = 12 → stks.length = 12 → (∀ t ∈ dies, t < 100) → (∀ t ∈ stks, t < 95) →
      (∀ k, k < 12 → s.part.rb .thermStatus 0 0 (8 + k) = false) → s.part.power.heat = [] → ∃ q : Part,
        exec (.sensorPoll dies stks) s = becomes s q ∧
        (∀ k, k < 12 → q.rf .temp 0 k 0 8 = dies.getD k 0 ∧ q.rf .temp 0 k 8 8 = max (dies.getD k 0) (s.part.rf .temp 0 k 8 8) ∧
          q.rf .stackStatus (k / 3) (k % 3) 24 8 = stks.getD k 0) ∧
        q.rf .thermStatus 0 0 32 8 = dies.foldl max 0 ∧ q.rf .thermStatus 0 0 40 8 = stks.foldl max 0) ∧
    (s.part.power.started = true → ∀ power vin iin, power < 2 ^ 16 → vin < 2 ^ 16 → iin < 2 ^ 16 → ∃ q : Part,
      exec (.pwrMeasUpdate power vin iin) s = becomes s q ∧ q.rf .pwrMeas 0 0 0 16 = power ∧ q.rf .pwrMeas 0 0 16 16 = vin ∧
        q.rf .pwrMeas 0 0 32 16 = iin ∧ q.rf .pwrMeas 0 0 48 16 = max power (s.part.rf .pwrMeas 0 0 48 16) ∧
        q.rv .pwrEnergy 0 0 = (s.part.rv .pwrEnergy 0 0 + (s.part.power.eighths + power) / 8) % 2 ^ 64 ∧
        q.power.eighths = (s.part.power.eighths + power) % 8)

/-- Block clocks (16 R373, R374, R381, Table 16-3): the clock of an idle engine stops and its die's Jig with the last of them, the die's PLL once
everything on it is off; an idle Chest channel's stops, and a Gang's without a step or a Punch due; a requested clock starts and is
counted. BLOCK_CLOCK_OFF, PLL_OFF, CHEST_CLOCK_OFF, GANG_CLOCK_RELEASE, BLOCK_CLOCK_START. -/
def Obligations.ClocksStopAndStart : Prop :=
  ∀ s : State,
    (∀ e, Tab.find (engKey .planer e) s.part.jig.eng = none → s.part.clocks.waking.contains (engKey .planer e) = false →
      exec (.blockClockOff .planer e) s = becomes s
        (({ s.part with clocks := { s.part.clocks with off := insNat (engKey .planer e) s.part.clocks.off } } : Part).jigOffNow (e / 8))) ∧
    (∀ n, s.part.enginesOff n = true → s.part.clocks.jigOff.contains n = true → s.part.clocks.waking = [] →
      exec (.pllOff n) s = becomes s { s.part with clocks := { s.part.clocks with pllOff := insNat n s.part.clocks.pllOff } }) ∧
    (∀ ch, s.part.chOnline ch = true → s.part.chestBusy = false → (s.part.chan ch).leaving = false → (s.part.chan ch).training = false →
      exec (.chestClockOff ch) s = becomes s (s.part.setChan ch { s.part.chan ch with clockOff := true })) ∧
    (∀ g, (s.part.gang g).clock = true → (s.part.gang g).stepping = false → s.part.gangSlots g = [] →
      exec (.gangClockRelease g) s = becomes s (s.part.setGang g { s.part.gang g with clock := false, feed := {} })) ∧
    ∀ e, s.part.clocks.waking.contains (engKey .planer e) = true → s.part.benchUp (s.part.phys (e / 8)) = true →
      s.part.clocks.pllOff.contains (e / 8) = false → s.part.clocks.jigOff.contains (e / 8) = false → ∀ fail,
      exec (.blockClockStart .planer e fail) s = settlesTo s (({ s.part with clocks := { s.part.clocks with
        off := s.part.clocks.off.filter (· != engKey .planer e)
        waking := s.part.clocks.waking.filter (· != engKey .planer e) } } : Part).bump (benchCtr (e / 8) 0 3 8) 1)

/-- Bring-up (16 R387, R389, Table 16-7): the main frame die's end of stage 2 shows in BRINGUP_STATUS, or stops bring-up where it fails; a
bench die that passes stage 7 is up with its store zero; the end of the Chest scan sets the Chest's READY and the part's. BRINGUP_STAGE_END. -/
def Obligations.BringUpAdvances : Prop :=
  ∀ (s : State) (info : Nat) (marked : List Nat), s.part.power.started = true → s.part.power.stuck = false → s.part.power.rails = true →
    (s.part.frameUp 0 = false → ∀ unit,
      (∃ q : Part, exec (.bringupStageEnd 2 unit true info marked) s = settlesTo s q ∧ q.frameUp 0 = true) ∧
      ∃ q : Part, exec (.bringupStageEnd 2 unit false info marked) s = settlesTo s q ∧ q.rb .bringupStatus 0 0 4 = true ∧ q.power.stuck = true) ∧
    (∀ k, k < 8 → s.part.rb .bringupStatus 0 0 24 = true → s.part.dieEnded (8 + k) (16 + k) = false → s.part.svcState k ≠ 6 → s.part.mem.opens = [] →
      ∃ q : Part,
      exec (.bringupStageEnd 7 k true info marked) s = settlesTo s q ∧ q.rb .bringupStatus 0 0 (8 + k) = true ∧
      ∀ a, benchAt k 0 ≤ a → a < benchAt k 0 + 0x8000000 → q.mem.get a = 0) ∧
    (s.part.benchesEnded = true → s.part.rb .bringupStatus 0 0 25 = false → ∃ q : Part,
      exec (.bringupStageEnd 8 16 true info marked) s = settlesTo s q ∧ q.rb .chestStatus 0 0 0 = true ∧ q.rb .bringupStatus 0 0 25 = true ∧
        q.ready = true)

/-- Resets of PCIe ports and functions (12 R277, R281, R286, 16 R387): PERST, a hot reset, a link loss and a function-level reset clear the
configuration of the functions they reach and raise 0x0416 in their contexts; VFs end with VF Enable; a port trains and comes up; a configuration
write sets Bus Master Enable, MSI-X Enable and the Function Mask; an unmasked vector sends its pending message. PERST_ASSERT, HOT_RESET,
PCIE_LINK_DOWN, PF_FLR, VF_FLR, VF_ENABLE_CLEAR, D3HOT_ENTRY, PERST_DEASSERT, PCIE_LINK_UP, CONFIG_WRITE, MSIX_VECTOR_UNMASK. -/
def Obligations.PortsAndFunctionsReset : Prop :=
  ∀ (s : State) (port : Nat), port < 2 →
    let h := s.part.hif
    let cleared := fun (p : Part) (f : Nat → Bool) => ({ p with hif := { p.hif with
      bme := p.hif.bme.filter fun n => !f n
      d3 := p.hif.d3.filter fun n => !f n
      msix := p.hif.msix.filter fun n => !f n
      fmask := p.hif.fmask.filter fun n => !f n
      aer := Tab.keep (fun k _ => !f k) p.hif.aer
      vecs := Tab.keep (fun k _ => !f (k / 2048)) p.hif.vecs } } : Part)
    let noVfs := fun (p : Part) => ({ p with hif := { p.hif with vfEn := false, numVfs := 0 } } : Part)
    let lost := fun (trains : Bool) =>
      let p := cleared (s.part.linkLost port trains) fun n => portOfFn n == port
      (if port = 0 then noVfs p else p).portEvent port fun q c => q.portOf c == port
    (h.perst.contains port = false → exec (.perstAssert port) s =
      settlesTo s { lost false with hif := { (lost false).hif with perst := insNat port (lost false).hif.perst } }) ∧
    (h.linkUp.contains port = true → exec (.hotReset port) s = settlesTo s (lost true) ∧ exec (.pcieLinkDown port) s = settlesTo s (lost true)) ∧
    (h.linkUp.contains 0 = true → exec (.pfFlr 0) s =
      settlesTo s ((noVfs (cleared s.part fun n => n != 256)).portEvent 0 fun q c => q.fnOf c != 256)) ∧
    (h.linkUp.contains 1 = true → exec (.pfFlr 1) s = settlesTo s ((cleared s.part fun n => n == 256).portEvent 1 fun q c => q.fnOf c == 256)) ∧
    (∀ v, 1 ≤ v → v < 256 → h.linkUp.contains 0 = true → s.part.fnEnabled v = true →
      let r := (cleared s.part fun n => n == v).portEvent 0 fun q c => q.fnOf c == v
      exec (.vfFlr v) s = settlesTo s r ∧
      (h.d3.contains v = false → exec (.d3hotEntry 0 v) s = settlesTo s { r with hif := { r.hif with d3 := insNat v r.hif.d3 } })) ∧
    (h.vfEn = true → ∀ n, n < h.numVfs →
      let p := cleared { s.part with hif := { h with numVfs := n } } fun v => decide (1 ≤ v) && decide (v ≤ 255) && decide (n < v)
      exec (.vfEnableClear n true) s = settlesTo s
        (p.portEvent 0 fun q c => decide (1 ≤ q.fnOf c) && decide (q.fnOf c ≤ 255) && decide (n < q.fnOf c))) ∧
    (s.part.frameUp (2 * port) = true → h.linkUp.contains port = false → exec (.perstDeassert port) s = becomes s
      { s.part with hif := { h with perst := h.perst.filter (· != port), training := insNat port h.training } }) ∧
    (h.training.contains port = true → s.part.frameUp (2 * port) = true → h.perst.contains port = false → exec (.pcieLinkUp port) s = becomes s
      { s.part with hif := { h with training := h.training.filter (· != port), linkUp := insNat port h.linkUp } }) ∧
    (∀ fn ctl, let k := fnKey port fn
      k ≠ 0 → h.linkUp.contains (portOfFn k) = true → s.part.fnEnabled k = true →
      ∃ q : Part, exec (.configWrite port fn ctl false 0) s = becomes s q ∧ q.masters k = ctl.bme ∧
        q.hif.msix.contains k = ctl.msix ∧ q.hif.fmask.contains k = ctl.mask ∧ (∀ n, n ≠ k → q.masters n = s.part.masters n) ∧
        q.hif.vfEn = h.vfEn ∧ q.regs = s.part.regs ∧ q.mem = s.part.mem) ∧
    ∀ fn w, let k := fnKey port fn
      w.vec < vecCount k → h.linkUp.contains (portOfFn k) = true → s.part.fnEnabled k = true →
      let x : Vec := { addr := w.addr % 2 ^ 64 / 4 * 4, data := w.data % 2 ^ 32, masked := w.mask, pending := (s.part.vec k w.vec).pending }
      let q := s.part.setVec k w.vec { x with pending := false }
      exec (.msixVectorUnmask port fn w) s = becomes s
        (if x.pending = true ∧ w.mask = false ∧ h.fmask.contains k = false ∧ h.msix.contains k = true then
          (if s.part.masters k = true then { q with hif := { q.hif with sent := h.sent ++ [(k, x.addr, x.data)] } } else q.bumpFn k 1)
        else s.part.setVec k w.vec x)

/-- Submission rings (12 R268, R271 to R273, 10 R223): a round reads the bitmap, then the doorbells of flagged and swept rings, then entries;
an accepted entry moves CONSUMED and starts a job with its SEQ and graph; a graph header gives the job its tag and tasks. WATCH_ROUND,
SWEEP_DUE, BITMAP_READ_DONE, DOORBELL_READ_DONE, SUBMISSION_ENTRY, GRAPH_HEADER_READ. -/
def Obligations.RingsBringJobs : Prop :=
  ∀ (s : State) (hw : Cells),
    let p := s.part.hostSees hw
    (∀ fn, s.part.rb .funcSummary 0 fn 0 = true → (s.part.ringsOf fn).isEmpty = false → (s.part.watch fn).reading = false →
      (s.part.watch fn).round = false → exec (.watchRound fn) s = becomes s
        (((s.part.setWatch fn { s.part.watch fn with reading := true }).bumpFn fn 0).request fn)) ∧
    (∀ r, s.part.sqEn r = true → exec (.sweepDue r) s = becomes s (s.part.setSq r { s.part.sq r with sweep := true })) ∧
    (∀ fn, (s.part.watch fn).reading = true → s.part.masters fn = true →
      let bm := leNat (p.mem.hostRead (p.rv .funcSummary 0 fn / 64 * 64) (if p.rb .funcSummary 0 fn 1 then 128 else 64))
      let q := p.setWatch fn { s.part.watch fn with reading := false, round := true, found := false }
      let rs := (q.ringsOf fn).filter fun r => q.ctxRuns (q.sqCtx r) && (bit bm (q.rf .sqCfg 0 r 32 10) || (q.sq r).sweep)
      exec (.bitmapReadDone fn .ok hw) s = becomes s
        ((rs.foldl (fun p r => (p.setSq r { p.sq r with dbRead := true, sweep := false }).bumpHif (p.sqCtx r) 0 1) q).endRound fn) ∧
      ∀ st, st ≠ .ok → exec (.bitmapReadDone fn st hw) s = becomes s ((p.setWatch fn { s.part.watch fn with
        reading := false, interval := min (2 * (s.part.watch fn).interval) (p.rf .watchCtl 0 0 0 24) }).watchErr fn st)) ∧
    (∀ r, let x := s.part.sq r
      let fn := s.part.fnOf (s.part.sqCtx r)
      let v := leNat (p.mem.hostRead (p.rv .sqDb 0 r / 64 * 64) 8)
      x.dbRead = true → s.part.masters fn = true → s.part.sqEn r = true → s.part.ctxRuns (s.part.sqCtx r) = true →
      x.consumed < v → v ≤ x.consumed + s.part.sqSize r →
        let q := p.setSq r { x with dbRead := false, producer := v, active := true }
        exec (.doorbellReadDone r .ok hw) s = becomes s ((q.setWatch fn { q.watch fn with found := true }).endRound fn)) ∧
    (∀ r, let x := s.part.sq r
      let c := s.part.sqCtx r
      let b := s.part.sqCab r
      let e := leNat (p.mem.hostRead (p.rv .sqBase 0 r / 64 * 64 + (x.consumed % s.part.sqSize r) * 32) 32)
      s.part.sqEn r = true → s.part.ctxRuns c = true → x.dbRead = false → x.consumed < x.producer →
      (s.part.jigJobs (s.part.homeDie b)).length < 256 → s.part.masters (s.part.fnOf c) = true →
      bits e 128 10 = r → bits e 138 118 = 0 → x.lastSeq < bits e 0 64 → bits e 64 64 % 64 = 0 →
        let q := (p.setSq r { x with consumed := x.consumed + 1, moved := true, active := decide (x.consumed + 1 < x.producer) }).bumpHif c 1 1
        exec (.submissionEntry r .ok hw) s = settlesTo s ((q.acceptJob r (bits e 0 64) (bits e 64 64)).endRound (s.part.fnOf c)) ∧
        ∃ j : Job, (q.acceptJob r (bits e 0 64) (bits e 64 64)).job s.part.jig.nextJob = some j ∧ j.seq = bits e 0 64 ∧
          j.graph = bits e 64 64 ∧ j.ring = r ∧ j.ctx = c ∧ j.cab = b ∧ j.header = false) ∧
    ∀ (j : Nat) (x : Job) (st : RdStat) (h : Nat) (t : RS), s.part.job j = some x → x.header = false → s.part.ctxRuns x.ctx = true →
      Answers (Rd.controlNat x.graph 64) ⟨x.ctx, x.cab, none, earlyKey (recKey j 0), 0, x.ring⟩ ⟨p, .clean, st⟩ h t → t.p.headerOk x h = true →
      exec (.graphHeaderRead j st hw) s = settlesTo s ((t.p.setJob j { x with
        header := true, tag := bits h 32 32, tasks := bits h 16 15
        after := if bits h 4 2 = 1 then x.after else none }).forget (earlyKey (recKey j 0)))

/-- Completion rings and reads that fail (12 R273, R275, R277, R287): while an entry waits the return line is read, a value between CONSUMED and
CQ_POSTED becomes CONSUMED and lets entries through, any other is counted; the moderation timer signals; a read without completion is
counted or faults its context. RETURN_LINE_POLL, RETURN_LINE_READ_DONE, MSIX_MOD_TIMER, COMPLETION_TIMEOUT. -/
def Obligations.CompletionRingsDrain : Prop :=
  ∀ (s : State) (q : Nat),
    let x := s.part.cq q
    let c := s.part.rf .cqCfg 0 q 8 8
    (x.pend ≠ [] → x.reading = false → exec (.returnLinePoll q) s =
      becomes s (if s.part.masters (s.part.fnOf c) = true then s.part.setCq q { x with reading := true } else s.part.bumpFn (s.part.fnOf c) 1)) ∧
    (∀ hw, x.reading = true → s.part.masters (s.part.fnOf c) = true →
      let p := (s.part.hostSees hw).setCq q { x with reading := false }
      let v := leNat (p.mem.hostRead (p.rv .cqReturn 0 q / 64 * 64) 8)
      (x.consumed ≤ v → v ≤ x.posted → exec (.returnLineReadDone q .ok hw) s =
        settlesTo s (Part.cqDrain q (x.pend.length + x.ovr.length) (p.setCq q { x with reading := false, consumed := v }))) ∧
      (v < x.consumed ∨ x.posted < v → exec (.returnLineReadDone q .ok hw) s = settlesTo s (p.bumpHif c 5 1)) ∧
      ∀ st, st ≠ .ok → exec (.returnLineReadDone q st hw) s = settlesTo s (p.ringReadFault c q st)) ∧
    (s.part.rb .cqCfg 0 q 27 = true → 0 < x.u → s.part.rf .cqCfg 0 q 40 16 ≠ 0 → exec (.msixModTimer q) s = becomes s (s.part.cqSignal q)) ∧
    (∀ fn, (s.part.watch fn).reading = true → exec (.completionTimeout 0 fn) s = settlesTo s ((s.part.setWatch fn { s.part.watch fn with
      reading := false, interval := min (2 * (s.part.watch fn).interval) (s.part.rf .watchCtl 0 0 0 24) }).watchErr fn .timeout)) ∧
    (x.reading = true → exec (.completionTimeout 3 q) s = settlesTo s ((s.part.setCq q { x with reading := false }).ringReadFault c q .timeout)) ∧
    ∀ j y, s.part.job j = some y → exec (.completionTimeout 4 j) s = settlesTo s (s.part.ringReadFault y.ctx y.ring .timeout)

/-- Records of a job (10 R225 to R236, 09 R209, R221): a fetch takes records in order while it may, checks each and enters it; a NOP and a passed
fence complete; a compute task with no unit left and a transfer with nothing outstanding complete and are counted; a batch engine gives up
a waiting task for a ready one. RECORD_FETCH, NOP, FENCE, COMPUTE_TASK_COMPLETE, TRANSFER_COMPLETE, BATCH_SWITCH. -/
def Obligations.RecordsAreFetchedAndCompleted : Prop :=
  ∀ s : State,
    (∀ j x st hw, s.part.job j = some x → s.part.fetchTurn (s.part.homeDie x.cab) = some j →
      let p : Part := { s.part with jig := { s.part.jig with turn := Tab.put (s.part.homeDie x.cab) j s.part.jig.turn } }
      exec (.recordFetch j st hw) s = settlesTo s (Part.fetchGo j st 8 (p.hostSees hw))) ∧
    (∀ (p : Part) (j : Nat) (x : Job) (st : RdStat) (fuel img : Nat) (t : RS), p.job j = some x →
      (p.canFetch x = false → Part.fetchGo j st (fuel + 1) p = p) ∧
      (p.canFetch x = true →
        let key := earlyKey (recKey j x.next)
        Answers (Rd.controlNat (x.graph + 64 * x.next) 64) ⟨x.ctx, x.cab, none, key, x.next, x.ring⟩ ⟨p, .clean, st⟩ img t →
        Part.fetchGo j st (fuel + 1) p =
          if p.recOk x.cab x.next img = true then Part.fetchGo j .ok fuel ((t.p.forget key).addRec j x img)
          else t.p.ctxFault x.ctx ⟨0x0401, .none, 0, some x.ctx, recDetail x.next x.ring⟩)) ∧
    (∀ j r x y, s.part.liveRec j r = some (x, y) → y.st = .pending →
      (kindOf y.img = 1 → s.part.recReady j x r y = true → exec (.nop j r) s = settlesTo s (s.part.completeRec j r 0 false false 0)) ∧
      (kindOf y.img = 2 → s.part.fencePasses j r y.img = true → exec (.fence j r) s = settlesTo s (s.part.completeRec j r 0 false false 0))) ∧
    (∀ cls e t, Tab.find (engKey cls e) s.part.jig.eng = some t → s.part.ctxRuns t.ctx = true → s.part.residentOn t.ctx t.cab = true →
      t.toReg = [] → t.units ≤ t.next → t.waitPos = [] → s.part.writesOpen t.id = false →
        let p := ({ s.part with jig := { s.part.jig with eng := Tab.del (engKey cls e) s.part.jig.eng } } : Part).bumpEng cls e t.ctx 8 1
        let p := if (t.zeroOut && cls == .planer) = true then p.bumpEng cls e t.ctx 12 1 else p
        exec (.computeTaskComplete cls e) s = settlesTo s (p.completeRec t.job t.rix 0 t.zeroOut false 0)) ∧
    (∀ cls e t on, s.part.workOf cls e = some t → s.part.waitsFor cls e t = some on → s.part.realTime t.ctx = false →
      s.part.residentOn t.ctx t.cab = true → s.part.otherReady t cls e = true →
      exec (.batchSwitch cls e) s = settlesTo s (((s.part.bumpEng cls e t.ctx 24 1).drainTask t.id).stopTask t (some on))) ∧
    ∀ e t, (Tab.getD s.part.jig.xfer e []).find? (fun t => decide (t.units ≤ t.next) && t.buf.isEmpty && t.toReg.isEmpty && t.waitPos.isEmpty) = some t →
      s.part.ctxRuns t.ctx = true → s.part.residentOn t.ctx t.cab = true → s.part.writesOpen t.id = false →
      let es := (s.part.jig.xfer.filter fun x => x.2.any fun u => u.id == t.id).map Prod.fst
      let low := (s.part.cabDies t.cab).head?.getD 0
      let per := if t.mcast then t.dies.length else 1
      let p := es.foldl (fun (p : Part) k =>
        (p.bumpCarrier k low t.ctx 9 (listTotal t.desc * per)).bumpCarrier k low t.ctx 10 (listBilled t.desc)) s.part
      let p := p.bumpCarrier (es.head?.getD e) low t.ctx 8 1
      let p := if t.mcast then p.bumpCarrier (es.head?.getD e) low t.ctx 12 1 else p
      let p : Part := { p with jig := { p.jig with
        xfer := Tab.mapV (fun _ (l : List Task) => l.filter fun u => u.id != t.id) p.jig.xfer } }
      exec (.transferComplete e) s = settlesTo s ((p.returnRows t).completeRec t.job t.rix 0 false false 0)

/-- Issue on engines (10 R231 to R234, R238, 06 R127, 07 R149, R159): the command of each operation, for the record that the Jig picks, resumes
the record's stopped task, or reads and checks the descriptor, the write list and the wait and places the task. CONV to C2S, GEMM to ATTN,
ADD to FILL_NORMAL. -/
def Obligations.TasksIssueOnEngines : Prop :=
  ∀ (s : State) (j r : Nat) (st : RdStat) (hw : Cells),
    TakesTask s j r st hw .planer (fun _ => Part.planerTask 0 j r) (.conv j r st hw) ∧
    TakesTask s j r st hw .planer (fun _ => Part.planerTask 1 j r) (.tconv j r st hw) ∧
    TakesTask s j r st hw .planer (fun _ => Part.planerTask 2 j r) (.maxpool j r st hw) ∧
    TakesTask s j r st hw .planer (fun _ => Part.planerTask 3 j r) (.avgpool j r st hw) ∧
    TakesTask s j r st hw .planer (fun _ => Part.planerTask 4 j r) (.s2c j r st hw) ∧
    TakesTask s j r st hw .planer (fun _ => Part.planerTask 5 j r) (.c2s j r st hw) ∧
    TakesTask s j r st hw .joiner (Part.joinerTask 0 j r) (.gemm j r st hw) ∧
    TakesTask s j r st hw .joiner (Part.joinerTask 1 j r) (.aa j r st hw) ∧
    TakesTask s j r st hw .joiner (Part.joinerTask 2 j r) (.attn j r st hw) ∧
    TakesTask s j r st hw .burnisher (fun _ => Part.burnTask 0 j r) (.add j r st hw) ∧
    TakesTask s j r st hw .burnisher (fun _ => Part.burnTask 1 j r) (.mul j r st hw) ∧
    TakesTask s j r st hw .burnisher (fun _ => Part.burnTask 2 j r) (.max j r st hw) ∧
    TakesTask s j r st hw .burnisher (fun _ => Part.burnTask 3 j r) (.min j r st hw) ∧
    TakesTask s j r st hw .burnisher (fun _ => Part.burnTask 4 j r) (.convert j r st hw) ∧
    TakesTask s j r st hw .burnisher (fun _ => Part.burnTask 5 j r) (.lut j r st hw) ∧
    TakesTask s j r st hw .burnisher (fun _ => Part.burnTask 6 j r) (.rmsnorm j r st hw) ∧
    TakesTask s j r st hw .burnisher (fun _ => Part.burnTask 7 j r) (.layernorm j r st hw) ∧
    TakesTask s j r st hw .burnisher (fun _ => Part.burnTask 8 j r) (.softmax j r st hw) ∧
    TakesTask s j r st hw .burnisher (fun _ => Part.burnTask 9 j r) (.gather j r st hw) ∧
    TakesTask s j r st hw .burnisher (fun _ => Part.burnTask 10 j r) (.dropout j r st hw) ∧
    TakesTask s j r st hw .burnisher (fun _ => Part.burnTask 11 j r) (.fillUniform j r st hw) ∧
    TakesTask s j r st hw .burnisher (fun _ => Part.burnTask 12 j r) (.fillNormal j r st hw)

/-- Work on engines and transfers (09 R205 to R208, R220, 06 R137): a unit of an issued task whose gate is open reads its operands, computes and
stores; a CARRIER record whose Carriers are free becomes a transfer on them with its region positions reserved, a stopped one resumes from its
first unfinished line, one without Carriers waits in arrival order; data that arrives moves its bytes.
OPERAND_DATA_ARRIVE, CARRIER, CARRIER_DATA_ARRIVE. -/
def Obligations.WorkIsDoneInUnits : Prop :=
  ∀ (s : State) (e : Nat) (st : RdStat) (ecc : Ecc) (cause : StallCause) (n : Nat) (hw : Cells),
    (∀ (cls : Cls) (unit : Ecc → Task → Rd Task) (buf : Ecc) (t u : Task) (x : Job) (z : RS),
      (cls, unit) ∈ [(.planer, Part.planerUnit), (.joiner, Part.joinerUnit), (.burnisher, Part.burnisherUnit)] →
      Tab.find (engKey cls e) s.part.jig.eng = some t → s.part.job t.job = some x → s.part.ctxRuns t.ctx = true →
      s.part.residentOn t.ctx t.cab = true → t.next < t.units →
      let p := (s.part.hostSees hw).stall cls e t cause n
      p.taskGate (engKey cls e) t = none →
      Answers (unit buf t) ⟨t.ctx, t.cab, some (cls, e), t.id, t.rix, x.ring⟩ ⟨p, ecc, st⟩ u z →
      let q := z.p.mapTask t.id fun v => { u with waitPos := v.waitPos, dst := v.dst, filled := v.filled, got := [] }
      exec (.operandDataArrive cls e st ecc buf cause n hw) s =
        settlesTo s ((if u.units ≤ u.next then q.releaseFills t.id else q).forget t.id)) ∧
    (∀ (t : Task) (x : Job) (z : RS), s.part.working e = some t → s.part.job t.job = some x → s.part.ctxRuns t.ctx = true →
      s.part.residentOn t.ctx t.cab = true →
      let h := s.part.homeCarrier t.id
      let p := (s.part.hostSees hw).stall .carrier e t cause n
      Answers (Part.carrierStep t (engKey .carrier h)) ⟨t.ctx, t.cab, some (.carrier, h), t.id, t.rix, x.ring⟩ ⟨p, ecc, st⟩ () z →
      exec (.carrierDataArrive e st ecc cause n hw) s = settlesTo s (z.p.forget t.id)) ∧
    ∀ (j r : Nat) (x : Job) (y : Rec), s.part.liveRec j r = some (x, y) → s.part.pick x.ctx x.cab .carrier = some (j, r, e) →
      let key := earlyKey (recKey j r)
      let w : Who := ⟨x.ctx, x.cab, some (.carrier, e), key, r, x.ring⟩
      let p0 := s.part.hostSees hw
      ∀ (desc : List Nat) (t1 t2 : RS),
      Answers (((p0.parkedList j r).map pure).getD (Rd.blockList (bits y.img 128 64))) w ⟨p0, .clean, st⟩ desc t1 →
      Answers (Rd.sharedOk desc) w t1 () t2 → listRanges y.img desc ≤ 64 →
      (t2.p.carriersNow x.cab j r y.img desc = none →
        exec (.carrier j r st hw) s = settlesTo s ((t2.p.park (recKey j r) desc).forget key)) ∧
      (∀ t es, s.part.stoppedTask j r = some t → t2.p.carriersNow x.cab j r y.img desc = some es →
        exec (.carrier j r st hw) s = settlesTo s ((t2.p.resumeCarrier x es t desc).forget key)) ∧
      ∀ (t3 t4 t5 : RS) (e0 : Nat) (es : List Nat) (rs : List Range) (wt : Option (Nat × Nat × Nat)),
        s.part.stoppedTask j r = none → t2.p.carriersNow x.cab j r y.img desc = some (e0 :: es) →
        Answers (Rd.regionsOk desc) w t2 () t3 → Answers (Rd.writeList y.img) w t3 rs t4 → Answers (Rd.armWait y.img) w t4 wt t5 →
        let id := t5.p.jig.nextTask + 1
        let wait : List Range := (dstRegions desc).map fun g =>
          { die := t5.p.phys g.2.1, first := g.1, n := g.2.2.2, region := some g.2.2.1 }
        let t : Task :=
          { id := id, job := j, rix := r, ctx := x.ctx, cab := x.cab, img := y.img, desc := desc, wait := wt
            toReg := t2.p.sharedRanges desc rs, waitPos := wait, order := t5.p.jig.nextIssue
            dies := sharedDies desc, mcast := decide (128 ≤ e0), units := ((srcBlks desc).map Blk.units).foldl (· + ·) 0
            src := srcStarts (fun n i => (t5.p.region (t5.p.phys n) i).head) (srcBlks desc) 0 [] }
        let p : Part := { t5.p with jig := { t5.p.jig with nextTask := id, nextIssue := t5.p.jig.nextIssue + 1 } }
        exec (.carrier j r st hw) s = settlesTo s
          ((wait.foldl (fun p g => p.reserve g.die (g.region.getD 0) id g.n) ((p.install x .carrier e0 t).alsoOn es t)).forget key)

/-- Models and stream operations (05 R98, R99, R105, R111, 10 R234, R241, R244): the task of an operation issues; its stream's number must lie in the
table, the stream's entry is read, START finds it not live, every other operation joins those that wait on the live stream. PAUSE, RESUME and RESET
that may take effect set their flag. A loaded model takes its Gang. MODEL_LOAD, START, CHUNK, SET, PAUSE, RESUME, RESET, SWAP_OUT, SWAP_IN, END. -/
def Obligations.StreamOperationsAreTaken : Prop :=
  ∀ (s : State) (j r : Nat) (st : RdStat) (hw : Cells) (x : Job) (y : Rec), s.part.liveRec j r = some (x, y) → y.st = .pending →
    s.part.recReady j x r y = true → ∀ (d : Nat) (t : RS),
    let c := x.ctx
    let key := earlyKey (recKey j r)
    let w : Who := ⟨c, x.cab, none, key, r, x.ring⟩
    Answers (Rd.controlNat (bits y.img 128 64) 64) w ⟨s.part.hostSees hw, .clean, st⟩ d t →
    (kindOf y.img = 8 → Part.opDescOk d = true →
      let n := bits d 16 18
      ∀ (i : Instr) (code : Nat), (i, code) ∈ [(Instr.start j r st hw, 0), (Instr.chunk j r st hw, 1), (Instr.set j r st hw, 2),
        (Instr.pause j r st hw, 3), (Instr.resume j r st hw, 4), (Instr.reset j r st hw, 5), (Instr.swapOut j r st hw, 6),
        (Instr.swapIn j r st hw, 7), (Instr.endOp j r st hw, 8)] → bits d 0 4 = code →
      let issued := fun (p : Part) (o : StrOp) =>
        p.issueRec j r (p.homeDie x.cab) (p.strmDie c n x.cab) c { y with result := Part.refusedResult n o }
      (t.p.strmCount c ≤ n → t.p.strm c n = none →
        let o : StrOp := ⟨code, j, r, d, (0, false)⟩
        exec i s = settlesTo s ((((issued t.p o).refuseOp c n o 0x0051).opsAll c).forget key)) ∧
      (∀ (e : Nat) (t1 : RS), n < t.p.strmCount c → Answers (Part.strmEntry c n) w t e t1 → n < t1.p.strmCount c →
        t.p.strm c n = none → t1.p.strm c n = none →
        let o : StrOp := ⟨code, j, r, d, (0, false)⟩
        exec i s = settlesTo s
          (((if code = 0 then (issued t1.p o).startOp c n o [] else (issued t1.p o).refuseOp c n o 0x0053).opsAll c).forget key)) ∧
      ∀ (e : Nat) (z : Strm) (sd : Nat × Bool) (t1 t2 : RS), n < t.p.strmCount c → Answers (Part.strmEntry c n) w t e t1 →
        t.p.strm c n = some z → (code = 1 → z.chunks.length + (z.ops.filter fun o => o.op == 1).length < 4) →
        Answers (if code = 1 then Rd.seed (Ent.seedIdx z.ent) else pure (0, false)) w t1 sd t2 →
        n < t2.p.strmCount c → t2.p.strm c n = some z →
        let o : StrOp := ⟨code, j, r, d, sd⟩
        let q := issued t2.p o
        let u := (q.setStrm c n { z with ops := z.ops ++ [o] }).ops c n
        exec i s = settlesTo s ((u.opsAll c).forget key) ∧
        (z.ops = [] → q.opReady c n z o = true → q.strmRegionsOk c z.ent = true → ∀ b v, (code, b, v) ∈ [(3, 3, 1), (4, 3, 0), (5, 4, 1)] →
          ∃ m : Nat, u.strm c n = some { z.put b 1 v with wrote := m })) ∧
    (let g := bits d 88 5
     kindOf y.img = 7 → bits d 82 6 = 0 → bits d 93 3 = 0 → bits d 112 400 = 0 → bits d 0 64 % 64 = 0 → (t.p.cabGangs x.cab).contains g = true →
      t.p.gangSlots g = [] → ∀ m z, Answers (Rd.asGang g (Rd.image (bits d 0 64) (bits d 64 18) g x.cab)) w t m z →
      let q := (z.p.issueRec j r (z.p.homeDie x.cab) (g / 4) c y).takeModel g c x.cab (bits d 96 16) (bits d 0 64) (bits d 64 18) m
      let q := q.completeRec j r 0 false false (m.2.2.cur + m.2.2.bub * 2 ^ 24 + bits d 96 16 * 2 ^ 48)
      exec (.modelLoad j r st hw) s = settlesTo s (((q.fillCab x.cab).opsAll c).forget key))

/-- Streams between table and slot (05 R104, R107, R108, R110, R113): the save of a SWAPPING stream writes its record and frees its slot; the restore
of a RESTORING one fills its slot, and it becomes RESIDENT; an exchange makes the idlest stream SWAPPING; the oldest chunk completes once
its last row is written. STREAM_SAVE_DONE, STREAM_RESTORE_DONE, STREAM_EXCHANGE, CHUNK_COMPLETE. -/
def Obligations.StreamsComeAndGo : Prop :=
  ∀ (s : State) (c n : Nat), s.part.ctxRuns c = true →
    (∀ x k, s.part.strm c n = some x → s.part.slotOf c n = some k →
      (Ent.state x.ent = 2 → exec (.streamSaveDone c n) s =
        settlesTo s ((((s.part.saveStrm c n k).ops c n).slotFreed c (Ent.cab x.ent)).opsAll c)) ∧
      (Ent.state x.ent = 5 → ∀ st hw sl e v t1 t2, s.part.slot k = some sl →
        let key := earlyStrm c n
        let w : Who := ⟨c, Ent.cab x.ent, some (.lathe, k / 16), key, 0x7FFF, 0⟩
        Answers (Part.rereadEnt c n x.ent) w ⟨s.part.hostSees hw, .clean, st⟩ e t1 →
        Answers (Part.restoreRead e.1 (Hdr.state (s.part.gang (k / 128)).hdr) (Ent.resetNext e.1 || x.marked (Ent.step e.1)) sl) w t1 v t2 →
        let z := { x with ent := setBits e.1 32 20 v.2.1, wrote := e.2, armedAt := t2.p.time }
        let q := ((t2.p.setSlot k { v.1 with initBad := v.2.2 }).setStrm c n z).bumpStream (k / 512) c 2 1
        (q.residentOn c (Ent.cab z.ent) = true → Part.swapWaits x = false →
          exec (.streamRestoreDone c n st hw) s = settlesTo s (((((q.strmState c n 1).curDone c n).ops c n).opsAll c).forget key)) ∧
        (q.residentOn c (Ent.cab z.ent) = true → Part.swapWaits x = true → q.strmRegionsOk c z.ent = true →
          exec (.streamRestoreDone c n st hw) s = settlesTo s (((q.strmState c n 2).mapStrm c n fun x =>
            { x with cur := x.cur ++ x.ops.take 1, ops := x.ops.drop 1 }).forget key)) ∧
        (q.residentOn c (Ent.cab z.ent) = false →
          exec (.streamRestoreDone c n st hw) s = settlesTo s ((q.strmState c n 2).forget key)))) ∧
    (∀ g, let x := s.part.gang g
      let d := s.part.phys (g / 4)
      let idle := 1000 * s.part.rf .streamCtl d 0 0 16
      let l := (s.part.gangSlots g).filterMap fun e => (s.part.strm x.ctx e.2.strm).bind fun z =>
        if Ent.state z.ent = 1 ∧ !e.2.armed ∧ e.2.pend.isNone ∧ z.armedAt + idle ≤ s.part.time then some (e.2.strm, z) else none
      x.loaded = true → x.ctx = c → s.part.residentOn c x.cab = true → s.part.realTime c = false → s.part.rb .streamCtl d 0 16 = true →
      s.part.openSlot g = none → s.part.chosen g ≠ none → ∀ z, (n, z) ∈ l →
      (∀ y ∈ l, y ≠ (n, z) → Part.exchangeRank z < Part.exchangeRank y.2 ∨ (Part.exchangeRank z = Part.exchangeRank y.2 ∧ z.armedAt < y.2.armedAt)) →
        exec (.streamExchange g) s = becomes s ((s.part.bumpStream (g / 4) c 3 1).strmState c n 2)) ∧
    ∀ x h rest t,
      let p := match s.part.slotOf c n with
        | some k => s.part.flush k
        | none => s.part
      let key := earlyKey (recKey h.job h.rix)
      let w : Who := ⟨c, Ent.cab x.ent, (p.slotOf c n).map fun k => (Cls.lathe, k / 16), key, h.rix, (p.job h.job).map Job.ring |>.getD 0⟩
      p.strm c n = some x → x.chunks = h :: rest → h.ended = true → (p.liveRec h.job h.rix).isSome = true →
      Answers (Part.assayStore h.stats) w ⟨p, .clean, .ok⟩ () t →
        let q := (t.p.mapStrm c n fun x => { x with chunks := rest }).strmBack c n
        exec (.chunkComplete c n) s = settlesTo s (((q.completeRec h.job h.rix 0 false (bit x.ent 5) (Part.chunkResult n h)).ops c n).forget key)

/-- A Gang's step (04 R81 to R92, 05 R116): its ready slots with conditioning at hand are armed together; a row of the Feed joins the FIFO, and once
LEAD rows stand there the Lathes take the oldest, which poisons the step, is kept, or runs its Feed cycles; records are read ahead; a reset's initial
vector is loaded; the Punch draws for each slot whose logits stand; the end of the step moves STEP on and marks a late one. GANG_STEP_START,
FEED_ROW_ARRIVE, COND_RECORD_ARRIVE, INIT_VECTOR_LOADED, PUNCH_START, STEP_COMPLETE. -/
def Obligations.GangsStepTogether : Prop :=
  ∀ (s : State) (g k : Nat),
    (let x := s.part.gang g
     s.part.ctxRuns x.ctx = true → s.part.residentOn x.ctx x.cab = true →
      (let p := s.part.stepOps g
       let ready := p.stepReady ((s.part.gangSlots g).map Prod.fst)
       let p := p.stepWakes ready
       let run := p.stepRun ready
       x.loaded = true → x.stepping = false → (s.part.stepOps g).ctxRuns x.ctx = true → run ≠ [] →
        (x.clock = true → ∀ q, p.armAll run = (none, q) → exec (.gangStepStart g) s = settlesTo s (q.stepBegins g) ∧
          (q.stepBegins g).gang g = { q.gang g with stepping := true, layer := 0, taken := 0, armedAt := q.time }) ∧
        (x.clock = true → ∀ q detail, p.armAll run = (some detail, q) →
          exec (.gangStepStart g) s = settlesTo s (q.poisonStep g x.ctx detail)) ∧
        (x.clock = false → exec (.gangStepStart g) s = settlesTo s (p.setGang g { x with waking := true }))) ∧
      (∀ kind row, Part.feedNext x = some (kind, row) → x.stepping = true → s.part.benchUp (s.part.phys (g / 4)) = true →
        x.feed.fifo.length < 256 → x.feed.debt < 16 → x.row + row < 262144 → s.part.rowInGrant x.ctx x.cab (g / 4) (x.row + row) = true →
        s.part.rowBusy (s.part.phys (g / 4)) (x.row + row) (engKey .lathe (8 * g)) = false →
        let d := s.part.rowRead (s.part.phys (g / 4)) (x.row + row) .clean
        let q := d.2.setGang g { x with feed := Part.feedPush x kind d.1.1 d.1.2 }
        (x.feed.fifo.length < x.lead → exec (.feedRowArrive g .clean 0) s = settlesTo s q) ∧
        (x.feed.fifo.length = x.lead → q.feedBlocked g = false → exec (.feedRowArrive g .clean 0) s = settlesTo s (q.feedTake g))) ∧
      exec (.punchStart g) s = becomes s ((s.part.gangSlots g).foldl (Part.punchSlot g x) s.part) ∧
      ∀ (p : Part) (sl : Slot) (q : Pend) (y : Strm), sl.pend = some q → q.drawn = false → p.strm sl.ctx sl.strm = some y →
        let o := Punch.slot x.hdr q.ent sl.strm q.step (Part.stepSeed y q.step) q.logits
        (Part.punchSlot g x p (k, sl)).slot k = some { sl with pend := some { q with drawn := true, outs := o.1, f := o.2 } }) ∧
    (∀ (p : Part) (x : Gang) (l : Layer) (r : FeedRow) (rest : List FeedRow), p.gang g = x → x.feed.fifo = r :: rest →
      x.layers[x.layer]? = some l →
      let f := { x.feed with fifo := rest }
      let y := { x with feed := f, fifoMin := min x.fifoMin rest.length }
      (r.poison = true → p.feedTake g = p.poisonStep g x.ctx (p.stepDetail g)) ∧
      (r.poison = false →
        (r.kind = 0 → p.feedTake g = p.runRow g y l r.data) ∧
        (r.kind = 1 → p.feedTake g = p.setGang g { y with feed := { f with dirs := r.data } }) ∧
        (r.kind = 2 → p.feedTake g = p.setGang g { y with feed := { f with side := f.side ++ r.data } }) ∧
        (r.kind = 3 → p.feedTake g = p.setGang g { y with feed := { f with exps := r.data } }))) ∧
    (∀ sl x hw, s.part.slot k = some sl → s.part.strm sl.ctx sl.strm = some x → s.part.ctxRuns sl.ctx = true → Ent.state x.ent = 1 →
      let n := sl.next x + sl.cond.length
      (∀ st ecc, sl.cond.length < 16 → n < Ent.queued x.ent → s.part.benchUp (s.part.phys (Ent.inDie x.ent)) = true →
        s.part.condReleased x n = true → s.part.condGated x n = [] →
        s.part.fabricHeld (.bench (s.part.phys (k / 512))) (.bench (s.part.phys (Ent.inDie x.ent))) (benchAt (Ent.inDie x.ent) 0) = false →
        let r := (s.part.hostSees hw).condRead x n ecc
        exec (.condRecordArrive k st ecc hw) s = settlesTo s (r.2.setSlot k { sl with cond := sl.cond ++ [r.1] })) ∧
      ∀ st ecc v t, sl.init = none → x.resets (sl.next x) = true →
        Answers (Part.initVec (Ent.initPtr x.ent) (Hdr.state (s.part.gang (k / 128)).hdr))
          ⟨sl.ctx, Ent.cab x.ent, some (.lathe, k / 16), earlyStrm sl.ctx sl.strm, 0x7FFF, 0⟩ ⟨s.part.hostSees hw, ecc, st⟩ v t →
        exec (.initVectorLoaded k st ecc hw) s =
          settlesTo s ((t.p.mapSlot k fun sl => { sl with init := some v.1, initBad := v.2 }).forget (earlyStrm sl.ctx sl.strm))) ∧
    ∀ sl0, s.part.slot k = some sl0 → s.part.ctxRuns sl0.ctx = true →
      let p := s.part.flush k
      ∀ sl q x, p.slot k = some sl → sl.pend = some q → p.strm sl.ctx sl.strm = some x → q.drawn = true → p.ctxRuns sl.ctx = true →
        p.residentOn sl.ctx (Ent.cab x.ent) = true → sl.out.length + Hdr.bands (p.gang (k / 128)).hdr ≤ 256 →
        let u := p.stepEnds k sl q x
        exec (.stepComplete k) s = settlesTo s
          (if sl.armed = true then u else match u.strm sl.ctx sl.strm with
            | some y => Part.runOps sl.ctx sl.strm (p.stepLate q) (y.ops.length + 1) u
            | none => u) ∧
        (q.step + 1 < 2 ^ 64 → Ent.step (Part.stepEntry x.ent q.step (p.stepLate q)) = q.step + 1) ∧
        bit (Part.stepEntry x.ent q.step (p.stepLate q)) 5 = (bit x.ent 5 || p.stepLate q)

/-- Holds (11 R252 to R260): a quantum's end lets the Cabinet decide; a grace eviction starts the save of the blocked hold whose context has made
the least progress; a read that drains for a Cabinet is discarded; a save that nothing holds up leaves a SAVED hold that names its image, and
its counts; a sound image is restored and its hold is RESIDENT. QUANTUM_EXPIRE, GRACE_EVICT, DRAIN_RESPONSE, SAVE_COMPLETE, RESTORE_COMPLETE. -/
def Obligations.HoldsAreSavedAndRestored : Prop :=
  ∀ (s : State) (b c : Nat) (h : Hold), s.part.occupant b = some (c, h) →
    (h.st = .resident → exec (.quantumExpire b) s = becomes s ((s.part.setHold c b { h with quantum := true }).decideCab b)) ∧
    (s.part.rb .schedCtl 0 0 32 = true → (c, b) ∈ s.part.blockedSet → (∃ e ∈ s.part.blockedSet, s.part.wset e.2 ≠ []) →
      (∀ e ∈ s.part.blockedSet, e ≠ (c, b) → (s.part.ctx c).progress < (s.part.ctx e.1).progress) →
      exec .graceEvict s = becomes s
        (((s.part.bump (pkgCtr 4 b 1) 1).bump (pkgCtr 3 c 17) 1).startSave c b (s.part.leastVt (s.part.wset b)))) ∧
    (∀ r, s.part.join.reads.find? (fun r => r.2.drain && r.2.cab == b) = some r →
      exec (.drainResponse b) s = becomes s { s.part with join := { s.part.join with reads := Tab.del r.1 s.part.join.reads } }) ∧
    (h.st = .saving → s.part.ctxRuns c = true → c < 256 →
      (∀ e ∈ s.part.slots, e.2.ctx = c → (s.part.cabGangs b).contains (e.1 / 128) = true → ∀ x, s.part.strm c e.2.strm = some x → Ent.state x.ent ≠ 5) →
      (s.part.join.reads.any fun r => r.2.drain && r.2.cab == b && r.2.msg.ctx == c) = false →
      let mine := s.part.slots.filter fun e => e.2.ctx == c && (s.part.cabGangs b).contains (e.1 / 128)
      let u := mine.foldl (fun (p : Part) e => p.saveStrm c e.2.strm e.1) (s.part.saveTasks c b h)
      let k := (u.hold c b).getD h
      let u := k.gangs.foldl (fun (p : Part) r => p.unbind r.gang) u
      u.imageGap (s.part.imageAt c b) (u.imageBytes b) = none →
      ∃ q : Part, exec (.saveComplete b) s = settlesTo s (q.clearDeadCabs.afterSave b k.next) ∧
        (∃ v, q.hold c b = some v ∧ v.st = .saved ∧ v.image = s.part.imageAt c b ∧ v.next = none) ∧
        (s.part.slots = [] → q.ctr (pkgCtr 4 b 0) = min (s.part.ctr (pkgCtr 4 b 0) + 1) (2 ^ 64 - 1) ∧
          q.ctr (pkgCtr 3 c 16) = min (s.part.ctr (pkgCtr 3 c 16) + 1) (2 ^ 64 - 1))) ∧
    (h.st = .restoring → s.part.ctxRuns c = true → ∀ hw, (s.part.hostSees hw).restoreCheck c b h = none →
      let p := (s.part.hostSees hw).pasteShare c b (h.image + (bits h.hdr 220 10 * 2048 + bits h.hdr 230 6 * 1024 + 45056))
      let p := h.ranges.foldl (fun (p : Part) g => p.setSb g.range.die (p.sbOf g.range.die ++ [{ g with eng := 0x10000 + g.owner }])) p
      let p := p.setHold c b { h with st := .resident, gangs := [], ranges := [], share := [], placed := p.time, quantum := false }
      let p := p.bindSaved c b h.gangs
      p.ctxRuns c = true →
      let p := p.placeSaved c b (h.gangs.flatMap GangRec.streams)
      p.ctxRuns c = true → exec (.restoreComplete b hw) s = settlesTo s
        (((((p.resumeAll c b).fillCab b).bump (pkgCtr 4 b 2) 1).bump (pkgCtr 3 c 18) 1).opsAll c)) ∧
    ∀ hw f, h.st = .restoring → s.part.ctxRuns c = true → (s.part.hostSees hw).restoreCheck c b h = some f →
      exec (.restoreComplete b hw) s = settlesTo s ((s.part.hostSees hw).ctxFault c ⟨f.1, .none, 0, none, f.2⟩)

/-- Dowel ports, the fault interrupt and time (01 R18, R20, 18 R418, 16 R382): a flit error resends, the 16th failed resend in a row retrains, a port
that fails to retrain takes a bench die out; a message that is owed is sent once 10 us have passed; a tick of the pilot clock adds 40 ns to
device time, less or more only while the join slews it. DOWEL_FLIT_CRC_ERR, DOWEL_RETRAIN_DONE, FAULT_IRQ_TIMER, PILOT_TICK. -/
def Obligations.TimersAndPortsAdvance : Prop :=
  ∀ s : State,
    (∀ d, d < 26 → (s.part.dowel d).training = false →
      let p := s.part.bump (pkgCtr 1 d 0) 1
      exec (.dowelFlitCrcErr d false) s = becomes s ((p.setDowel d { s.part.dowel d with fails := 0 }).bump (pkgCtr 1 d 1) 1) ∧
      ((s.part.dowel d).fails < 15 → exec (.dowelFlitCrcErr d true) s =
        becomes s ((p.setDowel d { s.part.dowel d with fails := (s.part.dowel d).fails + 1 }).bump (pkgCtr 1 d 1) 1)) ∧
      (15 ≤ (s.part.dowel d).fails → exec (.dowelFlitCrcErr d true) s = becomes s
        (((p.setDowel d { fails := (s.part.dowel d).fails + 1, training := true }).bump (pkgCtr 1 d 2) 1).recordFault ⟨0x0140, .dowel, d, none, 0⟩))) ∧
    (∀ d, (s.part.dowel d).training = true → exec (.dowelRetrainDone d true) s = settlesTo s (s.part.setDowel d {}) ∧
      (s.part.svcState (dowelDie d) ≠ 6 → exec (.dowelRetrainDone d false) s =
        settlesTo s ((s.part.setDowel d {}).benchDieFatal (dowelDie d) 0x0870))) ∧
    (s.part.flog.spacing = true →
      (s.part.flog.owed = true → s.part.rb .faultCtl 0 0 12 = true → exec .faultIrqTimer s = becomes s
        (({ s.part with flog := { s.part.flog with owed := false } } : Part).signal (if s.part.rb .faultCtl 0 0 11 then 256 else 0)
          (s.part.rf .faultCtl 0 0 0 11))) ∧
      (s.part.flog.owed = false → exec .faultIrqTimer s =
        becomes s { s.part with flog := { s.part.flog with owed := false, spacing := false } })) ∧
    (s.part.power.held = false → s.part.power.started = true → s.part.power.rails = true → ∃ q : Part, exec .pilotTick s = becomes s q ∧
      (s.part.join.half = false → s.part.join.slew = 0 → q.time = (s.part.time + 40) % 2 ^ 64) ∧
      (s.part.join.half = true → q.time = (s.part.time + 20) % 2 ^ 64) ∧
      (s.part.join.half = false → q.time = (s.part.time + 39) % 2 ^ 64 ∨ q.time = (s.part.time + 40) % 2 ^ 64 ∨ q.time = (s.part.time + 41) % 2 ^ 64) ∧
      q.regs = s.part.regs ∧ q.mem = s.part.mem ∧ q.hif = s.part.hif ∧ q.strms = s.part.strms)

/-- The size of a Planer's output along an axis (06 R122), for every stored parameter block; a 1-D task's other axis has size 1. -/
def Obligations.PlanerOutputSizes : Prop :=
  ∀ (b : Nat), let q := PlanerPar.of b
    let plain := fun (inp k s d lo hi out : Nat) =>
      let x : Int := (Int.ofNat inp + Int.ofNat lo + Int.ofNat hi - Int.ofNat d * (Int.ofNat k - 1) - 1).fdiv (Int.ofNat s) + 1
      Int.ofNat out = if 0 < x then x else 0
    let transposed := fun (inp k s d lo hi extra out : Nat) =>
      let x : Int := (Int.ofNat inp - 1) * Int.ofNat s + Int.ofNat d * (Int.ofNat k - 1) + 1 - Int.ofNat lo - Int.ofNat hi + Int.ofNat extra
      Int.ofNat out = if 0 < x then x else 0
    (q.op = 0 ∨ q.op = 2 ∨ q.op = 3 → plain q.h q.kh q.sh q.dh q.padLoH q.padHiH q.oh ∧ plain q.w q.kw q.sw q.dw q.padLoW q.padHiW q.ow) ∧
    (q.op = 1 → transposed q.h q.kh q.sh q.dh q.padLoH q.padHiH q.extraH q.oh ∧ transposed q.w q.kw q.sw q.dw q.padLoW q.padHiW q.extraW q.ow) ∧
    (q.op ≤ 3 → q.h = 1 → q.kh = 1 → q.sh = 1 → q.dh = 1 → q.padLoH = 0 → q.padHiH = 0 → q.extraH = 0 → q.oh = 1)

/-- Set-up registers stand at the offsets of the map and nowhere else (19 R422, Tables 19-1 to 19-4): an offset holds register `r` exactly where
the tables put that instance, in the window of a die that exists and holds it. -/
def Obligations.RegistersStandAtTheirOffsets : Prop :=
  ∀ (off d i : Nat) (r : RegName), regAt off = some ⟨r, d, i⟩ ↔
    off = regOff r d i ∧ i < (regRow r).count ∧
      (match (regRow r).win with
        | .glob => d = 0
        | .bench => d < 8
        | .frame => d < 4 ∧ onFrame r d = true)

/-- Commands that neither store nor post leave every byte of device memory, its poison and host memory as they were, and the contexts, jobs,
streams and Gangs of the part with them. -/
def Obligations.QuietCommandsKeepMemory : Prop :=
  ∀ (s t : State) (i : Instr), Quiet i → exec i s = .next t →
    (∀ a, t.part.mem.get a = s.part.mem.get a) ∧ t.part.mem.poison = s.part.mem.poison ∧ t.part.mem.host = s.part.mem.host ∧
      t.part.jig = s.part.jig ∧ t.part.ctxs = s.part.ctxs ∧ t.part.strms = s.part.strms ∧ t.part.gangs = s.part.gangs ∧ t.part.slots = s.part.slots

/-- A step runs the command at the front of the queue on the state with the queue's rest; on an empty queue the block idles (log entry 2: the
model's choice). -/
def Obligations.StepRunsTheFrontCommand : Prop :=
  ∀ (s : State) (c : Instr) (rest : List Instr),
    (s.pending = c :: rest → step s = exec c { s with pending := rest }) ∧ (s.pending = [] → step s = .next s)

/-- What every step keeps (18 R416, R420): from a part whose tables are in order, whose counters lie below 2^64 and whose fault log holds at most
1,024 entries, a step answers such a part with the queue's rest; it answers a next state for every command within the ratings, and a
command above the absolute maximum stops by name (16 R367). -/
def Obligations.EveryStepKeepsThePartGood : Prop :=
  ∀ s : State,
    (Good s.part → ∀ t, step s = .next t → Good t.part ∧ t.pending = s.pending.drop 1) ∧
    ((∀ c ∈ s.pending.head?, WithinRatings c) → ∃ t, step s = .next t) ∧
    ∀ mv, 66000 < mv → (∀ aonLost straps, exec (.powerOnReset mv aonLost straps) s = .fault .absoluteMaximum) ∧
      exec (.overVoltage mv) s = .fault .absoluteMaximum

/-- The machine after reset (19 R422, 16 R382, 18 R420): its part is good, no command waits, every register reads the value of its table row,
device time is 0 and no counter has advanced. A row without a value reads the model's choice (log entry 5). -/
def Obligations.ResetIsGood : Prop :=
  Good State.reset.part ∧ State.reset.pending = [] ∧ State.reset.part.time = 0 ∧ (∀ a, State.reset.part.ctr a = 0) ∧
    (∀ r d i, State.reset.part.rv r d i = (regRow r).reset % 2 ^ 64) ∧ State.reset.part.rv .pkgIdent 0 0 = 0x00B18840
end

