-- ==== Sys2Proof/Laws/Tab.lean ====
section
/-!
SUPPORT. Sys2Proof/Laws/Tab.lean: what the finite maps of Tab answer and that their operations keep the keys rising.
-/

namespace Sys2Proof.Tab

variable {α β : Type}

@[simp] theorem find_put_same (k : Nat) (v : α) (t : Tab α) : find k (put k v t) = some v := by
  induction t with
  | nil => simp [put, find]
  | cons e t ih =>
    obtain ⟨j, w⟩ := e
    unfold put
    split
    · simp [find]
    · split
      · simp [find]
      · rename_i h; simp [find, h, ih]

theorem find_put_other {j k : Nat} (h : j ≠ k) (v : α) (t : Tab α) : find j (put k v t) = find j t := by
  induction t with
  | nil => simp [put, find, Ne.symm h]
  | cons e t ih =>
    obtain ⟨i, w⟩ := e
    unfold put
    split
    · simp [find, Ne.symm h]
    · split
      · rename_i h2; subst h2; simp [find, Ne.symm h]
      · simp only [find]; split
        · rfl
        · exact ih

theorem find_put (j k : Nat) (v : α) (t : Tab α) : find j (put k v t) = if j = k then some v else find j t := by
  split
  · rename_i h; subst h; exact find_put_same _ _ _
  · rename_i h; exact find_put_other h _ _

@[simp] theorem getD_put_same (k : Nat) (v d : α) (t : Tab α) : getD (put k v t) k d = v := by simp [getD]

theorem getD_put_other {j k : Nat} (h : j ≠ k) (v d : α) (t : Tab α) : getD (put k v t) j d = getD t j d := by
  simp [getD, find_put_other h]

/-- Every key of a rising table is above its first. -/
theorem wf_lt : ∀ (e : Nat × α) (t : Tab α), wf (e :: t) = true → ∀ x ∈ t, e.1 < x.1
  | _, [], _, _, hx => by simp at hx
  | (j, _), (k, w) :: t, h, x, hx => by
    simp only [wf, Bool.and_eq_true, decide_eq_true_eq] at h
    rcases List.mem_cons.mp hx with rfl | hx
    · exact h.1
    · exact Nat.lt_trans h.1 (wf_lt (k, w) t h.2 x hx)

theorem wf_tail {e : Nat × α} {t : Tab α} (h : wf (e :: t) = true) : wf t = true := by
  match t with
  | [] => rfl
  | (k, w) :: t => simp only [wf, Bool.and_eq_true] at h; exact h.2

theorem wf_cons (e : Nat × α) (t : Tab α) : wf (e :: t) = true ↔ (∀ x ∈ t, e.1 < x.1) ∧ wf t = true := by
  constructor
  · exact fun h => ⟨wf_lt e t h, wf_tail h⟩
  · intro ⟨h1, h2⟩
    match t with
    | [] => rfl
    | (k, w) :: t =>
      simp only [wf, Bool.and_eq_true, decide_eq_true_eq]
      exact ⟨h1 (k, w) (by simp), h2⟩

/-- A table is rising exactly when its keys are pairwise in order. -/
theorem wf_iff (t : Tab α) : wf t = true ↔ t.Pairwise (fun a b => a.1 < b.1) := by
  induction t with
  | nil => simp [wf]
  | cons e t ih => rw [wf_cons, List.pairwise_cons, ih]

theorem mem_put {k : Nat} {v : α} {t : Tab α} {x : Nat × α} (h : x ∈ put k v t) : x = (k, v) ∨ x ∈ t := by
  induction t with
  | nil => simpa [put] using h
  | cons e t ih =>
    obtain ⟨j, w⟩ := e
    unfold put at h
    split at h
    · simpa using h
    · split at h
      · rcases List.mem_cons.mp h with h | h
        · exact .inl h
        · exact .inr (List.mem_cons_of_mem _ h)
      · rcases List.mem_cons.mp h with h | h
        · exact .inr (by simp [h])
        · rcases ih h with h | h
          · exact .inl h
          · exact .inr (List.mem_cons_of_mem _ h)

theorem wf_put (k : Nat) (v : α) (t : Tab α) (h : wf t = true) : wf (put k v t) = true := by
  induction t with
  | nil => rfl
  | cons e t ih =>
    obtain ⟨j, w⟩ := e
    rw [wf_cons] at h
    unfold put
    split
    · rename_i hk
      rw [wf_cons, wf_cons]
      refine ⟨fun x hx => ?_, h⟩
      rcases List.mem_cons.mp hx with rfl | hx
      · exact hk
      · exact Nat.lt_trans hk (h.1 x hx)
    · split
      · rename_i h2; subst h2; rw [wf_cons]; exact h
      · rename_i h1 h2
        rw [wf_cons]
        refine ⟨fun x hx => ?_, ih h.2⟩
        rcases mem_put hx with rfl | hx
        · simp only; omega
        · exact h.1 x hx

theorem wf_filter (f : Nat × α → Bool) (t : Tab α) (h : wf t = true) : wf (t.filter f) = true := by
  rw [wf_iff] at *; exact h.filter f

theorem mem_del {k : Nat} {t : Tab α} {x : Nat × α} (h : x ∈ del k t) : x ∈ t := by
  induction t with
  | nil => simp [del] at h
  | cons e t ih =>
    obtain ⟨j, w⟩ := e
    simp only [del] at h
    split at h
    · exact List.mem_cons_of_mem _ h
    · rcases List.mem_cons.mp h with h | h
      · simp [h]
      · exact List.mem_cons_of_mem _ (ih h)

theorem wf_del (k : Nat) (t : Tab α) (h : wf t = true) : wf (del k t) = true := by
  induction t with
  | nil => rfl
  | cons e t ih =>
    obtain ⟨j, w⟩ := e
    rw [wf_cons] at h
    simp only [del]
    split
    · exact h.2
    · rw [wf_cons]; exact ⟨fun x hx => h.1 x (mem_del hx), ih h.2⟩

/-- A value found in a table is listed in it. -/
theorem mem_of_find {k : Nat} {v : α} {t : Tab α} (h : find k t = some v) : (k, v) ∈ t := by
  induction t with
  | nil => simp [find] at h
  | cons e t ih =>
    obtain ⟨j, w⟩ := e
    simp only [find] at h
    split at h
    · rename_i hj; simp_all
    · exact List.mem_cons_of_mem _ (ih h)

/-- In a rising table each listed value is the one found. -/
theorem find_of_mem {k : Nat} {v : α} {t : Tab α} (hw : wf t = true) (h : (k, v) ∈ t) : find k t = some v := by
  induction t with
  | nil => simp at h
  | cons e t ih =>
    obtain ⟨j, w⟩ := e
    rw [wf_cons] at hw
    rcases List.mem_cons.mp h with h | h
    · simp only [Prod.mk.injEq] at h; simp [find, h.1, h.2]
    · have := hw.1 _ h
      simp only [find]
      split
      · simp only at this; omega
      · exact ih hw.2 h

theorem getD_put (j k : Nat) (v d : α) (t : Tab α) : getD (put k v t) j d = if j = k then v else getD t j d := by
  unfold getD; rw [find_put]; split <;> rfl

theorem find_del_same {k : Nat} {t : Tab α} (h : wf t = true) : find k (del k t) = none := by
  induction t with
  | nil => rfl
  | cons e t ih =>
    obtain ⟨j, w⟩ := e
    rw [wf_cons] at h
    simp only [del]
    split
    · rename_i hj
      cases hf : find k t with
      | none => rfl
      | some v => have := h.1 _ (mem_of_find hf); simp only at this; omega
    · rename_i hj; simp [find, hj, ih h.2]

theorem find_del_other {j k : Nat} (h : j ≠ k) (t : Tab α) : find j (del k t) = find j t := by
  induction t with
  | nil => rfl
  | cons e t ih =>
    obtain ⟨i, w⟩ := e
    simp only [del]
    split
    · rename_i hi; simp [find, show i ≠ j by omega]
    · simp only [find]; rw [ih]

theorem find_mapV (f : Nat → α → β) (k : Nat) (t : Tab α) : find k (mapV f t) = (find k t).map (f k) := by
  induction t with
  | nil => rfl
  | cons e t ih =>
    obtain ⟨j, w⟩ := e
    simp only [mapV, List.map_cons, find] at *
    split
    · rename_i h; subst h; rfl
    · exact ih

theorem find_upd (j k : Nat) (f : α → α) (t : Tab α) : find j (upd k f t) = if j = k then (find j t).map f else find j t := by
  induction t with
  | nil => simp [upd, find]
  | cons e t ih =>
    obtain ⟨i, w⟩ := e
    simp only [upd, List.map_cons] at *
    by_cases hi : i = k
    · subst hi; simp only [if_true, find]
      by_cases hj : i = j
      · subst hj; simp
      · simp only [hj, if_false]; rw [ih]
    · simp only [hi, if_false, find]
      by_cases hj : i = j
      · subst hj; simp [hi]
      · simp only [hj, if_false]; rw [ih]

theorem wf_map_key (f : Nat × α → Nat × β) (hf : ∀ e, (f e).1 = e.1) (t : Tab α) (h : wf t = true) : wf (t.map f) = true := by
  rw [wf_iff] at *
  rw [List.pairwise_map]
  exact h.imp fun {a b} hab => by rw [hf, hf]; exact hab

theorem wf_mapV (f : Nat → α → β) (t : Tab α) (h : wf t = true) : wf (mapV f t) = true :=
  wf_map_key (fun e => (e.1, f e.1 e.2)) (fun _ => rfl) t h

theorem wf_upd (k : Nat) (f : α → α) (t : Tab α) (h : wf t = true) : wf (upd k f t) = true :=
  wf_map_key (fun e => if e.1 = k then (e.1, f e.2) else e) (fun e => by split <;> rfl) t h

theorem wf_keep (f : Nat → α → Bool) (t : Tab α) (h : wf t = true) : wf (keep f t) = true := wf_filter _ _ h

theorem wf_append {s t : Tab α} (hs : wf s = true) (ht : wf t = true) (h : ∀ a ∈ s, ∀ b ∈ t, a.1 < b.1) : wf (s ++ t) = true := by
  rw [wf_iff] at *
  rw [List.pairwise_append]
  exact ⟨hs, ht, h⟩

theorem find_append_left {k : Nat} {s t : Tab α} (h : ∀ b ∈ t, b.1 ≠ k) : find k (s ++ t) = find k s := by
  induction s with
  | nil =>
    cases hf : find k t with
    | none => simpa [find] using hf
    | some v => exact absurd rfl (h _ (mem_of_find hf))
  | cons e s ih =>
    obtain ⟨j, w⟩ := e
    simp only [List.cons_append, find]
    split
    · rfl
    · exact ih

theorem find_append_right {k : Nat} {s t : Tab α} (h : ∀ a ∈ s, a.1 ≠ k) : find k (s ++ t) = find k t := by
  induction s with
  | nil => rfl
  | cons e s ih =>
    obtain ⟨j, w⟩ := e
    have hj : j ≠ k := h (j, w) (by simp)
    simp only [List.cons_append, find, hj, if_false]
    exact ih fun a ha => h a (List.mem_cons_of_mem _ ha)

theorem find_none {k : Nat} {t : Tab α} (h : ∀ a ∈ t, a.1 ≠ k) : find k t = none := by
  cases hf : find k t with
  | none => rfl
  | some v => exact absurd rfl (h _ (mem_of_find hf))

theorem find_filter {f : Nat × α → Bool} {k : Nat} {t : Tab α} (h : ∀ v, f (k, v) = true) : find k (t.filter f) = find k t := by
  induction t with
  | nil => rfl
  | cons e t ih =>
    obtain ⟨j, w⟩ := e
    by_cases hj : j = k
    · subst hj; simp [h w, find]
    · rw [List.filter_cons]
      split
      · simp only [find, hj, if_false]; exact ih
      · simp only [find, hj, if_false]; exact ih

end Sys2Proof.Tab
end

