-- ==== Sys2Proof/Laws/Mem.lean ====
section
/-!
SUPPORT. Sys2Proof/Laws/Mem.lean: memory reads back what was written, and every memory operation keeps its canonical form.
-/

namespace Sys2Proof.Machine
open Sys2Proof

namespace Cells

theorem wf_iff (c : Cells) : wf c = true ↔ Tab.wf c = true ∧ ∀ e ∈ c, e.2 ≠ 0 := by
  simp [wf, Tab.canon, List.all_eq_true]

theorem wf_nil : wf [] = true := rfl

theorem wf_filter (f : Host.Cell → Bool) (c : Cells) (h : wf c = true) : wf (c.filter f) = true := by
  rw [wf_iff] at *
  exact ⟨Tab.wf_filter f c h.1, fun e he => h.2 e (List.mem_filter.mp he).1⟩

theorem mem_run {bs : List Byte} {a : Nat} {e : Host.Cell} (h : e ∈ run a bs) : a ≤ e.1 ∧ e.1 < a + bs.length ∧ e.2 ≠ 0 := by
  induction bs generalizing a with
  | nil => simp [run] at h
  | cons b t ih =>
    simp only [run] at h
    simp only [List.length_cons]
    split at h
    · have := ih h; exact ⟨by omega, by omega, this.2.2⟩
    · rename_i hb
      rcases List.mem_cons.mp h with rfl | h
      · exact ⟨Nat.le_refl _, by simp, hb⟩
      · have := ih h; exact ⟨by omega, by omega, this.2.2⟩

theorem wf_run (a : Nat) (bs : List Byte) : Tab.wf (run a bs) = true := by
  induction bs generalizing a with
  | nil => rfl
  | cons b t ih =>
    simp only [run]
    split
    · exact ih _
    · rw [Tab.wf_cons]
      exact ⟨fun x hx => by have := (mem_run hx).1; simp only; omega, ih _⟩

/-- A write keeps the canonical form. -/
theorem wf_write (c : Cells) (a : Nat) (bs : List Byte) (h : wf c = true) : wf (write c a bs) = true := by
  rw [wf_iff] at *
  unfold write
  constructor
  · apply Tab.wf_append
    · apply Tab.wf_append (Tab.wf_filter _ _ h.1) (wf_run a bs)
      intro x hx y hy
      have h1 := (List.mem_filter.mp hx).2
      have h2 := (mem_run hy).1
      simp only [decide_eq_true_eq] at h1; omega
    · exact Tab.wf_filter _ _ h.1
    · intro x hx y hy
      have h3 := (List.mem_filter.mp hy).2
      simp only [decide_eq_true_eq] at h3
      rcases List.mem_append.mp hx with hx | hx
      · have h1 := (List.mem_filter.mp hx).2
        simp only [decide_eq_true_eq] at h1; omega
      · have := (mem_run hx).2.1; omega
  · intro e he
    simp only [List.mem_append] at he
    rcases he with (he | he) | he
    · exact h.2 e (List.mem_filter.mp he).1
    · exact (mem_run he).2.2
    · exact h.2 e (List.mem_filter.mp he).1

theorem wf_clear (c : Cells) (a n : Nat) (h : wf c = true) : wf (clear c a n) = true := wf_filter _ c h

theorem find_run (a : Nat) (bs : List Byte) (i : Nat) (hi : i < bs.length) : (Tab.find (a + i) (run a bs)).getD 0 = bs[i] := by
  induction bs generalizing a i with
  | nil => simp at hi
  | cons b t ih =>
    have low : ∀ x ∈ run (a + 1) t, x.1 ≠ a := fun x hx => by have := (mem_run hx).1; omega
    cases i with
    | zero =>
      simp only [run, Nat.add_zero, List.getElem_cons_zero]
      split
      · rename_i hb; rw [Tab.find_none low, hb]; rfl
      · simp [Tab.find]
    | succ j =>
      have hj : j < t.length := by simpa using hi
      have e : a + (j + 1) = a + 1 + j := by omega
      simp only [run, List.getElem_cons_succ]
      rw [e]
      split
      · exact ih (a + 1) j hj
      · simp only [Tab.find]
        rw [if_neg (by omega)]
        exact ih (a + 1) j hj

/-- A written byte reads back. -/
theorem get_write_in (c : Cells) (a : Nat) (bs : List Byte) (i : Nat) (hi : i < bs.length) : get (write c a bs) (a + i) = bs[i] := by
  unfold get write Tab.getD
  rw [Tab.find_append_left, Tab.find_append_right]
  · exact find_run a bs i hi
  · intro x hx
    have h1 := (List.mem_filter.mp hx).2
    simp only [decide_eq_true_eq] at h1; omega
  · intro x hx
    have h1 := (List.mem_filter.mp hx).2
    simp only [decide_eq_true_eq] at h1; omega

/-- A write leaves every other byte alone. -/
theorem get_write_out (c : Cells) (a : Nat) (bs : List Byte) (x : Nat) (h : x < a ∨ a + bs.length ≤ x) : get (write c a bs) x = get c x := by
  unfold get write Tab.getD
  have hr : ∀ e ∈ run a bs, e.1 ≠ x := fun e he => by have := mem_run he; omega
  rcases h with h | h
  · rw [Tab.find_append_left, Tab.find_append_left hr, Tab.find_filter]
    · intro v; simpa using h
    · intro e he
      have h1 := (List.mem_filter.mp he).2
      simp only [decide_eq_true_eq] at h1; omega
  · rw [Tab.find_append_right, Tab.find_filter]
    · intro v; simpa using h
    · intro e he
      rcases List.mem_append.mp he with he | he
      · have h1 := (List.mem_filter.mp he).2
        simp only [decide_eq_true_eq] at h1; omega
      · exact hr e he

theorem get_clear_in (c : Cells) (a n x : Nat) (h : a ≤ x ∧ x < a + n) : get (clear c a n) x = 0 := by
  unfold get clear Tab.getD
  rw [Tab.find_none]; rfl
  intro e he
  have h1 := (List.mem_filter.mp he).2
  simp only [Bool.or_eq_true, decide_eq_true_eq] at h1; omega

theorem get_clear_out (c : Cells) (a n x : Nat) (h : x < a ∨ a + n ≤ x) : get (clear c a n) x = get c x := by
  unfold get clear Tab.getD
  rw [Tab.find_filter]
  intro v
  simpa using h

@[simp] theorem read_length (c : Cells) (a n : Nat) : (read c a n).length = n := by simp [read]

end Cells

namespace Memory

@[simp] theorem write_host (m : Memory) (a : Nat) (bs : List Byte) : (m.write a bs).host = m.host := rfl
@[simp] theorem write_opens (m : Memory) (a : Nat) (bs : List Byte) : (m.write a bs).opens = m.opens := rfl
@[simp] theorem write_poison (m : Memory) (a : Nat) (bs : List Byte) : (m.write a bs).poison = m.poison := rfl
@[simp] theorem hostWrite_cells (m : Memory) (a : Nat) (bs : List Byte) : (m.hostWrite a bs).cells = m.cells := rfl
@[simp] theorem hostWrite_opens (m : Memory) (a : Nat) (bs : List Byte) : (m.hostWrite a bs).opens = m.opens := rfl
@[simp] theorem hostWrite_poison (m : Memory) (a : Nat) (bs : List Byte) : (m.hostWrite a bs).poison = m.poison := rfl
@[simp] theorem hostPut_cells (m : Memory) (hw : Cells) : (m.hostPut hw).cells = m.cells := rfl
@[simp] theorem hostPut_opens (m : Memory) (hw : Cells) : (m.hostPut hw).opens = m.opens := rfl
@[simp] theorem hostPut_poison (m : Memory) (hw : Cells) : (m.hostPut hw).poison = m.poison := rfl
@[simp] theorem setPoison_cells (m : Memory) (u : Nat) (v : Bool) : (m.setPoison u v).cells = m.cells := rfl
@[simp] theorem setPoison_host (m : Memory) (u : Nat) (v : Bool) : (m.setPoison u v).host = m.host := rfl
@[simp] theorem setPoison_opens (m : Memory) (u : Nat) (v : Bool) : (m.setPoison u v).opens = m.opens := rfl
@[simp] theorem openRange_host (m : Memory) (a n id mode : Nat) : (m.openRange a n id mode).host = m.host := rfl
@[simp] theorem zeroStack_host (m : Memory) (mode s : Nat) : (m.zeroStack mode s).host = m.host := rfl
@[simp] theorem hostPut_nil (m : Memory) : m.hostPut [] = m := rfl

theorem wf_iff (m : Memory) : m.wf = true ↔ Cells.wf m.cells = true ∧ Cells.wf m.host = true := by simp [wf]

@[simp] theorem write_wf (m : Memory) (a : Nat) (bs : List Byte) (h : m.wf = true) : (m.write a bs).wf = true := by
  rw [wf_iff] at *; exact ⟨Cells.wf_write _ _ _ h.1, h.2⟩

@[simp] theorem openRange_wf (m : Memory) (a n id mode : Nat) (h : m.wf = true) : (m.openRange a n id mode).wf = true := by
  rw [wf_iff] at *; exact ⟨Cells.wf_clear _ _ _ h.1, h.2⟩

@[simp] theorem zeroStack_wf (m : Memory) (mode s : Nat) (h : m.wf = true) : (m.zeroStack mode s).wf = true := by
  rw [wf_iff] at *; exact ⟨Cells.wf_filter _ _ h.1, h.2⟩

@[simp] theorem hostWrite_wf (m : Memory) (a : Nat) (bs : List Byte) (h : m.wf = true) : (m.hostWrite a bs).wf = true := by
  rw [wf_iff] at *; exact ⟨h.1, Cells.wf_write _ _ _ h.2⟩

theorem foldl_write_wf (hw : Cells) (c : Cells) (h : Cells.wf c = true) :
    Cells.wf (hw.foldl (fun c e => Cells.write c e.1 [e.2]) c) = true := by
  induction hw generalizing c with
  | nil => exact h
  | cons e t ih => exact ih _ (Cells.wf_write _ _ _ h)

@[simp] theorem hostPut_wf (m : Memory) (hw : Cells) (h : m.wf = true) : (m.hostPut hw).wf = true := by
  rw [wf_iff] at *; exact ⟨h.1, foldl_write_wf hw _ h.2⟩

@[simp] theorem setPoison_wf (m : Memory) (u : Nat) (v : Bool) (h : m.wf = true) : (m.setPoison u v).wf = true := h

theorem foldl_wf {α : Type} {f : Memory → α → Memory} {l : List α} {m : Memory} (h : m.wf = true)
    (hf : ∀ m a, m.wf = true → (f m a).wf = true) : (l.foldl f m).wf = true := by
  induction l generalizing m with
  | nil => exact h
  | cons a t ih => exact ih (hf m a h)

/-- A byte written reads back. -/
theorem get_write_in (m : Memory) (a : Nat) (bs : List Byte) (i : Nat) (hi : i < bs.length) : (m.write a bs).get (a + i) = bs[i] := by
  have hb : (m.write a bs).base (a + i) = m.base (a + i) := rfl
  unfold get
  rw [hb]
  simp only [write]
  rw [Cells.get_write_in _ _ _ _ (by simpa using hi)]
  simp only [List.getElem_mapIdx]
  rw [BitVec.xor_assoc, BitVec.xor_self, BitVec.xor_zero]

/-- A write leaves every other byte of device memory alone. -/
theorem get_write_out (m : Memory) (a : Nat) (bs : List Byte) (x : Nat) (h : x < a ∨ a + bs.length ≤ x) : (m.write a bs).get x = m.get x := by
  have hb : (m.write a bs).base x = m.base x := rfl
  unfold get
  rw [hb]
  simp only [write]
  rw [Cells.get_write_out _ _ _ _ (by simpa using h)]

/-- A byte of an open range is the free byte of its newest range until it is written. -/
theorem get_openRange_in (m : Memory) (a n id mode x : Nat) (h : a ≤ x ∧ x < a + n) : (m.openRange a n id mode).get x = Config.freeByte id x := by
  unfold get openRange
  simp only
  rw [Cells.get_clear_in _ _ _ _ h]
  simp only [base, List.find?_cons, OpenRange.has]
  simp [h.1, h.2]

/-- Clearing a range keeps the canonical form, whatever becomes of the open ranges and the poison. -/
theorem cleared_wf {m : Memory} {a n : Nat} {o : List OpenRange} {q : List Nat} (h : m.wf = true) :
    Memory.wf { cells := Cells.clear m.cells a n, host := m.host, opens := o, poison := q } = true := by
  rw [wf_iff] at *; exact ⟨Cells.wf_clear _ _ _ h.1, h.2⟩

theorem poison_wf {m : Memory} {q : List Nat} (h : m.wf = true) : Memory.wf { m with poison := q } = true := by
  rw [wf_iff] at *; exact h

/-- Reset leaves host memory alone. -/
theorem hostOnly_wf {m : Memory} (h : m.wf = true) : Memory.wf { host := m.host } = true := by
  rw [wf_iff] at *; exact ⟨rfl, h.2⟩

end Memory

end Sys2Proof.Machine
end

