-- ==== Sys2Proof/Laws/State.lean ====
section
/-!
SUPPORT. Sys2Proof/Laws/State.lean: what each named update leaves alone, field by field, and that `bump` and `free` touch one field only.
-/

namespace Sys2Proof.Machine.Part
open Sys2Proof

section
variable (p : Part) (r : RegName) (d i v : Nat)
@[simp] theorem setReg_fresh : (p.setReg r d i v).fresh = p.fresh := rfl
@[simp] theorem setReg_time : (p.setReg r d i v).time = p.time := rfl
@[simp] theorem setReg_ctrs : (p.setReg r d i v).ctrs = p.ctrs := rfl
@[simp] theorem setReg_hif : (p.setReg r d i v).hif = p.hif := rfl
@[simp] theorem setReg_mem : (p.setReg r d i v).mem = p.mem := rfl
@[simp] theorem setReg_jig : (p.setReg r d i v).jig = p.jig := rfl
@[simp] theorem setReg_ctxs : (p.setReg r d i v).ctxs = p.ctxs := rfl
@[simp] theorem setReg_holds : (p.setReg r d i v).holds = p.holds := rfl
@[simp] theorem setReg_strms : (p.setReg r d i v).strms = p.strms := rfl
@[simp] theorem setReg_slots : (p.setReg r d i v).slots = p.slots := rfl
@[simp] theorem setReg_gangs : (p.setReg r d i v).gangs = p.gangs := rfl
@[simp] theorem setReg_bench : (p.setReg r d i v).bench = p.bench := rfl
@[simp] theorem setReg_flog : (p.setReg r d i v).flog = p.flog := rfl
@[simp] theorem setReg_probe : (p.setReg r d i v).probe = p.probe := rfl
@[simp] theorem setReg_stacks : (p.setReg r d i v).stks = p.stks := rfl
@[simp] theorem setReg_cups : (p.setReg r d i v).cups = p.cups := rfl
@[simp] theorem setReg_chest : (p.setReg r d i v).chest = p.chest := rfl
@[simp] theorem setReg_audio : (p.setReg r d i v).audio = p.audio := rfl
@[simp] theorem setReg_links : (p.setReg r d i v).links = p.links := rfl
@[simp] theorem setReg_join : (p.setReg r d i v).join = p.join := rfl
@[simp] theorem setReg_power : (p.setReg r d i v).power = p.power := rfl
@[simp] theorem setReg_clocks : (p.setReg r d i v).clocks = p.clocks := rfl
@[simp] theorem setReg_svc : (p.setReg r d i v).svc = p.svc := rfl
@[simp] theorem setReg_mark : (p.setReg r d i v).mark = p.mark := rfl
@[simp] theorem setReg_dowels : (p.setReg r d i v).dowels = p.dowels := rfl
@[simp] theorem setReg_cars : (p.setReg r d i v).cars = p.cars := rfl
end

section
variable (p : Part) (r : RegName) (d i lo w v : Nat)
@[simp] theorem setRf_fresh : (p.setRf r d i lo w v).fresh = p.fresh := rfl
@[simp] theorem setRf_time : (p.setRf r d i lo w v).time = p.time := rfl
@[simp] theorem setRf_ctrs : (p.setRf r d i lo w v).ctrs = p.ctrs := rfl
@[simp] theorem setRf_hif : (p.setRf r d i lo w v).hif = p.hif := rfl
@[simp] theorem setRf_mem : (p.setRf r d i lo w v).mem = p.mem := rfl
@[simp] theorem setRf_jig : (p.setRf r d i lo w v).jig = p.jig := rfl
@[simp] theorem setRf_ctxs : (p.setRf r d i lo w v).ctxs = p.ctxs := rfl
@[simp] theorem setRf_holds : (p.setRf r d i lo w v).holds = p.holds := rfl
@[simp] theorem setRf_strms : (p.setRf r d i lo w v).strms = p.strms := rfl
@[simp] theorem setRf_slots : (p.setRf r d i lo w v).slots = p.slots := rfl
@[simp] theorem setRf_gangs : (p.setRf r d i lo w v).gangs = p.gangs := rfl
@[simp] theorem setRf_bench : (p.setRf r d i lo w v).bench = p.bench := rfl
@[simp] theorem setRf_flog : (p.setRf r d i lo w v).flog = p.flog := rfl
@[simp] theorem setRf_probe : (p.setRf r d i lo w v).probe = p.probe := rfl
@[simp] theorem setRf_stacks : (p.setRf r d i lo w v).stks = p.stks := rfl
@[simp] theorem setRf_cups : (p.setRf r d i lo w v).cups = p.cups := rfl
@[simp] theorem setRf_chest : (p.setRf r d i lo w v).chest = p.chest := rfl
@[simp] theorem setRf_audio : (p.setRf r d i lo w v).audio = p.audio := rfl
@[simp] theorem setRf_links : (p.setRf r d i lo w v).links = p.links := rfl
@[simp] theorem setRf_join : (p.setRf r d i lo w v).join = p.join := rfl
@[simp] theorem setRf_power : (p.setRf r d i lo w v).power = p.power := rfl
@[simp] theorem setRf_clocks : (p.setRf r d i lo w v).clocks = p.clocks := rfl
@[simp] theorem setRf_svc : (p.setRf r d i lo w v).svc = p.svc := rfl
@[simp] theorem setRf_mark : (p.setRf r d i lo w v).mark = p.mark := rfl
@[simp] theorem setRf_dowels : (p.setRf r d i lo w v).dowels = p.dowels := rfl
@[simp] theorem setRf_cars : (p.setRf r d i lo w v).cars = p.cars := rfl
end

section
variable (p : Part) (r : RegName) (d i b : Nat) (v : Bool)
@[simp] theorem setRb_fresh : (p.setRb r d i b v).fresh = p.fresh := rfl
@[simp] theorem setRb_time : (p.setRb r d i b v).time = p.time := rfl
@[simp] theorem setRb_ctrs : (p.setRb r d i b v).ctrs = p.ctrs := rfl
@[simp] theorem setRb_hif : (p.setRb r d i b v).hif = p.hif := rfl
@[simp] theorem setRb_mem : (p.setRb r d i b v).mem = p.mem := rfl
@[simp] theorem setRb_jig : (p.setRb r d i b v).jig = p.jig := rfl
@[simp] theorem setRb_ctxs : (p.setRb r d i b v).ctxs = p.ctxs := rfl
@[simp] theorem setRb_holds : (p.setRb r d i b v).holds = p.holds := rfl
@[simp] theorem setRb_strms : (p.setRb r d i b v).strms = p.strms := rfl
@[simp] theorem setRb_slots : (p.setRb r d i b v).slots = p.slots := rfl
@[simp] theorem setRb_gangs : (p.setRb r d i b v).gangs = p.gangs := rfl
@[simp] theorem setRb_bench : (p.setRb r d i b v).bench = p.bench := rfl
@[simp] theorem setRb_flog : (p.setRb r d i b v).flog = p.flog := rfl
@[simp] theorem setRb_probe : (p.setRb r d i b v).probe = p.probe := rfl
@[simp] theorem setRb_stacks : (p.setRb r d i b v).stks = p.stks := rfl
@[simp] theorem setRb_cups : (p.setRb r d i b v).cups = p.cups := rfl
@[simp] theorem setRb_chest : (p.setRb r d i b v).chest = p.chest := rfl
@[simp] theorem setRb_audio : (p.setRb r d i b v).audio = p.audio := rfl
@[simp] theorem setRb_links : (p.setRb r d i b v).links = p.links := rfl
@[simp] theorem setRb_join : (p.setRb r d i b v).join = p.join := rfl
@[simp] theorem setRb_power : (p.setRb r d i b v).power = p.power := rfl
@[simp] theorem setRb_clocks : (p.setRb r d i b v).clocks = p.clocks := rfl
@[simp] theorem setRb_svc : (p.setRb r d i b v).svc = p.svc := rfl
@[simp] theorem setRb_mark : (p.setRb r d i b v).mark = p.mark := rfl
@[simp] theorem setRb_dowels : (p.setRb r d i b v).dowels = p.dowels := rfl
@[simp] theorem setRb_cars : (p.setRb r d i b v).cars = p.cars := rfl
end

section
variable (p : Part) (fn v : Nat) (x : Vec)
@[simp] theorem setVec_fresh : (p.setVec fn v x).fresh = p.fresh := rfl
@[simp] theorem setVec_time : (p.setVec fn v x).time = p.time := rfl
@[simp] theorem setVec_regs : (p.setVec fn v x).regs = p.regs := rfl
@[simp] theorem setVec_ctrs : (p.setVec fn v x).ctrs = p.ctrs := rfl
@[simp] theorem setVec_mem : (p.setVec fn v x).mem = p.mem := rfl
@[simp] theorem setVec_jig : (p.setVec fn v x).jig = p.jig := rfl
@[simp] theorem setVec_ctxs : (p.setVec fn v x).ctxs = p.ctxs := rfl
@[simp] theorem setVec_holds : (p.setVec fn v x).holds = p.holds := rfl
@[simp] theorem setVec_strms : (p.setVec fn v x).strms = p.strms := rfl
@[simp] theorem setVec_slots : (p.setVec fn v x).slots = p.slots := rfl
@[simp] theorem setVec_gangs : (p.setVec fn v x).gangs = p.gangs := rfl
@[simp] theorem setVec_bench : (p.setVec fn v x).bench = p.bench := rfl
@[simp] theorem setVec_flog : (p.setVec fn v x).flog = p.flog := rfl
@[simp] theorem setVec_probe : (p.setVec fn v x).probe = p.probe := rfl
@[simp] theorem setVec_stacks : (p.setVec fn v x).stks = p.stks := rfl
@[simp] theorem setVec_cups : (p.setVec fn v x).cups = p.cups := rfl
@[simp] theorem setVec_chest : (p.setVec fn v x).chest = p.chest := rfl
@[simp] theorem setVec_audio : (p.setVec fn v x).audio = p.audio := rfl
@[simp] theorem setVec_links : (p.setVec fn v x).links = p.links := rfl
@[simp] theorem setVec_join : (p.setVec fn v x).join = p.join := rfl
@[simp] theorem setVec_power : (p.setVec fn v x).power = p.power := rfl
@[simp] theorem setVec_clocks : (p.setVec fn v x).clocks = p.clocks := rfl
@[simp] theorem setVec_svc : (p.setVec fn v x).svc = p.svc := rfl
@[simp] theorem setVec_mark : (p.setVec fn v x).mark = p.mark := rfl
@[simp] theorem setVec_dowels : (p.setVec fn v x).dowels = p.dowels := rfl
@[simp] theorem setVec_cars : (p.setVec fn v x).cars = p.cars := rfl
end

section
variable (p : Part) (f : Memory → Memory)
@[simp] theorem onMem_fresh : (p.onMem f).fresh = p.fresh := rfl
@[simp] theorem onMem_time : (p.onMem f).time = p.time := rfl
@[simp] theorem onMem_regs : (p.onMem f).regs = p.regs := rfl
@[simp] theorem onMem_ctrs : (p.onMem f).ctrs = p.ctrs := rfl
@[simp] theorem onMem_hif : (p.onMem f).hif = p.hif := rfl
@[simp] theorem onMem_jig : (p.onMem f).jig = p.jig := rfl
@[simp] theorem onMem_ctxs : (p.onMem f).ctxs = p.ctxs := rfl
@[simp] theorem onMem_holds : (p.onMem f).holds = p.holds := rfl
@[simp] theorem onMem_strms : (p.onMem f).strms = p.strms := rfl
@[simp] theorem onMem_slots : (p.onMem f).slots = p.slots := rfl
@[simp] theorem onMem_gangs : (p.onMem f).gangs = p.gangs := rfl
@[simp] theorem onMem_bench : (p.onMem f).bench = p.bench := rfl
@[simp] theorem onMem_flog : (p.onMem f).flog = p.flog := rfl
@[simp] theorem onMem_probe : (p.onMem f).probe = p.probe := rfl
@[simp] theorem onMem_stacks : (p.onMem f).stks = p.stks := rfl
@[simp] theorem onMem_cups : (p.onMem f).cups = p.cups := rfl
@[simp] theorem onMem_chest : (p.onMem f).chest = p.chest := rfl
@[simp] theorem onMem_audio : (p.onMem f).audio = p.audio := rfl
@[simp] theorem onMem_links : (p.onMem f).links = p.links := rfl
@[simp] theorem onMem_join : (p.onMem f).join = p.join := rfl
@[simp] theorem onMem_power : (p.onMem f).power = p.power := rfl
@[simp] theorem onMem_clocks : (p.onMem f).clocks = p.clocks := rfl
@[simp] theorem onMem_svc : (p.onMem f).svc = p.svc := rfl
@[simp] theorem onMem_mark : (p.onMem f).mark = p.mark := rfl
@[simp] theorem onMem_dowels : (p.onMem f).dowels = p.dowels := rfl
@[simp] theorem onMem_cars : (p.onMem f).cars = p.cars := rfl
end

section
variable (p : Part) (a : Nat) (x : AesPort)
@[simp] theorem setPort_fresh : (p.setPort a x).fresh = p.fresh := rfl
@[simp] theorem setPort_time : (p.setPort a x).time = p.time := rfl
@[simp] theorem setPort_regs : (p.setPort a x).regs = p.regs := rfl
@[simp] theorem setPort_ctrs : (p.setPort a x).ctrs = p.ctrs := rfl
@[simp] theorem setPort_hif : (p.setPort a x).hif = p.hif := rfl
@[simp] theorem setPort_mem : (p.setPort a x).mem = p.mem := rfl
@[simp] theorem setPort_jig : (p.setPort a x).jig = p.jig := rfl
@[simp] theorem setPort_ctxs : (p.setPort a x).ctxs = p.ctxs := rfl
@[simp] theorem setPort_holds : (p.setPort a x).holds = p.holds := rfl
@[simp] theorem setPort_strms : (p.setPort a x).strms = p.strms := rfl
@[simp] theorem setPort_slots : (p.setPort a x).slots = p.slots := rfl
@[simp] theorem setPort_gangs : (p.setPort a x).gangs = p.gangs := rfl
@[simp] theorem setPort_bench : (p.setPort a x).bench = p.bench := rfl
@[simp] theorem setPort_flog : (p.setPort a x).flog = p.flog := rfl
@[simp] theorem setPort_probe : (p.setPort a x).probe = p.probe := rfl
@[simp] theorem setPort_stacks : (p.setPort a x).stks = p.stks := rfl
@[simp] theorem setPort_cups : (p.setPort a x).cups = p.cups := rfl
@[simp] theorem setPort_chest : (p.setPort a x).chest = p.chest := rfl
@[simp] theorem setPort_links : (p.setPort a x).links = p.links := rfl
@[simp] theorem setPort_join : (p.setPort a x).join = p.join := rfl
@[simp] theorem setPort_power : (p.setPort a x).power = p.power := rfl
@[simp] theorem setPort_clocks : (p.setPort a x).clocks = p.clocks := rfl
@[simp] theorem setPort_svc : (p.setPort a x).svc = p.svc := rfl
@[simp] theorem setPort_mark : (p.setPort a x).mark = p.mark := rfl
@[simp] theorem setPort_dowels : (p.setPort a x).dowels = p.dowels := rfl
@[simp] theorem setPort_cars : (p.setPort a x).cars = p.cars := rfl
end

section
variable (p : Part) (c : Nat) (x : Ctx)
@[simp] theorem setCtx_fresh : (p.setCtx c x).fresh = p.fresh := rfl
@[simp] theorem setCtx_time : (p.setCtx c x).time = p.time := rfl
@[simp] theorem setCtx_regs : (p.setCtx c x).regs = p.regs := rfl
@[simp] theorem setCtx_ctrs : (p.setCtx c x).ctrs = p.ctrs := rfl
@[simp] theorem setCtx_hif : (p.setCtx c x).hif = p.hif := rfl
@[simp] theorem setCtx_mem : (p.setCtx c x).mem = p.mem := rfl
@[simp] theorem setCtx_jig : (p.setCtx c x).jig = p.jig := rfl
@[simp] theorem setCtx_holds : (p.setCtx c x).holds = p.holds := rfl
@[simp] theorem setCtx_strms : (p.setCtx c x).strms = p.strms := rfl
@[simp] theorem setCtx_slots : (p.setCtx c x).slots = p.slots := rfl
@[simp] theorem setCtx_gangs : (p.setCtx c x).gangs = p.gangs := rfl
@[simp] theorem setCtx_bench : (p.setCtx c x).bench = p.bench := rfl
@[simp] theorem setCtx_flog : (p.setCtx c x).flog = p.flog := rfl
@[simp] theorem setCtx_probe : (p.setCtx c x).probe = p.probe := rfl
@[simp] theorem setCtx_stacks : (p.setCtx c x).stks = p.stks := rfl
@[simp] theorem setCtx_cups : (p.setCtx c x).cups = p.cups := rfl
@[simp] theorem setCtx_chest : (p.setCtx c x).chest = p.chest := rfl
@[simp] theorem setCtx_audio : (p.setCtx c x).audio = p.audio := rfl
@[simp] theorem setCtx_links : (p.setCtx c x).links = p.links := rfl
@[simp] theorem setCtx_join : (p.setCtx c x).join = p.join := rfl
@[simp] theorem setCtx_power : (p.setCtx c x).power = p.power := rfl
@[simp] theorem setCtx_clocks : (p.setCtx c x).clocks = p.clocks := rfl
@[simp] theorem setCtx_svc : (p.setCtx c x).svc = p.svc := rfl
@[simp] theorem setCtx_mark : (p.setCtx c x).mark = p.mark := rfl
@[simp] theorem setCtx_dowels : (p.setCtx c x).dowels = p.dowels := rfl
@[simp] theorem setCtx_cars : (p.setCtx c x).cars = p.cars := rfl
end

section
variable (p : Part) (c b : Nat) (h : Hold)
@[simp] theorem setHold_fresh : (p.setHold c b h).fresh = p.fresh := rfl
@[simp] theorem setHold_time : (p.setHold c b h).time = p.time := rfl
@[simp] theorem setHold_regs : (p.setHold c b h).regs = p.regs := rfl
@[simp] theorem setHold_ctrs : (p.setHold c b h).ctrs = p.ctrs := rfl
@[simp] theorem setHold_hif : (p.setHold c b h).hif = p.hif := rfl
@[simp] theorem setHold_mem : (p.setHold c b h).mem = p.mem := rfl
@[simp] theorem setHold_jig : (p.setHold c b h).jig = p.jig := rfl
@[simp] theorem setHold_ctxs : (p.setHold c b h).ctxs = p.ctxs := rfl
@[simp] theorem setHold_strms : (p.setHold c b h).strms = p.strms := rfl
@[simp] theorem setHold_slots : (p.setHold c b h).slots = p.slots := rfl
@[simp] theorem setHold_gangs : (p.setHold c b h).gangs = p.gangs := rfl
@[simp] theorem setHold_bench : (p.setHold c b h).bench = p.bench := rfl
@[simp] theorem setHold_flog : (p.setHold c b h).flog = p.flog := rfl
@[simp] theorem setHold_probe : (p.setHold c b h).probe = p.probe := rfl
@[simp] theorem setHold_stacks : (p.setHold c b h).stks = p.stks := rfl
@[simp] theorem setHold_cups : (p.setHold c b h).cups = p.cups := rfl
@[simp] theorem setHold_chest : (p.setHold c b h).chest = p.chest := rfl
@[simp] theorem setHold_audio : (p.setHold c b h).audio = p.audio := rfl
@[simp] theorem setHold_links : (p.setHold c b h).links = p.links := rfl
@[simp] theorem setHold_join : (p.setHold c b h).join = p.join := rfl
@[simp] theorem setHold_power : (p.setHold c b h).power = p.power := rfl
@[simp] theorem setHold_clocks : (p.setHold c b h).clocks = p.clocks := rfl
@[simp] theorem setHold_svc : (p.setHold c b h).svc = p.svc := rfl
@[simp] theorem setHold_mark : (p.setHold c b h).mark = p.mark := rfl
@[simp] theorem setHold_dowels : (p.setHold c b h).dowels = p.dowels := rfl
@[simp] theorem setHold_cars : (p.setHold c b h).cars = p.cars := rfl
end

section
variable (p : Part) (q : Nat) (x : Cq)
@[simp] theorem setCq_fresh : (p.setCq q x).fresh = p.fresh := rfl
@[simp] theorem setCq_time : (p.setCq q x).time = p.time := rfl
@[simp] theorem setCq_regs : (p.setCq q x).regs = p.regs := rfl
@[simp] theorem setCq_ctrs : (p.setCq q x).ctrs = p.ctrs := rfl
@[simp] theorem setCq_mem : (p.setCq q x).mem = p.mem := rfl
@[simp] theorem setCq_jig : (p.setCq q x).jig = p.jig := rfl
@[simp] theorem setCq_ctxs : (p.setCq q x).ctxs = p.ctxs := rfl
@[simp] theorem setCq_holds : (p.setCq q x).holds = p.holds := rfl
@[simp] theorem setCq_strms : (p.setCq q x).strms = p.strms := rfl
@[simp] theorem setCq_slots : (p.setCq q x).slots = p.slots := rfl
@[simp] theorem setCq_gangs : (p.setCq q x).gangs = p.gangs := rfl
@[simp] theorem setCq_bench : (p.setCq q x).bench = p.bench := rfl
@[simp] theorem setCq_flog : (p.setCq q x).flog = p.flog := rfl
@[simp] theorem setCq_probe : (p.setCq q x).probe = p.probe := rfl
@[simp] theorem setCq_stacks : (p.setCq q x).stks = p.stks := rfl
@[simp] theorem setCq_cups : (p.setCq q x).cups = p.cups := rfl
@[simp] theorem setCq_chest : (p.setCq q x).chest = p.chest := rfl
@[simp] theorem setCq_audio : (p.setCq q x).audio = p.audio := rfl
@[simp] theorem setCq_links : (p.setCq q x).links = p.links := rfl
@[simp] theorem setCq_join : (p.setCq q x).join = p.join := rfl
@[simp] theorem setCq_power : (p.setCq q x).power = p.power := rfl
@[simp] theorem setCq_clocks : (p.setCq q x).clocks = p.clocks := rfl
@[simp] theorem setCq_svc : (p.setCq q x).svc = p.svc := rfl
@[simp] theorem setCq_mark : (p.setCq q x).mark = p.mark := rfl
@[simp] theorem setCq_dowels : (p.setCq q x).dowels = p.dowels := rfl
@[simp] theorem setCq_cars : (p.setCq q x).cars = p.cars := rfl
end

section
variable (p : Part) (r : Nat) (x : Sq)
@[simp] theorem setSq_fresh : (p.setSq r x).fresh = p.fresh := rfl
@[simp] theorem setSq_time : (p.setSq r x).time = p.time := rfl
@[simp] theorem setSq_regs : (p.setSq r x).regs = p.regs := rfl
@[simp] theorem setSq_ctrs : (p.setSq r x).ctrs = p.ctrs := rfl
@[simp] theorem setSq_mem : (p.setSq r x).mem = p.mem := rfl
@[simp] theorem setSq_jig : (p.setSq r x).jig = p.jig := rfl
@[simp] theorem setSq_ctxs : (p.setSq r x).ctxs = p.ctxs := rfl
@[simp] theorem setSq_holds : (p.setSq r x).holds = p.holds := rfl
@[simp] theorem setSq_strms : (p.setSq r x).strms = p.strms := rfl
@[simp] theorem setSq_slots : (p.setSq r x).slots = p.slots := rfl
@[simp] theorem setSq_gangs : (p.setSq r x).gangs = p.gangs := rfl
@[simp] theorem setSq_bench : (p.setSq r x).bench = p.bench := rfl
@[simp] theorem setSq_flog : (p.setSq r x).flog = p.flog := rfl
@[simp] theorem setSq_probe : (p.setSq r x).probe = p.probe := rfl
@[simp] theorem setSq_stacks : (p.setSq r x).stks = p.stks := rfl
@[simp] theorem setSq_cups : (p.setSq r x).cups = p.cups := rfl
@[simp] theorem setSq_chest : (p.setSq r x).chest = p.chest := rfl
@[simp] theorem setSq_audio : (p.setSq r x).audio = p.audio := rfl
@[simp] theorem setSq_links : (p.setSq r x).links = p.links := rfl
@[simp] theorem setSq_join : (p.setSq r x).join = p.join := rfl
@[simp] theorem setSq_power : (p.setSq r x).power = p.power := rfl
@[simp] theorem setSq_clocks : (p.setSq r x).clocks = p.clocks := rfl
@[simp] theorem setSq_svc : (p.setSq r x).svc = p.svc := rfl
@[simp] theorem setSq_mark : (p.setSq r x).mark = p.mark := rfl
@[simp] theorem setSq_dowels : (p.setSq r x).dowels = p.dowels := rfl
@[simp] theorem setSq_cars : (p.setSq r x).cars = p.cars := rfl
end

section
variable (p : Part) (j : Nat) (x : Job)
@[simp] theorem setJob_fresh : (p.setJob j x).fresh = p.fresh := rfl
@[simp] theorem setJob_time : (p.setJob j x).time = p.time := rfl
@[simp] theorem setJob_regs : (p.setJob j x).regs = p.regs := rfl
@[simp] theorem setJob_ctrs : (p.setJob j x).ctrs = p.ctrs := rfl
@[simp] theorem setJob_hif : (p.setJob j x).hif = p.hif := rfl
@[simp] theorem setJob_mem : (p.setJob j x).mem = p.mem := rfl
@[simp] theorem setJob_ctxs : (p.setJob j x).ctxs = p.ctxs := rfl
@[simp] theorem setJob_holds : (p.setJob j x).holds = p.holds := rfl
@[simp] theorem setJob_strms : (p.setJob j x).strms = p.strms := rfl
@[simp] theorem setJob_slots : (p.setJob j x).slots = p.slots := rfl
@[simp] theorem setJob_gangs : (p.setJob j x).gangs = p.gangs := rfl
@[simp] theorem setJob_bench : (p.setJob j x).bench = p.bench := rfl
@[simp] theorem setJob_flog : (p.setJob j x).flog = p.flog := rfl
@[simp] theorem setJob_probe : (p.setJob j x).probe = p.probe := rfl
@[simp] theorem setJob_stacks : (p.setJob j x).stks = p.stks := rfl
@[simp] theorem setJob_cups : (p.setJob j x).cups = p.cups := rfl
@[simp] theorem setJob_chest : (p.setJob j x).chest = p.chest := rfl
@[simp] theorem setJob_audio : (p.setJob j x).audio = p.audio := rfl
@[simp] theorem setJob_links : (p.setJob j x).links = p.links := rfl
@[simp] theorem setJob_join : (p.setJob j x).join = p.join := rfl
@[simp] theorem setJob_power : (p.setJob j x).power = p.power := rfl
@[simp] theorem setJob_clocks : (p.setJob j x).clocks = p.clocks := rfl
@[simp] theorem setJob_svc : (p.setJob j x).svc = p.svc := rfl
@[simp] theorem setJob_mark : (p.setJob j x).mark = p.mark := rfl
@[simp] theorem setJob_dowels : (p.setJob j x).dowels = p.dowels := rfl
@[simp] theorem setJob_cars : (p.setJob j x).cars = p.cars := rfl
end

section
variable (p : Part) (j r : Nat) (x : Rec)
@[simp] theorem setRec_fresh : (p.setRec j r x).fresh = p.fresh := rfl
@[simp] theorem setRec_time : (p.setRec j r x).time = p.time := rfl
@[simp] theorem setRec_regs : (p.setRec j r x).regs = p.regs := rfl
@[simp] theorem setRec_ctrs : (p.setRec j r x).ctrs = p.ctrs := rfl
@[simp] theorem setRec_hif : (p.setRec j r x).hif = p.hif := rfl
@[simp] theorem setRec_mem : (p.setRec j r x).mem = p.mem := rfl
@[simp] theorem setRec_ctxs : (p.setRec j r x).ctxs = p.ctxs := rfl
@[simp] theorem setRec_holds : (p.setRec j r x).holds = p.holds := rfl
@[simp] theorem setRec_strms : (p.setRec j r x).strms = p.strms := rfl
@[simp] theorem setRec_slots : (p.setRec j r x).slots = p.slots := rfl
@[simp] theorem setRec_gangs : (p.setRec j r x).gangs = p.gangs := rfl
@[simp] theorem setRec_bench : (p.setRec j r x).bench = p.bench := rfl
@[simp] theorem setRec_flog : (p.setRec j r x).flog = p.flog := rfl
@[simp] theorem setRec_probe : (p.setRec j r x).probe = p.probe := rfl
@[simp] theorem setRec_stacks : (p.setRec j r x).stks = p.stks := rfl
@[simp] theorem setRec_cups : (p.setRec j r x).cups = p.cups := rfl
@[simp] theorem setRec_chest : (p.setRec j r x).chest = p.chest := rfl
@[simp] theorem setRec_audio : (p.setRec j r x).audio = p.audio := rfl
@[simp] theorem setRec_links : (p.setRec j r x).links = p.links := rfl
@[simp] theorem setRec_join : (p.setRec j r x).join = p.join := rfl
@[simp] theorem setRec_power : (p.setRec j r x).power = p.power := rfl
@[simp] theorem setRec_clocks : (p.setRec j r x).clocks = p.clocks := rfl
@[simp] theorem setRec_svc : (p.setRec j r x).svc = p.svc := rfl
@[simp] theorem setRec_mark : (p.setRec j r x).mark = p.mark := rfl
@[simp] theorem setRec_dowels : (p.setRec j r x).dowels = p.dowels := rfl
@[simp] theorem setRec_cars : (p.setRec j r x).cars = p.cars := rfl
end

section
variable (p : Part) (c n : Nat) (s : Strm)
@[simp] theorem setStrm_fresh : (p.setStrm c n s).fresh = p.fresh := rfl
@[simp] theorem setStrm_time : (p.setStrm c n s).time = p.time := rfl
@[simp] theorem setStrm_regs : (p.setStrm c n s).regs = p.regs := rfl
@[simp] theorem setStrm_ctrs : (p.setStrm c n s).ctrs = p.ctrs := rfl
@[simp] theorem setStrm_hif : (p.setStrm c n s).hif = p.hif := rfl
@[simp] theorem setStrm_mem : (p.setStrm c n s).mem = p.mem := rfl
@[simp] theorem setStrm_jig : (p.setStrm c n s).jig = p.jig := rfl
@[simp] theorem setStrm_ctxs : (p.setStrm c n s).ctxs = p.ctxs := rfl
@[simp] theorem setStrm_holds : (p.setStrm c n s).holds = p.holds := rfl
@[simp] theorem setStrm_slots : (p.setStrm c n s).slots = p.slots := rfl
@[simp] theorem setStrm_gangs : (p.setStrm c n s).gangs = p.gangs := rfl
@[simp] theorem setStrm_bench : (p.setStrm c n s).bench = p.bench := rfl
@[simp] theorem setStrm_flog : (p.setStrm c n s).flog = p.flog := rfl
@[simp] theorem setStrm_probe : (p.setStrm c n s).probe = p.probe := rfl
@[simp] theorem setStrm_stacks : (p.setStrm c n s).stks = p.stks := rfl
@[simp] theorem setStrm_cups : (p.setStrm c n s).cups = p.cups := rfl
@[simp] theorem setStrm_chest : (p.setStrm c n s).chest = p.chest := rfl
@[simp] theorem setStrm_audio : (p.setStrm c n s).audio = p.audio := rfl
@[simp] theorem setStrm_links : (p.setStrm c n s).links = p.links := rfl
@[simp] theorem setStrm_join : (p.setStrm c n s).join = p.join := rfl
@[simp] theorem setStrm_power : (p.setStrm c n s).power = p.power := rfl
@[simp] theorem setStrm_clocks : (p.setStrm c n s).clocks = p.clocks := rfl
@[simp] theorem setStrm_svc : (p.setStrm c n s).svc = p.svc := rfl
@[simp] theorem setStrm_mark : (p.setStrm c n s).mark = p.mark := rfl
@[simp] theorem setStrm_dowels : (p.setStrm c n s).dowels = p.dowels := rfl
@[simp] theorem setStrm_cars : (p.setStrm c n s).cars = p.cars := rfl
end

section
variable (p : Part) (k : Nat)
@[simp] theorem freeSlot_fresh : (p.freeSlot k).fresh = p.fresh := rfl
@[simp] theorem freeSlot_time : (p.freeSlot k).time = p.time := rfl
@[simp] theorem freeSlot_regs : (p.freeSlot k).regs = p.regs := rfl
@[simp] theorem freeSlot_ctrs : (p.freeSlot k).ctrs = p.ctrs := rfl
@[simp] theorem freeSlot_hif : (p.freeSlot k).hif = p.hif := rfl
@[simp] theorem freeSlot_mem : (p.freeSlot k).mem = p.mem := rfl
@[simp] theorem freeSlot_jig : (p.freeSlot k).jig = p.jig := rfl
@[simp] theorem freeSlot_ctxs : (p.freeSlot k).ctxs = p.ctxs := rfl
@[simp] theorem freeSlot_holds : (p.freeSlot k).holds = p.holds := rfl
@[simp] theorem freeSlot_strms : (p.freeSlot k).strms = p.strms := rfl
@[simp] theorem freeSlot_gangs : (p.freeSlot k).gangs = p.gangs := rfl
@[simp] theorem freeSlot_bench : (p.freeSlot k).bench = p.bench := rfl
@[simp] theorem freeSlot_flog : (p.freeSlot k).flog = p.flog := rfl
@[simp] theorem freeSlot_probe : (p.freeSlot k).probe = p.probe := rfl
@[simp] theorem freeSlot_stacks : (p.freeSlot k).stks = p.stks := rfl
@[simp] theorem freeSlot_cups : (p.freeSlot k).cups = p.cups := rfl
@[simp] theorem freeSlot_chest : (p.freeSlot k).chest = p.chest := rfl
@[simp] theorem freeSlot_audio : (p.freeSlot k).audio = p.audio := rfl
@[simp] theorem freeSlot_links : (p.freeSlot k).links = p.links := rfl
@[simp] theorem freeSlot_join : (p.freeSlot k).join = p.join := rfl
@[simp] theorem freeSlot_power : (p.freeSlot k).power = p.power := rfl
@[simp] theorem freeSlot_clocks : (p.freeSlot k).clocks = p.clocks := rfl
@[simp] theorem freeSlot_svc : (p.freeSlot k).svc = p.svc := rfl
@[simp] theorem freeSlot_mark : (p.freeSlot k).mark = p.mark := rfl
@[simp] theorem freeSlot_dowels : (p.freeSlot k).dowels = p.dowels := rfl
@[simp] theorem freeSlot_cars : (p.freeSlot k).cars = p.cars := rfl
end

section
variable (p : Part) (k : Nat) (s : Slot)
@[simp] theorem setSlot_fresh : (p.setSlot k s).fresh = p.fresh := rfl
@[simp] theorem setSlot_time : (p.setSlot k s).time = p.time := rfl
@[simp] theorem setSlot_regs : (p.setSlot k s).regs = p.regs := rfl
@[simp] theorem setSlot_ctrs : (p.setSlot k s).ctrs = p.ctrs := rfl
@[simp] theorem setSlot_hif : (p.setSlot k s).hif = p.hif := rfl
@[simp] theorem setSlot_mem : (p.setSlot k s).mem = p.mem := rfl
@[simp] theorem setSlot_jig : (p.setSlot k s).jig = p.jig := rfl
@[simp] theorem setSlot_ctxs : (p.setSlot k s).ctxs = p.ctxs := rfl
@[simp] theorem setSlot_holds : (p.setSlot k s).holds = p.holds := rfl
@[simp] theorem setSlot_strms : (p.setSlot k s).strms = p.strms := rfl
@[simp] theorem setSlot_gangs : (p.setSlot k s).gangs = p.gangs := rfl
@[simp] theorem setSlot_bench : (p.setSlot k s).bench = p.bench := rfl
@[simp] theorem setSlot_flog : (p.setSlot k s).flog = p.flog := rfl
@[simp] theorem setSlot_probe : (p.setSlot k s).probe = p.probe := rfl
@[simp] theorem setSlot_stacks : (p.setSlot k s).stks = p.stks := rfl
@[simp] theorem setSlot_cups : (p.setSlot k s).cups = p.cups := rfl
@[simp] theorem setSlot_chest : (p.setSlot k s).chest = p.chest := rfl
@[simp] theorem setSlot_audio : (p.setSlot k s).audio = p.audio := rfl
@[simp] theorem setSlot_links : (p.setSlot k s).links = p.links := rfl
@[simp] theorem setSlot_join : (p.setSlot k s).join = p.join := rfl
@[simp] theorem setSlot_power : (p.setSlot k s).power = p.power := rfl
@[simp] theorem setSlot_clocks : (p.setSlot k s).clocks = p.clocks := rfl
@[simp] theorem setSlot_svc : (p.setSlot k s).svc = p.svc := rfl
@[simp] theorem setSlot_mark : (p.setSlot k s).mark = p.mark := rfl
@[simp] theorem setSlot_dowels : (p.setSlot k s).dowels = p.dowels := rfl
@[simp] theorem setSlot_cars : (p.setSlot k s).cars = p.cars := rfl
end

section
variable (p : Part) (d : Nat) (l : List SbRange)
@[simp] theorem setSb_fresh : (p.setSb d l).fresh = p.fresh := rfl
@[simp] theorem setSb_time : (p.setSb d l).time = p.time := rfl
@[simp] theorem setSb_regs : (p.setSb d l).regs = p.regs := rfl
@[simp] theorem setSb_ctrs : (p.setSb d l).ctrs = p.ctrs := rfl
@[simp] theorem setSb_hif : (p.setSb d l).hif = p.hif := rfl
@[simp] theorem setSb_mem : (p.setSb d l).mem = p.mem := rfl
@[simp] theorem setSb_jig : (p.setSb d l).jig = p.jig := rfl
@[simp] theorem setSb_ctxs : (p.setSb d l).ctxs = p.ctxs := rfl
@[simp] theorem setSb_holds : (p.setSb d l).holds = p.holds := rfl
@[simp] theorem setSb_strms : (p.setSb d l).strms = p.strms := rfl
@[simp] theorem setSb_slots : (p.setSb d l).slots = p.slots := rfl
@[simp] theorem setSb_gangs : (p.setSb d l).gangs = p.gangs := rfl
@[simp] theorem setSb_flog : (p.setSb d l).flog = p.flog := rfl
@[simp] theorem setSb_probe : (p.setSb d l).probe = p.probe := rfl
@[simp] theorem setSb_stacks : (p.setSb d l).stks = p.stks := rfl
@[simp] theorem setSb_cups : (p.setSb d l).cups = p.cups := rfl
@[simp] theorem setSb_chest : (p.setSb d l).chest = p.chest := rfl
@[simp] theorem setSb_audio : (p.setSb d l).audio = p.audio := rfl
@[simp] theorem setSb_links : (p.setSb d l).links = p.links := rfl
@[simp] theorem setSb_join : (p.setSb d l).join = p.join := rfl
@[simp] theorem setSb_power : (p.setSb d l).power = p.power := rfl
@[simp] theorem setSb_clocks : (p.setSb d l).clocks = p.clocks := rfl
@[simp] theorem setSb_svc : (p.setSb d l).svc = p.svc := rfl
@[simp] theorem setSb_mark : (p.setSb d l).mark = p.mark := rfl
@[simp] theorem setSb_dowels : (p.setSb d l).dowels = p.dowels := rfl
@[simp] theorem setSb_cars : (p.setSb d l).cars = p.cars := rfl
end

section
variable (p : Part) (d i : Nat) (x : Region)
@[simp] theorem setRegion_fresh : (p.setRegion d i x).fresh = p.fresh := rfl
@[simp] theorem setRegion_time : (p.setRegion d i x).time = p.time := rfl
@[simp] theorem setRegion_regs : (p.setRegion d i x).regs = p.regs := rfl
@[simp] theorem setRegion_ctrs : (p.setRegion d i x).ctrs = p.ctrs := rfl
@[simp] theorem setRegion_hif : (p.setRegion d i x).hif = p.hif := rfl
@[simp] theorem setRegion_mem : (p.setRegion d i x).mem = p.mem := rfl
@[simp] theorem setRegion_jig : (p.setRegion d i x).jig = p.jig := rfl
@[simp] theorem setRegion_ctxs : (p.setRegion d i x).ctxs = p.ctxs := rfl
@[simp] theorem setRegion_holds : (p.setRegion d i x).holds = p.holds := rfl
@[simp] theorem setRegion_strms : (p.setRegion d i x).strms = p.strms := rfl
@[simp] theorem setRegion_slots : (p.setRegion d i x).slots = p.slots := rfl
@[simp] theorem setRegion_gangs : (p.setRegion d i x).gangs = p.gangs := rfl
@[simp] theorem setRegion_flog : (p.setRegion d i x).flog = p.flog := rfl
@[simp] theorem setRegion_probe : (p.setRegion d i x).probe = p.probe := rfl
@[simp] theorem setRegion_stacks : (p.setRegion d i x).stks = p.stks := rfl
@[simp] theorem setRegion_cups : (p.setRegion d i x).cups = p.cups := rfl
@[simp] theorem setRegion_chest : (p.setRegion d i x).chest = p.chest := rfl
@[simp] theorem setRegion_audio : (p.setRegion d i x).audio = p.audio := rfl
@[simp] theorem setRegion_links : (p.setRegion d i x).links = p.links := rfl
@[simp] theorem setRegion_join : (p.setRegion d i x).join = p.join := rfl
@[simp] theorem setRegion_power : (p.setRegion d i x).power = p.power := rfl
@[simp] theorem setRegion_clocks : (p.setRegion d i x).clocks = p.clocks := rfl
@[simp] theorem setRegion_svc : (p.setRegion d i x).svc = p.svc := rfl
@[simp] theorem setRegion_mark : (p.setRegion d i x).mark = p.mark := rfl
@[simp] theorem setRegion_dowels : (p.setRegion d i x).dowels = p.dowels := rfl
@[simp] theorem setRegion_cars : (p.setRegion d i x).cars = p.cars := rfl
end

section
variable (p : Part) (s : Nat) (x : Stack)
@[simp] theorem setStack_fresh : (p.setStack s x).fresh = p.fresh := rfl
@[simp] theorem setStack_time : (p.setStack s x).time = p.time := rfl
@[simp] theorem setStack_regs : (p.setStack s x).regs = p.regs := rfl
@[simp] theorem setStack_ctrs : (p.setStack s x).ctrs = p.ctrs := rfl
@[simp] theorem setStack_hif : (p.setStack s x).hif = p.hif := rfl
@[simp] theorem setStack_mem : (p.setStack s x).mem = p.mem := rfl
@[simp] theorem setStack_jig : (p.setStack s x).jig = p.jig := rfl
@[simp] theorem setStack_ctxs : (p.setStack s x).ctxs = p.ctxs := rfl
@[simp] theorem setStack_holds : (p.setStack s x).holds = p.holds := rfl
@[simp] theorem setStack_strms : (p.setStack s x).strms = p.strms := rfl
@[simp] theorem setStack_slots : (p.setStack s x).slots = p.slots := rfl
@[simp] theorem setStack_gangs : (p.setStack s x).gangs = p.gangs := rfl
@[simp] theorem setStack_bench : (p.setStack s x).bench = p.bench := rfl
@[simp] theorem setStack_flog : (p.setStack s x).flog = p.flog := rfl
@[simp] theorem setStack_probe : (p.setStack s x).probe = p.probe := rfl
@[simp] theorem setStack_cups : (p.setStack s x).cups = p.cups := rfl
@[simp] theorem setStack_chest : (p.setStack s x).chest = p.chest := rfl
@[simp] theorem setStack_audio : (p.setStack s x).audio = p.audio := rfl
@[simp] theorem setStack_links : (p.setStack s x).links = p.links := rfl
@[simp] theorem setStack_join : (p.setStack s x).join = p.join := rfl
@[simp] theorem setStack_power : (p.setStack s x).power = p.power := rfl
@[simp] theorem setStack_clocks : (p.setStack s x).clocks = p.clocks := rfl
@[simp] theorem setStack_svc : (p.setStack s x).svc = p.svc := rfl
@[simp] theorem setStack_mark : (p.setStack s x).mark = p.mark := rfl
@[simp] theorem setStack_dowels : (p.setStack s x).dowels = p.dowels := rfl
@[simp] theorem setStack_cars : (p.setStack s x).cars = p.cars := rfl
end

section
variable (p : Part) (m : Nat) (x : Cupboard)
@[simp] theorem setCup_fresh : (p.setCup m x).fresh = p.fresh := rfl
@[simp] theorem setCup_time : (p.setCup m x).time = p.time := rfl
@[simp] theorem setCup_regs : (p.setCup m x).regs = p.regs := rfl
@[simp] theorem setCup_ctrs : (p.setCup m x).ctrs = p.ctrs := rfl
@[simp] theorem setCup_hif : (p.setCup m x).hif = p.hif := rfl
@[simp] theorem setCup_mem : (p.setCup m x).mem = p.mem := rfl
@[simp] theorem setCup_jig : (p.setCup m x).jig = p.jig := rfl
@[simp] theorem setCup_ctxs : (p.setCup m x).ctxs = p.ctxs := rfl
@[simp] theorem setCup_holds : (p.setCup m x).holds = p.holds := rfl
@[simp] theorem setCup_strms : (p.setCup m x).strms = p.strms := rfl
@[simp] theorem setCup_slots : (p.setCup m x).slots = p.slots := rfl
@[simp] theorem setCup_gangs : (p.setCup m x).gangs = p.gangs := rfl
@[simp] theorem setCup_bench : (p.setCup m x).bench = p.bench := rfl
@[simp] theorem setCup_flog : (p.setCup m x).flog = p.flog := rfl
@[simp] theorem setCup_probe : (p.setCup m x).probe = p.probe := rfl
@[simp] theorem setCup_stacks : (p.setCup m x).stks = p.stks := rfl
@[simp] theorem setCup_chest : (p.setCup m x).chest = p.chest := rfl
@[simp] theorem setCup_audio : (p.setCup m x).audio = p.audio := rfl
@[simp] theorem setCup_links : (p.setCup m x).links = p.links := rfl
@[simp] theorem setCup_join : (p.setCup m x).join = p.join := rfl
@[simp] theorem setCup_power : (p.setCup m x).power = p.power := rfl
@[simp] theorem setCup_clocks : (p.setCup m x).clocks = p.clocks := rfl
@[simp] theorem setCup_svc : (p.setCup m x).svc = p.svc := rfl
@[simp] theorem setCup_mark : (p.setCup m x).mark = p.mark := rfl
@[simp] theorem setCup_dowels : (p.setCup m x).dowels = p.dowels := rfl
@[simp] theorem setCup_cars : (p.setCup m x).cars = p.cars := rfl
end

section
variable (p : Part) (ch : Nat) (x : Chan)
@[simp] theorem setChan_fresh : (p.setChan ch x).fresh = p.fresh := rfl
@[simp] theorem setChan_time : (p.setChan ch x).time = p.time := rfl
@[simp] theorem setChan_regs : (p.setChan ch x).regs = p.regs := rfl
@[simp] theorem setChan_ctrs : (p.setChan ch x).ctrs = p.ctrs := rfl
@[simp] theorem setChan_hif : (p.setChan ch x).hif = p.hif := rfl
@[simp] theorem setChan_mem : (p.setChan ch x).mem = p.mem := rfl
@[simp] theorem setChan_jig : (p.setChan ch x).jig = p.jig := rfl
@[simp] theorem setChan_ctxs : (p.setChan ch x).ctxs = p.ctxs := rfl
@[simp] theorem setChan_holds : (p.setChan ch x).holds = p.holds := rfl
@[simp] theorem setChan_strms : (p.setChan ch x).strms = p.strms := rfl
@[simp] theorem setChan_slots : (p.setChan ch x).slots = p.slots := rfl
@[simp] theorem setChan_gangs : (p.setChan ch x).gangs = p.gangs := rfl
@[simp] theorem setChan_bench : (p.setChan ch x).bench = p.bench := rfl
@[simp] theorem setChan_flog : (p.setChan ch x).flog = p.flog := rfl
@[simp] theorem setChan_probe : (p.setChan ch x).probe = p.probe := rfl
@[simp] theorem setChan_stacks : (p.setChan ch x).stks = p.stks := rfl
@[simp] theorem setChan_cups : (p.setChan ch x).cups = p.cups := rfl
@[simp] theorem setChan_audio : (p.setChan ch x).audio = p.audio := rfl
@[simp] theorem setChan_links : (p.setChan ch x).links = p.links := rfl
@[simp] theorem setChan_join : (p.setChan ch x).join = p.join := rfl
@[simp] theorem setChan_power : (p.setChan ch x).power = p.power := rfl
@[simp] theorem setChan_clocks : (p.setChan ch x).clocks = p.clocks := rfl
@[simp] theorem setChan_svc : (p.setChan ch x).svc = p.svc := rfl
@[simp] theorem setChan_mark : (p.setChan ch x).mark = p.mark := rfl
@[simp] theorem setChan_dowels : (p.setChan ch x).dowels = p.dowels := rfl
@[simp] theorem setChan_cars : (p.setChan ch x).cars = p.cars := rfl
end

section
variable (p : Part) (d b : Nat) (x : Bank)
@[simp] theorem setBank_fresh : (p.setBank d b x).fresh = p.fresh := rfl
@[simp] theorem setBank_time : (p.setBank d b x).time = p.time := rfl
@[simp] theorem setBank_regs : (p.setBank d b x).regs = p.regs := rfl
@[simp] theorem setBank_ctrs : (p.setBank d b x).ctrs = p.ctrs := rfl
@[simp] theorem setBank_hif : (p.setBank d b x).hif = p.hif := rfl
@[simp] theorem setBank_mem : (p.setBank d b x).mem = p.mem := rfl
@[simp] theorem setBank_jig : (p.setBank d b x).jig = p.jig := rfl
@[simp] theorem setBank_ctxs : (p.setBank d b x).ctxs = p.ctxs := rfl
@[simp] theorem setBank_holds : (p.setBank d b x).holds = p.holds := rfl
@[simp] theorem setBank_strms : (p.setBank d b x).strms = p.strms := rfl
@[simp] theorem setBank_slots : (p.setBank d b x).slots = p.slots := rfl
@[simp] theorem setBank_gangs : (p.setBank d b x).gangs = p.gangs := rfl
@[simp] theorem setBank_flog : (p.setBank d b x).flog = p.flog := rfl
@[simp] theorem setBank_probe : (p.setBank d b x).probe = p.probe := rfl
@[simp] theorem setBank_stacks : (p.setBank d b x).stks = p.stks := rfl
@[simp] theorem setBank_cups : (p.setBank d b x).cups = p.cups := rfl
@[simp] theorem setBank_chest : (p.setBank d b x).chest = p.chest := rfl
@[simp] theorem setBank_audio : (p.setBank d b x).audio = p.audio := rfl
@[simp] theorem setBank_links : (p.setBank d b x).links = p.links := rfl
@[simp] theorem setBank_join : (p.setBank d b x).join = p.join := rfl
@[simp] theorem setBank_power : (p.setBank d b x).power = p.power := rfl
@[simp] theorem setBank_clocks : (p.setBank d b x).clocks = p.clocks := rfl
@[simp] theorem setBank_svc : (p.setBank d b x).svc = p.svc := rfl
@[simp] theorem setBank_mark : (p.setBank d b x).mark = p.mark := rfl
@[simp] theorem setBank_dowels : (p.setBank d b x).dowels = p.dowels := rfl
@[simp] theorem setBank_cars : (p.setBank d b x).cars = p.cars := rfl
end

section
variable (p : Part) (x : List Byte × Bool)
@[simp] theorem deliver_fresh : (p.deliver x).fresh = p.fresh := rfl
@[simp] theorem deliver_time : (p.deliver x).time = p.time := rfl
@[simp] theorem deliver_regs : (p.deliver x).regs = p.regs := rfl
@[simp] theorem deliver_ctrs : (p.deliver x).ctrs = p.ctrs := rfl
@[simp] theorem deliver_hif : (p.deliver x).hif = p.hif := rfl
@[simp] theorem deliver_mem : (p.deliver x).mem = p.mem := rfl
@[simp] theorem deliver_jig : (p.deliver x).jig = p.jig := rfl
@[simp] theorem deliver_ctxs : (p.deliver x).ctxs = p.ctxs := rfl
@[simp] theorem deliver_holds : (p.deliver x).holds = p.holds := rfl
@[simp] theorem deliver_strms : (p.deliver x).strms = p.strms := rfl
@[simp] theorem deliver_slots : (p.deliver x).slots = p.slots := rfl
@[simp] theorem deliver_gangs : (p.deliver x).gangs = p.gangs := rfl
@[simp] theorem deliver_flog : (p.deliver x).flog = p.flog := rfl
@[simp] theorem deliver_probe : (p.deliver x).probe = p.probe := rfl
@[simp] theorem deliver_stacks : (p.deliver x).stks = p.stks := rfl
@[simp] theorem deliver_cups : (p.deliver x).cups = p.cups := rfl
@[simp] theorem deliver_chest : (p.deliver x).chest = p.chest := rfl
@[simp] theorem deliver_audio : (p.deliver x).audio = p.audio := rfl
@[simp] theorem deliver_links : (p.deliver x).links = p.links := rfl
@[simp] theorem deliver_join : (p.deliver x).join = p.join := rfl
@[simp] theorem deliver_power : (p.deliver x).power = p.power := rfl
@[simp] theorem deliver_clocks : (p.deliver x).clocks = p.clocks := rfl
@[simp] theorem deliver_svc : (p.deliver x).svc = p.svc := rfl
@[simp] theorem deliver_mark : (p.deliver x).mark = p.mark := rfl
@[simp] theorem deliver_dowels : (p.deliver x).dowels = p.dowels := rfl
@[simp] theorem deliver_cars : (p.deliver x).cars = p.cars := rfl
end

section
variable (p : Part) (l : Nat) (x : Link)
@[simp] theorem setLink_fresh : (p.setLink l x).fresh = p.fresh := rfl
@[simp] theorem setLink_time : (p.setLink l x).time = p.time := rfl
@[simp] theorem setLink_regs : (p.setLink l x).regs = p.regs := rfl
@[simp] theorem setLink_ctrs : (p.setLink l x).ctrs = p.ctrs := rfl
@[simp] theorem setLink_hif : (p.setLink l x).hif = p.hif := rfl
@[simp] theorem setLink_mem : (p.setLink l x).mem = p.mem := rfl
@[simp] theorem setLink_jig : (p.setLink l x).jig = p.jig := rfl
@[simp] theorem setLink_ctxs : (p.setLink l x).ctxs = p.ctxs := rfl
@[simp] theorem setLink_holds : (p.setLink l x).holds = p.holds := rfl
@[simp] theorem setLink_strms : (p.setLink l x).strms = p.strms := rfl
@[simp] theorem setLink_slots : (p.setLink l x).slots = p.slots := rfl
@[simp] theorem setLink_gangs : (p.setLink l x).gangs = p.gangs := rfl
@[simp] theorem setLink_bench : (p.setLink l x).bench = p.bench := rfl
@[simp] theorem setLink_flog : (p.setLink l x).flog = p.flog := rfl
@[simp] theorem setLink_probe : (p.setLink l x).probe = p.probe := rfl
@[simp] theorem setLink_stacks : (p.setLink l x).stks = p.stks := rfl
@[simp] theorem setLink_cups : (p.setLink l x).cups = p.cups := rfl
@[simp] theorem setLink_chest : (p.setLink l x).chest = p.chest := rfl
@[simp] theorem setLink_audio : (p.setLink l x).audio = p.audio := rfl
@[simp] theorem setLink_join : (p.setLink l x).join = p.join := rfl
@[simp] theorem setLink_power : (p.setLink l x).power = p.power := rfl
@[simp] theorem setLink_clocks : (p.setLink l x).clocks = p.clocks := rfl
@[simp] theorem setLink_svc : (p.setLink l x).svc = p.svc := rfl
@[simp] theorem setLink_mark : (p.setLink l x).mark = p.mark := rfl
@[simp] theorem setLink_dowels : (p.setLink l x).dowels = p.dowels := rfl
@[simp] theorem setLink_cars : (p.setLink l x).cars = p.cars := rfl
end

section
variable (p : Part) (g : Nat) (x : Gang)
@[simp] theorem setGang_fresh : (p.setGang g x).fresh = p.fresh := rfl
@[simp] theorem setGang_time : (p.setGang g x).time = p.time := rfl
@[simp] theorem setGang_regs : (p.setGang g x).regs = p.regs := rfl
@[simp] theorem setGang_ctrs : (p.setGang g x).ctrs = p.ctrs := rfl
@[simp] theorem setGang_hif : (p.setGang g x).hif = p.hif := rfl
@[simp] theorem setGang_mem : (p.setGang g x).mem = p.mem := rfl
@[simp] theorem setGang_jig : (p.setGang g x).jig = p.jig := rfl
@[simp] theorem setGang_ctxs : (p.setGang g x).ctxs = p.ctxs := rfl
@[simp] theorem setGang_holds : (p.setGang g x).holds = p.holds := rfl
@[simp] theorem setGang_strms : (p.setGang g x).strms = p.strms := rfl
@[simp] theorem setGang_slots : (p.setGang g x).slots = p.slots := rfl
@[simp] theorem setGang_bench : (p.setGang g x).bench = p.bench := rfl
@[simp] theorem setGang_flog : (p.setGang g x).flog = p.flog := rfl
@[simp] theorem setGang_probe : (p.setGang g x).probe = p.probe := rfl
@[simp] theorem setGang_stacks : (p.setGang g x).stks = p.stks := rfl
@[simp] theorem setGang_cups : (p.setGang g x).cups = p.cups := rfl
@[simp] theorem setGang_chest : (p.setGang g x).chest = p.chest := rfl
@[simp] theorem setGang_audio : (p.setGang g x).audio = p.audio := rfl
@[simp] theorem setGang_links : (p.setGang g x).links = p.links := rfl
@[simp] theorem setGang_join : (p.setGang g x).join = p.join := rfl
@[simp] theorem setGang_power : (p.setGang g x).power = p.power := rfl
@[simp] theorem setGang_clocks : (p.setGang g x).clocks = p.clocks := rfl
@[simp] theorem setGang_svc : (p.setGang g x).svc = p.svc := rfl
@[simp] theorem setGang_mark : (p.setGang g x).mark = p.mark := rfl
@[simp] theorem setGang_dowels : (p.setGang g x).dowels = p.dowels := rfl
@[simp] theorem setGang_cars : (p.setGang g x).cars = p.cars := rfl
end

section
variable (p : Part) (c n : Nat) (f : Strm → Strm)
@[simp] theorem mapStrm_fresh : (p.mapStrm c n f).fresh = p.fresh := rfl
@[simp] theorem mapStrm_time : (p.mapStrm c n f).time = p.time := rfl
@[simp] theorem mapStrm_regs : (p.mapStrm c n f).regs = p.regs := rfl
@[simp] theorem mapStrm_ctrs : (p.mapStrm c n f).ctrs = p.ctrs := rfl
@[simp] theorem mapStrm_hif : (p.mapStrm c n f).hif = p.hif := rfl
@[simp] theorem mapStrm_mem : (p.mapStrm c n f).mem = p.mem := rfl
@[simp] theorem mapStrm_jig : (p.mapStrm c n f).jig = p.jig := rfl
@[simp] theorem mapStrm_ctxs : (p.mapStrm c n f).ctxs = p.ctxs := rfl
@[simp] theorem mapStrm_holds : (p.mapStrm c n f).holds = p.holds := rfl
@[simp] theorem mapStrm_slots : (p.mapStrm c n f).slots = p.slots := rfl
@[simp] theorem mapStrm_gangs : (p.mapStrm c n f).gangs = p.gangs := rfl
@[simp] theorem mapStrm_bench : (p.mapStrm c n f).bench = p.bench := rfl
@[simp] theorem mapStrm_flog : (p.mapStrm c n f).flog = p.flog := rfl
@[simp] theorem mapStrm_probe : (p.mapStrm c n f).probe = p.probe := rfl
@[simp] theorem mapStrm_stacks : (p.mapStrm c n f).stks = p.stks := rfl
@[simp] theorem mapStrm_cups : (p.mapStrm c n f).cups = p.cups := rfl
@[simp] theorem mapStrm_chest : (p.mapStrm c n f).chest = p.chest := rfl
@[simp] theorem mapStrm_audio : (p.mapStrm c n f).audio = p.audio := rfl
@[simp] theorem mapStrm_links : (p.mapStrm c n f).links = p.links := rfl
@[simp] theorem mapStrm_join : (p.mapStrm c n f).join = p.join := rfl
@[simp] theorem mapStrm_power : (p.mapStrm c n f).power = p.power := rfl
@[simp] theorem mapStrm_clocks : (p.mapStrm c n f).clocks = p.clocks := rfl
@[simp] theorem mapStrm_svc : (p.mapStrm c n f).svc = p.svc := rfl
@[simp] theorem mapStrm_mark : (p.mapStrm c n f).mark = p.mark := rfl
@[simp] theorem mapStrm_dowels : (p.mapStrm c n f).dowels = p.dowels := rfl
@[simp] theorem mapStrm_cars : (p.mapStrm c n f).cars = p.cars := rfl
end

section
variable (p : Part) (k : Nat) (f : Slot → Slot)
@[simp] theorem mapSlot_fresh : (p.mapSlot k f).fresh = p.fresh := rfl
@[simp] theorem mapSlot_time : (p.mapSlot k f).time = p.time := rfl
@[simp] theorem mapSlot_regs : (p.mapSlot k f).regs = p.regs := rfl
@[simp] theorem mapSlot_ctrs : (p.mapSlot k f).ctrs = p.ctrs := rfl
@[simp] theorem mapSlot_hif : (p.mapSlot k f).hif = p.hif := rfl
@[simp] theorem mapSlot_mem : (p.mapSlot k f).mem = p.mem := rfl
@[simp] theorem mapSlot_jig : (p.mapSlot k f).jig = p.jig := rfl
@[simp] theorem mapSlot_ctxs : (p.mapSlot k f).ctxs = p.ctxs := rfl
@[simp] theorem mapSlot_holds : (p.mapSlot k f).holds = p.holds := rfl
@[simp] theorem mapSlot_strms : (p.mapSlot k f).strms = p.strms := rfl
@[simp] theorem mapSlot_gangs : (p.mapSlot k f).gangs = p.gangs := rfl
@[simp] theorem mapSlot_bench : (p.mapSlot k f).bench = p.bench := rfl
@[simp] theorem mapSlot_flog : (p.mapSlot k f).flog = p.flog := rfl
@[simp] theorem mapSlot_probe : (p.mapSlot k f).probe = p.probe := rfl
@[simp] theorem mapSlot_stacks : (p.mapSlot k f).stks = p.stks := rfl
@[simp] theorem mapSlot_cups : (p.mapSlot k f).cups = p.cups := rfl
@[simp] theorem mapSlot_chest : (p.mapSlot k f).chest = p.chest := rfl
@[simp] theorem mapSlot_audio : (p.mapSlot k f).audio = p.audio := rfl
@[simp] theorem mapSlot_links : (p.mapSlot k f).links = p.links := rfl
@[simp] theorem mapSlot_join : (p.mapSlot k f).join = p.join := rfl
@[simp] theorem mapSlot_power : (p.mapSlot k f).power = p.power := rfl
@[simp] theorem mapSlot_clocks : (p.mapSlot k f).clocks = p.clocks := rfl
@[simp] theorem mapSlot_svc : (p.mapSlot k f).svc = p.svc := rfl
@[simp] theorem mapSlot_mark : (p.mapSlot k f).mark = p.mark := rfl
@[simp] theorem mapSlot_dowels : (p.mapSlot k f).dowels = p.dowels := rfl
@[simp] theorem mapSlot_cars : (p.mapSlot k f).cars = p.cars := rfl
end

section
variable (p : Part) (k : Nat) (x : ChBlk)
@[simp] theorem setBlk_fresh : (p.setBlk k x).fresh = p.fresh := rfl
@[simp] theorem setBlk_time : (p.setBlk k x).time = p.time := rfl
@[simp] theorem setBlk_regs : (p.setBlk k x).regs = p.regs := rfl
@[simp] theorem setBlk_ctrs : (p.setBlk k x).ctrs = p.ctrs := rfl
@[simp] theorem setBlk_hif : (p.setBlk k x).hif = p.hif := rfl
@[simp] theorem setBlk_mem : (p.setBlk k x).mem = p.mem := rfl
@[simp] theorem setBlk_jig : (p.setBlk k x).jig = p.jig := rfl
@[simp] theorem setBlk_ctxs : (p.setBlk k x).ctxs = p.ctxs := rfl
@[simp] theorem setBlk_holds : (p.setBlk k x).holds = p.holds := rfl
@[simp] theorem setBlk_strms : (p.setBlk k x).strms = p.strms := rfl
@[simp] theorem setBlk_slots : (p.setBlk k x).slots = p.slots := rfl
@[simp] theorem setBlk_gangs : (p.setBlk k x).gangs = p.gangs := rfl
@[simp] theorem setBlk_bench : (p.setBlk k x).bench = p.bench := rfl
@[simp] theorem setBlk_flog : (p.setBlk k x).flog = p.flog := rfl
@[simp] theorem setBlk_probe : (p.setBlk k x).probe = p.probe := rfl
@[simp] theorem setBlk_stacks : (p.setBlk k x).stks = p.stks := rfl
@[simp] theorem setBlk_cups : (p.setBlk k x).cups = p.cups := rfl
@[simp] theorem setBlk_audio : (p.setBlk k x).audio = p.audio := rfl
@[simp] theorem setBlk_links : (p.setBlk k x).links = p.links := rfl
@[simp] theorem setBlk_join : (p.setBlk k x).join = p.join := rfl
@[simp] theorem setBlk_power : (p.setBlk k x).power = p.power := rfl
@[simp] theorem setBlk_clocks : (p.setBlk k x).clocks = p.clocks := rfl
@[simp] theorem setBlk_svc : (p.setBlk k x).svc = p.svc := rfl
@[simp] theorem setBlk_mark : (p.setBlk k x).mark = p.mark := rfl
@[simp] theorem setBlk_dowels : (p.setBlk k x).dowels = p.dowels := rfl
@[simp] theorem setBlk_cars : (p.setBlk k x).cars = p.cars := rfl
end

section
variable (p : Part) (c : ChCmd)
@[simp] theorem setCmd_fresh : (p.setCmd c).fresh = p.fresh := rfl
@[simp] theorem setCmd_time : (p.setCmd c).time = p.time := rfl
@[simp] theorem setCmd_regs : (p.setCmd c).regs = p.regs := rfl
@[simp] theorem setCmd_ctrs : (p.setCmd c).ctrs = p.ctrs := rfl
@[simp] theorem setCmd_hif : (p.setCmd c).hif = p.hif := rfl
@[simp] theorem setCmd_mem : (p.setCmd c).mem = p.mem := rfl
@[simp] theorem setCmd_jig : (p.setCmd c).jig = p.jig := rfl
@[simp] theorem setCmd_ctxs : (p.setCmd c).ctxs = p.ctxs := rfl
@[simp] theorem setCmd_holds : (p.setCmd c).holds = p.holds := rfl
@[simp] theorem setCmd_strms : (p.setCmd c).strms = p.strms := rfl
@[simp] theorem setCmd_slots : (p.setCmd c).slots = p.slots := rfl
@[simp] theorem setCmd_gangs : (p.setCmd c).gangs = p.gangs := rfl
@[simp] theorem setCmd_bench : (p.setCmd c).bench = p.bench := rfl
@[simp] theorem setCmd_flog : (p.setCmd c).flog = p.flog := rfl
@[simp] theorem setCmd_probe : (p.setCmd c).probe = p.probe := rfl
@[simp] theorem setCmd_stacks : (p.setCmd c).stks = p.stks := rfl
@[simp] theorem setCmd_cups : (p.setCmd c).cups = p.cups := rfl
@[simp] theorem setCmd_audio : (p.setCmd c).audio = p.audio := rfl
@[simp] theorem setCmd_links : (p.setCmd c).links = p.links := rfl
@[simp] theorem setCmd_join : (p.setCmd c).join = p.join := rfl
@[simp] theorem setCmd_power : (p.setCmd c).power = p.power := rfl
@[simp] theorem setCmd_clocks : (p.setCmd c).clocks = p.clocks := rfl
@[simp] theorem setCmd_svc : (p.setCmd c).svc = p.svc := rfl
@[simp] theorem setCmd_mark : (p.setCmd c).mark = p.mark := rfl
@[simp] theorem setCmd_dowels : (p.setCmd c).dowels = p.dowels := rfl
@[simp] theorem setCmd_cars : (p.setCmd c).cars = p.cars := rfl
end

section
variable (p : Part) (d : Nat) (x : Dowel)
@[simp] theorem setDowel_fresh : (p.setDowel d x).fresh = p.fresh := rfl
@[simp] theorem setDowel_time : (p.setDowel d x).time = p.time := rfl
@[simp] theorem setDowel_regs : (p.setDowel d x).regs = p.regs := rfl
@[simp] theorem setDowel_ctrs : (p.setDowel d x).ctrs = p.ctrs := rfl
@[simp] theorem setDowel_hif : (p.setDowel d x).hif = p.hif := rfl
@[simp] theorem setDowel_mem : (p.setDowel d x).mem = p.mem := rfl
@[simp] theorem setDowel_jig : (p.setDowel d x).jig = p.jig := rfl
@[simp] theorem setDowel_ctxs : (p.setDowel d x).ctxs = p.ctxs := rfl
@[simp] theorem setDowel_holds : (p.setDowel d x).holds = p.holds := rfl
@[simp] theorem setDowel_strms : (p.setDowel d x).strms = p.strms := rfl
@[simp] theorem setDowel_slots : (p.setDowel d x).slots = p.slots := rfl
@[simp] theorem setDowel_gangs : (p.setDowel d x).gangs = p.gangs := rfl
@[simp] theorem setDowel_bench : (p.setDowel d x).bench = p.bench := rfl
@[simp] theorem setDowel_flog : (p.setDowel d x).flog = p.flog := rfl
@[simp] theorem setDowel_probe : (p.setDowel d x).probe = p.probe := rfl
@[simp] theorem setDowel_stacks : (p.setDowel d x).stks = p.stks := rfl
@[simp] theorem setDowel_cups : (p.setDowel d x).cups = p.cups := rfl
@[simp] theorem setDowel_chest : (p.setDowel d x).chest = p.chest := rfl
@[simp] theorem setDowel_audio : (p.setDowel d x).audio = p.audio := rfl
@[simp] theorem setDowel_links : (p.setDowel d x).links = p.links := rfl
@[simp] theorem setDowel_join : (p.setDowel d x).join = p.join := rfl
@[simp] theorem setDowel_power : (p.setDowel d x).power = p.power := rfl
@[simp] theorem setDowel_clocks : (p.setDowel d x).clocks = p.clocks := rfl
@[simp] theorem setDowel_svc : (p.setDowel d x).svc = p.svc := rfl
@[simp] theorem setDowel_mark : (p.setDowel d x).mark = p.mark := rfl
@[simp] theorem setDowel_cars : (p.setDowel d x).cars = p.cars := rfl
end

section
variable (p : Part) (fn : Nat) (x : Watch)
@[simp] theorem setWatch_fresh : (p.setWatch fn x).fresh = p.fresh := rfl
@[simp] theorem setWatch_time : (p.setWatch fn x).time = p.time := rfl
@[simp] theorem setWatch_regs : (p.setWatch fn x).regs = p.regs := rfl
@[simp] theorem setWatch_ctrs : (p.setWatch fn x).ctrs = p.ctrs := rfl
@[simp] theorem setWatch_mem : (p.setWatch fn x).mem = p.mem := rfl
@[simp] theorem setWatch_jig : (p.setWatch fn x).jig = p.jig := rfl
@[simp] theorem setWatch_ctxs : (p.setWatch fn x).ctxs = p.ctxs := rfl
@[simp] theorem setWatch_holds : (p.setWatch fn x).holds = p.holds := rfl
@[simp] theorem setWatch_strms : (p.setWatch fn x).strms = p.strms := rfl
@[simp] theorem setWatch_slots : (p.setWatch fn x).slots = p.slots := rfl
@[simp] theorem setWatch_gangs : (p.setWatch fn x).gangs = p.gangs := rfl
@[simp] theorem setWatch_bench : (p.setWatch fn x).bench = p.bench := rfl
@[simp] theorem setWatch_flog : (p.setWatch fn x).flog = p.flog := rfl
@[simp] theorem setWatch_probe : (p.setWatch fn x).probe = p.probe := rfl
@[simp] theorem setWatch_stacks : (p.setWatch fn x).stks = p.stks := rfl
@[simp] theorem setWatch_cups : (p.setWatch fn x).cups = p.cups := rfl
@[simp] theorem setWatch_chest : (p.setWatch fn x).chest = p.chest := rfl
@[simp] theorem setWatch_audio : (p.setWatch fn x).audio = p.audio := rfl
@[simp] theorem setWatch_links : (p.setWatch fn x).links = p.links := rfl
@[simp] theorem setWatch_join : (p.setWatch fn x).join = p.join := rfl
@[simp] theorem setWatch_power : (p.setWatch fn x).power = p.power := rfl
@[simp] theorem setWatch_clocks : (p.setWatch fn x).clocks = p.clocks := rfl
@[simp] theorem setWatch_svc : (p.setWatch fn x).svc = p.svc := rfl
@[simp] theorem setWatch_mark : (p.setWatch fn x).mark = p.mark := rfl
@[simp] theorem setWatch_dowels : (p.setWatch fn x).dowels = p.dowels := rfl
@[simp] theorem setWatch_cars : (p.setWatch fn x).cars = p.cars := rfl
end

section
variable (p : Part)
@[simp] theorem vfsOff_fresh : p.vfsOff.fresh = p.fresh := rfl
@[simp] theorem vfsOff_time : p.vfsOff.time = p.time := rfl
@[simp] theorem vfsOff_regs : p.vfsOff.regs = p.regs := rfl
@[simp] theorem vfsOff_ctrs : p.vfsOff.ctrs = p.ctrs := rfl
@[simp] theorem vfsOff_mem : p.vfsOff.mem = p.mem := rfl
@[simp] theorem vfsOff_jig : p.vfsOff.jig = p.jig := rfl
@[simp] theorem vfsOff_ctxs : p.vfsOff.ctxs = p.ctxs := rfl
@[simp] theorem vfsOff_holds : p.vfsOff.holds = p.holds := rfl
@[simp] theorem vfsOff_strms : p.vfsOff.strms = p.strms := rfl
@[simp] theorem vfsOff_slots : p.vfsOff.slots = p.slots := rfl
@[simp] theorem vfsOff_gangs : p.vfsOff.gangs = p.gangs := rfl
@[simp] theorem vfsOff_bench : p.vfsOff.bench = p.bench := rfl
@[simp] theorem vfsOff_flog : p.vfsOff.flog = p.flog := rfl
@[simp] theorem vfsOff_probe : p.vfsOff.probe = p.probe := rfl
@[simp] theorem vfsOff_stacks : p.vfsOff.stks = p.stks := rfl
@[simp] theorem vfsOff_cups : p.vfsOff.cups = p.cups := rfl
@[simp] theorem vfsOff_chest : p.vfsOff.chest = p.chest := rfl
@[simp] theorem vfsOff_audio : p.vfsOff.audio = p.audio := rfl
@[simp] theorem vfsOff_links : p.vfsOff.links = p.links := rfl
@[simp] theorem vfsOff_join : p.vfsOff.join = p.join := rfl
@[simp] theorem vfsOff_power : p.vfsOff.power = p.power := rfl
@[simp] theorem vfsOff_clocks : p.vfsOff.clocks = p.clocks := rfl
@[simp] theorem vfsOff_svc : p.vfsOff.svc = p.svc := rfl
@[simp] theorem vfsOff_mark : p.vfsOff.mark = p.mark := rfl
@[simp] theorem vfsOff_dowels : p.vfsOff.dowels = p.dowels := rfl
@[simp] theorem vfsOff_cars : p.vfsOff.cars = p.cars := rfl
end

section
variable (p : Part) (v : Option Nat)
@[simp] theorem respond_fresh : (p.respond v).fresh = p.fresh := rfl
@[simp] theorem respond_time : (p.respond v).time = p.time := rfl
@[simp] theorem respond_regs : (p.respond v).regs = p.regs := rfl
@[simp] theorem respond_ctrs : (p.respond v).ctrs = p.ctrs := rfl
@[simp] theorem respond_mem : (p.respond v).mem = p.mem := rfl
@[simp] theorem respond_jig : (p.respond v).jig = p.jig := rfl
@[simp] theorem respond_ctxs : (p.respond v).ctxs = p.ctxs := rfl
@[simp] theorem respond_holds : (p.respond v).holds = p.holds := rfl
@[simp] theorem respond_strms : (p.respond v).strms = p.strms := rfl
@[simp] theorem respond_slots : (p.respond v).slots = p.slots := rfl
@[simp] theorem respond_gangs : (p.respond v).gangs = p.gangs := rfl
@[simp] theorem respond_bench : (p.respond v).bench = p.bench := rfl
@[simp] theorem respond_flog : (p.respond v).flog = p.flog := rfl
@[simp] theorem respond_probe : (p.respond v).probe = p.probe := rfl
@[simp] theorem respond_stacks : (p.respond v).stks = p.stks := rfl
@[simp] theorem respond_cups : (p.respond v).cups = p.cups := rfl
@[simp] theorem respond_chest : (p.respond v).chest = p.chest := rfl
@[simp] theorem respond_audio : (p.respond v).audio = p.audio := rfl
@[simp] theorem respond_links : (p.respond v).links = p.links := rfl
@[simp] theorem respond_join : (p.respond v).join = p.join := rfl
@[simp] theorem respond_power : (p.respond v).power = p.power := rfl
@[simp] theorem respond_clocks : (p.respond v).clocks = p.clocks := rfl
@[simp] theorem respond_svc : (p.respond v).svc = p.svc := rfl
@[simp] theorem respond_mark : (p.respond v).mark = p.mark := rfl
@[simp] theorem respond_dowels : (p.respond v).dowels = p.dowels := rfl
@[simp] theorem respond_cars : (p.respond v).cars = p.cars := rfl
end

section
variable (p : Part)
@[simp] theorem markLock_fresh : p.markLock.fresh = p.fresh := rfl
@[simp] theorem markLock_time : p.markLock.time = p.time := rfl
@[simp] theorem markLock_regs : p.markLock.regs = p.regs := rfl
@[simp] theorem markLock_ctrs : p.markLock.ctrs = p.ctrs := rfl
@[simp] theorem markLock_hif : p.markLock.hif = p.hif := rfl
@[simp] theorem markLock_mem : p.markLock.mem = p.mem := rfl
@[simp] theorem markLock_jig : p.markLock.jig = p.jig := rfl
@[simp] theorem markLock_ctxs : p.markLock.ctxs = p.ctxs := rfl
@[simp] theorem markLock_holds : p.markLock.holds = p.holds := rfl
@[simp] theorem markLock_strms : p.markLock.strms = p.strms := rfl
@[simp] theorem markLock_slots : p.markLock.slots = p.slots := rfl
@[simp] theorem markLock_gangs : p.markLock.gangs = p.gangs := rfl
@[simp] theorem markLock_bench : p.markLock.bench = p.bench := rfl
@[simp] theorem markLock_flog : p.markLock.flog = p.flog := rfl
@[simp] theorem markLock_probe : p.markLock.probe = p.probe := rfl
@[simp] theorem markLock_stacks : p.markLock.stks = p.stks := rfl
@[simp] theorem markLock_cups : p.markLock.cups = p.cups := rfl
@[simp] theorem markLock_chest : p.markLock.chest = p.chest := rfl
@[simp] theorem markLock_audio : p.markLock.audio = p.audio := rfl
@[simp] theorem markLock_links : p.markLock.links = p.links := rfl
@[simp] theorem markLock_join : p.markLock.join = p.join := rfl
@[simp] theorem markLock_power : p.markLock.power = p.power := rfl
@[simp] theorem markLock_clocks : p.markLock.clocks = p.clocks := rfl
@[simp] theorem markLock_svc : p.markLock.svc = p.svc := rfl
@[simp] theorem markLock_dowels : p.markLock.dowels = p.dowels := rfl
@[simp] theorem markLock_cars : p.markLock.cars = p.cars := rfl
end

section
variable (p : Part) (port off : Nat)
@[simp] theorem unstage_fresh : (p.unstage port off).fresh = p.fresh := rfl
@[simp] theorem unstage_time : (p.unstage port off).time = p.time := rfl
@[simp] theorem unstage_regs : (p.unstage port off).regs = p.regs := rfl
@[simp] theorem unstage_ctrs : (p.unstage port off).ctrs = p.ctrs := rfl
@[simp] theorem unstage_mem : (p.unstage port off).mem = p.mem := rfl
@[simp] theorem unstage_jig : (p.unstage port off).jig = p.jig := rfl
@[simp] theorem unstage_ctxs : (p.unstage port off).ctxs = p.ctxs := rfl
@[simp] theorem unstage_holds : (p.unstage port off).holds = p.holds := rfl
@[simp] theorem unstage_strms : (p.unstage port off).strms = p.strms := rfl
@[simp] theorem unstage_slots : (p.unstage port off).slots = p.slots := rfl
@[simp] theorem unstage_gangs : (p.unstage port off).gangs = p.gangs := rfl
@[simp] theorem unstage_bench : (p.unstage port off).bench = p.bench := rfl
@[simp] theorem unstage_flog : (p.unstage port off).flog = p.flog := rfl
@[simp] theorem unstage_probe : (p.unstage port off).probe = p.probe := rfl
@[simp] theorem unstage_stacks : (p.unstage port off).stks = p.stks := rfl
@[simp] theorem unstage_cups : (p.unstage port off).cups = p.cups := rfl
@[simp] theorem unstage_chest : (p.unstage port off).chest = p.chest := rfl
@[simp] theorem unstage_audio : (p.unstage port off).audio = p.audio := rfl
@[simp] theorem unstage_links : (p.unstage port off).links = p.links := rfl
@[simp] theorem unstage_join : (p.unstage port off).join = p.join := rfl
@[simp] theorem unstage_power : (p.unstage port off).power = p.power := rfl
@[simp] theorem unstage_clocks : (p.unstage port off).clocks = p.clocks := rfl
@[simp] theorem unstage_svc : (p.unstage port off).svc = p.svc := rfl
@[simp] theorem unstage_mark : (p.unstage port off).mark = p.mark := rfl
@[simp] theorem unstage_dowels : (p.unstage port off).dowels = p.dowels := rfl
@[simp] theorem unstage_cars : (p.unstage port off).cars = p.cars := rfl
end

section
variable (p : Part) (x : Nat × Nat × Half × Option (Nat × Nat))
@[simp] theorem hold426_fresh : (p.hold426 x).fresh = p.fresh := rfl
@[simp] theorem hold426_time : (p.hold426 x).time = p.time := rfl
@[simp] theorem hold426_regs : (p.hold426 x).regs = p.regs := rfl
@[simp] theorem hold426_ctrs : (p.hold426 x).ctrs = p.ctrs := rfl
@[simp] theorem hold426_mem : (p.hold426 x).mem = p.mem := rfl
@[simp] theorem hold426_jig : (p.hold426 x).jig = p.jig := rfl
@[simp] theorem hold426_ctxs : (p.hold426 x).ctxs = p.ctxs := rfl
@[simp] theorem hold426_holds : (p.hold426 x).holds = p.holds := rfl
@[simp] theorem hold426_strms : (p.hold426 x).strms = p.strms := rfl
@[simp] theorem hold426_slots : (p.hold426 x).slots = p.slots := rfl
@[simp] theorem hold426_gangs : (p.hold426 x).gangs = p.gangs := rfl
@[simp] theorem hold426_bench : (p.hold426 x).bench = p.bench := rfl
@[simp] theorem hold426_flog : (p.hold426 x).flog = p.flog := rfl
@[simp] theorem hold426_probe : (p.hold426 x).probe = p.probe := rfl
@[simp] theorem hold426_stacks : (p.hold426 x).stks = p.stks := rfl
@[simp] theorem hold426_cups : (p.hold426 x).cups = p.cups := rfl
@[simp] theorem hold426_chest : (p.hold426 x).chest = p.chest := rfl
@[simp] theorem hold426_audio : (p.hold426 x).audio = p.audio := rfl
@[simp] theorem hold426_links : (p.hold426 x).links = p.links := rfl
@[simp] theorem hold426_join : (p.hold426 x).join = p.join := rfl
@[simp] theorem hold426_power : (p.hold426 x).power = p.power := rfl
@[simp] theorem hold426_clocks : (p.hold426 x).clocks = p.clocks := rfl
@[simp] theorem hold426_svc : (p.hold426 x).svc = p.svc := rfl
@[simp] theorem hold426_mark : (p.hold426 x).mark = p.mark := rfl
@[simp] theorem hold426_dowels : (p.hold426 x).dowels = p.dowels := rfl
@[simp] theorem hold426_cars : (p.hold426 x).cars = p.cars := rfl
end

section
variable (p : Part) (hw : Cells)
@[simp] theorem hostSees_fresh : (p.hostSees hw).fresh = p.fresh := rfl
@[simp] theorem hostSees_time : (p.hostSees hw).time = p.time := rfl
@[simp] theorem hostSees_regs : (p.hostSees hw).regs = p.regs := rfl
@[simp] theorem hostSees_ctrs : (p.hostSees hw).ctrs = p.ctrs := rfl
@[simp] theorem hostSees_hif : (p.hostSees hw).hif = p.hif := rfl
@[simp] theorem hostSees_jig : (p.hostSees hw).jig = p.jig := rfl
@[simp] theorem hostSees_ctxs : (p.hostSees hw).ctxs = p.ctxs := rfl
@[simp] theorem hostSees_holds : (p.hostSees hw).holds = p.holds := rfl
@[simp] theorem hostSees_strms : (p.hostSees hw).strms = p.strms := rfl
@[simp] theorem hostSees_slots : (p.hostSees hw).slots = p.slots := rfl
@[simp] theorem hostSees_gangs : (p.hostSees hw).gangs = p.gangs := rfl
@[simp] theorem hostSees_bench : (p.hostSees hw).bench = p.bench := rfl
@[simp] theorem hostSees_flog : (p.hostSees hw).flog = p.flog := rfl
@[simp] theorem hostSees_probe : (p.hostSees hw).probe = p.probe := rfl
@[simp] theorem hostSees_stacks : (p.hostSees hw).stks = p.stks := rfl
@[simp] theorem hostSees_cups : (p.hostSees hw).cups = p.cups := rfl
@[simp] theorem hostSees_chest : (p.hostSees hw).chest = p.chest := rfl
@[simp] theorem hostSees_audio : (p.hostSees hw).audio = p.audio := rfl
@[simp] theorem hostSees_links : (p.hostSees hw).links = p.links := rfl
@[simp] theorem hostSees_join : (p.hostSees hw).join = p.join := rfl
@[simp] theorem hostSees_power : (p.hostSees hw).power = p.power := rfl
@[simp] theorem hostSees_clocks : (p.hostSees hw).clocks = p.clocks := rfl
@[simp] theorem hostSees_svc : (p.hostSees hw).svc = p.svc := rfl
@[simp] theorem hostSees_mark : (p.hostSees hw).mark = p.mark := rfl
@[simp] theorem hostSees_dowels : (p.hostSees hw).dowels = p.dowels := rfl
@[simp] theorem hostSees_cars : (p.hostSees hw).cars = p.cars := rfl
end

section
variable (p : Part) (a n : Nat)
@[simp] theorem bump_fresh : (p.bump a n).fresh = p.fresh := by unfold bump; split <;> rfl
@[simp] theorem bump_time : (p.bump a n).time = p.time := by unfold bump; split <;> rfl
@[simp] theorem bump_regs : (p.bump a n).regs = p.regs := by unfold bump; split <;> rfl
@[simp] theorem bump_hif : (p.bump a n).hif = p.hif := by unfold bump; split <;> rfl
@[simp] theorem bump_mem : (p.bump a n).mem = p.mem := by unfold bump; split <;> rfl
@[simp] theorem bump_jig : (p.bump a n).jig = p.jig := by unfold bump; split <;> rfl
@[simp] theorem bump_ctxs : (p.bump a n).ctxs = p.ctxs := by unfold bump; split <;> rfl
@[simp] theorem bump_holds : (p.bump a n).holds = p.holds := by unfold bump; split <;> rfl
@[simp] theorem bump_strms : (p.bump a n).strms = p.strms := by unfold bump; split <;> rfl
@[simp] theorem bump_slots : (p.bump a n).slots = p.slots := by unfold bump; split <;> rfl
@[simp] theorem bump_gangs : (p.bump a n).gangs = p.gangs := by unfold bump; split <;> rfl
@[simp] theorem bump_bench : (p.bump a n).bench = p.bench := by unfold bump; split <;> rfl
@[simp] theorem bump_flog : (p.bump a n).flog = p.flog := by unfold bump; split <;> rfl
@[simp] theorem bump_probe : (p.bump a n).probe = p.probe := by unfold bump; split <;> rfl
@[simp] theorem bump_stacks : (p.bump a n).stks = p.stks := by unfold bump; split <;> rfl
@[simp] theorem bump_cups : (p.bump a n).cups = p.cups := by unfold bump; split <;> rfl
@[simp] theorem bump_chest : (p.bump a n).chest = p.chest := by unfold bump; split <;> rfl
@[simp] theorem bump_audio : (p.bump a n).audio = p.audio := by unfold bump; split <;> rfl
@[simp] theorem bump_links : (p.bump a n).links = p.links := by unfold bump; split <;> rfl
@[simp] theorem bump_join : (p.bump a n).join = p.join := by unfold bump; split <;> rfl
@[simp] theorem bump_power : (p.bump a n).power = p.power := by unfold bump; split <;> rfl
@[simp] theorem bump_clocks : (p.bump a n).clocks = p.clocks := by unfold bump; split <;> rfl
@[simp] theorem bump_svc : (p.bump a n).svc = p.svc := by unfold bump; split <;> rfl
@[simp] theorem bump_mark : (p.bump a n).mark = p.mark := by unfold bump; split <;> rfl
@[simp] theorem bump_dowels : (p.bump a n).dowels = p.dowels := by unfold bump; split <;> rfl
@[simp] theorem bump_cars : (p.bump a n).cars = p.cars := by unfold bump; split <;> rfl
end

section
variable (p : Part)
@[simp] theorem free_time : p.free.2.time = p.time := rfl
@[simp] theorem free_regs : p.free.2.regs = p.regs := rfl
@[simp] theorem free_ctrs : p.free.2.ctrs = p.ctrs := rfl
@[simp] theorem free_hif : p.free.2.hif = p.hif := rfl
@[simp] theorem free_mem : p.free.2.mem = p.mem := rfl
@[simp] theorem free_jig : p.free.2.jig = p.jig := rfl
@[simp] theorem free_ctxs : p.free.2.ctxs = p.ctxs := rfl
@[simp] theorem free_holds : p.free.2.holds = p.holds := rfl
@[simp] theorem free_strms : p.free.2.strms = p.strms := rfl
@[simp] theorem free_slots : p.free.2.slots = p.slots := rfl
@[simp] theorem free_gangs : p.free.2.gangs = p.gangs := rfl
@[simp] theorem free_bench : p.free.2.bench = p.bench := rfl
@[simp] theorem free_flog : p.free.2.flog = p.flog := rfl
@[simp] theorem free_probe : p.free.2.probe = p.probe := rfl
@[simp] theorem free_stacks : p.free.2.stks = p.stks := rfl
@[simp] theorem free_cups : p.free.2.cups = p.cups := rfl
@[simp] theorem free_chest : p.free.2.chest = p.chest := rfl
@[simp] theorem free_audio : p.free.2.audio = p.audio := rfl
@[simp] theorem free_links : p.free.2.links = p.links := rfl
@[simp] theorem free_join : p.free.2.join = p.join := rfl
@[simp] theorem free_power : p.free.2.power = p.power := rfl
@[simp] theorem free_clocks : p.free.2.clocks = p.clocks := rfl
@[simp] theorem free_svc : p.free.2.svc = p.svc := rfl
@[simp] theorem free_mark : p.free.2.mark = p.mark := rfl
@[simp] theorem free_dowels : p.free.2.dowels = p.dowels := rfl
@[simp] theorem free_cars : p.free.2.cars = p.cars := rfl
@[simp] theorem free_fresh : p.free.2.fresh = p.fresh + 1 := rfl
end

end Sys2Proof.Machine.Part
end

