-- ==== Sys2Proof/Laws/Good.lean ====
section
/-!
SUPPORT. Sys2Proof/Laws/Good.lean: the primitive updates keep what Safety.Good says of the part; Laws/Keep*.lean follow it through the
operations built from them.
-/

namespace Sys2Proof.Safety
open Sys2Proof Sys2Proof.Machine

/-- A part that agrees with a good one in memory, registers, counters and fault log is good. -/
theorem Good.same {q p : Part} (hm : q.mem = p.mem) (hr : q.regs = p.regs) (hc : q.ctrs = p.ctrs) (hf : q.flog.entries = p.flog.entries)
    (h : Good p) : Good q where
  mem := hm ▸ h.mem
  regs := hr ▸ h.regs
  ctrs := hc ▸ h.ctrs
  sat := hc ▸ h.sat
  flog := hf ▸ h.flog
  slots := hf ▸ h.slots

/-- What Good says, of the fields it is about. -/
def GoodCore (mem : Memory) (regs : Tab Reg) (ctrs : Tab Nat) (entries : Tab Nat) : Prop :=
  mem.wf = true ∧ Tab.wf regs = true ∧ Tab.wf ctrs = true ∧ (∀ e ∈ ctrs, e.2 < 2 ^ 64) ∧ Tab.wf entries = true ∧ ∀ e ∈ entries, e.1 < 1024

theorem good_mk (fresh : Nat) (time : Nat) (regs : Tab Reg) (ctrs : Tab Nat) (hif : Hif) (mem : Memory) (jig : Jig) (ctxs : Tab Ctx) (holds : Tab Hold) (strms : Tab Strm) (slots : Tab Slot) (gangs : Tab Gang) (bench : Bench) (flog : FaultLog) (probe : Probe) (stks : Tab Stack) (cups : Tab Cupboard) (chest : Chest) (audio : Audio) (links : Tab Link) (join : Join) (power : Power) (clocks : Clocks) (svc : Svc) (mark : Hallmark) (dowels : Tab Dowel) (cars : Tab Nat) :
    Good (Sys2Proof.Machine.Part.mk fresh time regs ctrs hif mem jig ctxs holds strms slots gangs bench flog probe stks cups chest audio links join power clocks svc mark dowels cars) = GoodCore mem regs ctrs flog.entries :=
  propext ⟨fun h => ⟨h.mem, h.regs, h.ctrs, h.sat, h.flog, h.slots⟩, fun h => ⟨h.1, h.2.1, h.2.2.1, h.2.2.2.1, h.2.2.2.2.1, h.2.2.2.2.2⟩⟩

theorem Good.core {p : Part} (h : Good p) : GoodCore p.mem p.regs p.ctrs p.flog.entries := ⟨h.mem, h.regs, h.ctrs, h.sat, h.flog, h.slots⟩

theorem Good.ite {c : Prop} [Decidable c] {a b : Part} (ha : c → Good a) (hb : ¬c → Good b) : Good (if c then a else b) := by
  split
  · exact ha ‹_›
  · exact hb ‹_›

theorem Good.foldl {α : Type} {f : Part → α → Part} {l : List α} {p : Part} (h : Good p) (hf : ∀ q a, Good q → Good (f q a)) :
    Good (l.foldl f p) := by
  induction l generalizing p with
  | nil => exact h
  | cons a t ih => exact ih (hf p a h)

theorem Good.foldl2 {α β : Type} {f : β × Part → α → β × Part} {l : List α} {x : β × Part} (h : Good x.2)
    (hf : ∀ q a, Good q.2 → Good (f q a).2) : Good (l.foldl f x).2 := by
  induction l generalizing x with
  | nil => exact h
  | cons a t ih => exact ih (hf x a h)

theorem Good.foldl1 {α β : Type} {f : Part × β → α → Part × β} {l : List α} {x : Part × β} (h : Good x.1)
    (hf : ∀ q a, Good q.1 → Good (f q a).1) : Good (l.foldl f x).1 := by
  induction l generalizing x with
  | nil => exact h
  | cons a t ih => exact ih (hf x a h)

theorem Good.foldlOpt {α : Type} {f : Option Part → α → Option Part} {l : List α} {x : Option Part} {q : Part}
    (e : l.foldl f x = some q) (h : ∀ q, x = some q → Good q)
    (hf : ∀ o a, (∀ q, o = some q → Good q) → ∀ q, f o a = some q → Good q) : Good q := by
  induction l generalizing x with
  | nil => exact h q e
  | cons a t ih => exact ih e (hf x a h)

theorem Good.onMem {p : Part} {f : Memory → Memory} (h : Good p) (hf : p.mem.wf = true → (f p.mem).wf = true) : Good (p.onMem f) where
  mem := hf h.mem
  regs := h.regs
  ctrs := h.ctrs
  sat := h.sat
  flog := h.flog
  slots := h.slots

theorem Good.setReg {p : Part} {r : RegName} {d i v : Nat} (h : Good p) : Good (p.setReg r d i v) where
  mem := h.mem
  regs := Tab.wf_put _ _ _ h.regs
  ctrs := h.ctrs
  sat := h.sat
  flog := h.flog
  slots := h.slots

theorem mem_put_sat {t : Tab Nat} {a v : Nat} (h : ∀ e ∈ t, e.2 < 2 ^ 64) (hv : v < 2 ^ 64) : ∀ e ∈ Tab.put a v t, e.2 < 2 ^ 64 := by
  intro e he
  rcases Tab.mem_put he with rfl | he
  · exact hv
  · exact h e he

theorem Good.bump {p : Part} {a n : Nat} (h : Good p) : Good (p.bump a n) := by
  unfold Part.bump
  split
  · exact h
  · exact ⟨h.mem, h.regs, Tab.wf_put _ _ _ h.ctrs, mem_put_sat h.sat (by omega), h.flog, h.slots⟩

theorem Good.keepCtrs {p : Part} {f : Nat → Nat → Bool} (h : Good p) : Good { p with ctrs := Tab.keep f p.ctrs } :=
  ⟨h.mem, h.regs, Tab.wf_keep _ _ h.ctrs, fun e he => h.sat e (List.mem_filter.mp he).1, h.flog, h.slots⟩

theorem Good.moveCtrs {p : Part} {f : Nat → Nat} (h : Good p) :
    Good { p with ctrs := p.ctrs.foldl (fun t e => Tab.put (f e.1) e.2 t) [] } := by
  have key : ∀ (l t : Tab Nat), (∀ e ∈ l, e.2 < 2 ^ 64) → Tab.wf t = true → (∀ e ∈ t, e.2 < 2 ^ 64) →
      Tab.wf (l.foldl (fun t e => Tab.put (f e.1) e.2 t) t) = true ∧ ∀ e ∈ l.foldl (fun t e => Tab.put (f e.1) e.2 t) t, e.2 < 2 ^ 64 := by
    intro l
    induction l with
    | nil => exact fun t _ h1 h2 => ⟨h1, h2⟩
    | cons a l ih =>
      intro t hl h1 h2
      exact ih _ (fun e he => hl e (List.mem_cons_of_mem _ he)) (Tab.wf_put _ _ _ h1) (mem_put_sat h2 (hl a (by simp)))
  have k := key p.ctrs [] h.sat rfl (by simp)
  exact ⟨h.mem, h.regs, k.1, k.2, h.flog, h.slots⟩

/-- A fault log entry written in the ring of 1,024. -/
theorem Good.flogPut {p : Part} {i e : Nat} {l : FaultLog} (h : Good p) (hi : i < 1024) (hl : l.entries = Tab.put i e p.flog.entries) :
    Good { p with flog := l } where
  mem := h.mem
  regs := h.regs
  ctrs := h.ctrs
  sat := h.sat
  flog := by simp only [hl]; exact Tab.wf_put _ _ _ h.flog
  slots := by
    simp only [hl]
    intro x hx
    rcases Tab.mem_put hx with rfl | hx
    · exact hi
    · exact h.slots x hx

theorem good_initial : Good Part.initial := ⟨rfl, rfl, rfl, by simp [Part.initial], rfl, by simp [Part.initial]⟩

end Sys2Proof.Safety
end

