-- ==== Sys2Proof/Laws/KeepRegs.lean ====
section
/-!
SUPPORT. Sys2Proof/Laws/KeepRegs.lean: every operation of Machine/Regs.lean keeps a part good (Safety.Good).
-/

set_option linter.unusedSimpArgs false

namespace Sys2Proof.Safety
open Sys2Proof Sys2Proof.Machine

theorem keep_setRf {p : Part} {r : RegName} {d i lo w v : Nat} (hg : Good p) : Good (Part.setRf p r d i lo w v) := by
  unfold Part.setRf
  repeat' first
    | with_reducible assumption
    | with_reducible apply Good.setReg
    | with_reducible apply Good.ite
    | (intro _)
    | split
    | dsimp only

theorem keep_setRb {p : Part} {r : RegName} {d i b : Nat} {v : Bool} (hg : Good p) : Good (Part.setRb p r d i b v) := by
  unfold Part.setRb
  repeat' first
    | with_reducible assumption
    | with_reducible apply keep_setRf
    | with_reducible apply Good.ite
    | (intro _)
    | split
    | dsimp only

theorem keep_bumpEng {p : Part} {c : Cls} {e ctx ev n : Nat} (hg : Good p) : Good (Part.bumpEng p c e ctx ev n) := by
  unfold Part.bumpEng
  repeat' first
    | with_reducible assumption
    | with_reducible apply Good.bump
    | with_reducible apply Good.ite
    | (intro _)
    | split
    | dsimp only

theorem keep_bumpFrameCarrier {p : Part} {e die ctx ev n : Nat} (hg : Good p) : Good (Part.bumpFrameCarrier p e die ctx ev n) := by
  unfold Part.bumpFrameCarrier
  repeat' first
    | with_reducible assumption
    | with_reducible apply Good.bump
    | with_reducible apply Good.ite
    | (intro _)
    | split
    | dsimp only

theorem keep_bumpCarrier {p : Part} {e die ctx ev n : Nat} (hg : Good p) : Good (Part.bumpCarrier p e die ctx ev n) := by
  unfold Part.bumpCarrier
  repeat' first
    | with_reducible assumption
    | with_reducible apply keep_bumpEng
    | with_reducible apply keep_bumpFrameCarrier
    | with_reducible apply Good.ite
    | (intro _)
    | split
    | dsimp only

theorem keep_bumpGang {p : Part} {g ctx ev n : Nat} (hg : Good p) : Good (Part.bumpGang p g ctx ev n) := by
  unfold Part.bumpGang
  repeat' first
    | with_reducible assumption
    | with_reducible apply Good.bump
    | with_reducible apply Good.ite
    | (intro _)
    | split
    | dsimp only

theorem keep_bumpStream {p : Part} {die ctx ev n : Nat} (hg : Good p) : Good (Part.bumpStream p die ctx ev n) := by
  unfold Part.bumpStream
  repeat' first
    | with_reducible assumption
    | with_reducible apply Good.bump
    | with_reducible apply Good.ite
    | (intro _)
    | split
    | dsimp only

theorem keep_bumpJig {p : Part} {die ctx ev n : Nat} (hg : Good p) : Good (Part.bumpJig p die ctx ev n) := by
  unfold Part.bumpJig
  repeat' first
    | with_reducible assumption
    | with_reducible apply Good.bump
    | with_reducible apply Good.ite
    | (intro _)
    | split
    | dsimp only

theorem keep_bumpAnneal {p : Part} {die ctx ev : Nat} (hg : Good p) : Good (Part.bumpAnneal p die ctx ev) := by
  unfold Part.bumpAnneal
  repeat' first
    | with_reducible assumption
    | with_reducible apply Good.bump
    | with_reducible apply Good.ite
    | (intro _)
    | split
    | dsimp only

theorem keep_bumpHif {p : Part} {c ev n : Nat} (hg : Good p) : Good (Part.bumpHif p c ev n) := by
  unfold Part.bumpHif
  repeat' first
    | with_reducible assumption
    | with_reducible apply Good.bump
    | with_reducible apply Good.ite
    | (intro _)
    | split
    | dsimp only

theorem keep_badAccess {p : Part} (hg : Good p) : Good (Part.badAccess p) := by
  unfold Part.badAccess
  repeat' first
    | with_reducible assumption
    | with_reducible apply Good.bump
    | with_reducible apply Good.ite
    | (intro _)
    | split
    | dsimp only

theorem keep_free {p : Part} (hg : Good p) : Good (Part.free p).2 := by
  unfold Part.free
  repeat' first
    | with_reducible assumption
    | with_reducible apply keep_Rd_free
    | (simp only [good_mk]; with_reducible apply Good.core)
    | with_reducible apply Good.ite
    | (intro _)
    | split
    | dsimp only

end Sys2Proof.Safety
end

