-- ==== Sys2Proof/Laws/KeepFlags.lean ====
section
/-!
SUPPORT. Sys2Proof/Laws/KeepFlags.lean: every operation of Machine/Flags.lean keeps a part good (Safety.Good).
-/

set_option linter.unusedSimpArgs false

namespace Sys2Proof.Safety
open Sys2Proof Sys2Proof.Machine

theorem keep_bumpFn {p : Part} {fn ev : Nat} (hg : Good p) : Good (Part.bumpFn p fn ev) := by
  unfold Part.bumpFn
  repeat' first
    | with_reducible assumption
    | with_reducible apply Good.bump
    | with_reducible apply Good.ite
    | (intro _)
    | split
    | dsimp only

theorem keep_bumpPort {p : Part} {port ev : Nat} (hg : Good p) : Good (Part.bumpPort p port ev) := by
  unfold Part.bumpPort
  repeat' first
    | with_reducible assumption
    | with_reducible apply Good.bump
    | with_reducible apply Good.ite
    | (intro _)
    | split
    | dsimp only

theorem keep_setVec {p : Part} {fn v : Nat} {x : Vec} (hg : Good p) : Good (Part.setVec p fn v x) := by
  unfold Part.setVec
  repeat' first
    | with_reducible assumption
    | (simp only [good_mk]; with_reducible apply Good.core)
    | with_reducible apply Good.ite
    | (intro _)
    | split
    | dsimp only

theorem keep_request {p : Part} {fn : Nat} (hg : Good p) : Good (Part.request p fn) := by
  unfold Part.request
  repeat' first
    | with_reducible assumption
    | with_reducible apply keep_bumpFn
    | with_reducible apply Good.ite
    | (intro _)
    | split
    | dsimp only

theorem keep_sendMsi {p : Part} {fn v : Nat} (hg : Good p) : Good (Part.sendMsi p fn v) := by
  unfold Part.sendMsi
  repeat' first
    | with_reducible assumption
    | with_reducible apply keep_bumpFn
    | (simp only [good_mk]; with_reducible apply Good.core)
    | with_reducible apply Good.ite
    | (intro _)
    | split
    | dsimp only

theorem keep_signal {p : Part} {fn v : Nat} (hg : Good p) : Good (Part.signal p fn v) := by
  unfold Part.signal
  repeat' first
    | with_reducible assumption
    | with_reducible apply keep_setVec
    | with_reducible apply keep_sendMsi
    | (simp only [good_mk]; with_reducible apply Good.core)
    | with_reducible apply Good.ite
    | (intro _)
    | split
    | dsimp only

theorem keep_sendPending {fn : Nat} {p : Part} {v : Nat} (hg : Good p) : Good (Part.sendPending fn p v) := by
  unfold Part.sendPending
  repeat' first
    | with_reducible assumption
    | with_reducible apply keep_setVec
    | with_reducible apply keep_sendMsi
    | (simp only [good_mk]; with_reducible apply Good.core)
    | with_reducible apply Good.ite
    | (intro _)
    | split
    | dsimp only

theorem keep_hostReadErr {p : Part} {fn : Nat} {st : RdStat} (hg : Good p) : Good (Part.hostReadErr p fn st) := by
  unfold Part.hostReadErr
  repeat' first
    | with_reducible assumption
    | with_reducible apply keep_bumpPort
    | (simp only [good_mk]; with_reducible apply Good.core)
    | with_reducible apply Good.ite
    | (intro _)
    | split
    | dsimp only

theorem keep_faultIrq {p : Part} {code : Nat} (hg : Good p) : Good (Part.faultIrq p code) := by
  unfold Part.faultIrq
  repeat' first
    | with_reducible assumption
    | with_reducible apply keep_signal
    | (simp only [good_mk]; with_reducible apply Good.core)
    | with_reducible apply Good.ite
    | (intro _)
    | split
    | dsimp only

theorem keep_logFault {p : Part} {f : FaultRec} (hg : Good p) : Good (Part.logFault p f) := by
  unfold Part.logFault
  repeat' first
    | with_reducible assumption
    | with_reducible apply keep_setRf
    | with_reducible apply keep_faultIrq
    | exact Good.flogPut hg (Nat.mod_lt _ (by decide)) rfl
    | with_reducible apply Good.bump
    | (simp only [good_mk]; with_reducible apply Good.core)
    | with_reducible apply Good.ite
    | (intro _)
    | split
    | dsimp only

theorem keep_recordFault {p : Part} {f : FaultRec} (hg : Good p) : Good (Part.recordFault p f) := by
  unfold Part.recordFault
  repeat' first
    | with_reducible assumption
    | with_reducible apply keep_setRb
    | with_reducible apply keep_logFault
    | with_reducible apply Good.ite
    | (intro _)
    | split
    | dsimp only

end Sys2Proof.Safety
end

