-- ==== Sys2Proof/Laws/KeepMem.lean ====
section
/-!
SUPPORT. Sys2Proof/Laws/KeepMem.lean: every operation of Machine/Mem.lean keeps a part good (Safety.Good).
-/

set_option linter.unusedSimpArgs false

namespace Sys2Proof.Safety
open Sys2Proof Sys2Proof.Machine

theorem keep_hbmPut {p : Part} {a : Nat} {bs : List Byte} {poison : Bool} (hg : Good p) : Good (Part.hbmPut p a bs poison) := by
  unfold Part.hbmPut
  repeat' first
    | with_reducible assumption
    | with_reducible apply keep_Rd_write
    | with_reducible apply Memory.cleared_wf
    | with_reducible apply Good.onMem
    | exact Good.mem ‹_›
    | with_reducible apply Memory.write_wf
    | with_reducible apply Memory.hostWrite_wf
    | with_reducible apply Memory.hostPut_wf
    | with_reducible apply Memory.setPoison_wf
    | with_reducible apply Memory.openRange_wf
    | with_reducible apply Memory.zeroStack_wf
    | with_reducible apply Memory.foldl_wf
    | with_reducible apply Good.mem
    | with_reducible apply Good.foldl
    | with_reducible apply Good.foldl2
    | with_reducible apply Good.foldl1
    | with_reducible apply Good.ite
    | (intro _)
    | split
    | dsimp only

theorem keep_hostSees {p : Part} {hw : Cells} (hg : Good p) : Good (Part.hostSees p hw) := by
  unfold Part.hostSees
  repeat' first
    | with_reducible assumption
    | with_reducible apply Memory.cleared_wf
    | with_reducible apply Good.onMem
    | exact Good.mem ‹_›
    | with_reducible apply Memory.write_wf
    | with_reducible apply Memory.hostWrite_wf
    | with_reducible apply Memory.hostPut_wf
    | with_reducible apply Memory.setPoison_wf
    | with_reducible apply Memory.openRange_wf
    | with_reducible apply Memory.zeroStack_wf
    | with_reducible apply Memory.foldl_wf
    | with_reducible apply Good.mem
    | with_reducible apply Good.ite
    | (intro _)
    | split
    | dsimp only

theorem keep_hostPost {p : Part} {fn a : Nat} {bs : List Byte} (hg : Good p) : Good (Part.hostPost p fn a bs) := by
  unfold Part.hostPost
  repeat' first
    | with_reducible assumption
    | with_reducible apply keep_bumpFn
    | with_reducible apply Memory.cleared_wf
    | with_reducible apply Good.onMem
    | exact Good.mem ‹_›
    | with_reducible apply Memory.write_wf
    | with_reducible apply Memory.hostWrite_wf
    | with_reducible apply Memory.hostPut_wf
    | with_reducible apply Memory.setPoison_wf
    | with_reducible apply Memory.openRange_wf
    | with_reducible apply Memory.zeroStack_wf
    | with_reducible apply Memory.foldl_wf
    | with_reducible apply Good.mem
    | with_reducible apply Good.ite
    | (intro _)
    | split
    | dsimp only

end Sys2Proof.Safety
end

