-- ==== Sys2Proof/Laws/KeepAesFeed.lean ====
section
/-!
SUPPORT. Sys2Proof/Laws/KeepAesFeed.lean: every operation of Machine/AesFeed.lean keeps a part good (Safety.Good).
-/

set_option linter.unusedSimpArgs false

namespace Sys2Proof.Safety
open Sys2Proof Sys2Proof.Machine

theorem keep_setPort {p : Part} {a : Nat} {x : AesPort} (hg : Good p) : Good (Part.setPort p a x) := by
  unfold Part.setPort
  repeat' first
    | with_reducible assumption
    | (simp only [good_mk]; with_reducible apply Good.core)
    | with_reducible apply Good.ite
    | (intro _)
    | split
    | dsimp only

theorem keep_setAesCh {p : Part} {a ch : Nat} {y : AesCh} (hg : Good p) : Good (Part.setAesCh p a ch y) := by
  unfold Part.setAesCh
  repeat' first
    | with_reducible assumption
    | with_reducible apply keep_setPort
    | (simp only [good_mk]; with_reducible apply Good.core)
    | with_reducible apply Good.ite
    | (intro _)
    | split
    | dsimp only

theorem keep_bumpAes {p : Part} {a ch ev n : Nat} (hg : Good p) : Good (Part.bumpAes p a ch ev n) := by
  unfold Part.bumpAes
  repeat' first
    | with_reducible assumption
    | with_reducible apply Good.bump
    | with_reducible apply Good.ite
    | (intro _)
    | split
    | dsimp only

theorem keep_aesBindErr {p : Part} {c n : Nat} (hg : Good p) : Good (Part.aesBindErr p c n) := by
  unfold Part.aesBindErr
  repeat' first
    | with_reducible assumption
    | with_reducible apply keep_setAesCh
    | with_reducible apply keep_setRb
    | with_reducible apply keep_bumpAes
    | with_reducible apply Good.foldl
    | with_reducible apply Good.foldl2
    | with_reducible apply Good.foldl1
    | (simp only [good_mk]; with_reducible apply Good.core)
    | with_reducible apply Good.ite
    | (intro _)
    | split
    | dsimp only

theorem keep_aesStart {p : Part} {c n die i : Nat} (hg : Good p) : Good (Part.aesStart p c n die i) := by
  unfold Part.aesStart
  repeat' first
    | with_reducible assumption
    | with_reducible apply keep_setAesCh
    | with_reducible apply Good.foldl
    | with_reducible apply Good.foldl2
    | with_reducible apply Good.foldl1
    | (simp only [good_mk]; with_reducible apply Good.core)
    | with_reducible apply Good.ite
    | (intro _)
    | split
    | dsimp only

theorem keep_aesChunk {p : Part} {c n values : Nat} (hg : Good p) : Good (Part.aesChunk p c n values) := by
  unfold Part.aesChunk
  repeat' first
    | with_reducible assumption
    | with_reducible apply keep_setAesCh
    | with_reducible apply Good.foldl
    | with_reducible apply Good.foldl2
    | with_reducible apply Good.foldl1
    | (simp only [good_mk]; with_reducible apply Good.core)
    | with_reducible apply Good.ite
    | (intro _)
    | split
    | dsimp only

theorem keep_aesEnded {p : Part} {c n : Nat} (hg : Good p) : Good (Part.aesEnded p c n) := by
  unfold Part.aesEnded
  repeat' first
    | with_reducible assumption
    | with_reducible apply keep_setAesCh
    | with_reducible apply Good.foldl
    | with_reducible apply Good.foldl2
    | with_reducible apply Good.foldl1
    | (simp only [good_mk]; with_reducible apply Good.core)
    | with_reducible apply Good.ite
    | (intro _)
    | split
    | dsimp only

theorem keep_aesFade {p : Part} {c : Nat} (hg : Good p) : Good (Part.aesFade p c) := by
  unfold Part.aesFade
  repeat' first
    | with_reducible assumption
    | (simp only [good_mk]; with_reducible apply Good.core)
    | with_reducible apply Good.ite
    | (intro _)
    | split
    | dsimp only

end Sys2Proof.Safety
end

