-- ==== Sys2Proof/Laws/KeepOps.lean ====
section
/-!
SUPPORT. Sys2Proof/Laws/KeepOps.lean: every operation of Machine/Ops.lean keeps a part good (Safety.Good).
-/

set_option linter.unusedSimpArgs false

namespace Sys2Proof.Safety
open Sys2Proof Sys2Proof.Machine

theorem keep_setSvcState {p : Part} {k st : Nat} (hg : Good p) : Good (Part.setSvcState p k st) := by
  unfold Part.setSvcState
  repeat' first
    | with_reducible assumption
    | with_reducible apply keep_setRf
    | with_reducible apply Good.ite
    | (intro _)
    | split
    | dsimp only

theorem keep_setCtx {p : Part} {c : Nat} {x : Ctx} (hg : Good p) : Good (Part.setCtx p c x) := by
  unfold Part.setCtx
  repeat' first
    | with_reducible assumption
    | (simp only [good_mk]; with_reducible apply Good.core)
    | with_reducible apply Good.ite
    | (intro _)
    | split
    | dsimp only

theorem keep_setHold {p : Part} {c b : Nat} {h : Hold} (hg : Good p) : Good (Part.setHold p c b h) := by
  unfold Part.setHold
  repeat' first
    | with_reducible assumption
    | (simp only [good_mk]; with_reducible apply Good.core)
    | with_reducible apply Good.ite
    | (intro _)
    | split
    | dsimp only

theorem keep_setCq {p : Part} {q : Nat} {x : Cq} (hg : Good p) : Good (Part.setCq p q x) := by
  unfold Part.setCq
  repeat' first
    | with_reducible assumption
    | (simp only [good_mk]; with_reducible apply Good.core)
    | with_reducible apply Good.ite
    | (intro _)
    | split
    | dsimp only

theorem keep_setSq {p : Part} {r : Nat} {x : Sq} (hg : Good p) : Good (Part.setSq p r x) := by
  unfold Part.setSq
  repeat' first
    | with_reducible assumption
    | (simp only [good_mk]; with_reducible apply Good.core)
    | with_reducible apply Good.ite
    | (intro _)
    | split
    | dsimp only

theorem keep_cqSignal {p : Part} {q : Nat} (hg : Good p) : Good (Part.cqSignal p q) := by
  unfold Part.cqSignal
  repeat' first
    | with_reducible assumption
    | with_reducible apply keep_setCq
    | with_reducible apply keep_bumpHif
    | with_reducible apply keep_signal
    | (simp only [good_mk]; with_reducible apply Good.core)
    | with_reducible apply Good.ite
    | (intro _)
    | split
    | dsimp only

theorem keep_cqModerate {p : Part} {q : Nat} (hg : Good p) : Good (Part.cqModerate p q) := by
  unfold Part.cqModerate
  repeat' first
    | with_reducible assumption
    | with_reducible apply keep_setCq
    | with_reducible apply keep_cqSignal
    | (simp only [good_mk]; with_reducible apply Good.core)
    | with_reducible apply Good.ite
    | (intro _)
    | split
    | dsimp only

theorem keep_cqPost {p : Part} {q : Nat} {e : CqEntry} (hg : Good p) : Good (Part.cqPost p q e) := by
  unfold Part.cqPost
  repeat' first
    | with_reducible assumption
    | with_reducible apply keep_hostPost
    | with_reducible apply keep_setCq
    | with_reducible apply keep_bumpHif
    | with_reducible apply keep_cqModerate
    | (simp only [good_mk]; with_reducible apply Good.core)
    | with_reducible apply Good.ite
    | (intro _)
    | split
    | dsimp only

theorem keep_readReturn {p : Part} {q : Nat} (hg : Good p) : Good (Part.readReturn p q) := by
  unfold Part.readReturn
  repeat' first
    | with_reducible assumption
    | with_reducible apply keep_setCq
    | with_reducible apply keep_request
    | (simp only [good_mk]; with_reducible apply Good.core)
    | with_reducible apply Good.ite
    | (intro _)
    | split
    | dsimp only

theorem keep_post {p : Part} {q : Nat} {e : CqEntry} (hg : Good p) : Good (Part.post p q e) := by
  unfold Part.post
  repeat' first
    | with_reducible assumption
    | with_reducible apply keep_cqPost
    | with_reducible apply keep_setCq
    | with_reducible apply keep_bumpHif
    | with_reducible apply keep_readReturn
    | (simp only [good_mk]; with_reducible apply Good.core)
    | with_reducible apply Good.ite
    | (intro _)
    | split
    | dsimp only

theorem keep_cqDrain {q : Nat} (k : Nat) {p : Part} (hg : Good p) : Good (Part.cqDrain q k p) := by
  induction k generalizing p q with
  | zero => unfold Part.cqDrain; assumption
  | succ k ih =>
    unfold Part.cqDrain
    repeat' first
      | with_reducible assumption
      | with_reducible apply ih
      | with_reducible apply keep_bumpHif
      | with_reducible apply keep_cqPost
      | with_reducible apply keep_setCq
      | (simp only [good_mk]; with_reducible apply Good.core)
      | with_reducible apply Good.ite
      | (intro _)
      | split
      | dsimp only

theorem keep_setJob {p : Part} {j : Nat} {x : Job} (hg : Good p) : Good (Part.setJob p j x) := by
  unfold Part.setJob
  repeat' first
    | with_reducible assumption
    | (simp only [good_mk]; with_reducible apply Good.core)
    | with_reducible apply Good.ite
    | (intro _)
    | split
    | dsimp only

theorem keep_setRec {p : Part} {j r : Nat} {x : Rec} (hg : Good p) : Good (Part.setRec p j r x) := by
  unfold Part.setRec
  repeat' first
    | with_reducible assumption
    | (simp only [good_mk]; with_reducible apply Good.core)
    | with_reducible apply Good.ite
    | (intro _)
    | split
    | dsimp only

theorem keep_endJob {p : Part} {j status : Nat} (hg : Good p) : Good (Part.endJob p j status) := by
  unfold Part.endJob
  repeat' first
    | with_reducible assumption
    | with_reducible apply keep_free
    | with_reducible apply keep_Rd_free
    | with_reducible apply keep_post
    | with_reducible apply keep_setRf
    | with_reducible apply keep_bumpJig
    | with_reducible apply Good.bump
    | (simp only [good_mk]; with_reducible apply Good.core)
    | with_reducible apply Good.ite
    | (intro _)
    | split
    | dsimp only

theorem keep_completeRec {p : Part} {j r status : Nat} {zero late : Bool} {result : Nat} (hg : Good p) : Good (Part.completeRec p j r status zero late result) := by
  unfold Part.completeRec
  repeat' first
    | with_reducible assumption
    | with_reducible apply keep_setRec
    | with_reducible apply keep_bumpJig
    | with_reducible apply keep_setCtx
    | with_reducible apply keep_post
    | with_reducible apply keep_endJob
    | (simp only [good_mk]; with_reducible apply Good.core)
    | with_reducible apply Good.ite
    | (intro _)
    | split
    | dsimp only

theorem keep_ctlBad {p : Part} {c a : Nat} (hg : Good p) : Good (Part.ctlBad p c a) := by
  unfold Part.ctlBad
  repeat' first
    | with_reducible assumption
    | with_reducible apply keep_setCtx
    | (simp only [good_mk]; with_reducible apply Good.core)
    | with_reducible apply Good.ite
    | (intro _)
    | split
    | dsimp only

theorem keep_translate {p : Part} {c a : Nat} {write : Bool} (hg : Good p) : Good (Part.translate p c a write).2 := by
  unfold Part.translate
  repeat' first
    | with_reducible assumption
    | with_reducible apply keep_Rd_write
    | with_reducible apply keep_free
    | with_reducible apply keep_Rd_free
    | with_reducible apply keep_setCtx
    | with_reducible apply Memory.cleared_wf
    | with_reducible apply Good.onMem
    | exact Good.mem ‹_›
    | with_reducible apply Memory.write_wf
    | with_reducible apply Memory.hostWrite_wf
    | with_reducible apply Memory.hostPut_wf
    | with_reducible apply Memory.setPoison_wf
    | with_reducible apply Memory.openRange_wf
    | with_reducible apply Memory.zeroStack_wf
    | with_reducible apply Memory.foldl_wf
    | with_reducible apply Good.mem
    | (simp only [good_mk]; with_reducible apply Good.core)
    | with_reducible apply Good.ite
    | (intro _)
    | split
    | dsimp only

theorem keep_ctlWrite {p : Part} {c a : Nat} {bs : List Byte} (hg : Good p) : Good (Part.ctlWrite p c a bs) := by
  unfold Part.ctlWrite
  repeat' first
    | with_reducible assumption
    | with_reducible apply keep_translate
    | with_reducible apply keep_hostPost
    | with_reducible apply keep_ctlBad
    | with_reducible apply keep_hbmPut
    | with_reducible apply keep_Rd_write
    | with_reducible apply Memory.cleared_wf
    | with_reducible apply Good.onMem
    | exact Good.mem ‹_›
    | with_reducible apply Memory.write_wf
    | with_reducible apply Memory.hostWrite_wf
    | with_reducible apply Memory.hostPut_wf
    | with_reducible apply Memory.setPoison_wf
    | with_reducible apply Memory.openRange_wf
    | with_reducible apply Memory.zeroStack_wf
    | with_reducible apply Memory.foldl_wf
    | with_reducible apply Good.mem
    | with_reducible apply Good.ite
    | (intro _)
    | split
    | dsimp only

theorem keep_ctlRead {p : Part} {c a n : Nat} (hg : Good p) : Good (Part.ctlRead p c a n).2 := by
  unfold Part.ctlRead
  repeat' first
    | with_reducible assumption
    | with_reducible apply keep_translate
    | with_reducible apply keep_bumpFn
    | with_reducible apply keep_ctlBad
    | with_reducible apply keep_Rd_read
    | with_reducible apply Memory.cleared_wf
    | with_reducible apply Good.onMem
    | exact Good.mem ‹_›
    | with_reducible apply Memory.write_wf
    | with_reducible apply Memory.hostWrite_wf
    | with_reducible apply Memory.hostPut_wf
    | with_reducible apply Memory.setPoison_wf
    | with_reducible apply Memory.openRange_wf
    | with_reducible apply Memory.zeroStack_wf
    | with_reducible apply Memory.foldl_wf
    | with_reducible apply Good.mem
    | with_reducible apply Good.ite
    | (intro _)
    | split
    | dsimp only

theorem keep_mapStrm {p : Part} {c n : Nat} {f : Strm → Strm} (hg : Good p) : Good (Part.mapStrm p c n f) := by
  unfold Part.mapStrm
  repeat' first
    | with_reducible assumption
    | (simp only [good_mk]; with_reducible apply Good.core)
    | with_reducible apply Good.ite
    | (intro _)
    | split
    | dsimp only

theorem keep_setStrm {p : Part} {c n : Nat} {s : Strm} (hg : Good p) : Good (Part.setStrm p c n s) := by
  unfold Part.setStrm
  repeat' first
    | with_reducible assumption
    | (simp only [good_mk]; with_reducible apply Good.core)
    | with_reducible apply Good.ite
    | (intro _)
    | split
    | dsimp only

theorem keep_strmBack {p : Part} {c n : Nat} (hg : Good p) : Good (Part.strmBack p c n) := by
  unfold Part.strmBack
  repeat' first
    | with_reducible assumption
    | with_reducible apply keep_ctlRead
    | with_reducible apply keep_free
    | with_reducible apply keep_Rd_free
    | with_reducible apply keep_setStrm
    | with_reducible apply keep_ctlWrite
    | with_reducible apply Good.foldl
    | with_reducible apply Good.foldl2
    | with_reducible apply Good.foldl1
    | (simp only [good_mk]; with_reducible apply Good.core)
    | with_reducible apply Good.ite
    | (intro _)
    | split
    | dsimp only

theorem keep_strmState {p : Part} {c n st : Nat} (hg : Good p) : Good (Part.strmState p c n st) := by
  unfold Part.strmState
  repeat' first
    | with_reducible assumption
    | with_reducible apply keep_setStrm
    | with_reducible apply keep_strmBack
    | (simp only [good_mk]; with_reducible apply Good.core)
    | with_reducible apply Good.ite
    | (intro _)
    | split
    | dsimp only

theorem keep_freeSlot {p : Part} {k : Nat} (hg : Good p) : Good (Part.freeSlot p k) := by
  unfold Part.freeSlot
  repeat' first
    | with_reducible assumption
    | (simp only [good_mk]; with_reducible apply Good.core)
    | with_reducible apply Good.ite
    | (intro _)
    | split
    | dsimp only

theorem keep_mapSlot {p : Part} {k : Nat} {f : Slot → Slot} (hg : Good p) : Good (Part.mapSlot p k f) := by
  unfold Part.mapSlot
  repeat' first
    | with_reducible assumption
    | (simp only [good_mk]; with_reducible apply Good.core)
    | with_reducible apply Good.ite
    | (intro _)
    | split
    | dsimp only

theorem keep_setSlot {p : Part} {k : Nat} {s : Slot} (hg : Good p) : Good (Part.setSlot p k s) := by
  unfold Part.setSlot
  repeat' first
    | with_reducible assumption
    | (simp only [good_mk]; with_reducible apply Good.core)
    | with_reducible apply Good.ite
    | (intro _)
    | split
    | dsimp only

theorem keep_strmEnd {p : Part} {c n : Nat} {code : Option Nat} (hg : Good p) : Good (Part.strmEnd p c n code) := by
  unfold Part.strmEnd
  repeat' first
    | with_reducible assumption
    | with_reducible apply keep_setStrm
    | with_reducible apply keep_strmState
    | with_reducible apply keep_freeSlot
    | with_reducible apply keep_aesEnded
    | (simp only [good_mk]; with_reducible apply Good.core)
    | with_reducible apply Good.ite
    | (intro _)
    | split
    | dsimp only

theorem keep_setSb {p : Part} {d : Nat} {l : List SbRange} (hg : Good p) : Good (Part.setSb p d l) := by
  unfold Part.setSb
  repeat' first
    | with_reducible assumption
    | (simp only [good_mk]; with_reducible apply Good.core)
    | with_reducible apply Good.ite
    | (intro _)
    | split
    | dsimp only

theorem keep_setRegion {p : Part} {d i : Nat} {x : Region} (hg : Good p) : Good (Part.setRegion p d i x) := by
  unfold Part.setRegion
  repeat' first
    | with_reducible assumption
    | (simp only [good_mk]; with_reducible apply Good.core)
    | with_reducible apply Good.ite
    | (intro _)
    | split
    | dsimp only

theorem keep_arrive {p : Part} {d : Nat} {k : Option Nat} (hg : Good p) : Good (Part.arrive p d k) := by
  unfold Part.arrive
  repeat' first
    | with_reducible assumption
    | with_reducible apply Good.setReg
    | with_reducible apply Good.ite
    | (intro _)
    | split
    | dsimp only

theorem keep_dropWaits {p : Part} {ids : List Nat} (hg : Good p) : Good (Part.dropWaits p ids) := by
  unfold Part.dropWaits
  repeat' first
    | with_reducible assumption
    | (simp only [good_mk]; with_reducible apply Good.core)
    | with_reducible apply Good.ite
    | (intro _)
    | split
    | dsimp only

theorem keep_releaseRange {p : Part} {s : SbRange} (hg : Good p) : Good (Part.releaseRange p s) := by
  unfold Part.releaseRange
  repeat' first
    | with_reducible assumption
    | with_reducible apply keep_arrive
    | with_reducible apply keep_setRegion
    | with_reducible apply Good.foldl
    | with_reducible apply Good.foldl2
    | with_reducible apply Good.foldl1
    | with_reducible apply Good.ite
    | (intro _)
    | split
    | dsimp only

theorem keep_releaseRanges {p : Part} {ids : List Nat} (hg : Good p) : Good (Part.releaseRanges p ids) := by
  unfold Part.releaseRanges
  repeat' first
    | with_reducible assumption
    | with_reducible apply keep_releaseRange
    | with_reducible apply keep_dropWaits
    | with_reducible apply Good.foldl
    | with_reducible apply Good.foldl2
    | with_reducible apply Good.foldl1
    | (simp only [good_mk]; with_reducible apply Good.core)
    | with_reducible apply Good.ite
    | (intro _)
    | split
    | dsimp only

theorem keep_dropSlot {p : Part} {k : Nat} (hg : Good p) : Good (Part.dropSlot p k) := by
  unfold Part.dropSlot
  repeat' first
    | with_reducible assumption
    | with_reducible apply keep_setSlot
    | with_reducible apply keep_setStrm
    | (simp only [good_mk]; with_reducible apply Good.core)
    | with_reducible apply Good.ite
    | (intro _)
    | split
    | dsimp only

theorem keep_dropStep {p : Part} {g : Nat} (hg : Good p) : Good (Part.dropStep p g) := by
  unfold Part.dropStep
  repeat' first
    | with_reducible assumption
    | with_reducible apply keep_dropSlot
    | with_reducible apply keep_Rd_layer
    | with_reducible apply Good.foldl
    | with_reducible apply Good.foldl2
    | with_reducible apply Good.foldl1
    | (simp only [good_mk]; with_reducible apply Good.core)
    | with_reducible apply Good.ite
    | (intro _)
    | split
    | dsimp only

theorem keep_stopCtx {p : Part} {c : Nat} (hg : Good p) : Good (Part.stopCtx p c) := by
  unfold Part.stopCtx
  repeat' first
    | with_reducible assumption
    | with_reducible apply keep_dropStep
    | with_reducible apply Good.foldl
    | with_reducible apply Good.foldl2
    | with_reducible apply Good.foldl1
    | (simp only [good_mk]; with_reducible apply Good.core)
    | with_reducible apply Good.ite
    | (intro _)
    | split
    | dsimp only

theorem keep_releaseSaved {p : Part} {c : Nat} (hg : Good p) : Good (Part.releaseSaved p c) := by
  unfold Part.releaseSaved
  repeat' first
    | with_reducible assumption
    | with_reducible apply keep_releaseRange
    | with_reducible apply Good.foldl
    | with_reducible apply Good.foldl2
    | with_reducible apply Good.foldl1
    | (simp only [good_mk]; with_reducible apply Good.core)
    | with_reducible apply Good.ite
    | (intro _)
    | split
    | dsimp only

theorem keep_drainCtx {p : Part} {c : Nat} (hg : Good p) : Good (Part.drainCtx p c) := by
  unfold Part.drainCtx
  repeat' first
    | with_reducible assumption
    | (simp only [good_mk]; with_reducible apply Good.core)
    | with_reducible apply Good.ite
    | (intro _)
    | split
    | dsimp only

theorem keep_faultRec {p : Part} {x : Job} {r : Nat} {y : Rec} {code : Nat} (hg : Good p) : Good (Part.faultRec p x r y code) := by
  unfold Part.faultRec
  repeat' first
    | with_reducible assumption
    | with_reducible apply keep_free
    | with_reducible apply keep_Rd_free
    | with_reducible apply keep_post
    | (simp only [good_mk]; with_reducible apply Good.core)
    | with_reducible apply Good.ite
    | (intro _)
    | split
    | dsimp only

theorem keep_faultJobs {p : Part} {c code : Nat} (hg : Good p) : Good (Part.faultJobs p c code) := by
  unfold Part.faultJobs
  repeat' first
    | with_reducible assumption
    | with_reducible apply keep_faultRec
    | with_reducible apply keep_endJob
    | with_reducible apply Good.foldl
    | with_reducible apply Good.foldl2
    | with_reducible apply Good.foldl1
    | with_reducible apply Good.ite
    | (intro _)
    | split
    | dsimp only

theorem keep_noteChunks {p : Part} {c n : Nat} (hg : Good p) : Good (Part.noteChunks p c n) := by
  unfold Part.noteChunks
  repeat' first
    | with_reducible assumption
    | with_reducible apply keep_setRec
    | with_reducible apply keep_ops
    | with_reducible apply Good.foldl
    | with_reducible apply Good.foldl2
    | with_reducible apply Good.foldl1
    | (simp only [good_mk]; with_reducible apply Good.core)
    | with_reducible apply Good.ite
    | (intro _)
    | split
    | dsimp only

theorem keep_teardown {p : Part} {c code : Nat} (hg : Good p) : Good (Part.teardown p c code) := by
  unfold Part.teardown
  repeat' first
    | with_reducible assumption
    | with_reducible apply keep_setCtx
    | with_reducible apply keep_setRf
    | with_reducible apply keep_stopCtx
    | with_reducible apply keep_drainCtx
    | with_reducible apply keep_releaseRanges
    | with_reducible apply keep_releaseSaved
    | with_reducible apply keep_noteChunks
    | with_reducible apply keep_strmEnd
    | with_reducible apply keep_aesFade
    | with_reducible apply keep_faultJobs
    | with_reducible apply Good.bump
    | with_reducible apply Good.foldl
    | with_reducible apply Good.foldl2
    | with_reducible apply Good.foldl1
    | (simp only [good_mk]; with_reducible apply Good.core)
    | with_reducible apply Good.ite
    | (intro _)
    | split
    | dsimp only

theorem keep_ctxFault {p : Part} {c : Nat} {f : FaultRec} (hg : Good p) : Good (Part.ctxFault p c f) := by
  unfold Part.ctxFault
  repeat' first
    | with_reducible assumption
    | with_reducible apply keep_recordFault
    | with_reducible apply keep_teardown
    | (simp only [good_mk]; with_reducible apply Good.core)
    | with_reducible apply Good.ite
    | (intro _)
    | split
    | dsimp only

theorem keep_settle {p : Part} (hg : Good p) : Good (Part.settle p) := by
  unfold Part.settle
  repeat' first
    | with_reducible assumption
    | with_reducible apply keep_setCtx
    | with_reducible apply keep_ctxFault
    | with_reducible apply keep_setCq
    | with_reducible apply Good.foldl
    | with_reducible apply Good.foldl2
    | with_reducible apply Good.foldl1
    | (simp only [good_mk]; with_reducible apply Good.core)
    | with_reducible apply Good.ite
    | (intro _)
    | split
    | dsimp only

end Sys2Proof.Safety
end

