-- ==== Sys2Proof/Laws/KeepDies.lean ====
section
/-!
SUPPORT. Sys2Proof/Laws/KeepDies.lean: every operation of Machine/Dies.lean keeps a part good (Safety.Good).
-/

set_option linter.unusedSimpArgs false

namespace Sys2Proof.Safety
open Sys2Proof Sys2Proof.Machine

theorem keep_setStack {p : Part} {s : Nat} {x : Stack} (hg : Good p) : Good (Part.setStack p s x) := by
  unfold Part.setStack
  repeat' first
    | with_reducible assumption
    | (simp only [good_mk]; with_reducible apply Good.core)
    | with_reducible apply Good.ite
    | (intro _)
    | split
    | dsimp only

theorem keep_setCup {p : Part} {m : Nat} {x : Cupboard} (hg : Good p) : Good (Part.setCup p m x) := by
  unfold Part.setCup
  repeat' first
    | with_reducible assumption
    | (simp only [good_mk]; with_reducible apply Good.core)
    | with_reducible apply Good.ite
    | (intro _)
    | split
    | dsimp only

theorem keep_setDowel {p : Part} {d : Nat} {x : Dowel} (hg : Good p) : Good (Part.setDowel p d x) := by
  unfold Part.setDowel
  repeat' first
    | with_reducible assumption
    | (simp only [good_mk]; with_reducible apply Good.core)
    | with_reducible apply Good.ite
    | (intro _)
    | split
    | dsimp only

theorem keep_dropLines {p : Part} {s : Nat} (hg : Good p) : Good (Part.dropLines p s) := by
  unfold Part.dropLines
  repeat' first
    | with_reducible assumption
    | with_reducible apply keep_setCup
    | (simp only [good_mk]; with_reducible apply Good.core)
    | with_reducible apply Good.ite
    | (intro _)
    | split
    | dsimp only

theorem keep_hbmStore {p : Part} {a : Nat} {bs : List Byte} {poison : Bool} (hg : Good p) : Good (Part.hbmStore p a bs poison) := by
  unfold Part.hbmStore
  repeat' first
    | with_reducible assumption
    | with_reducible apply keep_hbmPut
    | (simp only [good_mk]; with_reducible apply Good.core)
    | with_reducible apply Good.ite
    | (intro _)
    | split
    | dsimp only

theorem keep_setChan {p : Part} {ch : Nat} {x : Chan} (hg : Good p) : Good (Part.setChan p ch x) := by
  unfold Part.setChan
  repeat' first
    | with_reducible assumption
    | (simp only [good_mk]; with_reducible apply Good.core)
    | with_reducible apply Good.ite
    | (intro _)
    | split
    | dsimp only

theorem keep_clearDeadCabs {p : Part} (hg : Good p) : Good (Part.clearDeadCabs p) := by
  unfold Part.clearDeadCabs
  repeat' first
    | with_reducible assumption
    | with_reducible apply keep_setRb
    | with_reducible apply Good.foldl
    | with_reducible apply Good.foldl2
    | with_reducible apply Good.foldl1
    | with_reducible apply Good.ite
    | (intro _)
    | split
    | dsimp only

theorem keep_teardownAll {p : Part} {f : Part → Nat → Bool} {code : Nat} (hg : Good p) : Good (Part.teardownAll p f code) := by
  unfold Part.teardownAll
  repeat' first
    | with_reducible assumption
    | with_reducible apply keep_teardown
    | with_reducible apply Good.foldl
    | with_reducible apply Good.foldl2
    | with_reducible apply Good.foldl1
    | with_reducible apply Good.ite
    | (intro _)
    | split
    | dsimp only

theorem keep_railsUp {p : Part} {u : Nat} (hg : Good p) : Good (Part.railsUp p u) := by
  unfold Part.railsUp
  repeat' first
    | with_reducible assumption
    | (simp only [good_mk]; with_reducible apply Good.core)
    | with_reducible apply Good.ite
    | (intro _)
    | split
    | dsimp only

theorem keep_railsDown {p : Part} {u : Nat} (hg : Good p) : Good (Part.railsDown p u) := by
  unfold Part.railsDown
  repeat' first
    | with_reducible assumption
    | (simp only [good_mk]; with_reducible apply Good.core)
    | with_reducible apply Good.ite
    | (intro _)
    | split
    | dsimp only

theorem keep_benchDieFatal {p : Part} {k code : Nat} (hg : Good p) : Good (Part.benchDieFatal p k code) := by
  unfold Part.benchDieFatal
  repeat' first
    | with_reducible assumption
    | with_reducible apply keep_recordFault
    | with_reducible apply keep_setSvcState
    | with_reducible apply keep_setRb
    | with_reducible apply keep_railsDown
    | with_reducible apply keep_teardownAll
    | with_reducible apply keep_clearDeadCabs
    | (simp only [good_mk]; with_reducible apply Good.core)
    | with_reducible apply Good.ite
    | (intro _)
    | split
    | dsimp only

theorem keep_stackDown {p : Part} {s : Nat} (hg : Good p) : Good (Part.stackDown p s) := by
  unfold Part.stackDown
  repeat' first
    | with_reducible assumption
    | with_reducible apply keep_setRb
    | with_reducible apply keep_dropLines
    | with_reducible apply Good.ite
    | (intro _)
    | split
    | dsimp only

theorem keep_stackFatal {p : Part} {s code : Nat} (hg : Good p) : Good (Part.stackFatal p s code) := by
  unfold Part.stackFatal
  repeat' first
    | with_reducible assumption
    | with_reducible apply keep_recordFault
    | with_reducible apply keep_stackDown
    | with_reducible apply Good.ite
    | (intro _)
    | split
    | dsimp only

theorem keep_chanDown {p : Part} {ch : Nat} (hg : Good p) : Good (Part.chanDown p ch) := by
  unfold Part.chanDown
  repeat' first
    | with_reducible assumption
    | with_reducible apply keep_setRb
    | with_reducible apply Good.ite
    | (intro _)
    | split
    | dsimp only

theorem keep_chanFatal {p : Part} {ch code : Nat} (hg : Good p) : Good (Part.chanFatal p ch code) := by
  unfold Part.chanFatal
  repeat' first
    | with_reducible assumption
    | with_reducible apply keep_recordFault
    | with_reducible apply keep_chanDown
    | with_reducible apply Good.ite
    | (intro _)
    | split
    | dsimp only

end Sys2Proof.Safety
end

