-- ==== Sys2Proof/Laws/KeepBench.lean ====
section
/-!
SUPPORT. Sys2Proof/Laws/KeepBench.lean: every operation of Machine/Bench.lean keeps a part good (Safety.Good).
-/

set_option linter.unusedSimpArgs false

namespace Sys2Proof.Safety
open Sys2Proof Sys2Proof.Machine

theorem keep_bumpBench {p : Part} {d ev n : Nat} (hg : Good p) : Good (Part.bumpBench p d ev n) := by
  unfold Part.bumpBench
  repeat' first
    | with_reducible assumption
    | with_reducible apply Good.bump
    | with_reducible apply Good.ite
    | (intro _)
    | split
    | dsimp only

theorem keep_rowFault {p : Part} {code d r : Nat} (hg : Good p) : Good (Part.rowFault p code d r) := by
  unfold Part.rowFault
  repeat' first
    | with_reducible assumption
    | with_reducible apply keep_recordFault
    | with_reducible apply Good.ite
    | (intro _)
    | split
    | dsimp only

theorem keep_mapOut {p : Part} {d r : Nat} {ue : Bool} (hg : Good p) : Good (Part.mapOut p d r ue) := by
  unfold Part.mapOut
  repeat' first
    | with_reducible assumption
    | with_reducible apply keep_benchDieFatal
    | with_reducible apply keep_Rd_write
    | with_reducible apply keep_setRf
    | with_reducible apply keep_bumpBench
    | with_reducible apply keep_setRb
    | with_reducible apply keep_rowFault
    | with_reducible apply Memory.cleared_wf
    | with_reducible apply Good.onMem
    | exact Good.mem ‹_›
    | with_reducible apply Memory.write_wf
    | with_reducible apply Memory.hostWrite_wf
    | with_reducible apply Memory.hostPut_wf
    | with_reducible apply Memory.setPoison_wf
    | with_reducible apply Memory.openRange_wf
    | with_reducible apply Memory.zeroStack_wf
    | with_reducible apply Memory.foldl_wf
    | with_reducible apply Good.mem
    | (simp only [good_mk]; with_reducible apply Good.core)
    | with_reducible apply Good.ite
    | (intro _)
    | split
    | dsimp only

theorem keep_rowRead {p : Part} {d r : Nat} {ecc : Ecc} (hg : Good p) : Good (Part.rowRead p d r ecc).2 := by
  unfold Part.rowRead
  repeat' first
    | with_reducible assumption
    | with_reducible apply keep_Rd_read
    | with_reducible apply keep_bumpBench
    | with_reducible apply keep_setRb
    | with_reducible apply keep_rowFault
    | with_reducible apply keep_mapOut
    | with_reducible apply Memory.cleared_wf
    | with_reducible apply Good.onMem
    | exact Good.mem ‹_›
    | with_reducible apply Memory.write_wf
    | with_reducible apply Memory.hostWrite_wf
    | with_reducible apply Memory.hostPut_wf
    | with_reducible apply Memory.setPoison_wf
    | with_reducible apply Memory.openRange_wf
    | with_reducible apply Memory.zeroStack_wf
    | with_reducible apply Memory.foldl_wf
    | with_reducible apply Good.mem
    | (simp only [good_mk]; with_reducible apply Good.core)
    | with_reducible apply Good.ite
    | (intro _)
    | split
    | dsimp only

theorem keep_rowDone {p : Part} {d r owner : Nat} {full : Bool} {arr : Option Nat} (hg : Good p) : Good (Part.rowDone p d r owner full arr) := by
  unfold Part.rowDone
  repeat' first
    | with_reducible assumption
    | with_reducible apply keep_setSb
    | with_reducible apply keep_setRegion
    | with_reducible apply keep_arrive
    | with_reducible apply Good.foldl
    | with_reducible apply Good.foldl2
    | with_reducible apply Good.foldl1
    | with_reducible apply Good.ite
    | (intro _)
    | split
    | dsimp only

theorem keep_register {p : Part} {owner eng : Nat} {g : Range} (hg : Good p) : Good (Part.register p owner eng g) := by
  unfold Part.register
  repeat' first
    | with_reducible assumption
    | with_reducible apply keep_setSb
    | with_reducible apply Good.ite
    | (intro _)
    | split
    | dsimp only

theorem keep_mapTask {p : Part} {id : Nat} {f : Task → Task} (hg : Good p) : Good (Part.mapTask p id f) := by
  unfold Part.mapTask
  repeat' first
    | with_reducible assumption
    | (simp only [good_mk]; with_reducible apply Good.core)
    | with_reducible apply Good.ite
    | (intro _)
    | split
    | dsimp only

theorem keep_reportIssued {p : Part} {id : Nat} (hg : Good p) : Good (Part.reportIssued p id) := by
  unfold Part.reportIssued
  repeat' first
    | with_reducible assumption
    | with_reducible apply keep_setRec
    | (simp only [good_mk]; with_reducible apply Good.core)
    | with_reducible apply Good.ite
    | (intro _)
    | split
    | dsimp only

theorem keep_takeRows {p : Part} {d i owner n : Nat} (hg : Good p) : Good (Part.takeRows p d i owner n) := by
  unfold Part.takeRows
  repeat' first
    | with_reducible assumption
    | with_reducible apply keep_setRegion
    | with_reducible apply keep_register
    | with_reducible apply keep_mapTask
    | with_reducible apply keep_reportIssued
    | (simp only [good_mk]; with_reducible apply Good.core)
    | with_reducible apply Good.ite
    | (intro _)
    | split
    | dsimp only

theorem keep_sbFull {p : Part} {d c : Nat} (hg : Good p) : Good (Part.sbFull p d c) := by
  unfold Part.sbFull
  repeat' first
    | with_reducible assumption
    | with_reducible apply keep_bumpBench
    | with_reducible apply Good.bump
    | with_reducible apply Good.ite
    | (intro _)
    | split
    | dsimp only

theorem keep_serveRegion {d i : Nat} (k : Nat) {p : Part} (hg : Good p) : Good (Part.serveRegion d i k p) := by
  induction k generalizing p d i with
  | zero => unfold Part.serveRegion; assumption
  | succ k ih =>
    unfold Part.serveRegion
    repeat' first
      | with_reducible assumption
      | with_reducible apply ih
      | with_reducible apply keep_setRegion
      | with_reducible apply keep_takeRows
      | with_reducible apply keep_sbFull
      | (simp only [good_mk]; with_reducible apply Good.core)
      | with_reducible apply Good.ite
      | (intro _)
      | split
      | dsimp only

theorem keep_reserve {p : Part} {d i owner n : Nat} (hg : Good p) : Good (Part.reserve p d i owner n) := by
  unfold Part.reserve
  repeat' first
    | with_reducible assumption
    | with_reducible apply keep_setRegion
    | with_reducible apply keep_serveRegion
    | (simp only [good_mk]; with_reducible apply Good.core)
    | with_reducible apply Good.ite
    | (intro _)
    | split
    | dsimp only

theorem keep_serveDie {p : Part} {d : Nat} (hg : Good p) : Good (Part.serveDie p d) := by
  unfold Part.serveDie
  repeat' first
    | with_reducible assumption
    | with_reducible apply keep_serveRegion
    | with_reducible apply Good.foldl
    | with_reducible apply Good.foldl2
    | with_reducible apply Good.foldl1
    | with_reducible apply Good.ite
    | (intro _)
    | split
    | dsimp only

theorem keep_returnPos {p : Part} {d i pos : Nat} (hg : Good p) : Good (Part.returnPos p d i pos) := by
  unfold Part.returnPos
  repeat' first
    | with_reducible assumption
    | with_reducible apply keep_bumpBench
    | with_reducible apply keep_serveRegion
    | with_reducible apply keep_setRegion
    | with_reducible apply Good.ite
    | (intro _)
    | split
    | dsimp only

theorem keep_noteFill {p : Part} {id d r mask : Nat} {arr : Option Nat} (hg : Good p) : Good (Part.noteFill p id d r mask arr) := by
  unfold Part.noteFill
  repeat' first
    | with_reducible assumption
    | with_reducible apply keep_mapTask
    | with_reducible apply keep_rowDone
    | (simp only [good_mk]; with_reducible apply Good.core)
    | with_reducible apply Good.ite
    | (intro _)
    | split
    | dsimp only

theorem keep_rowFilled {p : Part} {d : Nat} {w : RowWrite} (hg : Good p) : Good (Part.rowFilled p d w) := by
  unfold Part.rowFilled
  repeat' first
    | with_reducible assumption
    | with_reducible apply keep_rowDone
    | with_reducible apply keep_Rd_row
    | with_reducible apply keep_noteFill
    | with_reducible apply Good.ite
    | (intro _)
    | split
    | dsimp only

theorem keep_bankWrite {p : Part} {d : Nat} {w : RowWrite} {ecc : Ecc} (hg : Good p) : Good (Part.bankWrite p d w ecc) := by
  unfold Part.bankWrite
  repeat' first
    | with_reducible assumption
    | with_reducible apply keep_Rd_row
    | with_reducible apply keep_rowRead
    | with_reducible apply keep_Rd_write
    | with_reducible apply keep_bumpBench
    | with_reducible apply keep_rowFilled
    | with_reducible apply keep_serveDie
    | with_reducible apply Memory.cleared_wf
    | with_reducible apply Good.onMem
    | exact Good.mem ‹_›
    | with_reducible apply Memory.write_wf
    | with_reducible apply Memory.hostWrite_wf
    | with_reducible apply Memory.hostPut_wf
    | with_reducible apply Memory.setPoison_wf
    | with_reducible apply Memory.openRange_wf
    | with_reducible apply Memory.zeroStack_wf
    | with_reducible apply Memory.foldl_wf
    | with_reducible apply Good.mem
    | with_reducible apply Good.ite
    | (intro _)
    | split
    | dsimp only

theorem keep_setBank {p : Part} {d b : Nat} {x : Bank} (hg : Good p) : Good (Part.setBank p d b x) := by
  unfold Part.setBank
  repeat' first
    | with_reducible assumption
    | (simp only [good_mk]; with_reducible apply Good.core)
    | with_reducible apply Good.ite
    | (intro _)
    | split
    | dsimp only

theorem keep_gateQueue {p : Part} {d b : Nat} {acc : QAcc} (hg : Good p) : Good (Part.gateQueue p d b acc) := by
  unfold Part.gateQueue
  repeat' first
    | with_reducible assumption
    | with_reducible apply keep_setBank
    | with_reducible apply keep_Rd_write
    | with_reducible apply keep_bumpBench
    | with_reducible apply keep_setRb
    | (simp only [good_mk]; with_reducible apply Good.core)
    | with_reducible apply Good.ite
    | (intro _)
    | split
    | dsimp only

theorem keep_rowLand {p : Part} {d : Nat} {w : RowWrite} {ecc : Ecc} (hg : Good p) : Good (Part.rowLand p d w ecc) := by
  unfold Part.rowLand
  repeat' first
    | with_reducible assumption
    | with_reducible apply keep_Rd_row
    | with_reducible apply keep_hbmStore
    | with_reducible apply keep_Rd_image
    | with_reducible apply keep_rowFilled
    | with_reducible apply keep_serveDie
    | with_reducible apply keep_ctxFault
    | with_reducible apply keep_bankWrite
    | with_reducible apply Good.ite
    | (intro _)
    | split
    | dsimp only

theorem keep_deliver {p : Part} {x : List Byte × Bool} (hg : Good p) : Good (Part.deliver p x) := by
  unfold Part.deliver
  repeat' first
    | with_reducible assumption
    | (simp only [good_mk]; with_reducible apply Good.core)
    | with_reducible apply Good.ite
    | (intro _)
    | split
    | dsimp only

theorem keep_modeRow {p : Part} {d id k r : Nat} {ecc : Ecc} (hg : Good p) : Good (Part.modeRow p d id k r ecc) := by
  unfold Part.modeRow
  repeat' first
    | with_reducible assumption
    | with_reducible apply keep_rowRead
    | with_reducible apply keep_Rd_seg
    | with_reducible apply keep_deliver
    | (simp only [good_mk]; with_reducible apply Good.core)
    | with_reducible apply Good.ite
    | (intro _)
    | split
    | dsimp only

theorem keep_runAcc {p : Part} {d : Nat} {acc : QAcc} (hg : Good p) : Good (Part.runAcc p d acc) := by
  unfold Part.runAcc
  repeat' first
    | with_reducible assumption
    | with_reducible apply keep_Rd_read
    | with_reducible apply keep_rowRead
    | with_reducible apply keep_deliver
    | with_reducible apply keep_modeRow
    | with_reducible apply keep_Rd_write
    | with_reducible apply keep_rowLand
    | with_reducible apply Good.ite
    | (intro _)
    | split
    | dsimp only

theorem keep_access {p : Part} {d : Nat} {acc : QAcc} (hg : Good p) : Good (Part.access p d acc) := by
  unfold Part.access
  repeat' first
    | with_reducible assumption
    | with_reducible apply keep_gateQueue
    | with_reducible apply keep_runAcc
    | with_reducible apply Good.ite
    | (intro _)
    | split
    | dsimp only

theorem keep_rowRequest {p : Part} {d : Nat} {acc : QAcc} (hg : Good p) : Good (Part.rowRequest p d acc) := by
  unfold Part.rowRequest
  repeat' first
    | with_reducible assumption
    | with_reducible apply keep_access
    | (simp only [good_mk]; with_reducible apply Good.core)
    | with_reducible apply Good.ite
    | (intro _)
    | split
    | dsimp only

theorem keep_rowWrite {p : Part} {d : Nat} {w : RowWrite} {ecc : Ecc} (hg : Good p) : Good (Part.rowWrite p d w ecc) := by
  unfold Part.rowWrite
  repeat' first
    | with_reducible assumption
    | with_reducible apply keep_rowRequest
    | with_reducible apply keep_Rd_write
    | with_reducible apply keep_bumpBench
    | with_reducible apply keep_ctxFault
    | with_reducible apply keep_Rd_row
    | with_reducible apply keep_rowLand
    | with_reducible apply Good.bump
    | with_reducible apply Good.ite
    | (intro _)
    | split
    | dsimp only

theorem keep_serveWaits (k : Nat) {p : Part} (hg : Good p) : Good (Part.serveWaits k p) := by
  induction k generalizing p with
  | zero => unfold Part.serveWaits; assumption
  | succ k ih =>
    unfold Part.serveWaits
    repeat' first
      | with_reducible assumption
      | with_reducible apply ih
      | with_reducible apply keep_rowWrite
      | with_reducible apply keep_access
      | (simp only [good_mk]; with_reducible apply Good.core)
      | (intro _)
      | split
      | dsimp only

theorem keep_runWaits {p : Part} (hg : Good p) : Good (Part.runWaits p) := by
  unfold Part.runWaits
  repeat' first
    | with_reducible assumption
    | with_reducible apply keep_serveWaits
    | with_reducible apply Good.ite
    | (intro _)
    | split
    | dsimp only

theorem keep_wakeBank {p : Part} {d b : Nat} (hg : Good p) : Good (Part.wakeBank p d b) := by
  unfold Part.wakeBank
  repeat' first
    | with_reducible assumption
    | with_reducible apply keep_setBank
    | with_reducible apply keep_bumpBench
    | with_reducible apply keep_runAcc
    | with_reducible apply Good.foldl
    | with_reducible apply Good.foldl2
    | with_reducible apply Good.foldl1
    | with_reducible apply Good.ite
    | (intro _)
    | split
    | dsimp only

theorem keep_storeRows {p : Part} {d c eng : Nat} {o : Nat} {bs : List Byte} {poison : Bool} {arrival : Option Nat} {ecc : Ecc} {src : Option (Cls × Nat)} (hg : Good p) : Good (Part.storeRows p d c eng o bs poison arrival ecc src) := by
  unfold Part.storeRows
  repeat' first
    | with_reducible assumption
    | with_reducible apply keep_rowWrite
    | with_reducible apply Good.foldl
    | with_reducible apply Good.foldl2
    | with_reducible apply Good.foldl1
    | with_reducible apply Good.ite
    | (intro _)
    | split
    | dsimp only

theorem keep_flush {p : Part} {k : Nat} (hg : Good p) : Good (Part.flush p k) := by
  unfold Part.flush
  repeat' first
    | with_reducible assumption
    | with_reducible apply keep_Rd_flush
    | with_reducible apply keep_ctxFault
    | with_reducible apply keep_reserve
    | with_reducible apply keep_rowWrite
    | with_reducible apply keep_mapSlot
    | with_reducible apply keep_mapStrm
    | (simp only [good_mk]; with_reducible apply Good.core)
    | with_reducible apply Good.ite
    | (intro _)
    | split
    | dsimp only

theorem keep_flushAll {p : Part} (hg : Good p) : Good (Part.flushAll p) := by
  unfold Part.flushAll
  repeat' first
    | with_reducible assumption
    | with_reducible apply keep_flush
    | with_reducible apply keep_Rd_flush
    | with_reducible apply Good.foldl
    | with_reducible apply Good.foldl2
    | with_reducible apply Good.foldl1
    | with_reducible apply Good.ite
    | (intro _)
    | split
    | dsimp only

theorem keep_restWaits {p : Part} (hg : Good p) : Good (Part.restWaits p) := by
  unfold Part.restWaits
  repeat' first
    | with_reducible assumption
    | (simp only [good_mk]; with_reducible apply Good.core)
    | with_reducible apply Good.ite
    | (intro _)
    | split
    | dsimp only

theorem keep_proceed {p : Part} (hg : Good p) : Good (Part.proceed p) := by
  unfold Part.proceed
  repeat' first
    | with_reducible assumption
    | with_reducible apply keep_runWaits
    | with_reducible apply keep_flushAll
    | with_reducible apply keep_restWaits
    | with_reducible apply Good.ite
    | (intro _)
    | split
    | dsimp only

end Sys2Proof.Safety
end

