-- ==== Sys2Proof/Laws/KeepStacks.lean ====
section
/-!
SUPPORT. Sys2Proof/Laws/KeepStacks.lean: every operation of Machine/Stacks.lean keeps a part good (Safety.Good).
-/

set_option linter.unusedSimpArgs false

namespace Sys2Proof.Safety
open Sys2Proof Sys2Proof.Machine

theorem keep_bumpStack {p : Part} {s ev n : Nat} (hg : Good p) : Good (Part.bumpStack p s ev n) := by
  unfold Part.bumpStack
  repeat' first
    | with_reducible assumption
    | with_reducible apply Good.bump
    | with_reducible apply Good.ite
    | (intro _)
    | split
    | dsimp only

theorem keep_bumpCup {p : Part} {m ev : Nat} (hg : Good p) : Good (Part.bumpCup p m ev) := by
  unfold Part.bumpCup
  repeat' first
    | with_reducible assumption
    | with_reducible apply Good.bump
    | with_reducible apply Good.ite
    | (intro _)
    | split
    | dsimp only

theorem keep_candidate {p : Part} {s row : Nat} (hg : Good p) : Good (Part.candidate p s row) := by
  unfold Part.candidate
  repeat' first
    | with_reducible assumption
    | with_reducible apply keep_Rd_row
    | with_reducible apply keep_setStack
    | (simp only [good_mk]; with_reducible apply Good.core)
    | with_reducible apply Good.ite
    | (intro _)
    | split
    | dsimp only

theorem keep_sectorRead {p : Part} {a : Nat} {ecc : Ecc} (hg : Good p) : Good (Part.sectorRead p a ecc).2 := by
  unfold Part.sectorRead
  repeat' first
    | with_reducible assumption
    | with_reducible apply keep_Rd_read
    | with_reducible apply keep_bumpStack
    | with_reducible apply keep_setRb
    | with_reducible apply keep_recordFault
    | with_reducible apply keep_Rd_row
    | with_reducible apply keep_setStack
    | with_reducible apply keep_candidate
    | with_reducible apply Memory.cleared_wf
    | with_reducible apply Good.onMem
    | exact Good.mem ‹_›
    | with_reducible apply Memory.write_wf
    | with_reducible apply Memory.hostWrite_wf
    | with_reducible apply Memory.hostPut_wf
    | with_reducible apply Memory.setPoison_wf
    | with_reducible apply Memory.openRange_wf
    | with_reducible apply Memory.zeroStack_wf
    | with_reducible apply Memory.foldl_wf
    | with_reducible apply Good.mem
    | (simp only [good_mk]; with_reducible apply Good.core)
    | with_reducible apply Good.ite
    | (intro _)
    | split
    | dsimp only

theorem keep_cupEcc {p : Part} {m line : Nat} {ecc : Ecc} (hg : Good p) : Good (Part.cupEcc p m line ecc) := by
  unfold Part.cupEcc
  repeat' first
    | with_reducible assumption
    | with_reducible apply keep_bumpCup
    | with_reducible apply keep_setRb
    | with_reducible apply keep_recordFault
    | with_reducible apply keep_setCup
    | (simp only [good_mk]; with_reducible apply Good.core)
    | with_reducible apply Good.ite
    | (intro _)
    | split
    | dsimp only

theorem keep_sectorsRead {p : Part} {us : List Nat} {ecc : Ecc} (hg : Good p) : Good (Part.sectorsRead p us ecc).2 := by
  unfold Part.sectorsRead
  repeat' first
    | with_reducible assumption
    | with_reducible apply keep_sectorRead
    | with_reducible apply Good.foldl
    | with_reducible apply Good.foldl2
    | with_reducible apply Good.foldl1
    | with_reducible apply Good.ite
    | (intro _)
    | split
    | dsimp only

theorem keep_lineRead {p : Part} {line : Nat} {us : List Nat} {alloc : Bool} {ecc : Ecc} (hg : Good p) : Good (Part.lineRead p line us alloc ecc).2 := by
  unfold Part.lineRead
  repeat' first
    | with_reducible assumption
    | with_reducible apply keep_sectorsRead
    | with_reducible apply keep_setCup
    | with_reducible apply keep_bumpCup
    | with_reducible apply keep_cupEcc
    | with_reducible apply Good.ite
    | (intro _)
    | split
    | dsimp only

theorem keep_hbmFetch {p : Part} {a n : Nat} {alloc : Bool} {ecc : Ecc} (hg : Good p) : Good (Part.hbmFetch p a n alloc ecc).2 := by
  unfold Part.hbmFetch
  repeat' first
    | with_reducible assumption
    | with_reducible apply keep_lineRead
    | with_reducible apply Good.foldl
    | with_reducible apply Good.foldl2
    | with_reducible apply Good.foldl1
    | with_reducible apply Good.ite
    | (intro _)
    | split
    | dsimp only

theorem keep_readAgain {p : Part} {a n : Nat} (hg : Good p) : Good (Part.readAgain p a n) := by
  unfold Part.readAgain
  repeat' first
    | with_reducible assumption
    | with_reducible apply keep_hbmFetch
    | with_reducible apply Good.ite
    | (intro _)
    | split
    | dsimp only

theorem keep_sectorWrite {p : Part} {a : Nat} {data : List Byte} {poison : Bool} {ecc : Ecc} (hg : Good p) : Good (Part.sectorWrite p a data poison ecc) := by
  unfold Part.sectorWrite
  repeat' first
    | with_reducible assumption
    | with_reducible apply keep_sectorRead
    | with_reducible apply keep_hbmStore
    | with_reducible apply Good.ite
    | (intro _)
    | split
    | dsimp only

theorem keep_stackReq {p : Part} {s : Nat} {acc : HAcc} {run : Part → Part} (hg : Good p) (hrun : ∀ (a0 : Part), Good a0 → Good (run a0)) : Good (Part.stackReq p s acc run) := by
  unfold Part.stackReq
  repeat' first
    | with_reducible assumption
    | with_reducible apply keep_setStack
    | with_reducible apply hrun
    | (simp only [good_mk]; with_reducible apply Good.core)
    | with_reducible apply Good.ite
    | (intro _)
    | split
    | dsimp only

theorem keep_hbmReadRun {p : Part} {a : Nat} {line : Bool} {ecc : Ecc} (hg : Good p) : Good (Part.hbmReadRun p a line ecc) := by
  unfold Part.hbmReadRun
  repeat' first
    | with_reducible assumption
    | with_reducible apply keep_sectorRead
    | with_reducible apply keep_setCup
    | with_reducible apply keep_bumpCup
    | with_reducible apply keep_cupEcc
    | (simp only [good_mk]; with_reducible apply Good.core)
    | with_reducible apply Good.ite
    | (intro _)
    | split
    | dsimp only

theorem keep_runHAcc {p : Part} {acc : HAcc} (hg : Good p) : Good (Part.runHAcc p acc) := by
  unfold Part.runHAcc
  repeat' first
    | with_reducible assumption
    | with_reducible apply keep_Rd_read
    | with_reducible apply keep_hbmReadRun
    | with_reducible apply keep_Rd_write
    | with_reducible apply keep_sectorWrite
    | with_reducible apply Good.ite
    | (intro _)
    | split
    | dsimp only

theorem keep_hbmRead {p : Part} {a : Nat} {line : Bool} {ecc : Ecc} (hg : Good p) : Good (Part.hbmRead p a line ecc) := by
  unfold Part.hbmRead
  repeat' first
    | with_reducible assumption
    | with_reducible apply keep_stackReq
    | with_reducible apply keep_Rd_read
    | with_reducible apply keep_hbmReadRun
    | with_reducible apply Good.ite
    | (intro _)
    | split
    | dsimp only

theorem keep_hbmWrite {p : Part} {a : Nat} {data : List Byte} {poison : Bool} {ecc : Ecc} (hg : Good p) : Good (Part.hbmWrite p a data poison ecc) := by
  unfold Part.hbmWrite
  repeat' first
    | with_reducible assumption
    | with_reducible apply keep_stackReq
    | with_reducible apply keep_Rd_write
    | with_reducible apply keep_sectorWrite
    | with_reducible apply Good.ite
    | (intro _)
    | split
    | dsimp only

theorem keep_hbmRefresh {p : Part} {_s _bank : Nat} (hg : Good p) : Good (Part.hbmRefresh p _s _bank) := by
  unfold Part.hbmRefresh
  repeat' first
    | with_reducible assumption
    | with_reducible apply Good.ite
    | (intro _)
    | split
    | dsimp only

theorem keep_selfRefreshEnter {p : Part} {s : Nat} (hg : Good p) : Good (Part.selfRefreshEnter p s) := by
  unfold Part.selfRefreshEnter
  repeat' first
    | with_reducible assumption
    | with_reducible apply keep_setStack
    | (simp only [good_mk]; with_reducible apply Good.core)
    | with_reducible apply Good.ite
    | (intro _)
    | split
    | dsimp only

theorem keep_stackWakeDone {p : Part} {s : Nat} (hg : Good p) : Good (Part.stackWakeDone p s) := by
  unfold Part.stackWakeDone
  repeat' first
    | with_reducible assumption
    | with_reducible apply keep_setStack
    | with_reducible apply keep_bumpStack
    | with_reducible apply keep_runHAcc
    | with_reducible apply Good.foldl
    | with_reducible apply Good.foldl2
    | with_reducible apply Good.foldl1
    | (simp only [good_mk]; with_reducible apply Good.core)
    | with_reducible apply Good.ite
    | (intro _)
    | split
    | dsimp only

theorem keep_odeccPoll {p : Part} {s n : Nat} (hg : Good p) : Good (Part.odeccPoll p s n) := by
  unfold Part.odeccPoll
  repeat' first
    | with_reducible assumption
    | with_reducible apply keep_bumpStack
    | with_reducible apply Good.ite
    | (intro _)
    | split
    | dsimp only

theorem keep_hbmPatrolScrub {p : Part} {s : Nat} {ecc : Ecc} (hg : Good p) : Good (Part.hbmPatrolScrub p s ecc) := by
  unfold Part.hbmPatrolScrub
  repeat' first
    | with_reducible assumption
    | with_reducible apply keep_sectorRead
    | with_reducible apply keep_setStack
    | (simp only [good_mk]; with_reducible apply Good.core)
    | with_reducible apply Good.ite
    | (intro _)
    | split
    | dsimp only

theorem keep_cupboardFillDone {p : Part} {m line : Nat} {ecc : Ecc} (hg : Good p) : Good (Part.cupboardFillDone p m line ecc) := by
  unfold Part.cupboardFillDone
  repeat' first
    | with_reducible assumption
    | with_reducible apply keep_setCup
    | with_reducible apply keep_sectorRead
    | (simp only [good_mk]; with_reducible apply Good.core)
    | with_reducible apply Good.ite
    | (intro _)
    | split
    | dsimp only

theorem keep_cupboardFlushDone {p : Part} {m : Nat} (hg : Good p) : Good (Part.cupboardFlushDone p m) := by
  unfold Part.cupboardFlushDone
  repeat' first
    | with_reducible assumption
    | with_reducible apply keep_setRb
    | with_reducible apply Good.ite
    | (intro _)
    | split
    | dsimp only

theorem keep_repairDone {p : Part} {s : Nat} {unspared failed : List Nat} {rest : Nat} (hg : Good p) : Good (Part.repairDone p s unspared failed rest) := by
  unfold Part.repairDone
  repeat' first
    | with_reducible assumption
    | with_reducible apply keep_setStack
    | with_reducible apply keep_setRb
    | with_reducible apply keep_bumpStack
    | with_reducible apply keep_stackFatal
    | with_reducible apply Memory.cleared_wf
    | with_reducible apply Good.onMem
    | exact Good.mem ‹_›
    | with_reducible apply Memory.write_wf
    | with_reducible apply Memory.hostWrite_wf
    | with_reducible apply Memory.hostPut_wf
    | with_reducible apply Memory.setPoison_wf
    | with_reducible apply Memory.openRange_wf
    | with_reducible apply Memory.zeroStack_wf
    | with_reducible apply Memory.foldl_wf
    | with_reducible apply Good.mem
    | (simp only [good_mk]; with_reducible apply Good.core)
    | with_reducible apply Good.ite
    | (intro _)
    | split
    | dsimp only

end Sys2Proof.Safety
end

