-- ==== Sys2Proof/Laws/KeepLinks.lean ====
section
/-!
SUPPORT. Sys2Proof/Laws/KeepLinks.lean: every operation of Machine/Links.lean keeps a part good (Safety.Good).
-/

set_option linter.unusedSimpArgs false

namespace Sys2Proof.Safety
open Sys2Proof Sys2Proof.Machine

theorem keep_setLink {p : Part} {l : Nat} {x : Link} (hg : Good p) : Good (Part.setLink p l x) := by
  unfold Part.setLink
  repeat' first
    | with_reducible assumption
    | (simp only [good_mk]; with_reducible apply Good.core)
    | with_reducible apply Good.ite
    | (intro _)
    | split
    | dsimp only

theorem keep_setLinkWidth {p : Part} {l w : Nat} (hg : Good p) : Good (Part.setLinkWidth p l w) := by
  unfold Part.setLinkWidth
  repeat' first
    | with_reducible assumption
    | with_reducible apply keep_setRf
    | with_reducible apply Good.ite
    | (intro _)
    | split
    | dsimp only

theorem keep_bumpLink {p : Part} {l ev n : Nat} (hg : Good p) : Good (Part.bumpLink p l ev n) := by
  unfold Part.bumpLink
  repeat' first
    | with_reducible assumption
    | with_reducible apply Good.bump
    | with_reducible apply Good.ite
    | (intro _)
    | split
    | dsimp only

theorem keep_setJoinSt {p : Part} {st : Nat} (hg : Good p) : Good (Part.setJoinSt p st) := by
  unfold Part.setJoinSt
  repeat' first
    | with_reducible assumption
    | with_reducible apply keep_setRf
    | with_reducible apply Good.ite
    | (intro _)
    | split
    | dsimp only

theorem keep_unsend {p : Part} {ls : List Nat} (hg : Good p) : Good (Part.unsend p ls) := by
  unfold Part.unsend
  repeat' first
    | with_reducible assumption
    | with_reducible apply keep_setLink
    | with_reducible apply Good.foldl
    | with_reducible apply Good.foldl2
    | with_reducible apply Good.foldl1
    | (simp only [good_mk]; with_reducible apply Good.core)
    | with_reducible apply Good.ite
    | (intro _)
    | split
    | dsimp only

theorem keep_rebundle {p q : Part} (hp : Good p) (hg : Good q) : Good (Part.rebundle p q) := by
  unfold Part.rebundle
  repeat' first
    | with_reducible assumption
    | with_reducible apply keep_unsend
    | with_reducible apply Good.foldl
    | with_reducible apply Good.foldl2
    | with_reducible apply Good.foldl1
    | (simp only [good_mk]; with_reducible apply Good.core)
    | with_reducible apply Good.ite
    | (intro _)
    | split
    | dsimp only

theorem keep_settleMoves {p : Part} (hg : Good p) : Good (Part.settleMoves p) := by
  unfold Part.settleMoves
  repeat' first
    | with_reducible assumption
    | (simp only [good_mk]; with_reducible apply Good.core)
    | with_reducible apply Good.ite
    | (intro _)
    | split
    | dsimp only

theorem keep_setLinkSt {p : Part} {l st : Nat} (hg : Good p) : Good (Part.setLinkSt p l st) := by
  unfold Part.setLinkSt
  repeat' first
    | with_reducible assumption
    | with_reducible apply keep_setRf
    | with_reducible apply keep_rebundle
    | with_reducible apply Good.ite
    | (intro _)
    | split
    | dsimp only

theorem keep_putFlits {p : Part} {l : Nat} {m : DtMsg} (hg : Good p) : Good (Part.putFlits p l m) := by
  unfold Part.putFlits
  repeat' first
    | with_reducible assumption
    | with_reducible apply keep_setLink
    | with_reducible apply keep_bumpLink
    | (simp only [good_mk]; with_reducible apply Good.core)
    | with_reducible apply Good.ite
    | (intro _)
    | split
    | dsimp only

theorem keep_pump {p : Part} {l : Nat} (hg : Good p) : Good (Part.pump p l) := by
  unfold Part.pump
  repeat' first
    | with_reducible assumption
    | with_reducible apply keep_setLink
    | with_reducible apply keep_putFlits
    | with_reducible apply Good.foldl
    | with_reducible apply Good.foldl2
    | with_reducible apply Good.foldl1
    | (simp only [good_mk]; with_reducible apply Good.core)
    | with_reducible apply Good.ite
    | (intro _)
    | split
    | dsimp only

theorem keep_sendOn {p : Part} {l : Nat} {m : DtMsg} (hg : Good p) : Good (Part.sendOn p l m) := by
  unfold Part.sendOn
  repeat' first
    | with_reducible assumption
    | with_reducible apply keep_setLink
    | with_reducible apply keep_pump
    | (simp only [good_mk]; with_reducible apply Good.core)
    | with_reducible apply Good.ite
    | (intro _)
    | split
    | dsimp only

theorem keep_sendMgmt {p : Part} {j op : Nat} {ctx : Nat} {x : Mgmt} (hg : Good p) : Good (Part.sendMgmt p j op ctx x) := by
  unfold Part.sendMgmt
  repeat' first
    | with_reducible assumption
    | with_reducible apply keep_sendOn
    | (simp only [good_mk]; with_reducible apply Good.core)
    | with_reducible apply Good.ite
    | (intro _)
    | split
    | dsimp only

theorem keep_route {p : Part} {m : DtMsg} (hg : Good p) : Good (Part.route p m) := by
  unfold Part.route
  repeat' first
    | with_reducible assumption
    | with_reducible apply keep_Rd_row
    | with_reducible apply keep_sendOn
    | (simp only [good_mk]; with_reducible apply Good.core)
    | with_reducible apply Good.ite
    | (intro _)
    | split
    | dsimp only

theorem keep_reroute {p : Part} (hg : Good p) : Good (Part.reroute p) := by
  unfold Part.reroute
  repeat' first
    | with_reducible assumption
    | with_reducible apply keep_settleMoves
    | with_reducible apply keep_route
    | with_reducible apply Good.foldl
    | with_reducible apply Good.foldl2
    | with_reducible apply Good.foldl1
    | (simp only [good_mk]; with_reducible apply Good.core)
    | with_reducible apply Good.ite
    | (intro _)
    | split
    | dsimp only

theorem keep_electNow {p : Part} (hg : Good p) : Good (Part.electNow p) := by
  unfold Part.electNow
  repeat' first
    | with_reducible assumption
    | with_reducible apply keep_setRf
    | with_reducible apply Good.ite
    | (intro _)
    | split
    | dsimp only

theorem keep_sendHello {p : Part} {l : Nat} (hg : Good p) : Good (Part.sendHello p l) := by
  unfold Part.sendHello
  repeat' first
    | with_reducible assumption
    | with_reducible apply keep_sendOn
    | (simp only [good_mk]; with_reducible apply Good.core)
    | with_reducible apply Good.ite
    | (intro _)
    | split
    | dsimp only

theorem keep_ackNow {p : Part} (hg : Good p) : Good (Part.ackNow p) := by
  unfold Part.ackNow
  repeat' first
    | with_reducible assumption
    | with_reducible apply keep_answer
    | with_reducible apply keep_sendMgmt
    | (simp only [good_mk]; with_reducible apply Good.core)
    | with_reducible apply Good.ite
    | (intro _)
    | split
    | dsimp only

theorem keep_joinFault {p : Part} {c code : Nat} (hg : Good p) : Good (Part.joinFault p c code) := by
  unfold Part.joinFault
  repeat' first
    | with_reducible assumption
    | with_reducible apply keep_ctxFault
    | with_reducible apply Good.ite
    | (intro _)
    | split
    | dsimp only

theorem keep_adopt {p : Part} {e mask : Nat} (hg : Good p) : Good (Part.adopt p e mask) := by
  unfold Part.adopt
  repeat' first
    | with_reducible assumption
    | with_reducible apply keep_setRf
    | with_reducible apply keep_setJoinSt
    | with_reducible apply keep_electNow
    | with_reducible apply keep_answer
    | with_reducible apply keep_unsend
    | with_reducible apply keep_joinFault
    | with_reducible apply keep_route
    | with_reducible apply keep_reroute
    | with_reducible apply Good.bump
    | with_reducible apply Good.foldl
    | with_reducible apply Good.foldl2
    | with_reducible apply Good.foldl1
    | (simp only [good_mk]; with_reducible apply Good.core)
    | with_reducible apply Good.ite
    | (intro _)
    | split
    | dsimp only

theorem keep_commitNow {p : Part} (hg : Good p) : Good (Part.commitNow p) := by
  unfold Part.commitNow
  repeat' first
    | with_reducible assumption
    | with_reducible apply keep_sendMgmt
    | with_reducible apply keep_adopt
    | with_reducible apply Good.foldl
    | with_reducible apply Good.foldl2
    | with_reducible apply Good.foldl1
    | with_reducible apply Good.ite
    | (intro _)
    | split
    | dsimp only

theorem keep_prepareNow {p : Part} (hg : Good p) : Good (Part.prepareNow p) := by
  unfold Part.prepareNow
  repeat' first
    | with_reducible assumption
    | with_reducible apply keep_sendMgmt
    | with_reducible apply keep_commitNow
    | with_reducible apply Good.foldl
    | with_reducible apply Good.foldl2
    | with_reducible apply Good.foldl1
    | (simp only [good_mk]; with_reducible apply Good.core)
    | with_reducible apply Good.ite
    | (intro _)
    | split
    | dsimp only

theorem keep_reviewMembers {p : Part} (hg : Good p) : Good (Part.reviewMembers p) := by
  unfold Part.reviewMembers
  repeat' first
    | with_reducible assumption
    | with_reducible apply keep_prepareNow
    | with_reducible apply Good.ite
    | (intro _)
    | split
    | dsimp only

theorem keep_memberLost {p : Part} {j : Nat} (hg : Good p) : Good (Part.memberLost p j) := by
  unfold Part.memberLost
  repeat' first
    | with_reducible assumption
    | with_reducible apply keep_setJoinSt
    | with_reducible apply keep_electNow
    | with_reducible apply keep_reviewMembers
    | (simp only [good_mk]; with_reducible apply Good.core)
    | with_reducible apply Good.ite
    | (intro _)
    | split
    | dsimp only

theorem keep_fenceSelf {p : Part} (hg : Good p) : Good (Part.fenceSelf p) := by
  unfold Part.fenceSelf
  repeat' first
    | with_reducible assumption
    | with_reducible apply keep_setJoinSt
    | with_reducible apply Good.ite
    | (intro _)
    | split
    | dsimp only

theorem keep_linkDown {p : Part} {l : Nat} (hg : Good p) : Good (Part.linkDown p l) := by
  unfold Part.linkDown
  repeat' first
    | with_reducible assumption
    | with_reducible apply keep_setLinkSt
    | with_reducible apply keep_setLink
    | with_reducible apply keep_setRb
    | with_reducible apply keep_setLinkWidth
    | with_reducible apply keep_bumpLink
    | with_reducible apply keep_recordFault
    | with_reducible apply keep_ctxFault
    | with_reducible apply keep_memberLost
    | with_reducible apply keep_reroute
    | with_reducible apply Good.foldl
    | with_reducible apply Good.foldl2
    | with_reducible apply Good.foldl1
    | (simp only [good_mk]; with_reducible apply Good.core)
    | with_reducible apply Good.ite
    | (intro _)
    | split
    | dsimp only

theorem keep_linkOff {p : Part} {l : Nat} (hg : Good p) : Good (Part.linkOff p l) := by
  unfold Part.linkOff
  repeat' first
    | with_reducible assumption
    | with_reducible apply keep_setLinkSt
    | with_reducible apply keep_setLink
    | with_reducible apply keep_setLinkWidth
    | with_reducible apply Good.ite
    | (intro _)
    | split
    | dsimp only

end Sys2Proof.Safety
end

