-- ==== Sys2Proof/Laws/KeepSched.lean ====
section
/-!
SUPPORT. Sys2Proof/Laws/KeepSched.lean: every operation of Machine/Sched.lean keeps a part good (Safety.Good).
-/

set_option linter.unusedSimpArgs false

namespace Sys2Proof.Safety
open Sys2Proof Sys2Proof.Machine

theorem keep_joinW {p : Part} {b c : Nat} (hg : Good p) : Good (Part.joinW p b c) := by
  unfold Part.joinW
  repeat' first
    | with_reducible assumption
    | with_reducible apply keep_setCtx
    | (simp only [good_mk]; with_reducible apply Good.core)
    | with_reducible apply Good.ite
    | (intro _)
    | split
    | dsimp only

theorem keep_place {p : Part} {c b : Nat} (hg : Good p) : Good (Part.place p c b) := by
  unfold Part.place
  repeat' first
    | with_reducible assumption
    | with_reducible apply keep_setCtx
    | with_reducible apply keep_setHold
    | (simp only [good_mk]; with_reducible apply Good.core)
    | with_reducible apply Good.ite
    | (intro _)
    | split
    | dsimp only

theorem keep_drainReads {p : Part} {c b : Nat} (hg : Good p) : Good (Part.drainReads p c b) := by
  unfold Part.drainReads
  repeat' first
    | with_reducible assumption
    | (simp only [good_mk]; with_reducible apply Good.core)
    | with_reducible apply Good.ite
    | (intro _)
    | split
    | dsimp only

theorem keep_swapHold {p : Part} {c b : Nat} (hg : Good p) : Good (Part.swapHold p c b) := by
  unfold Part.swapHold
  repeat' first
    | with_reducible assumption
    | with_reducible apply keep_strmState
    | with_reducible apply Good.foldl
    | with_reducible apply Good.foldl2
    | with_reducible apply Good.foldl1
    | with_reducible apply Good.ite
    | (intro _)
    | split
    | dsimp only

theorem keep_startSave {p : Part} {c b : Nat} {next : Option Nat} (hg : Good p) : Good (Part.startSave p c b next) := by
  unfold Part.startSave
  repeat' first
    | with_reducible assumption
    | with_reducible apply keep_setHold
    | with_reducible apply keep_dropStep
    | with_reducible apply keep_swapHold
    | with_reducible apply keep_drainReads
    | with_reducible apply Good.foldl
    | with_reducible apply Good.foldl2
    | with_reducible apply Good.foldl1
    | (simp only [good_mk]; with_reducible apply Good.core)
    | with_reducible apply Good.ite
    | (intro _)
    | split
    | dsimp only

theorem keep_decideCab {p : Part} {b : Nat} (hg : Good p) : Good (Part.decideCab p b) := by
  unfold Part.decideCab
  repeat' first
    | with_reducible assumption
    | with_reducible apply keep_place
    | with_reducible apply keep_startSave
    | with_reducible apply Good.ite
    | (intro _)
    | split
    | dsimp only

theorem keep_react {before p : Part} (hg : Good p) : Good (Part.react before p) := by
  unfold Part.react
  repeat' first
    | with_reducible assumption
    | with_reducible apply keep_joinW
    | with_reducible apply keep_decideCab
    | with_reducible apply Good.foldl
    | with_reducible apply Good.foldl2
    | with_reducible apply Good.foldl1
    | with_reducible apply Good.ite
    | (intro _)
    | split
    | dsimp only

end Sys2Proof.Safety
end

