-- ==== Sys2Proof/Laws/Rd.lean ====
section
/-!
SUPPORT. Sys2Proof/Laws/Rd.lean: what it is for an engine's work (Rd) to keep the part good, and the rules by which its pieces do; what
it answers, piece by piece.
-/

namespace Sys2Proof.Safety
open Sys2Proof Sys2Proof.Machine

/-- What a stop asks of the part keeps it good. -/
def Keeps : Stop → Prop
  | .wait _ _ req => ∀ p, Good p → Good (req p)
  | .fault _ => True

/-- Work that keeps a good part good, whether it ends or stops. -/
structure Keep {α : Type} (m : Rd α) : Prop where
  out : ∀ w s, Good s.p → Good ((m w).run s).2.p ∧ ∀ e, ((m w).run s).1 = .error e → Keeps e

theorem Keep.pure {α : Type} (a : α) : Keep (Pure.pure a : Rd α) := ⟨fun _ _ h => ⟨h, fun _ he => nomatch he⟩⟩

theorem Keep.bind {α β : Type} {m : Rd α} {f : α → Rd β} (hm : Keep m) (hf : ∀ a, Keep (f a)) : Keep (m >>= f) := by
  refine ⟨fun w s h => ?_⟩
  have h1 := hm.out w s h
  have e : ((m >>= f) w).run s = match (m w).run s with
      | (.ok a, t) => ((f a) w).run t
      | (.error x, t) => (.error x, t) := by
    show (ExceptT.bind (m w) fun a => f a w).run s = _
    simp only [ExceptT.bind, ExceptT.run, ExceptT.mk, ExceptT.bindCont, Bind.bind, StateT.bind]
    cases m w s with
    | mk r t => cases r <;> rfl
  rw [e]
  cases hx : (m w).run s with
  | mk r t =>
    rw [hx] at h1
    cases r with
    | ok a => exact (hf a).out w t h1.1
    | error x => exact ⟨h1.1, fun y hy => by cases hy; exact h1.2 _ rfl⟩

theorem Keep.ite {α : Type} {c : Prop} [Decidable c] {a b : Rd α} (ha : Keep a) (hb : Keep b) : Keep (if c then a else b) := by
  split <;> assumption

theorem Keep.partBind {β : Type} {f : Part → Rd β} (hf : ∀ p, Good p → Keep (f p)) : Keep (Rd.part >>= f) :=
  ⟨fun w s h => (hf s.p h).out w s h⟩

theorem Keep.onPart {f : Part → Part} (hf : ∀ p, Good p → Good (f p)) : Keep (Rd.onPart f) :=
  ⟨fun _ s h => ⟨hf s.p h, fun _ he => nomatch he⟩⟩

theorem Keep.who : Keep Rd.who := ⟨fun _ _ h => ⟨h, fun _ he => nomatch he⟩⟩

theorem Keep.stop {α : Type} {e : Stop} (he : Keeps e) : Keep (Rd.stop e : Rd α) :=
  ⟨fun _ _ h => ⟨h, fun _ hx => by cases hx; exact he⟩⟩

theorem Keep.stopId {α : Type} {c : StallCause} {o : Await} : Keep (Rd.stop (.wait c o id) : Rd α) := Keep.stop fun _ h => h

theorem Keep.fault {α : Type} (c : Nat) : Keep (Rd.fault c : Rd α) :=
  ⟨fun _ _ h => ⟨h, fun _ hx => by cases hx; exact True.intro⟩⟩

theorem Keep.addrFault {α : Type} (a : Nat) : Keep (Rd.addrFault a : Rd α) :=
  ⟨fun _ _ h => ⟨h, fun _ hx => by cases hx; exact True.intro⟩⟩

theorem Keep.need (b : Bool) : Keep (Rd.need b) := Keep.ite (Keep.pure _) (Keep.fault _)

theorem Keep.map {α β : Type} {m : Rd α} {f : α → β} (h : Keep m) : Keep (f <$> m) := by
  rw [map_eq_pure_bind]
  exact h.bind fun _ => Keep.pure _

theorem Keep.discard {α : Type} {m : Rd α} (h : Keep m) : Keep (Functor.discard m) := h.map

theorem Keep.foldlM {α β : Type} {f : β → α → Rd β} {l : List α} {b : β} (h : ∀ b a, Keep (f b a)) : Keep (l.foldlM f b) := by
  induction l generalizing b with
  | nil => exact Keep.pure _
  | cons a t ih => rw [List.foldlM_cons]; exact (h b a).bind fun _ => ih

theorem Keep.forM {α : Type} {f : α → Rd PUnit} {l : List α} (h : ∀ a, Keep (f a)) : Keep (l.forM f) := by
  induction l with
  | nil => exact Keep.pure _
  | cons a t ih => exact (h a).bind fun _ => ih

theorem Keep.mapM {α β : Type} {f : α → Rd β} {l : List α} (h : ∀ a, Keep (f a)) : Keep (l.mapM f) := by
  induction l with
  | nil => rw [List.mapM_nil]; exact Keep.pure _
  | cons a t ih => rw [List.mapM_cons]; exact (h a).bind fun _ => ih.bind fun _ => Keep.pure _

theorem Keep.after {α : Type} {m : Rd α} {w : Who} {s t : RS} {r : Except Stop α} (hm : Keep m) (h : Good s.p) (e : (m w).run s = (r, t)) :
    Good t.p := by
  have k := (hm.out w s h).1
  rw [e] at k
  exact k

theorem Keep.req {α : Type} {m : Rd α} {w : Who} {s t : RS} {c : StallCause} {o : Await} {f : Part → Part} {q : Part} (hm : Keep m) (h : Good s.p)
    (e : (m w).run s = (.error (.wait c o f), t)) (hq : Good q) : Good (f q) := by
  have k := (hm.out w s h).2
  rw [e] at k
  exact k _ rfl q hq

/-! Work that answers, piece by piece. -/

theorem Answers.bind {α β : Type} {m : Rd α} {f : α → Rd β} {w : Who} {s t u : RS} {a : α} {b : β} (hm : Answers m w s a t)
    (hf : Answers (f a) w t b u) : Answers (m >>= f) w s b u := by
  have hm' : (m w) s = (.ok a, t) := hm
  show (match (m w) s with | (x, s') => ExceptT.bindCont (fun a => f a w) x s') = _
  rw [hm']
  exact hf

theorem Answers.pure {α : Type} (a : α) (w : Who) (s : RS) : Answers (Pure.pure a : Rd α) w s a s := rfl
theorem Answers.part (w : Who) (s : RS) : Answers Rd.part w s s.p s := rfl
theorem Answers.who (w : Who) (s : RS) : Answers Rd.who w s w s := rfl
theorem Answers.onPart (f : Part → Part) (w : Who) (s : RS) : Answers (Rd.onPart f) w s () { s with p := f s.p } := rfl
theorem Answers.need {b : Bool} (h : b = true) (w : Who) (s : RS) : Answers (Rd.need b) w s () s := by subst h; rfl

theorem Answers.engage {p : Part} {w : Who} {ecc : Ecc} {st : RdStat} {after : StallCause → Part → Part} {m : Rd Unit} {t : RS}
    (h : Answers m w ⟨p, ecc, st⟩ () t) : p.engage w ecc st after m = t.p.forget w.task := by
  have h' : (m w).run ⟨p, ecc, st⟩ = (.ok (), t) := h
  unfold Part.engage
  rw [h']

end Sys2Proof.Safety
end

