-- ==== Sys2Proof/Laws/KeepOperands.lean ====
section
/-!
SUPPORT. Sys2Proof/Laws/KeepOperands.lean: every operation of Machine/Operands.lean keeps a part good (Safety.Good).
-/

set_option linter.unusedSimpArgs false

namespace Sys2Proof.Safety
open Sys2Proof Sys2Proof.Machine

theorem keep_wakeStack {s : Nat} {p : Part} (hg : Good p) : Good (Part.wakeStack s p) := by
  unfold Part.wakeStack
  repeat' first
    | with_reducible assumption
    | with_reducible apply keep_setStack
    | (simp only [good_mk]; with_reducible apply Good.core)
    | with_reducible apply Good.ite
    | (intro _)
    | split
    | dsimp only

/-! What a gate's stop asks for keeps the part good. -/

theorem keep_hbmGate {p : Part} {w : Who} {a n : Nat} {e : Stop} (h : p.hbmGate w a n = some e) : Keeps e := by
  unfold Part.hbmGate at h
  dsimp only at h
  repeat' split at h
  all_goals cases h
  all_goals first | trivial | exact fun _ hg => hg | exact fun p hg => keep_wakeStack hg

theorem keep_benchGate {p : Part} {w : Who} {a n o : Nat} {wr : Bool} {e : Stop} (h : p.benchGate w a n o wr = some e) : Keeps e := by
  unfold Part.benchGate at h
  dsimp only at h
  repeat' split at h
  all_goals cases h
  all_goals first | trivial | exact fun _ hg => hg | exact fun _ hg => keep_gateQueue hg

theorem keep_remoteGate {p : Part} {w : Who} {a j : Nat} {e : Stop} (h : p.remoteGate w a j = some e) : Keeps e := by
  unfold Part.remoteGate at h
  repeat' split at h
  all_goals cases h
  all_goals trivial

theorem keep_askRemote {w : Who} {j n o len : Nat} {p : Part} (hg : Good p) : Good (Part.askRemote w j n o len p) := by
  unfold Part.askRemote
  repeat' first
    | with_reducible assumption
    | with_reducible apply keep_Rd_row
    | with_reducible apply keep_mapTask
    | with_reducible apply keep_route
    | (simp only [good_mk]; with_reducible apply Good.core)
    | with_reducible apply Good.ite
    | (intro _)
    | split
    | dsimp only

theorem keep_rowOf {p : Part} {c d r : Nat} {ecc : Ecc} (hg : Good p) : Good (Part.rowOf p c d r ecc).2 := by
  unfold Part.rowOf
  repeat' first
    | with_reducible assumption
    | with_reducible apply keep_hbmFetch
    | with_reducible apply keep_Rd_image
    | with_reducible apply keep_rowRead
    | with_reducible apply Good.ite
    | (intro _)
    | split
    | dsimp only

theorem keep_readPiece {p : Part} {w : Who} {a n : Nat} {alloc : Bool} {ecc : Ecc} {st : RdStat} (hg : Good p) :
    Good (p.readPiece w a n alloc ecc st).2 ∧ ∀ e, (p.readPiece w a n alloc ecc st).1 = .error e → Keeps e := by
  unfold Part.readPiece
  split
  · exact ⟨hg, fun _ h => by cases h; trivial⟩
  · split
    · exact ⟨hg, fun _ h => by cases h; exact keep_hbmGate ‹_›⟩
    · exact ⟨keep_hbmFetch hg, fun _ h => nomatch h⟩
  · split
    · exact ⟨hg, fun _ h => by cases h; exact keep_benchGate ‹_›⟩
    · exact ⟨keep_rowOf hg, fun _ h => nomatch h⟩
  · split
    · exact ⟨hg, fun _ h => by cases h; exact keep_remoteGate ‹_›⟩
    · split
      · exact ⟨hg, fun _ h => nomatch h⟩
      · split
        · exact ⟨hg, fun _ h => by cases h; exact fun _ hg => hg⟩
        · exact ⟨hg, fun _ h => by cases h; exact fun _ hg => keep_askRemote hg⟩
  · have ht := keep_translate (c := w.ctx) (a := a) (write := false) hg
    dsimp only
    split
    · exact ⟨ht, fun _ h => by cases h; trivial⟩
    · split
      · exact ⟨ht, fun _ h => by cases h; exact fun _ hg => hg⟩
      · split
        · exact ⟨ht, fun _ h => by cases h; exact fun _ hg => keep_bumpFn hg⟩
        · split
          · exact ⟨keep_hostReadErr ht, fun _ h => by cases h; trivial⟩
          · exact ⟨ht, fun _ h => nomatch h⟩

theorem keep_writeGate {p : Part} {w : Who} {a : Nat} {e : Stop} (h : p.writeGate w a = some e) : Keeps e := by
  unfold Part.writeGate at h
  split at h
  · cases h; trivial
  · exact keep_hbmGate h
  · exact keep_benchGate h
  · exact keep_remoteGate h
  · repeat' split at h
    all_goals cases h
    all_goals first | trivial | exact fun _ hg => hg

theorem keep_releaseFills {p : Part} {id : Nat} (hg : Good p) : Good (Part.releaseFills p id) := by
  unfold Part.releaseFills
  repeat' first
    | with_reducible assumption
    | with_reducible apply keep_mapTask
    | with_reducible apply keep_rowDone
    | with_reducible apply Good.foldl
    | with_reducible apply Good.foldl2
    | with_reducible apply Good.foldl1
    | (simp only [good_mk]; with_reducible apply Good.core)
    | with_reducible apply Good.ite
    | (intro _)
    | split
    | dsimp only

theorem keep_writePiece {p : Part} {w : Who} {a : Nat} {bs : List Byte} {poison : Bool} {arrival : Option Nat} {ecc : Ecc} (hg : Good p) : Good (Part.writePiece p w a bs poison arrival ecc) := by
  unfold Part.writePiece
  repeat' first
    | with_reducible assumption
    | with_reducible apply keep_hbmStore
    | with_reducible apply keep_storeRows
    | with_reducible apply keep_Rd_row
    | with_reducible apply keep_route
    | with_reducible apply keep_translate
    | with_reducible apply keep_hostPost
    | (simp only [good_mk]; with_reducible apply Good.core)
    | with_reducible apply Good.ite
    | (intro _)
    | split
    | dsimp only

theorem keep_Rd_piece {a n : Nat} {alloc : Bool} : Keep (Rd.piece a n alloc) := by
  refine ⟨fun w s h => ?_⟩
  have k := keep_readPiece (p := s.p) (w := w) (a := a) (n := n) (alloc := alloc) (ecc := if bit a 63 then .clean else s.ecc)
    (st := s.st) h
  have e : ((Rd.piece a n alloc w).run s).2.p = (s.p.readPiece w a n alloc (if bit a 63 then .clean else s.ecc) s.st).2 ∧
      ((Rd.piece a n alloc w).run s).1 = (s.p.readPiece w a n alloc (if bit a 63 then .clean else s.ecc) s.st).1 := by
    simp only [Rd.piece, ExceptT.bind, ExceptT.run, ExceptT.mk, ExceptT.bindCont, Bind.bind, StateT.bind, get, getThe, MonadStateOf.get, liftM, monadLift,
      MonadLift.monadLift, ExceptT.lift, StateT.get, set, MonadStateOf.set, StateT.set, Pure.pure, Functor.map, StateT.map]
    cases hx : s.p.readPiece w a n alloc (if bit a 63 then .clean else s.ecc) s.st with
    | mk r q => cases r <;> exact ⟨rfl, rfl⟩
  rw [e.1]
  exact ⟨k.1, fun x hx => k.2 x (e.2 ▸ hx)⟩

theorem keep_Rd_readEach {a n : Nat} {alloc : Bool} : Keep (Rd.readEach a n alloc) := by
  unfold Rd.readEach
  repeat' first
    | with_reducible assumption
    | with_reducible apply keep_Rd_piece
    | with_reducible apply Good.foldl
    | with_reducible apply Good.foldl2
    | with_reducible apply Good.foldl1
    | with_reducible apply Good.ite
    | (intro _)
    | dsimp only
    | with_reducible apply Keep.stopId
    | with_reducible apply Keep.partBind
    | with_reducible apply Keep.bind
    | with_reducible apply Keep.pure
    | with_reducible apply Keep.onPart
    | with_reducible apply Keep.who
    | with_reducible apply Keep.fault
    | with_reducible apply Keep.addrFault
    | with_reducible apply Keep.need
    | with_reducible apply Keep.foldlM
    | with_reducible apply Keep.forM
    | with_reducible apply Keep.mapM
    | with_reducible apply Keep.map
    | with_reducible apply Keep.discard
    | with_reducible apply Keep.ite
    | with_reducible apply Keep.stop
    | split

theorem keep_Rd_read {a n : Nat} : Keep (Rd.read a n) := by
  unfold Rd.read
  repeat' first
    | with_reducible assumption
    | with_reducible apply keep_Rd_readEach
    | with_reducible apply Good.ite
    | (intro _)
    | dsimp only
    | with_reducible apply Keep.stopId
    | with_reducible apply Keep.partBind
    | with_reducible apply Keep.bind
    | with_reducible apply Keep.pure
    | with_reducible apply Keep.onPart
    | with_reducible apply Keep.who
    | with_reducible apply Keep.fault
    | with_reducible apply Keep.addrFault
    | with_reducible apply Keep.need
    | with_reducible apply Keep.foldlM
    | with_reducible apply Keep.forM
    | with_reducible apply Keep.mapM
    | with_reducible apply Keep.map
    | with_reducible apply Keep.discard
    | with_reducible apply Keep.ite
    | with_reducible apply Keep.stop
    | split

theorem keep_Rd_operand {code a n : Nat} : Keep (Rd.operand code a n) := by
  unfold Rd.operand
  repeat' first
    | with_reducible assumption
    | with_reducible apply keep_Rd_read
    | with_reducible apply Good.ite
    | (intro _)
    | dsimp only
    | with_reducible apply Keep.stopId
    | with_reducible apply Keep.partBind
    | with_reducible apply Keep.bind
    | with_reducible apply Keep.pure
    | with_reducible apply Keep.onPart
    | with_reducible apply Keep.who
    | with_reducible apply Keep.fault
    | with_reducible apply Keep.addrFault
    | with_reducible apply Keep.need
    | with_reducible apply Keep.foldlM
    | with_reducible apply Keep.forM
    | with_reducible apply Keep.mapM
    | with_reducible apply Keep.map
    | with_reducible apply Keep.discard
    | with_reducible apply Keep.ite
    | with_reducible apply Keep.stop
    | split

theorem keep_Rd_control {a n : Nat} : Keep (Rd.control a n) := by
  unfold Rd.control
  repeat' first
    | with_reducible assumption
    | with_reducible apply keep_Rd_operand
    | with_reducible apply Good.ite
    | (intro _)
    | dsimp only
    | with_reducible apply Keep.stopId
    | with_reducible apply Keep.partBind
    | with_reducible apply Keep.bind
    | with_reducible apply Keep.pure
    | with_reducible apply Keep.onPart
    | with_reducible apply Keep.who
    | with_reducible apply Keep.fault
    | with_reducible apply Keep.addrFault
    | with_reducible apply Keep.need
    | with_reducible apply Keep.foldlM
    | with_reducible apply Keep.forM
    | with_reducible apply Keep.mapM
    | with_reducible apply Keep.map
    | with_reducible apply Keep.discard
    | with_reducible apply Keep.ite
    | with_reducible apply Keep.stop
    | split

theorem keep_Rd_controlNat {a n : Nat} : Keep (Rd.controlNat a n) := by
  unfold Rd.controlNat
  repeat' first
    | with_reducible assumption
    | with_reducible apply keep_Rd_control
    | with_reducible apply Good.ite
    | (intro _)
    | dsimp only
    | with_reducible apply Keep.stopId
    | with_reducible apply Keep.partBind
    | with_reducible apply Keep.bind
    | with_reducible apply Keep.pure
    | with_reducible apply Keep.onPart
    | with_reducible apply Keep.who
    | with_reducible apply Keep.fault
    | with_reducible apply Keep.addrFault
    | with_reducible apply Keep.need
    | with_reducible apply Keep.foldlM
    | with_reducible apply Keep.forM
    | with_reducible apply Keep.mapM
    | with_reducible apply Keep.map
    | with_reducible apply Keep.discard
    | with_reducible apply Keep.ite
    | with_reducible apply Keep.stop
    | split

theorem keep_Rd_canWrite {a n : Nat} : Keep (Rd.canWrite a n) := by
  unfold Rd.canWrite
  refine Keep.forM fun c => ⟨fun w s h => ?_⟩
  have e : ((((get : ExceptT Stop (StateM RS) RS) >>= fun x => match x.p.writeGate w c.1 with
      | some e => throw e
      | none => pure ()).run s) : Except Stop Unit × RS) = (match s.p.writeGate w c.1 with | some e => .error e | none => .ok (), s) := by
    simp only [ExceptT.bind, ExceptT.run, ExceptT.mk, ExceptT.bindCont, Bind.bind, StateT.bind, get, getThe, MonadStateOf.get, liftM, monadLift,
      MonadLift.monadLift, ExceptT.lift, StateT.get, Pure.pure, Functor.map, StateT.map]
    cases s.p.writeGate w c.1 <;> rfl
  have k : ∀ e, s.p.writeGate w c.1 = some e → Keeps e := fun e => keep_writeGate
  refine e ▸ ?_
  cases hx : s.p.writeGate w c.1 with
  | none => exact ⟨h, fun _ he => nomatch he⟩
  | some x => exact ⟨h, fun _ he => by cases he; exact k _ hx⟩

theorem keep_Rd_write {a : Nat} {bs : List Byte} {poison : Bool} {arrival : Option Nat} : Keep (Rd.write a bs poison arrival) := by
  unfold Rd.write
  refine Keep.forM fun c => ⟨fun w s h => ?_⟩
  exact ⟨keep_writePiece h, fun _ he => nomatch he⟩

theorem keep_Rd_store {a : Nat} {bs : List Byte} : Keep (Rd.store a bs) := by
  unfold Rd.store
  repeat' first
    | with_reducible assumption
    | with_reducible apply keep_Rd_canWrite
    | with_reducible apply keep_Rd_write
    | with_reducible apply Good.ite
    | (intro _)
    | dsimp only
    | with_reducible apply Keep.stopId
    | with_reducible apply Keep.partBind
    | with_reducible apply Keep.bind
    | with_reducible apply Keep.pure
    | with_reducible apply Keep.onPart
    | with_reducible apply Keep.who
    | with_reducible apply Keep.fault
    | with_reducible apply Keep.addrFault
    | with_reducible apply Keep.need
    | with_reducible apply Keep.foldlM
    | with_reducible apply Keep.forM
    | with_reducible apply Keep.mapM
    | with_reducible apply Keep.map
    | with_reducible apply Keep.discard
    | with_reducible apply Keep.ite
    | with_reducible apply Keep.stop
    | split

theorem keep_Rd_storeAll {l : List (Nat × List Byte)} : Keep (Rd.storeAll l) := by
  unfold Rd.storeAll
  repeat' first
    | with_reducible assumption
    | with_reducible apply keep_Rd_canWrite
    | with_reducible apply keep_Rd_write
    | with_reducible apply Good.ite
    | (intro _)
    | dsimp only
    | with_reducible apply Keep.stopId
    | with_reducible apply Keep.partBind
    | with_reducible apply Keep.bind
    | with_reducible apply Keep.pure
    | with_reducible apply Keep.onPart
    | with_reducible apply Keep.who
    | with_reducible apply Keep.fault
    | with_reducible apply Keep.addrFault
    | with_reducible apply Keep.need
    | with_reducible apply Keep.foldlM
    | with_reducible apply Keep.forM
    | with_reducible apply Keep.mapM
    | with_reducible apply Keep.map
    | with_reducible apply Keep.discard
    | with_reducible apply Keep.ite
    | with_reducible apply Keep.stop
    | split

theorem keep_forget {p : Part} {key : Nat} (hg : Good p) : Good (Part.forget p key) := by
  unfold Part.forget
  repeat' first
    | with_reducible assumption
    | (simp only [good_mk]; with_reducible apply Good.core)
    | with_reducible apply Good.ite
    | (intro _)
    | split
    | dsimp only

theorem keep_engage {p : Part} {w : Who} {ecc : Ecc} {st : RdStat} {after : StallCause → Part → Part} {m : Rd Unit} (hg : Good p)
    (hafter : ∀ c q, Good q → Good (after c q)) (hm : Keep m) : Good (p.engage w ecc st after m) := by
  have k := hm.out w ⟨p, ecc, st⟩ hg
  unfold Part.engage
  split
  · rename_i s hs; rw [hs] at k; exact keep_forget k.1
  · rename_i c req s hs; rw [hs] at k; exact hafter _ _ (k.2 _ rfl p hg)
  · rename_i f s hs; rw [hs] at k; exact keep_forget (keep_ctxFault k.1)

end Sys2Proof.Safety
end

