-- ==== Sys2Proof/Laws/KeepBlockList.lean ====
section
/-!
SUPPORT. Sys2Proof/Laws/KeepBlockList.lean: the operations of Machine/BlockList.lean keep what Safety.Good says.
-/

namespace Sys2Proof.Safety
open Sys2Proof Sys2Proof.Machine

theorem keep_frees {p : Part} {n w : Nat} (hg : Good p) : Good (Part.frees p n w).2 := by
  unfold Part.frees
  simp only [good_mk]
  exact Good.core hg

end Sys2Proof.Safety
end

