-- ==== Sys2Proof/Laws/KeepAudio.lean ====
section
/-!
SUPPORT. Sys2Proof/Laws/KeepAudio.lean: every operation of Machine/Audio.lean keeps a part good (Safety.Good).
-/

set_option linter.unusedSimpArgs false

namespace Sys2Proof.Safety
open Sys2Proof Sys2Proof.Machine

theorem keep_bumpPortAes {p : Part} {a ev : Nat} (hg : Good p) : Good (Part.bumpPortAes p a ev) := by
  unfold Part.bumpPortAes
  repeat' first
    | with_reducible assumption
    | with_reducible apply Good.bump
    | with_reducible apply Good.ite
    | (intro _)
    | split
    | dsimp only

theorem keep_aesFlag {p : Part} {a bit : Nat} {v : Bool} (hg : Good p) : Good (Part.aesFlag p a bit v) := by
  unfold Part.aesFlag
  repeat' first
    | with_reducible assumption
    | with_reducible apply keep_setRb
    | with_reducible apply Good.ite
    | (intro _)
    | split
    | dsimp only

theorem keep_portHears {p : Part} {a : Nat} (hg : Good p) : Good (Part.portHears p a) := by
  unfold Part.portHears
  repeat' first
    | with_reducible assumption
    | with_reducible apply keep_aesFlag
    | with_reducible apply keep_bumpPortAes
    | with_reducible apply keep_setPort
    | (simp only [good_mk]; with_reducible apply Good.core)
    | with_reducible apply Good.ite
    | (intro _)
    | split
    | dsimp only

theorem keep_allHear {p : Part} (hg : Good p) : Good (Part.allHear p) := by
  unfold Part.allHear
  repeat' first
    | with_reducible assumption
    | with_reducible apply keep_portHears
    | with_reducible apply Good.foldl
    | with_reducible apply Good.foldl2
    | with_reducible apply Good.foldl1
    | with_reducible apply Good.ite
    | (intro _)
    | split
    | dsimp only

theorem keep_setRefState {p : Part} {ref st : Nat} (hg : Good p) : Good (Part.setRefState p ref st) := by
  unfold Part.setRefState
  repeat' first
    | with_reducible assumption
    | with_reducible apply keep_setRf
    | with_reducible apply keep_setRb
    | with_reducible apply Good.bump
    | with_reducible apply Good.ite
    | (intro _)
    | split
    | dsimp only

theorem keep_refEdgesPresent {p : Part} {ref : Nat} (hg : Good p) : Good (Part.refEdgesPresent p ref) := by
  unfold Part.refEdgesPresent
  repeat' first
    | with_reducible assumption
    | with_reducible apply keep_setRefState
    | with_reducible apply Good.ite
    | (intro _)
    | split
    | dsimp only

theorem keep_refWindow {p : Part} {ref : Nat} {ppm16 : Int} (hg : Good p) : Good (Part.refWindow p ref ppm16) := by
  unfold Part.refWindow
  repeat' first
    | with_reducible assumption
    | with_reducible apply keep_setRf
    | with_reducible apply keep_setRefState
    | with_reducible apply keep_allHear
    | with_reducible apply Good.ite
    | (intro _)
    | split
    | dsimp only

theorem keep_refAbsentTimeout {p : Part} {ref : Nat} (hg : Good p) : Good (Part.refAbsentTimeout p ref) := by
  unfold Part.refAbsentTimeout
  repeat' first
    | with_reducible assumption
    | with_reducible apply keep_setRefState
    | with_reducible apply keep_allHear
    | with_reducible apply Good.ite
    | (intro _)
    | split
    | dsimp only

theorem keep_refRateBroadcast {p : Part} {ref : Nat} (hg : Good p) : Good (Part.refRateBroadcast p ref) := by
  unfold Part.refRateBroadcast
  repeat' first
    | with_reducible assumption
    | with_reducible apply keep_allHear
    | with_reducible apply Good.foldl
    | with_reducible apply Good.foldl2
    | with_reducible apply Good.foldl1
    | (simp only [good_mk]; with_reducible apply Good.core)
    | with_reducible apply Good.ite
    | (intro _)
    | split
    | dsimp only

theorem keep_aesRefWrite {p : Part} {ref v : Nat} (hg : Good p) : Good (Part.aesRefWrite p ref v) := by
  unfold Part.aesRefWrite
  repeat' first
    | with_reducible assumption
    | with_reducible apply keep_badAccess
    | with_reducible apply keep_setRefState
    | with_reducible apply keep_allHear
    | with_reducible apply Good.setReg
    | with_reducible apply Good.ite
    | (intro _)
    | split
    | dsimp only

theorem keep_aesEnable {p : Part} {a v : Nat} (hg : Good p) : Good (Part.aesEnable p a v) := by
  unfold Part.aesEnable
  repeat' first
    | with_reducible assumption
    | with_reducible apply keep_badAccess
    | with_reducible apply keep_setPort
    | with_reducible apply keep_aesFlag
    | with_reducible apply keep_bumpPortAes
    | with_reducible apply Good.setReg
    | (simp only [good_mk]; with_reducible apply Good.core)
    | with_reducible apply Good.ite
    | (intro _)
    | split
    | dsimp only

theorem keep_aesStop {p : Part} {a : Nat} (hg : Good p) : Good (Part.aesStop p a) := by
  unfold Part.aesStop
  repeat' first
    | with_reducible assumption
    | with_reducible apply keep_setPort
    | with_reducible apply keep_aesFlag
    | with_reducible apply Good.ite
    | (intro _)
    | split
    | dsimp only

theorem keep_aesDisable {p : Part} {a : Nat} (hg : Good p) : Good (Part.aesDisable p a) := by
  unfold Part.aesDisable
  repeat' first
    | with_reducible assumption
    | with_reducible apply keep_setRb
    | with_reducible apply keep_setPort
    | with_reducible apply keep_aesStop
    | (simp only [good_mk]; with_reducible apply Good.core)
    | with_reducible apply Good.ite
    | (intro _)
    | split
    | dsimp only

theorem keep_rampIn {p : Part} {a ch : Nat} (hg : Good p) : Good (Part.rampIn p a ch) := by
  unfold Part.rampIn
  repeat' first
    | with_reducible assumption
    | with_reducible apply keep_setAesCh
    | (simp only [good_mk]; with_reducible apply Good.core)
    | with_reducible apply Good.ite
    | (intro _)
    | split
    | dsimp only

theorem keep_playChecks {p : Part} {a ch : Nat} (hg : Good p) : Good (Part.playChecks p a ch) := by
  unfold Part.playChecks
  repeat' first
    | with_reducible assumption
    | with_reducible apply keep_setAesCh
    | with_reducible apply keep_bumpAes
    | with_reducible apply keep_aesFlag
    | (simp only [good_mk]; with_reducible apply Good.core)
    | with_reducible apply Good.ite
    | (intro _)
    | split
    | dsimp only

theorem keep_aesRampEnd {p : Part} {a ch : Nat} (hg : Good p) : Good (Part.aesRampEnd p a ch) := by
  unfold Part.aesRampEnd
  repeat' first
    | with_reducible assumption
    | with_reducible apply keep_setAesCh
    | with_reducible apply keep_playChecks
    | (simp only [good_mk]; with_reducible apply Good.core)
    | with_reducible apply Good.ite
    | (intro _)
    | split
    | dsimp only

theorem keep_dropValues {a ch : Nat} (k : Nat) {p : Part} (hg : Good p) : Good (Part.dropValues a ch k p) := by
  induction k generalizing p a ch with
  | zero => unfold Part.dropValues; assumption
  | succ k ih =>
    unfold Part.dropValues
    repeat' first
      | with_reducible assumption
      | with_reducible apply ih
      | with_reducible apply keep_bumpAes
      | with_reducible apply keep_returnPos
      | with_reducible apply keep_setAesCh
      | with_reducible apply Good.ite
      | (intro _)
      | split
      | dsimp only

theorem keep_aesTaperEnd {p : Part} {a ch : Nat} (hg : Good p) : Good (Part.aesTaperEnd p a ch) := by
  unfold Part.aesTaperEnd
  repeat' first
    | with_reducible assumption
    | with_reducible apply keep_setAesCh
    | with_reducible apply keep_aesStop
    | with_reducible apply keep_bumpAes
    | with_reducible apply keep_aesFlag
    | with_reducible apply keep_dropValues
    | (simp only [good_mk]; with_reducible apply Good.core)
    | with_reducible apply Good.ite
    | (intro _)
    | split
    | dsimp only

theorem keep_aesFeedArrive {p : Part} {a ch : Nat} {ecc : Ecc} (hg : Good p) : Good (Part.aesFeedArrive p a ch ecc) := by
  unfold Part.aesFeedArrive
  repeat' first
    | with_reducible assumption
    | with_reducible apply keep_Rd_row
    | with_reducible apply keep_gateQueue
    | with_reducible apply keep_rowRead
    | with_reducible apply keep_frees
    | with_reducible apply keep_setAesCh
    | with_reducible apply keep_returnPos
    | with_reducible apply keep_rampIn
    | with_reducible apply keep_playChecks
    | (simp only [good_mk]; with_reducible apply Good.core)
    | with_reducible apply Good.ite
    | (intro _)
    | split
    | dsimp only

theorem keep_sideBlockStart {p : Part} {a : Nat} (hg : Good p) : Good (Part.sideBlockStart p a) := by
  unfold Part.sideBlockStart
  repeat' first
    | with_reducible assumption
    | with_reducible apply keep_request
    | with_reducible apply keep_setPort
    | with_reducible apply keep_bumpPortAes
    | (simp only [good_mk]; with_reducible apply Good.core)
    | with_reducible apply Good.ite
    | (intro _)
    | split
    | dsimp only

theorem keep_sideRead {p : Part} {a at' n : Nat} {ecc : Ecc} (hg : Good p) : Good (Part.sideRead p a at' n ecc).2 := by
  unfold Part.sideRead
  repeat' first
    | with_reducible assumption
    | with_reducible apply keep_translate
    | with_reducible apply keep_hbmFetch
    | with_reducible apply keep_rowRead
    | with_reducible apply Memory.cleared_wf
    | with_reducible apply Good.onMem
    | exact Good.mem ‹_›
    | with_reducible apply Memory.write_wf
    | with_reducible apply Memory.hostWrite_wf
    | with_reducible apply Memory.hostPut_wf
    | with_reducible apply Memory.setPoison_wf
    | with_reducible apply Memory.openRange_wf
    | with_reducible apply Memory.zeroStack_wf
    | with_reducible apply Memory.foldl_wf
    | with_reducible apply Good.mem
    | with_reducible apply Good.ite
    | (intro _)
    | split
    | dsimp only

theorem keep_aesSideArrive {p : Part} {a : Nat} {st : RdStat} {ecc : Ecc} {hw : Cells} (hg : Good p) : Good (Part.aesSideArrive p a st ecc hw) := by
  unfold Part.aesSideArrive
  repeat' first
    | with_reducible assumption
    | with_reducible apply keep_hostSees
    | with_reducible apply keep_setPort
    | with_reducible apply keep_aesFlag
    | with_reducible apply keep_bumpPortAes
    | with_reducible apply keep_hostReadErr
    | with_reducible apply keep_sideRead
    | (simp only [good_mk]; with_reducible apply Good.core)
    | with_reducible apply Good.ite
    | (intro _)
    | split
    | dsimp only

theorem keep_aesPull {p : Part} {a : Nat} (hg : Good p) : Good (Part.aesPull p a) := by
  unfold Part.aesPull
  repeat' first
    | with_reducible assumption
    | with_reducible apply keep_setPort
    | with_reducible apply keep_free
    | with_reducible apply keep_Rd_free
    | with_reducible apply keep_aesFlag
    | (simp only [good_mk]; with_reducible apply Good.core)
    | with_reducible apply Good.ite
    | (intro _)
    | split
    | dsimp only

theorem keep_aesWord {p : Part} {a ch : Nat} (hg : Good p) : Good (Part.aesWord p a ch).2 := by
  unfold Part.aesWord
  repeat' first
    | with_reducible assumption
    | with_reducible apply keep_setAesCh
    | with_reducible apply keep_free
    | with_reducible apply keep_Rd_free
    | with_reducible apply keep_bumpAes
    | (simp only [good_mk]; with_reducible apply Good.core)
    | with_reducible apply Good.ite
    | (intro _)
    | split
    | dsimp only

theorem keep_aesFrame {p : Part} {a : Nat} (hg : Good p) : Good (Part.aesFrame p a) := by
  unfold Part.aesFrame
  repeat' first
    | with_reducible assumption
    | with_reducible apply keep_rampIn
    | with_reducible apply keep_aesRampEnd
    | with_reducible apply keep_aesTaperEnd
    | with_reducible apply keep_aesPull
    | with_reducible apply keep_sideBlockStart
    | with_reducible apply keep_aesWord
    | with_reducible apply keep_setPort
    | with_reducible apply keep_bumpPortAes
    | with_reducible apply keep_playChecks
    | with_reducible apply Good.foldl
    | with_reducible apply Good.foldl2
    | with_reducible apply Good.foldl1
    | (simp only [good_mk]; with_reducible apply Good.core)
    | with_reducible apply Good.ite
    | (intro _)
    | split
    | dsimp only

end Sys2Proof.Safety
end

