-- ==== Sys2Proof/Laws/KeepBenchStore.lean ====
section
/-!
SUPPORT. Sys2Proof/Laws/KeepBenchStore.lean: every operation of Machine/BenchStore.lean keeps a part good (Safety.Good).
-/

set_option linter.unusedSimpArgs false

namespace Sys2Proof.Safety
open Sys2Proof Sys2Proof.Machine

theorem keep_onDie {p : Part} {n : Nat} {f : Part → Nat → Part} (hg : Good p) (hf : ∀ (a0 : Part) (a1 : Nat), Good a0 → Good (f a0 a1)) : Good (Part.onDie p n f) := by
  unfold Part.onDie
  repeat' first
    | with_reducible assumption
    | with_reducible apply hf
    | with_reducible apply Good.ite
    | (intro _)
    | split
    | dsimp only

theorem keep_benchRead {p : Part} {n r : Nat} {ecc : Ecc} (hg : Good p) : Good (Part.benchRead p n r ecc) := by
  unfold Part.benchRead
  repeat' first
    | with_reducible assumption
    | with_reducible apply keep_onDie
    | with_reducible apply keep_rowRequest
    | with_reducible apply keep_Rd_read
    | with_reducible apply Good.ite
    | (intro _)
    | split
    | dsimp only

theorem keep_correctedWriteback {p : Part} {n r : Nat} (hg : Good p) : Good (Part.correctedWriteback p n r) := by
  unfold Part.correctedWriteback
  repeat' first
    | with_reducible assumption
    | with_reducible apply keep_onDie
    | with_reducible apply keep_bumpBench
    | (simp only [good_mk]; with_reducible apply Good.core)
    | with_reducible apply Good.ite
    | (intro _)
    | split
    | dsimp only

theorem keep_benchWrite {p : Part} {c n r first : Nat} {data : List Byte} {poison : Bool} {arrival : Option Nat} {ecc : Ecc} (hg : Good p) : Good (Part.benchWrite p c n r first data poison arrival ecc) := by
  unfold Part.benchWrite
  repeat' first
    | with_reducible assumption
    | with_reducible apply keep_onDie
    | with_reducible apply keep_rowWrite
    | with_reducible apply Good.ite
    | (intro _)
    | split
    | dsimp only

theorem keep_modeRead {p : Part} {c n r step : Nat} {ecc : Ecc} {width : Option Nat} {seg : Nat} (hg : Good p) : Good (Part.modeRead p c n r step ecc width seg) := by
  unfold Part.modeRead
  repeat' first
    | with_reducible assumption
    | with_reducible apply keep_Rd_seg
    | with_reducible apply keep_onDie
    | with_reducible apply keep_ctxFault
    | with_reducible apply keep_rowRequest
    | with_reducible apply Good.foldl
    | with_reducible apply Good.foldl2
    | with_reducible apply Good.foldl1
    | (simp only [good_mk]; with_reducible apply Good.core)
    | with_reducible apply Good.ite
    | (intro _)
    | split
    | dsimp only

theorem keep_patrolScrub {p : Part} {n : Nat} {ecc : Ecc} (hg : Good p) : Good (Part.patrolScrub p n ecc) := by
  unfold Part.patrolScrub
  repeat' first
    | with_reducible assumption
    | with_reducible apply keep_onDie
    | with_reducible apply keep_access
    | (simp only [good_mk]; with_reducible apply Good.core)
    | with_reducible apply Good.ite
    | (intro _)
    | split
    | dsimp only

theorem keep_registerNext {p : Part} {t : Task} {eng : Nat} (hg : Good p) : Good (Part.registerNext p t eng) := by
  unfold Part.registerNext
  repeat' first
    | with_reducible assumption
    | with_reducible apply keep_register
    | with_reducible apply keep_mapTask
    | with_reducible apply keep_reportIssued
    | with_reducible apply keep_sbFull
    | (simp only [good_mk]; with_reducible apply Good.core)
    | with_reducible apply Good.ite
    | (intro _)
    | split
    | dsimp only

theorem keep_scoreboardRegister {p : Part} {cls : Cls} {e : Nat} (hg : Good p) : Good (Part.scoreboardRegister p cls e) := by
  unfold Part.scoreboardRegister
  repeat' first
    | with_reducible assumption
    | with_reducible apply keep_registerNext
    | with_reducible apply keep_serveRegion
    | with_reducible apply Good.foldl
    | with_reducible apply Good.foldl2
    | with_reducible apply Good.foldl1
    | with_reducible apply Good.ite
    | (intro _)
    | split
    | dsimp only

theorem keep_regionReserve {p : Part} {c n i rows : Nat} (hg : Good p) : Good (Part.regionReserve p c n i rows) := by
  unfold Part.regionReserve
  repeat' first
    | with_reducible assumption
    | with_reducible apply keep_onDie
    | with_reducible apply keep_ctxFault
    | with_reducible apply keep_reserve
    | with_reducible apply Good.ite
    | (intro _)
    | split
    | dsimp only

theorem keep_regionReturn {p : Part} {c n i pos : Nat} (hg : Good p) : Good (Part.regionReturn p c n i pos) := by
  unfold Part.regionReturn
  repeat' first
    | with_reducible assumption
    | with_reducible apply keep_onDie
    | with_reducible apply keep_returnPos
    | with_reducible apply Good.ite
    | (intro _)
    | split
    | dsimp only

theorem keep_bankGate {p : Part} {n b : Nat} (hg : Good p) : Good (Part.bankGate p n b) := by
  unfold Part.bankGate
  repeat' first
    | with_reducible assumption
    | with_reducible apply keep_onDie
    | with_reducible apply keep_setBank
    | with_reducible apply keep_bumpBench
    | (simp only [good_mk]; with_reducible apply Good.core)
    | with_reducible apply Good.ite
    | (intro _)
    | split
    | dsimp only

theorem keep_bankWakeDone {p : Part} {n b : Nat} (hg : Good p) : Good (Part.bankWakeDone p n b) := by
  unfold Part.bankWakeDone
  repeat' first
    | with_reducible assumption
    | with_reducible apply keep_onDie
    | with_reducible apply keep_wakeBank
    | with_reducible apply Good.ite
    | (intro _)
    | split
    | dsimp only

end Sys2Proof.Safety
end

