-- ==== Sys2Proof/Laws/KeepJig.lean ====
section
/-!
SUPPORT. Sys2Proof/Laws/KeepJig.lean: every operation of Machine/Jig.lean keeps a part good (Safety.Good).
-/

set_option linter.unusedSimpArgs false

namespace Sys2Proof.Safety
open Sys2Proof Sys2Proof.Machine

theorem keep_addRec {p : Part} {j : Nat} {x : Job} {img : Nat} (hg : Good p) : Good (Part.addRec p j x img) := by
  unfold Part.addRec
  repeat' first
    | with_reducible assumption
    | with_reducible apply keep_setRec
    | with_reducible apply keep_setJob
    | with_reducible apply keep_bumpJig
    | with_reducible apply keep_endJob
    | (simp only [good_mk]; with_reducible apply Good.core)
    | with_reducible apply Good.ite
    | (intro _)
    | split
    | dsimp only

theorem keep_fetchGo {j : Nat} {st : RdStat} (k : Nat) {p : Part} (hg : Good p) : Good (Part.fetchGo j st k p) := by
  induction k generalizing p j st with
  | zero => unfold Part.fetchGo; assumption
  | succ k ih =>
    unfold Part.fetchGo
    repeat' first
      | with_reducible assumption
      | with_reducible apply ih
      | (refine Keep.after keep_Rd_controlNat ?_ (by assumption); assumption)
      | (refine Keep.req keep_Rd_controlNat ?_ (by assumption) ?_ <;> assumption)
      | exact Keep.after keep_Rd_controlNat hg ‹_›
      | exact Keep.req keep_Rd_controlNat hg ‹_› hg
      | with_reducible apply keep_Rd_controlNat
      | with_reducible apply keep_forget
      | with_reducible apply keep_addRec
      | with_reducible apply keep_ctxFault
      | with_reducible apply Good.ite
      | (intro _)
      | split
      | dsimp only
      | with_reducible apply Keep.stopId
      | with_reducible apply Keep.partBind
      | with_reducible apply Keep.bind
      | with_reducible apply Keep.pure
      | with_reducible apply Keep.onPart
      | with_reducible apply Keep.who
      | with_reducible apply Keep.fault
      | with_reducible apply Keep.addrFault
      | with_reducible apply Keep.need
      | with_reducible apply Keep.foldlM
      | with_reducible apply Keep.forM
      | with_reducible apply Keep.mapM
      | with_reducible apply Keep.map
      | with_reducible apply Keep.ite
      | with_reducible apply Keep.stop

theorem keep_recordFetch {p : Part} {j : Nat} {st : RdStat} {hw : Cells} (hg : Good p) : Good (Part.recordFetch p j st hw) := by
  unfold Part.recordFetch
  repeat' first
    | with_reducible assumption
    | with_reducible apply keep_fetchGo
    | with_reducible apply keep_hostSees
    | (simp only [good_mk]; with_reducible apply Good.core)
    | with_reducible apply Good.ite
    | (intro _)
    | split
    | dsimp only

theorem keep_nop {p : Part} {j r : Nat} (hg : Good p) : Good (Part.nop p j r) := by
  unfold Part.nop
  repeat' first
    | with_reducible assumption
    | with_reducible apply keep_completeRec
    | with_reducible apply Good.ite
    | (intro _)
    | split
    | dsimp only

theorem keep_fence {p : Part} {j r : Nat} (hg : Good p) : Good (Part.fence p j r) := by
  unfold Part.fence
  repeat' first
    | with_reducible assumption
    | with_reducible apply keep_completeRec
    | with_reducible apply Good.ite
    | (intro _)
    | split
    | dsimp only

theorem keep_wantClock {p : Part} {key : Nat} (hg : Good p) : Good (Part.wantClock p key) := by
  unfold Part.wantClock
  repeat' first
    | with_reducible assumption
    | (simp only [good_mk]; with_reducible apply Good.core)
    | with_reducible apply Good.ite
    | (intro _)
    | split
    | dsimp only

theorem keep_Rd_cancel {α : Type} : Keep (Rd.cancel (α := α)) := Keep.stop fun _ hg => hg

theorem keep_Rd_writeList {img : Nat} : Keep (Rd.writeList img) := by
  unfold Rd.writeList
  repeat' first
    | with_reducible assumption
    | with_reducible apply keep_Rd_control
    | with_reducible apply Good.ite
    | (intro _)
    | dsimp only
    | with_reducible apply Keep.stopId
    | with_reducible apply Keep.partBind
    | with_reducible apply Keep.bind
    | with_reducible apply Keep.pure
    | with_reducible apply Keep.onPart
    | with_reducible apply Keep.who
    | with_reducible apply Keep.fault
    | with_reducible apply Keep.addrFault
    | with_reducible apply Keep.need
    | with_reducible apply Keep.foldlM
    | with_reducible apply Keep.forM
    | with_reducible apply Keep.mapM
    | with_reducible apply Keep.map
    | with_reducible apply Keep.discard
    | with_reducible apply Keep.ite
    | with_reducible apply Keep.stop
    | split

theorem keep_Rd_armWait {img : Nat} : Keep (Rd.armWait img) := by
  unfold Rd.armWait
  repeat' first
    | with_reducible assumption
    | with_reducible apply Good.ite
    | (intro _)
    | dsimp only
    | with_reducible apply Keep.stopId
    | with_reducible apply Keep.partBind
    | with_reducible apply Keep.bind
    | with_reducible apply Keep.pure
    | with_reducible apply Keep.onPart
    | with_reducible apply Keep.who
    | with_reducible apply Keep.fault
    | with_reducible apply Keep.addrFault
    | with_reducible apply Keep.need
    | with_reducible apply Keep.foldlM
    | with_reducible apply Keep.forM
    | with_reducible apply Keep.mapM
    | with_reducible apply Keep.map
    | with_reducible apply Keep.discard
    | with_reducible apply Keep.ite
    | with_reducible apply Keep.stop
    | split

theorem keep_Rd_table {a n : Nat} : Keep (Rd.table a n) := by
  unfold Rd.table
  repeat' first
    | with_reducible assumption
    | with_reducible apply keep_wakeStack
    | with_reducible apply keep_hbmFetch
    | exact (fun _ hg => keep_wakeStack hg : Keeps _)
    | with_reducible apply Good.ite
    | (intro _)
    | dsimp only
    | with_reducible apply Keep.stopId
    | with_reducible apply Keep.partBind
    | with_reducible apply Keep.bind
    | with_reducible apply Keep.pure
    | with_reducible apply Keep.onPart
    | with_reducible apply Keep.who
    | with_reducible apply Keep.fault
    | with_reducible apply Keep.addrFault
    | with_reducible apply Keep.need
    | with_reducible apply Keep.foldlM
    | with_reducible apply Keep.forM
    | with_reducible apply Keep.mapM
    | with_reducible apply Keep.map
    | with_reducible apply Keep.discard
    | with_reducible apply Keep.ite
    | with_reducible apply Keep.stop
    | split

theorem keep_Rd_seed {idx : Nat} : Keep (Rd.seed idx) := by
  unfold Rd.seed
  repeat' first
    | with_reducible assumption
    | with_reducible apply keep_Rd_table
    | with_reducible apply Good.ite
    | (intro _)
    | dsimp only
    | with_reducible apply Keep.stopId
    | with_reducible apply Keep.partBind
    | with_reducible apply Keep.bind
    | with_reducible apply Keep.pure
    | with_reducible apply Keep.onPart
    | with_reducible apply Keep.who
    | with_reducible apply Keep.fault
    | with_reducible apply Keep.addrFault
    | with_reducible apply Keep.need
    | with_reducible apply Keep.foldlM
    | with_reducible apply Keep.forM
    | with_reducible apply Keep.mapM
    | with_reducible apply Keep.map
    | with_reducible apply Keep.discard
    | with_reducible apply Keep.ite
    | with_reducible apply Keep.stop
    | split

theorem keep_install {p : Part} {x : Job} {cls : Cls} {e : Nat} {t : Task} (hg : Good p) : Good (Part.install p x cls e t) := by
  unfold Part.install
  repeat' first
    | with_reducible assumption
    | with_reducible apply keep_setRec
    | with_reducible apply keep_bumpJig
    | with_reducible apply keep_wantClock
    | (simp only [good_mk]; with_reducible apply Good.core)
    | with_reducible apply Good.ite
    | (intro _)
    | split
    | dsimp only

theorem keep_resumeTask {p : Part} {x : Job} {cls : Cls} {e : Nat} {t : Task} (hg : Good p) : Good (Part.resumeTask p x cls e t) := by
  unfold Part.resumeTask
  repeat' first
    | with_reducible assumption
    | with_reducible apply keep_install
    | (simp only [good_mk]; with_reducible apply Good.core)
    | with_reducible apply Good.ite
    | (intro _)
    | split
    | dsimp only

theorem keep_issue {p : Part} {cls : Cls} {j r : Nat} {st : RdStat} {hw : Cells} {f : Nat → Job → Nat → Rd Task} (hg : Good p) (hf : ∀ a0 a1 a2, Keep (f a0 a1 a2)) : Good (Part.issue p cls j r st hw f) := by
  unfold Part.issue
  repeat' first
    | with_reducible assumption
    | with_reducible apply keep_resumeTask
    | with_reducible apply keep_hostSees
    | with_reducible apply keep_engage
    | with_reducible apply keep_Rd_writeList
    | with_reducible apply keep_Rd_armWait
    | with_reducible apply keep_install
    | with_reducible apply hf
    | (simp only [good_mk]; with_reducible apply Good.core)
    | with_reducible apply Good.ite
    | (intro _)
    | dsimp only
    | with_reducible apply Keep.stopId
    | with_reducible apply Keep.partBind
    | with_reducible apply Keep.bind
    | with_reducible apply Keep.pure
    | with_reducible apply Keep.onPart
    | with_reducible apply Keep.who
    | with_reducible apply Keep.fault
    | with_reducible apply Keep.addrFault
    | with_reducible apply Keep.need
    | with_reducible apply Keep.foldlM
    | with_reducible apply Keep.forM
    | with_reducible apply Keep.mapM
    | with_reducible apply Keep.map
    | with_reducible apply Keep.discard
    | with_reducible apply Keep.ite
    | with_reducible apply Keep.stop
    | split

theorem keep_stall {p : Part} {cls : Cls} {e : Nat} {t : Task} {measured : StallCause} {n : Nat} (hg : Good p) : Good (Part.stall p cls e t measured n) := by
  unfold Part.stall
  repeat' first
    | with_reducible assumption
    | with_reducible apply Good.bump
    | with_reducible apply Good.ite
    | (intro _)
    | split
    | dsimp only

theorem keep_taskGate {p : Part} {key : Nat} {t : Task} {e : Stop} (h : p.taskGate key t = some e) : Keeps e := by
  unfold Part.taskGate at h
  repeat' split at h
  all_goals cases h
  all_goals first | exact fun _ hg => keep_wantClock hg | exact fun _ hg => hg

theorem keep_runUnit {p : Part} {cls : Cls} {e : Nat} {st : RdStat} {ecc : Ecc} {cause : StallCause} {n : Nat} {hw : Cells} {f : Task → Rd Task} (hg : Good p) (hf : ∀ a0, Keep (f a0)) : Good (Part.runUnit p cls e st ecc cause n hw f) := by
  unfold Part.runUnit
  repeat' first
    | with_reducible assumption
    | with_reducible apply keep_hostSees
    | with_reducible apply keep_stall
    | with_reducible apply keep_engage
    | with_reducible apply keep_taskGate
    | with_reducible apply keep_mapTask
    | with_reducible apply keep_releaseFills
    | exact hf _
    | with_reducible apply hf
    | exact keep_taskGate ‹_›
    | (simp only [good_mk]; with_reducible apply Good.core)
    | with_reducible apply Good.ite
    | (intro _)
    | dsimp only
    | with_reducible apply Keep.stopId
    | with_reducible apply Keep.partBind
    | with_reducible apply Keep.bind
    | with_reducible apply Keep.pure
    | with_reducible apply Keep.onPart
    | with_reducible apply Keep.who
    | with_reducible apply Keep.fault
    | with_reducible apply Keep.addrFault
    | with_reducible apply Keep.need
    | with_reducible apply Keep.foldlM
    | with_reducible apply Keep.forM
    | with_reducible apply Keep.mapM
    | with_reducible apply Keep.map
    | with_reducible apply Keep.discard
    | with_reducible apply Keep.ite
    | with_reducible apply Keep.stop
    | split

theorem keep_computeTaskComplete {p : Part} {cls : Cls} {e : Nat} (hg : Good p) : Good (Part.computeTaskComplete p cls e) := by
  unfold Part.computeTaskComplete
  repeat' first
    | with_reducible assumption
    | with_reducible apply keep_bumpEng
    | with_reducible apply keep_completeRec
    | (simp only [good_mk]; with_reducible apply Good.core)
    | with_reducible apply Good.ite
    | (intro _)
    | split
    | dsimp only

end Sys2Proof.Safety
end

