-- ==== Sys2Proof/Laws/KeepTensors.lean ====
section
/-!
SUPPORT. Sys2Proof/Laws/KeepTensors.lean: every operation of Machine/Tensors.lean keeps a part good (Safety.Good).
-/

set_option linter.unusedSimpArgs false

namespace Sys2Proof.Safety
open Sys2Proof Sys2Proof.Machine

theorem keep_Rd_count {ev n : Nat} : Keep (Rd.count ev n) := by
  unfold Rd.count
  repeat' first
    | with_reducible assumption
    | with_reducible apply keep_bumpEng
    | with_reducible apply Good.ite
    | (intro _)
    | dsimp only
    | with_reducible apply Keep.stopId
    | with_reducible apply Keep.partBind
    | with_reducible apply Keep.bind
    | with_reducible apply Keep.pure
    | with_reducible apply Keep.onPart
    | with_reducible apply Keep.who
    | with_reducible apply Keep.fault
    | with_reducible apply Keep.addrFault
    | with_reducible apply Keep.need
    | with_reducible apply Keep.foldlM
    | with_reducible apply Keep.forM
    | with_reducible apply Keep.mapM
    | with_reducible apply Keep.map
    | with_reducible apply Keep.discard
    | with_reducible apply Keep.ite
    | with_reducible apply Keep.stop
    | split

theorem keep_Rd_free  : Keep (Rd.free) := by
  unfold Rd.free
  repeat' first
    | with_reducible assumption
    | with_reducible apply keep_free
    | with_reducible apply Good.ite
    | (intro _)
    | dsimp only
    | with_reducible apply Keep.stopId
    | with_reducible apply Keep.partBind
    | with_reducible apply Keep.bind
    | with_reducible apply Keep.pure
    | with_reducible apply Keep.onPart
    | with_reducible apply Keep.who
    | with_reducible apply Keep.fault
    | with_reducible apply Keep.addrFault
    | with_reducible apply Keep.need
    | with_reducible apply Keep.foldlM
    | with_reducible apply Keep.forM
    | with_reducible apply Keep.mapM
    | with_reducible apply Keep.map
    | with_reducible apply Keep.discard
    | with_reducible apply Keep.ite
    | with_reducible apply Keep.stop
    | split

theorem keep_Rd_f32 {c : Nat} : Keep (Rd.f32 c) := by
  unfold Rd.f32
  repeat' first
    | with_reducible assumption
    | with_reducible apply keep_free
    | with_reducible apply keep_Rd_free
    | with_reducible apply Good.ite
    | (intro _)
    | dsimp only
    | with_reducible apply Keep.stopId
    | with_reducible apply Keep.partBind
    | with_reducible apply Keep.bind
    | with_reducible apply Keep.pure
    | with_reducible apply Keep.onPart
    | with_reducible apply Keep.who
    | with_reducible apply Keep.fault
    | with_reducible apply Keep.addrFault
    | with_reducible apply Keep.need
    | with_reducible apply Keep.foldlM
    | with_reducible apply Keep.forM
    | with_reducible apply Keep.mapM
    | with_reducible apply Keep.map
    | with_reducible apply Keep.discard
    | with_reducible apply Keep.ite
    | with_reducible apply Keep.stop
    | split

theorem keep_Rd_rsqrt {x : F32} : Keep (Rd.rsqrt x) := by
  unfold Rd.rsqrt
  repeat' first
    | with_reducible assumption
    | with_reducible apply keep_free
    | with_reducible apply keep_Rd_free
    | with_reducible apply Good.ite
    | (intro _)
    | dsimp only
    | with_reducible apply Keep.stopId
    | with_reducible apply Keep.partBind
    | with_reducible apply Keep.bind
    | with_reducible apply Keep.pure
    | with_reducible apply Keep.onPart
    | with_reducible apply Keep.who
    | with_reducible apply Keep.fault
    | with_reducible apply Keep.addrFault
    | with_reducible apply Keep.need
    | with_reducible apply Keep.foldlM
    | with_reducible apply Keep.forM
    | with_reducible apply Keep.mapM
    | with_reducible apply Keep.map
    | with_reducible apply Keep.discard
    | with_reducible apply Keep.ite
    | with_reducible apply Keep.stop
    | split

theorem keep_Rd_blocks {img n : Nat} : Keep (Rd.blocks img n) := by
  unfold Rd.blocks
  repeat' first
    | with_reducible assumption
    | with_reducible apply keep_Rd_control
    | with_reducible apply Good.ite
    | (intro _)
    | dsimp only
    | with_reducible apply Keep.stopId
    | with_reducible apply Keep.partBind
    | with_reducible apply Keep.bind
    | with_reducible apply Keep.pure
    | with_reducible apply Keep.onPart
    | with_reducible apply Keep.who
    | with_reducible apply Keep.fault
    | with_reducible apply Keep.addrFault
    | with_reducible apply Keep.need
    | with_reducible apply Keep.foldlM
    | with_reducible apply Keep.forM
    | with_reducible apply Keep.mapM
    | with_reducible apply Keep.map
    | with_reducible apply Keep.discard
    | with_reducible apply Keep.ite
    | with_reducible apply Keep.stop
    | split

theorem keep_Rd_opIs {op last named : Nat} : Keep (Rd.opIs op last named) := by
  unfold Rd.opIs
  repeat' first
    | with_reducible assumption
    | with_reducible apply keep_Rd_cancel
    | with_reducible apply Good.ite
    | (intro _)
    | dsimp only
    | with_reducible apply Keep.stopId
    | with_reducible apply Keep.partBind
    | with_reducible apply Keep.bind
    | with_reducible apply Keep.pure
    | with_reducible apply Keep.onPart
    | with_reducible apply Keep.who
    | with_reducible apply Keep.fault
    | with_reducible apply Keep.addrFault
    | with_reducible apply Keep.need
    | with_reducible apply Keep.foldlM
    | with_reducible apply Keep.forM
    | with_reducible apply Keep.mapM
    | with_reducible apply Keep.map
    | with_reducible apply Keep.discard
    | with_reducible apply Keep.ite
    | with_reducible apply Keep.stop
    | split

theorem keep_Rd_seedIf {img : Nat} {used : Bool} : Keep (Rd.seedIf img used) := by
  unfold Rd.seedIf
  repeat' first
    | with_reducible assumption
    | with_reducible apply keep_Rd_seed
    | with_reducible apply Good.ite
    | (intro _)
    | dsimp only
    | with_reducible apply Keep.stopId
    | with_reducible apply Keep.partBind
    | with_reducible apply Keep.bind
    | with_reducible apply Keep.pure
    | with_reducible apply Keep.onPart
    | with_reducible apply Keep.who
    | with_reducible apply Keep.fault
    | with_reducible apply Keep.addrFault
    | with_reducible apply Keep.need
    | with_reducible apply Keep.foldlM
    | with_reducible apply Keep.forM
    | with_reducible apply Keep.mapM
    | with_reducible apply Keep.map
    | with_reducible apply Keep.discard
    | with_reducible apply Keep.ite
    | with_reducible apply Keep.stop
    | split

theorem keep_Rd_heldWord {code : Nat} {t : Tens} : Keep (Rd.heldWord code t) := by
  unfold Rd.heldWord
  repeat' first
    | with_reducible assumption
    | with_reducible apply keep_Rd_operand
    | with_reducible apply Good.ite
    | (intro _)
    | dsimp only
    | with_reducible apply Keep.stopId
    | with_reducible apply Keep.partBind
    | with_reducible apply Keep.bind
    | with_reducible apply Keep.pure
    | with_reducible apply Keep.onPart
    | with_reducible apply Keep.who
    | with_reducible apply Keep.fault
    | with_reducible apply Keep.addrFault
    | with_reducible apply Keep.need
    | with_reducible apply Keep.foldlM
    | with_reducible apply Keep.forM
    | with_reducible apply Keep.mapM
    | with_reducible apply Keep.map
    | with_reducible apply Keep.discard
    | with_reducible apply Keep.ite
    | with_reducible apply Keep.stop
    | split

theorem keep_Rd_rowExp {code : Nat} {t : Tens} {word : Int} {r : Nat} : Keep (Rd.rowExp code t word r) := by
  unfold Rd.rowExp
  repeat' first
    | with_reducible assumption
    | with_reducible apply keep_Rd_operand
    | with_reducible apply Good.ite
    | (intro _)
    | dsimp only
    | with_reducible apply Keep.stopId
    | with_reducible apply Keep.partBind
    | with_reducible apply Keep.bind
    | with_reducible apply Keep.pure
    | with_reducible apply Keep.onPart
    | with_reducible apply Keep.who
    | with_reducible apply Keep.fault
    | with_reducible apply Keep.addrFault
    | with_reducible apply Keep.need
    | with_reducible apply Keep.foldlM
    | with_reducible apply Keep.forM
    | with_reducible apply Keep.mapM
    | with_reducible apply Keep.map
    | with_reducible apply Keep.discard
    | with_reducible apply Keep.ite
    | with_reducible apply Keep.stop
    | split

theorem keep_Rd_codes {code fmt a n : Nat} : Keep (Rd.codes code fmt a n) := by
  unfold Rd.codes
  repeat' first
    | with_reducible assumption
    | with_reducible apply keep_Rd_operand
    | with_reducible apply Good.ite
    | (intro _)
    | dsimp only
    | with_reducible apply Keep.stopId
    | with_reducible apply Keep.partBind
    | with_reducible apply Keep.bind
    | with_reducible apply Keep.pure
    | with_reducible apply Keep.onPart
    | with_reducible apply Keep.who
    | with_reducible apply Keep.fault
    | with_reducible apply Keep.addrFault
    | with_reducible apply Keep.need
    | with_reducible apply Keep.foldlM
    | with_reducible apply Keep.forM
    | with_reducible apply Keep.mapM
    | with_reducible apply Keep.map
    | with_reducible apply Keep.discard
    | with_reducible apply Keep.ite
    | with_reducible apply Keep.stop
    | split

theorem keep_Rd_freeBytes {n : Nat} : Keep (Rd.freeBytes n) := by
  unfold Rd.freeBytes
  repeat' first
    | with_reducible assumption
    | with_reducible apply keep_free
    | with_reducible apply keep_Rd_free
    | with_reducible apply Good.ite
    | (intro _)
    | dsimp only
    | with_reducible apply Keep.stopId
    | with_reducible apply Keep.partBind
    | with_reducible apply Keep.bind
    | with_reducible apply Keep.pure
    | with_reducible apply Keep.onPart
    | with_reducible apply Keep.who
    | with_reducible apply Keep.fault
    | with_reducible apply Keep.addrFault
    | with_reducible apply Keep.need
    | with_reducible apply Keep.foldlM
    | with_reducible apply Keep.forM
    | with_reducible apply Keep.mapM
    | with_reducible apply Keep.map
    | with_reducible apply Keep.discard
    | with_reducible apply Keep.ite
    | with_reducible apply Keep.stop
    | split

theorem keep_Rd_raced {code a n : Nat} : Keep (Rd.raced code a n) := by
  unfold Rd.raced
  repeat' first
    | with_reducible assumption
    | with_reducible apply keep_Rd_operand
    | with_reducible apply keep_Rd_freeBytes
    | with_reducible apply Good.ite
    | (intro _)
    | dsimp only
    | with_reducible apply Keep.stopId
    | with_reducible apply Keep.partBind
    | with_reducible apply Keep.bind
    | with_reducible apply Keep.pure
    | with_reducible apply Keep.onPart
    | with_reducible apply Keep.who
    | with_reducible apply Keep.fault
    | with_reducible apply Keep.addrFault
    | with_reducible apply Keep.need
    | with_reducible apply Keep.foldlM
    | with_reducible apply Keep.forM
    | with_reducible apply Keep.mapM
    | with_reducible apply Keep.map
    | with_reducible apply Keep.discard
    | with_reducible apply Keep.ite
    | with_reducible apply Keep.stop
    | split

theorem keep_Rd_decode {t : Tens} {l : List Nat} : Keep (Rd.decode t l) := by
  unfold Rd.decode
  repeat' first
    | with_reducible assumption
    | with_reducible apply keep_Rd_count
    | with_reducible apply Good.ite
    | (intro _)
    | dsimp only
    | with_reducible apply Keep.stopId
    | with_reducible apply Keep.partBind
    | with_reducible apply Keep.bind
    | with_reducible apply Keep.pure
    | with_reducible apply Keep.onPart
    | with_reducible apply Keep.who
    | with_reducible apply Keep.fault
    | with_reducible apply Keep.addrFault
    | with_reducible apply Keep.need
    | with_reducible apply Keep.foldlM
    | with_reducible apply Keep.forM
    | with_reducible apply Keep.mapM
    | with_reducible apply Keep.map
    | with_reducible apply Keep.discard
    | with_reducible apply Keep.ite
    | with_reducible apply Keep.stop
    | split

theorem keep_Rd_row {code : Nat} {t : Tens} {r n : Nat} : Keep (Rd.row code t r n) := by
  unfold Rd.row
  repeat' first
    | with_reducible assumption
    | with_reducible apply keep_Rd_decode
    | with_reducible apply keep_Rd_codes
    | with_reducible apply Good.ite
    | (intro _)
    | dsimp only
    | with_reducible apply Keep.stopId
    | with_reducible apply Keep.partBind
    | with_reducible apply Keep.bind
    | with_reducible apply Keep.pure
    | with_reducible apply Keep.onPart
    | with_reducible apply Keep.who
    | with_reducible apply Keep.fault
    | with_reducible apply Keep.addrFault
    | with_reducible apply Keep.need
    | with_reducible apply Keep.foldlM
    | with_reducible apply Keep.forM
    | with_reducible apply Keep.mapM
    | with_reducible apply Keep.map
    | with_reducible apply Keep.discard
    | with_reducible apply Keep.ite
    | with_reducible apply Keep.stop
    | split

theorem keep_Rd_bf16s {code a n : Nat} : Keep (Rd.bf16s code a n) := by
  unfold Rd.bf16s
  repeat' first
    | with_reducible assumption
    | with_reducible apply keep_Rd_codes
    | with_reducible apply keep_Rd_count
    | with_reducible apply Good.ite
    | (intro _)
    | dsimp only
    | with_reducible apply Keep.stopId
    | with_reducible apply Keep.partBind
    | with_reducible apply Keep.bind
    | with_reducible apply Keep.pure
    | with_reducible apply Keep.onPart
    | with_reducible apply Keep.who
    | with_reducible apply Keep.fault
    | with_reducible apply Keep.addrFault
    | with_reducible apply Keep.need
    | with_reducible apply Keep.foldlM
    | with_reducible apply Keep.forM
    | with_reducible apply Keep.mapM
    | with_reducible apply Keep.map
    | with_reducible apply Keep.discard
    | with_reducible apply Keep.ite
    | with_reducible apply Keep.stop
    | split

theorem keep_Rd_mArr {a n : Nat} : Keep (Rd.mArr a n) := by
  unfold Rd.mArr
  repeat' first
    | with_reducible assumption
    | with_reducible apply keep_Rd_control
    | with_reducible apply Good.ite
    | (intro _)
    | dsimp only
    | with_reducible apply Keep.stopId
    | with_reducible apply Keep.partBind
    | with_reducible apply Keep.bind
    | with_reducible apply Keep.pure
    | with_reducible apply Keep.onPart
    | with_reducible apply Keep.who
    | with_reducible apply Keep.fault
    | with_reducible apply Keep.addrFault
    | with_reducible apply Keep.need
    | with_reducible apply Keep.foldlM
    | with_reducible apply Keep.forM
    | with_reducible apply Keep.mapM
    | with_reducible apply Keep.map
    | with_reducible apply Keep.discard
    | with_reducible apply Keep.ite
    | with_reducible apply Keep.stop
    | split

theorem keep_Rd_escapes {code : Nat} {w : WDesc} {k : Nat} {l : List (List Nat)} : Keep (Rd.escapes code w k l) := by
  induction l generalizing k with
  | nil => exact Keep.pure _
  | cons b rest ih =>
    unfold Rd.escapes
    repeat' first
      | with_reducible assumption
      | with_reducible apply ih
      | with_reducible apply keep_Rd_operand
      | with_reducible apply keep_Rd_bf16s
      | with_reducible apply Keep.stopId
      | with_reducible apply Keep.partBind
      | with_reducible apply Keep.bind
      | with_reducible apply Keep.pure
      | with_reducible apply Keep.onPart
      | with_reducible apply Keep.who
      | with_reducible apply Keep.fault
      | with_reducible apply Keep.addrFault
      | with_reducible apply Keep.need
      | with_reducible apply Keep.foldlM
      | with_reducible apply Keep.forM
      | with_reducible apply Keep.mapM
      | with_reducible apply Keep.map
      | with_reducible apply Keep.ite
      | with_reducible apply Keep.stop
      | (intro _)
      | split
      | dsimp only

theorem keep_Rd_weightsOf {code : Nat} {w : WDesc} {l : List Nat} : Keep (Rd.weightsOf code w l) := by
  unfold Rd.weightsOf
  repeat' first
    | with_reducible assumption
    | with_reducible apply keep_Rd_operand
    | with_reducible apply keep_Rd_escapes
    | with_reducible apply Good.foldl
    | with_reducible apply Good.foldl2
    | with_reducible apply Good.foldl1
    | with_reducible apply Good.ite
    | (intro _)
    | dsimp only
    | with_reducible apply Keep.stopId
    | with_reducible apply Keep.partBind
    | with_reducible apply Keep.bind
    | with_reducible apply Keep.pure
    | with_reducible apply Keep.onPart
    | with_reducible apply Keep.who
    | with_reducible apply Keep.fault
    | with_reducible apply Keep.addrFault
    | with_reducible apply Keep.need
    | with_reducible apply Keep.foldlM
    | with_reducible apply Keep.forM
    | with_reducible apply Keep.mapM
    | with_reducible apply Keep.map
    | with_reducible apply Keep.discard
    | with_reducible apply Keep.ite
    | with_reducible apply Keep.stop
    | split

theorem keep_Rd_weights {code : Nat} {w : WDesc} {n : Nat} : Keep (Rd.weights code w n) := by
  unfold Rd.weights
  repeat' first
    | with_reducible assumption
    | with_reducible apply keep_Rd_weightsOf
    | with_reducible apply keep_Rd_codes
    | with_reducible apply Good.ite
    | (intro _)
    | dsimp only
    | with_reducible apply Keep.stopId
    | with_reducible apply Keep.partBind
    | with_reducible apply Keep.bind
    | with_reducible apply Keep.pure
    | with_reducible apply Keep.onPart
    | with_reducible apply Keep.who
    | with_reducible apply Keep.fault
    | with_reducible apply Keep.addrFault
    | with_reducible apply Keep.need
    | with_reducible apply Keep.foldlM
    | with_reducible apply Keep.forM
    | with_reducible apply Keep.mapM
    | with_reducible apply Keep.map
    | with_reducible apply Keep.discard
    | with_reducible apply Keep.ite
    | with_reducible apply Keep.stop
    | split

theorem keep_Rd_seg {int : Bool} {k : Int} {l : List (Num.WVal × Num.XVal)} : Keep (Rd.seg int k l) := by
  unfold Rd.seg
  repeat' first
    | with_reducible assumption
    | with_reducible apply keep_Rd_count
    | with_reducible apply Good.ite
    | (intro _)
    | dsimp only
    | with_reducible apply Keep.stopId
    | with_reducible apply Keep.partBind
    | with_reducible apply Keep.bind
    | with_reducible apply Keep.pure
    | with_reducible apply Keep.onPart
    | with_reducible apply Keep.who
    | with_reducible apply Keep.fault
    | with_reducible apply Keep.addrFault
    | with_reducible apply Keep.need
    | with_reducible apply Keep.foldlM
    | with_reducible apply Keep.forM
    | with_reducible apply Keep.mapM
    | with_reducible apply Keep.map
    | with_reducible apply Keep.discard
    | with_reducible apply Keep.ite
    | with_reducible apply Keep.stop
    | split

theorem keep_Rd_emit {t : Task} {o : Num.OutCfg} {d : OutDesc} {row : Nat} {idx : Nat → Nat} {l : List Num.Pre} : Keep (Rd.emit t o d row idx l) := by
  unfold Rd.emit
  repeat' first
    | with_reducible assumption
    | with_reducible apply keep_Rd_row
    | with_reducible apply keep_Rd_count
    | with_reducible apply Good.ite
    | (intro _)
    | dsimp only
    | with_reducible apply Keep.stopId
    | with_reducible apply Keep.partBind
    | with_reducible apply Keep.bind
    | with_reducible apply Keep.pure
    | with_reducible apply Keep.onPart
    | with_reducible apply Keep.who
    | with_reducible apply Keep.fault
    | with_reducible apply Keep.addrFault
    | with_reducible apply Keep.need
    | with_reducible apply Keep.foldlM
    | with_reducible apply Keep.forM
    | with_reducible apply Keep.mapM
    | with_reducible apply Keep.map
    | with_reducible apply Keep.discard
    | with_reducible apply Keep.ite
    | with_reducible apply Keep.stop
    | split

theorem keep_Rd_putCars {t : Tens} {l : List (Nat × Nat)} : Keep (Rd.putCars t l) := by
  unfold Rd.putCars
  repeat' first
    | with_reducible assumption
    | with_reducible apply keep_Rd_storeAll
    | with_reducible apply Good.foldl
    | with_reducible apply Good.foldl2
    | with_reducible apply Good.foldl1
    | (simp only [good_mk]; with_reducible apply Good.core)
    | with_reducible apply Good.ite
    | (intro _)
    | dsimp only
    | with_reducible apply Keep.stopId
    | with_reducible apply Keep.partBind
    | with_reducible apply Keep.bind
    | with_reducible apply Keep.pure
    | with_reducible apply Keep.onPart
    | with_reducible apply Keep.who
    | with_reducible apply Keep.fault
    | with_reducible apply Keep.addrFault
    | with_reducible apply Keep.need
    | with_reducible apply Keep.foldlM
    | with_reducible apply Keep.forM
    | with_reducible apply Keep.mapM
    | with_reducible apply Keep.map
    | with_reducible apply Keep.discard
    | with_reducible apply Keep.ite
    | with_reducible apply Keep.stop
    | split

theorem keep_countMove {p : Part} {die c : Nat} {m : Num.AnnealMove} (hg : Good p) : Good (Part.countMove p die c m) := by
  unfold Part.countMove
  repeat' first
    | with_reducible assumption
    | with_reducible apply keep_bumpAnneal
    | with_reducible apply Good.ite
    | (intro _)
    | split
    | dsimp only

theorem keep_Rd_finish {code : Nat} {t : Task} {out : Tens} {d : OutDesc} {word : Int} : Keep (Rd.finish code t out d word) := by
  unfold Rd.finish
  repeat' first
    | with_reducible assumption
    | with_reducible apply keep_Rd_operand
    | with_reducible apply keep_Rd_store
    | with_reducible apply keep_Rd_heldWord
    | with_reducible apply keep_countMove
    | with_reducible apply keep_bumpAnneal
    | with_reducible apply Good.ite
    | (intro _)
    | dsimp only
    | with_reducible apply Keep.stopId
    | with_reducible apply Keep.partBind
    | with_reducible apply Keep.bind
    | with_reducible apply Keep.pure
    | with_reducible apply Keep.onPart
    | with_reducible apply Keep.who
    | with_reducible apply Keep.fault
    | with_reducible apply Keep.addrFault
    | with_reducible apply Keep.need
    | with_reducible apply Keep.foldlM
    | with_reducible apply Keep.forM
    | with_reducible apply Keep.mapM
    | with_reducible apply Keep.map
    | with_reducible apply Keep.discard
    | with_reducible apply Keep.ite
    | with_reducible apply Keep.stop
    | split

theorem keep_Rd_buffer {code ev : Nat} {buf : Ecc} : Keep (Rd.buffer code ev buf) := by
  unfold Rd.buffer
  repeat' first
    | with_reducible assumption
    | with_reducible apply keep_Rd_count
    | with_reducible apply keep_recordFault
    | with_reducible apply Good.ite
    | (intro _)
    | dsimp only
    | with_reducible apply Keep.stopId
    | with_reducible apply Keep.partBind
    | with_reducible apply Keep.bind
    | with_reducible apply Keep.pure
    | with_reducible apply Keep.onPart
    | with_reducible apply Keep.who
    | with_reducible apply Keep.fault
    | with_reducible apply Keep.addrFault
    | with_reducible apply Keep.need
    | with_reducible apply Keep.foldlM
    | with_reducible apply Keep.forM
    | with_reducible apply Keep.mapM
    | with_reducible apply Keep.map
    | with_reducible apply Keep.discard
    | with_reducible apply Keep.ite
    | with_reducible apply Keep.stop
    | split

end Sys2Proof.Safety
end

