-- ==== Sys2Proof/Laws/KeepJoiner.lean ====
section
/-!
SUPPORT. Sys2Proof/Laws/KeepJoiner.lean: every operation of Machine/Joiner.lean keeps a part good (Safety.Good).
-/

set_option linter.unusedSimpArgs false

namespace Sys2Proof.Safety
open Sys2Proof Sys2Proof.Machine

theorem keep_Rd_outToken {t : Task} {v : JTask} {total row : Nat} {idx : Nat → Nat} {expand : List Nat → List Nat} {l : List Num.Pre} : Keep (Rd.outToken t v total row idx expand l) := by
  unfold Rd.outToken
  repeat' first
    | with_reducible assumption
    | with_reducible apply keep_Rd_row
    | with_reducible apply keep_Rd_emit
    | with_reducible apply Good.ite
    | (intro _)
    | dsimp only
    | with_reducible apply Keep.stopId
    | with_reducible apply Keep.partBind
    | with_reducible apply Keep.bind
    | with_reducible apply Keep.pure
    | with_reducible apply Keep.onPart
    | with_reducible apply Keep.who
    | with_reducible apply Keep.fault
    | with_reducible apply Keep.addrFault
    | with_reducible apply Keep.need
    | with_reducible apply Keep.foldlM
    | with_reducible apply Keep.forM
    | with_reducible apply Keep.mapM
    | with_reducible apply Keep.map
    | with_reducible apply Keep.discard
    | with_reducible apply Keep.ite
    | with_reducible apply Keep.stop
    | split

theorem keep_Rd_rowsOut {t : Task} {v : JTask} {rows : List Nat} {f : Task → Nat → Rd (Task × List (Nat × List Byte) × List (Nat × Nat))} (hf : ∀ a0 a1, Keep (f a0 a1)) : Keep (Rd.rowsOut t v rows f) := by
  unfold Rd.rowsOut
  repeat' first
    | with_reducible assumption
    | with_reducible apply keep_Rd_storeAll
    | with_reducible apply keep_Rd_putCars
    | with_reducible apply hf
    | with_reducible apply Good.foldl
    | with_reducible apply Good.foldl2
    | with_reducible apply Good.foldl1
    | with_reducible apply Good.ite
    | (intro _)
    | dsimp only
    | with_reducible apply Keep.stopId
    | with_reducible apply Keep.partBind
    | with_reducible apply Keep.bind
    | with_reducible apply Keep.pure
    | with_reducible apply Keep.onPart
    | with_reducible apply Keep.who
    | with_reducible apply Keep.fault
    | with_reducible apply Keep.addrFault
    | with_reducible apply Keep.need
    | with_reducible apply Keep.foldlM
    | with_reducible apply Keep.forM
    | with_reducible apply Keep.mapM
    | with_reducible apply Keep.map
    | with_reducible apply Keep.discard
    | with_reducible apply Keep.ite
    | with_reducible apply Keep.stop
    | split

theorem keep_Rd_gemmBlock {t : Task} {v : JTask} : Keep (Rd.gemmBlock t v) := by
  unfold Rd.gemmBlock
  repeat' first
    | with_reducible assumption
    | with_reducible apply keep_Rd_weights
    | with_reducible apply keep_Rd_count
    | with_reducible apply keep_Rd_mArr
    | with_reducible apply keep_Rd_rowsOut
    | with_reducible apply keep_Rd_rowExp
    | with_reducible apply keep_Rd_row
    | with_reducible apply keep_Rd_seg
    | with_reducible apply keep_Rd_outToken
    | with_reducible apply keep_Rd_blocks
    | with_reducible apply Good.foldl
    | with_reducible apply Good.foldl2
    | with_reducible apply Good.foldl1
    | with_reducible apply Good.ite
    | (intro _)
    | dsimp only
    | with_reducible apply Keep.stopId
    | with_reducible apply Keep.partBind
    | with_reducible apply Keep.bind
    | with_reducible apply Keep.pure
    | with_reducible apply Keep.onPart
    | with_reducible apply Keep.who
    | with_reducible apply Keep.fault
    | with_reducible apply Keep.addrFault
    | with_reducible apply Keep.need
    | with_reducible apply Keep.foldlM
    | with_reducible apply Keep.forM
    | with_reducible apply Keep.mapM
    | with_reducible apply Keep.map
    | with_reducible apply Keep.discard
    | with_reducible apply Keep.ite
    | with_reducible apply Keep.stop
    | split

theorem keep_Rd_aaBlock {t : Task} {v : JTask} : Keep (Rd.aaBlock t v) := by
  unfold Rd.aaBlock
  repeat' first
    | with_reducible assumption
    | with_reducible apply keep_Rd_blocks
    | with_reducible apply keep_Rd_mArr
    | with_reducible apply keep_Rd_rowExp
    | with_reducible apply keep_Rd_row
    | with_reducible apply keep_Rd_rowsOut
    | with_reducible apply keep_Rd_seg
    | with_reducible apply keep_Rd_outToken
    | with_reducible apply keep_Rd_count
    | with_reducible apply Good.ite
    | (intro _)
    | dsimp only
    | with_reducible apply Keep.stopId
    | with_reducible apply Keep.partBind
    | with_reducible apply Keep.bind
    | with_reducible apply Keep.pure
    | with_reducible apply Keep.onPart
    | with_reducible apply Keep.who
    | with_reducible apply Keep.fault
    | with_reducible apply Keep.addrFault
    | with_reducible apply Keep.need
    | with_reducible apply Keep.foldlM
    | with_reducible apply Keep.forM
    | with_reducible apply Keep.mapM
    | with_reducible apply Keep.map
    | with_reducible apply Keep.discard
    | with_reducible apply Keep.ite
    | with_reducible apply Keep.stop
    | split

theorem keep_Rd_scores {t : Task} {v : JTask} {r h : Nat} {k : Int} {x : List Num.XVal} {keys : List (Int × List Num.XVal)} : Keep (Rd.scores t v r h k x keys) := by
  unfold Rd.scores
  repeat' first
    | with_reducible assumption
    | with_reducible apply keep_Rd_seg
    | with_reducible apply keep_Rd_count
    | with_reducible apply Good.ite
    | (intro _)
    | dsimp only
    | with_reducible apply Keep.stopId
    | with_reducible apply Keep.partBind
    | with_reducible apply Keep.bind
    | with_reducible apply Keep.pure
    | with_reducible apply Keep.onPart
    | with_reducible apply Keep.who
    | with_reducible apply Keep.fault
    | with_reducible apply Keep.addrFault
    | with_reducible apply Keep.need
    | with_reducible apply Keep.foldlM
    | with_reducible apply Keep.forM
    | with_reducible apply Keep.mapM
    | with_reducible apply Keep.map
    | with_reducible apply Keep.discard
    | with_reducible apply Keep.ite
    | with_reducible apply Keep.stop
    | split

theorem keep_Rd_cache {t : Task} {v : JTask} {i n hk l : Nat} : Keep (Rd.cache t v i n hk l) := by
  unfold Rd.cache
  repeat' first
    | with_reducible assumption
    | with_reducible apply keep_Rd_raced
    | with_reducible apply keep_Rd_rowExp
    | with_reducible apply keep_Rd_decode
    | with_reducible apply Good.ite
    | (intro _)
    | dsimp only
    | with_reducible apply Keep.stopId
    | with_reducible apply Keep.partBind
    | with_reducible apply Keep.bind
    | with_reducible apply Keep.pure
    | with_reducible apply Keep.onPart
    | with_reducible apply Keep.who
    | with_reducible apply Keep.fault
    | with_reducible apply Keep.addrFault
    | with_reducible apply Keep.need
    | with_reducible apply Keep.foldlM
    | with_reducible apply Keep.forM
    | with_reducible apply Keep.mapM
    | with_reducible apply Keep.map
    | with_reducible apply Keep.discard
    | with_reducible apply Keep.ite
    | with_reducible apply Keep.stop
    | split

theorem keep_Rd_attend {t : Task} {v : JTask} {ms : List Int} {n h u : Nat} {i : Nat} {ks vs : List (Int × List Num.XVal)} : Keep (Rd.attend t v ms n h u i ks vs) := by
  unfold Rd.attend
  repeat' first
    | with_reducible assumption
    | with_reducible apply keep_Rd_rowExp
    | with_reducible apply keep_Rd_decode
    | with_reducible apply keep_Rd_codes
    | with_reducible apply keep_Rd_scores
    | with_reducible apply keep_Rd_count
    | with_reducible apply keep_Rd_seg
    | with_reducible apply Good.ite
    | (intro _)
    | dsimp only
    | with_reducible apply Keep.stopId
    | with_reducible apply Keep.partBind
    | with_reducible apply Keep.bind
    | with_reducible apply Keep.pure
    | with_reducible apply Keep.onPart
    | with_reducible apply Keep.who
    | with_reducible apply Keep.fault
    | with_reducible apply Keep.addrFault
    | with_reducible apply Keep.need
    | with_reducible apply Keep.foldlM
    | with_reducible apply Keep.forM
    | with_reducible apply Keep.mapM
    | with_reducible apply Keep.map
    | with_reducible apply Keep.discard
    | with_reducible apply Keep.ite
    | with_reducible apply Keep.stop
    | split

theorem keep_Rd_attnSeq {t : Task} {v : JTask} : Keep (Rd.attnSeq t v) := by
  unfold Rd.attnSeq
  repeat' first
    | with_reducible assumption
    | with_reducible apply keep_Rd_mArr
    | with_reducible apply keep_Rd_cache
    | with_reducible apply keep_Rd_rowsOut
    | with_reducible apply keep_Rd_count
    | with_reducible apply keep_Rd_attend
    | with_reducible apply keep_Rd_outToken
    | with_reducible apply Good.ite
    | (intro _)
    | dsimp only
    | with_reducible apply Keep.stopId
    | with_reducible apply Keep.partBind
    | with_reducible apply Keep.bind
    | with_reducible apply Keep.pure
    | with_reducible apply Keep.onPart
    | with_reducible apply Keep.who
    | with_reducible apply Keep.fault
    | with_reducible apply Keep.addrFault
    | with_reducible apply Keep.need
    | with_reducible apply Keep.foldlM
    | with_reducible apply Keep.forM
    | with_reducible apply Keep.mapM
    | with_reducible apply Keep.map
    | with_reducible apply Keep.discard
    | with_reducible apply Keep.ite
    | with_reducible apply Keep.stop
    | split

theorem keep_joinerTask {op j r e img : Nat} : Keep (Part.joinerTask op j r e img) := by
  unfold Part.joinerTask
  repeat' first
    | with_reducible assumption
    | with_reducible apply keep_Rd_blocks
    | with_reducible apply keep_Rd_opIs
    | with_reducible apply keep_Rd_control
    | with_reducible apply keep_Rd_seedIf
    | with_reducible apply keep_Rd_heldWord
    | with_reducible apply keep_Rd_seed
    | (simp only [good_mk]; with_reducible apply Good.core)
    | with_reducible apply Good.ite
    | (intro _)
    | dsimp only
    | with_reducible apply Keep.stopId
    | with_reducible apply Keep.partBind
    | with_reducible apply Keep.bind
    | with_reducible apply Keep.pure
    | with_reducible apply Keep.onPart
    | with_reducible apply Keep.who
    | with_reducible apply Keep.fault
    | with_reducible apply Keep.addrFault
    | with_reducible apply Keep.need
    | with_reducible apply Keep.foldlM
    | with_reducible apply Keep.forM
    | with_reducible apply Keep.mapM
    | with_reducible apply Keep.map
    | with_reducible apply Keep.discard
    | with_reducible apply Keep.ite
    | with_reducible apply Keep.stop
    | split

theorem keep_joinerIssue {p : Part} {op j r : Nat} {st : RdStat} {hw : Cells} (hg : Good p) : Good (Part.joinerIssue p op j r st hw) := by
  unfold Part.joinerIssue Part.joinerTask
  repeat' first
    | with_reducible assumption
    | with_reducible apply keep_Rd_blocks
    | with_reducible apply keep_Rd_control
    | with_reducible apply keep_Rd_heldWord
    | with_reducible apply keep_Rd_opIs
    | with_reducible apply keep_Rd_seed
    | with_reducible apply keep_Rd_seedIf
    | with_reducible apply keep_issue
    | (simp only [good_mk]; with_reducible apply Good.core)
    | with_reducible apply Good.ite
    | (intro _)
    | split
    | dsimp only
    | with_reducible apply Keep.stopId
    | with_reducible apply Keep.partBind
    | with_reducible apply Keep.bind
    | with_reducible apply Keep.pure
    | with_reducible apply Keep.onPart
    | with_reducible apply Keep.who
    | with_reducible apply Keep.fault
    | with_reducible apply Keep.addrFault
    | with_reducible apply Keep.need
    | with_reducible apply Keep.foldlM
    | with_reducible apply Keep.forM
    | with_reducible apply Keep.mapM
    | with_reducible apply Keep.map
    | with_reducible apply Keep.ite
    | with_reducible apply Keep.stop

theorem keep_joinerUnit {buf : Ecc} {t : Task} : Keep (Part.joinerUnit buf t) := by
  unfold Part.joinerUnit
  repeat' first
    | with_reducible assumption
    | with_reducible apply keep_Rd_buffer
    | with_reducible apply keep_Rd_gemmBlock
    | with_reducible apply keep_Rd_aaBlock
    | with_reducible apply keep_Rd_attnSeq
    | with_reducible apply keep_Rd_finish
    | (simp only [good_mk]; with_reducible apply Good.core)
    | with_reducible apply Good.ite
    | (intro _)
    | dsimp only
    | with_reducible apply Keep.stopId
    | with_reducible apply Keep.partBind
    | with_reducible apply Keep.bind
    | with_reducible apply Keep.pure
    | with_reducible apply Keep.onPart
    | with_reducible apply Keep.who
    | with_reducible apply Keep.fault
    | with_reducible apply Keep.addrFault
    | with_reducible apply Keep.need
    | with_reducible apply Keep.foldlM
    | with_reducible apply Keep.forM
    | with_reducible apply Keep.mapM
    | with_reducible apply Keep.map
    | with_reducible apply Keep.discard
    | with_reducible apply Keep.ite
    | with_reducible apply Keep.stop
    | split

end Sys2Proof.Safety
end

