-- ==== Sys2Proof/Laws/KeepBurnisher.lean ====
section
/-!
SUPPORT. Sys2Proof/Laws/KeepBurnisher.lean: every operation of Machine/Burnisher.lean keeps a part good (Safety.Good).
-/

set_option linter.unusedSimpArgs false

namespace Sys2Proof.Safety
open Sys2Proof Sys2Proof.Machine

theorem keep_Rd_normVec {a c : Nat} {d : F32} : Keep (Rd.normVec a c d) := by
  unfold Rd.normVec
  repeat' first
    | with_reducible assumption
    | with_reducible apply keep_Rd_bf16s
    | with_reducible apply Good.ite
    | (intro _)
    | dsimp only
    | with_reducible apply Keep.stopId
    | with_reducible apply Keep.partBind
    | with_reducible apply Keep.bind
    | with_reducible apply Keep.pure
    | with_reducible apply Keep.onPart
    | with_reducible apply Keep.who
    | with_reducible apply Keep.fault
    | with_reducible apply Keep.addrFault
    | with_reducible apply Keep.need
    | with_reducible apply Keep.foldlM
    | with_reducible apply Keep.forM
    | with_reducible apply Keep.mapM
    | with_reducible apply Keep.map
    | with_reducible apply Keep.discard
    | with_reducible apply Keep.ite
    | with_reducible apply Keep.stop
    | split

theorem keep_Rd_norm {v : BTask} {k : Int} {l : List Num.XVal} : Keep (Rd.norm v k l) := by
  unfold Rd.norm
  repeat' first
    | with_reducible assumption
    | with_reducible apply keep_Rd_normVec
    | with_reducible apply keep_Rd_table
    | with_reducible apply keep_Rd_f32
    | with_reducible apply keep_Rd_count
    | with_reducible apply keep_Rd_rsqrt
    | with_reducible apply Good.ite
    | (intro _)
    | dsimp only
    | with_reducible apply Keep.stopId
    | with_reducible apply Keep.partBind
    | with_reducible apply Keep.bind
    | with_reducible apply Keep.pure
    | with_reducible apply Keep.onPart
    | with_reducible apply Keep.who
    | with_reducible apply Keep.fault
    | with_reducible apply Keep.addrFault
    | with_reducible apply Keep.need
    | with_reducible apply Keep.foldlM
    | with_reducible apply Keep.forM
    | with_reducible apply Keep.mapM
    | with_reducible apply Keep.map
    | with_reducible apply Keep.discard
    | with_reducible apply Keep.ite
    | with_reducible apply Keep.stop
    | split

theorem keep_Rd_lutFloat {v : BTask} {tab : List Byte} {x : F32} : Keep (Rd.lutFloat v tab x) := by
  unfold Rd.lutFloat
  repeat' first
    | with_reducible assumption
    | with_reducible apply keep_Rd_f32
    | with_reducible apply Good.ite
    | (intro _)
    | dsimp only
    | with_reducible apply Keep.stopId
    | with_reducible apply Keep.partBind
    | with_reducible apply Keep.bind
    | with_reducible apply Keep.pure
    | with_reducible apply Keep.onPart
    | with_reducible apply Keep.who
    | with_reducible apply Keep.fault
    | with_reducible apply Keep.addrFault
    | with_reducible apply Keep.need
    | with_reducible apply Keep.foldlM
    | with_reducible apply Keep.forM
    | with_reducible apply Keep.mapM
    | with_reducible apply Keep.map
    | with_reducible apply Keep.discard
    | with_reducible apply Keep.ite
    | with_reducible apply Keep.stop
    | split

theorem keep_Rd_fillRow {t : Task} {v : BTask} {r : Nat} : Keep (Rd.fillRow t v r) := by
  unfold Rd.fillRow
  repeat' first
    | with_reducible assumption
    | with_reducible apply keep_Rd_seed
    | with_reducible apply keep_Rd_f32
    | with_reducible apply Good.ite
    | (intro _)
    | dsimp only
    | with_reducible apply Keep.stopId
    | with_reducible apply Keep.partBind
    | with_reducible apply Keep.bind
    | with_reducible apply Keep.pure
    | with_reducible apply Keep.onPart
    | with_reducible apply Keep.who
    | with_reducible apply Keep.fault
    | with_reducible apply Keep.addrFault
    | with_reducible apply Keep.need
    | with_reducible apply Keep.foldlM
    | with_reducible apply Keep.forM
    | with_reducible apply Keep.mapM
    | with_reducible apply Keep.map
    | with_reducible apply Keep.discard
    | with_reducible apply Keep.ite
    | with_reducible apply Keep.stop
    | split

theorem keep_Rd_burnRow {t : Task} {v : BTask} {r : Nat} {ms : List Int} : Keep (Rd.burnRow t v r ms) := by
  unfold Rd.burnRow
  repeat' first
    | with_reducible assumption
    | with_reducible apply keep_Rd_fillRow
    | with_reducible apply keep_Rd_rowExp
    | with_reducible apply keep_Rd_row
    | with_reducible apply keep_Rd_count
    | with_reducible apply keep_Rd_seed
    | with_reducible apply keep_Rd_operand
    | with_reducible apply keep_Rd_table
    | with_reducible apply keep_Rd_lutFloat
    | with_reducible apply keep_Rd_decode
    | with_reducible apply keep_Rd_norm
    | (simp only [good_mk]; with_reducible apply Good.core)
    | with_reducible apply Good.ite
    | (intro _)
    | dsimp only
    | with_reducible apply Keep.stopId
    | with_reducible apply Keep.partBind
    | with_reducible apply Keep.bind
    | with_reducible apply Keep.pure
    | with_reducible apply Keep.onPart
    | with_reducible apply Keep.who
    | with_reducible apply Keep.fault
    | with_reducible apply Keep.addrFault
    | with_reducible apply Keep.need
    | with_reducible apply Keep.foldlM
    | with_reducible apply Keep.forM
    | with_reducible apply Keep.mapM
    | with_reducible apply Keep.map
    | with_reducible apply Keep.discard
    | with_reducible apply Keep.ite
    | with_reducible apply Keep.stop
    | split

theorem keep_Rd_copyRow {v : BTask} {r : Nat} : Keep (Rd.copyRow v r) := by
  unfold Rd.copyRow
  repeat' first
    | with_reducible assumption
    | with_reducible apply keep_Rd_operand
    | with_reducible apply keep_Rd_count
    | with_reducible apply keep_Rd_raced
    | with_reducible apply keep_Rd_table
    | with_reducible apply keep_Rd_codes
    | with_reducible apply Good.ite
    | (intro _)
    | dsimp only
    | with_reducible apply Keep.stopId
    | with_reducible apply Keep.partBind
    | with_reducible apply Keep.bind
    | with_reducible apply Keep.pure
    | with_reducible apply Keep.onPart
    | with_reducible apply Keep.who
    | with_reducible apply Keep.fault
    | with_reducible apply Keep.addrFault
    | with_reducible apply Keep.need
    | with_reducible apply Keep.foldlM
    | with_reducible apply Keep.forM
    | with_reducible apply Keep.mapM
    | with_reducible apply Keep.map
    | with_reducible apply Keep.discard
    | with_reducible apply Keep.ite
    | with_reducible apply Keep.stop
    | split

theorem keep_Rd_burnUnit {t : Task} {v : BTask} {r : Nat} : Keep (Rd.burnUnit t v r) := by
  unfold Rd.burnUnit
  repeat' first
    | with_reducible assumption
    | with_reducible apply keep_place
    | with_reducible apply keep_Rd_copyRow
    | with_reducible apply keep_Rd_storeAll
    | with_reducible apply keep_Rd_putCars
    | with_reducible apply keep_Rd_mArr
    | with_reducible apply keep_Rd_burnRow
    | with_reducible apply keep_Rd_emit
    | with_reducible apply keep_Rd_count
    | with_reducible apply Good.ite
    | (intro _)
    | dsimp only
    | with_reducible apply Keep.stopId
    | with_reducible apply Keep.partBind
    | with_reducible apply Keep.bind
    | with_reducible apply Keep.pure
    | with_reducible apply Keep.onPart
    | with_reducible apply Keep.who
    | with_reducible apply Keep.fault
    | with_reducible apply Keep.addrFault
    | with_reducible apply Keep.need
    | with_reducible apply Keep.foldlM
    | with_reducible apply Keep.forM
    | with_reducible apply Keep.mapM
    | with_reducible apply Keep.map
    | with_reducible apply Keep.discard
    | with_reducible apply Keep.ite
    | with_reducible apply Keep.stop
    | split

theorem keep_burnTask {op j r img : Nat} : Keep (Part.burnTask op j r img) := by
  unfold Part.burnTask
  repeat' first
    | with_reducible assumption
    | with_reducible apply keep_Rd_blocks
    | with_reducible apply keep_Rd_opIs
    | with_reducible apply keep_Rd_seedIf
    | with_reducible apply keep_Rd_heldWord
    | with_reducible apply keep_Rd_seed
    | (simp only [good_mk]; with_reducible apply Good.core)
    | with_reducible apply Good.ite
    | (intro _)
    | dsimp only
    | with_reducible apply Keep.stopId
    | with_reducible apply Keep.partBind
    | with_reducible apply Keep.bind
    | with_reducible apply Keep.pure
    | with_reducible apply Keep.onPart
    | with_reducible apply Keep.who
    | with_reducible apply Keep.fault
    | with_reducible apply Keep.addrFault
    | with_reducible apply Keep.need
    | with_reducible apply Keep.foldlM
    | with_reducible apply Keep.forM
    | with_reducible apply Keep.mapM
    | with_reducible apply Keep.map
    | with_reducible apply Keep.discard
    | with_reducible apply Keep.ite
    | with_reducible apply Keep.stop
    | split

theorem keep_burnIssue {p : Part} {op j r : Nat} {st : RdStat} {hw : Cells} (hg : Good p) : Good (Part.burnIssue p op j r st hw) := by
  unfold Part.burnIssue Part.burnTask
  repeat' first
    | with_reducible assumption
    | with_reducible apply keep_Rd_blocks
    | with_reducible apply keep_Rd_heldWord
    | with_reducible apply keep_Rd_opIs
    | with_reducible apply keep_Rd_seed
    | with_reducible apply keep_Rd_seedIf
    | with_reducible apply keep_issue
    | (simp only [good_mk]; with_reducible apply Good.core)
    | with_reducible apply Good.ite
    | (intro _)
    | split
    | dsimp only
    | with_reducible apply Keep.stopId
    | with_reducible apply Keep.partBind
    | with_reducible apply Keep.bind
    | with_reducible apply Keep.pure
    | with_reducible apply Keep.onPart
    | with_reducible apply Keep.who
    | with_reducible apply Keep.fault
    | with_reducible apply Keep.addrFault
    | with_reducible apply Keep.need
    | with_reducible apply Keep.foldlM
    | with_reducible apply Keep.forM
    | with_reducible apply Keep.mapM
    | with_reducible apply Keep.map
    | with_reducible apply Keep.ite
    | with_reducible apply Keep.stop

theorem keep_burnisherUnit {buf : Ecc} {t : Task} : Keep (Part.burnisherUnit buf t) := by
  unfold Part.burnisherUnit
  repeat' first
    | with_reducible assumption
    | with_reducible apply keep_Rd_buffer
    | with_reducible apply keep_Rd_burnUnit
    | with_reducible apply keep_Rd_finish
    | with_reducible apply keep_Rd_store
    | (simp only [good_mk]; with_reducible apply Good.core)
    | with_reducible apply Good.ite
    | (intro _)
    | dsimp only
    | with_reducible apply Keep.stopId
    | with_reducible apply Keep.partBind
    | with_reducible apply Keep.bind
    | with_reducible apply Keep.pure
    | with_reducible apply Keep.onPart
    | with_reducible apply Keep.who
    | with_reducible apply Keep.fault
    | with_reducible apply Keep.addrFault
    | with_reducible apply Keep.need
    | with_reducible apply Keep.foldlM
    | with_reducible apply Keep.forM
    | with_reducible apply Keep.mapM
    | with_reducible apply Keep.map
    | with_reducible apply Keep.discard
    | with_reducible apply Keep.ite
    | with_reducible apply Keep.stop
    | split

end Sys2Proof.Safety
end

