-- ==== Sys2Proof/Laws/KeepCarriers.lean ====
section
/-!
SUPPORT. Sys2Proof/Laws/KeepCarriers.lean: every operation of Machine/Carriers.lean keeps a part good (Safety.Good).
-/

set_option linter.unusedSimpArgs false

namespace Sys2Proof.Safety
open Sys2Proof Sys2Proof.Machine

theorem keep_Rd_blockList {a : Nat} : Keep (Rd.blockList a) := by
  unfold Rd.blockList
  repeat' first
    | with_reducible assumption
    | with_reducible apply keep_Rd_controlNat
    | with_reducible apply keep_Rd_control
    | with_reducible apply Good.ite
    | (intro _)
    | dsimp only
    | with_reducible apply Keep.stopId
    | with_reducible apply Keep.partBind
    | with_reducible apply Keep.bind
    | with_reducible apply Keep.pure
    | with_reducible apply Keep.onPart
    | with_reducible apply Keep.who
    | with_reducible apply Keep.fault
    | with_reducible apply Keep.addrFault
    | with_reducible apply Keep.need
    | with_reducible apply Keep.foldlM
    | with_reducible apply Keep.forM
    | with_reducible apply Keep.mapM
    | with_reducible apply Keep.map
    | with_reducible apply Keep.discard
    | with_reducible apply Keep.ite
    | with_reducible apply Keep.stop
    | split

theorem keep_Rd_regionsOk {desc : List Nat} : Keep (Rd.regionsOk desc) := by
  unfold Rd.regionsOk
  repeat' first
    | with_reducible assumption
    | with_reducible apply Good.ite
    | (intro _)
    | dsimp only
    | with_reducible apply Keep.stopId
    | with_reducible apply Keep.partBind
    | with_reducible apply Keep.bind
    | with_reducible apply Keep.pure
    | with_reducible apply Keep.onPart
    | with_reducible apply Keep.who
    | with_reducible apply Keep.fault
    | with_reducible apply Keep.addrFault
    | with_reducible apply Keep.need
    | with_reducible apply Keep.foldlM
    | with_reducible apply Keep.forM
    | with_reducible apply Keep.mapM
    | with_reducible apply Keep.map
    | with_reducible apply Keep.discard
    | with_reducible apply Keep.ite
    | with_reducible apply Keep.stop
    | split

theorem keep_Rd_sharedOk {desc : List Nat} : Keep (Rd.sharedOk desc) := by
  unfold Rd.sharedOk
  repeat' first
    | with_reducible assumption
    | with_reducible apply Good.ite
    | (intro _)
    | dsimp only
    | with_reducible apply Keep.stopId
    | with_reducible apply Keep.partBind
    | with_reducible apply Keep.bind
    | with_reducible apply Keep.pure
    | with_reducible apply Keep.onPart
    | with_reducible apply Keep.who
    | with_reducible apply Keep.fault
    | with_reducible apply Keep.addrFault
    | with_reducible apply Keep.need
    | with_reducible apply Keep.foldlM
    | with_reducible apply Keep.forM
    | with_reducible apply Keep.mapM
    | with_reducible apply Keep.map
    | with_reducible apply Keep.discard
    | with_reducible apply Keep.ite
    | with_reducible apply Keep.stop
    | split

theorem keep_alsoOn {p : Part} {es : List Nat} {t : Task} (hg : Good p) : Good (Part.alsoOn p es t) := by
  unfold Part.alsoOn
  repeat' first
    | with_reducible assumption
    | with_reducible apply Good.foldl
    | with_reducible apply Good.foldl2
    | with_reducible apply Good.foldl1
    | (simp only [good_mk]; with_reducible apply Good.core)
    | with_reducible apply Good.ite
    | (intro _)
    | split
    | dsimp only

theorem keep_park {p : Part} {k : Nat} {desc : List Nat} (hg : Good p) : Good (Part.park p k desc) := by
  unfold Part.park
  repeat' first
    | with_reducible assumption
    | (simp only [good_mk]; with_reducible apply Good.core)
    | with_reducible apply Good.ite
    | (intro _)
    | split
    | dsimp only

theorem keep_resumeCarrier {p : Part} {x : Job} {es : List Nat} {t : Task} {desc : List Nat} (hg : Good p) : Good (Part.resumeCarrier p x es t desc) := by
  unfold Part.resumeCarrier
  repeat' first
    | with_reducible assumption
    | with_reducible apply keep_resumeTask
    | with_reducible apply keep_alsoOn
    | (simp only [good_mk]; with_reducible apply Good.core)
    | with_reducible apply Good.ite
    | (intro _)
    | split
    | dsimp only

theorem keep_startCarrier {p : Part} {x : Job} {es : List Nat} {t : Task} {desc : List Nat} {rs : List Range} (hg : Good p) : Good (Part.startCarrier p x es t desc rs) := by
  unfold Part.startCarrier
  repeat' first
    | with_reducible assumption
    | with_reducible apply keep_install
    | with_reducible apply keep_alsoOn
    | with_reducible apply keep_reserve
    | with_reducible apply Good.foldl
    | with_reducible apply Good.foldl2
    | with_reducible apply Good.foldl1
    | (simp only [good_mk]; with_reducible apply Good.core)
    | with_reducible apply Good.ite
    | (intro _)
    | split
    | dsimp only

theorem keep_carrierTake {x : Job} {y : Rec} {j r : Nat} {old : Option Task} : Keep (Part.carrierTake x y j r old) := by
  unfold Part.carrierTake
  repeat' first
    | with_reducible assumption
    | with_reducible apply keep_Rd_blockList
    | with_reducible apply keep_Rd_sharedOk
    | with_reducible apply keep_park
    | with_reducible apply keep_resumeCarrier
    | with_reducible apply keep_Rd_regionsOk
    | with_reducible apply keep_Rd_writeList
    | with_reducible apply keep_Rd_armWait
    | with_reducible apply keep_startCarrier
    | (simp only [good_mk]; with_reducible apply Good.core)
    | with_reducible apply Good.ite
    | (intro _)
    | dsimp only
    | with_reducible apply Keep.stopId
    | with_reducible apply Keep.partBind
    | with_reducible apply Keep.bind
    | with_reducible apply Keep.pure
    | with_reducible apply Keep.onPart
    | with_reducible apply Keep.who
    | with_reducible apply Keep.fault
    | with_reducible apply Keep.addrFault
    | with_reducible apply Keep.need
    | with_reducible apply Keep.foldlM
    | with_reducible apply Keep.forM
    | with_reducible apply Keep.mapM
    | with_reducible apply Keep.map
    | with_reducible apply Keep.discard
    | with_reducible apply Keep.ite
    | with_reducible apply Keep.stop
    | split

theorem keep_carrierOn {p : Part} {x : Job} {y : Rec} {j r e : Nat} {st : RdStat} (hg : Good p) : Good (Part.carrierOn p x y j r e st) := by
  unfold Part.carrierOn
  repeat' first
    | with_reducible assumption
    | with_reducible apply keep_engage
    | with_reducible apply keep_carrierTake
    | with_reducible apply Good.ite
    | (intro _)
    | split
    | dsimp only

theorem keep_carrierIssue {p : Part} {j r : Nat} {st : RdStat} {hw : Cells} (hg : Good p) : Good (Part.carrierIssue p j r st hw) := by
  unfold Part.carrierIssue
  repeat' first
    | with_reducible assumption
    | with_reducible apply keep_hostSees
    | with_reducible apply keep_carrierOn
    | with_reducible apply Good.ite
    | (intro _)
    | dsimp only
    | with_reducible apply Keep.stopId
    | with_reducible apply Keep.partBind
    | with_reducible apply Keep.bind
    | with_reducible apply Keep.pure
    | with_reducible apply Keep.onPart
    | with_reducible apply Keep.who
    | with_reducible apply Keep.fault
    | with_reducible apply Keep.addrFault
    | with_reducible apply Keep.need
    | with_reducible apply Keep.foldlM
    | with_reducible apply Keep.forM
    | with_reducible apply Keep.mapM
    | with_reducible apply Keep.map
    | with_reducible apply Keep.discard
    | with_reducible apply Keep.ite
    | with_reducible apply Keep.stop
    | split

theorem keep_Rd_flush {t : Task} {l k o : Nat} {wh bad : Bool} : Keep (Rd.flush t l wh bad k o) := by
  induction k generalizing t o with
  | zero => exact Keep.pure _
  | succ k ih =>
    unfold Rd.flush
    repeat' first
      | with_reducible assumption
      | with_reducible apply ih
      | with_reducible apply keep_mapTask
      | with_reducible apply keep_Rd_canWrite
      | with_reducible apply keep_Rd_write
      | with_reducible apply Keep.stopId
      | with_reducible apply Keep.partBind
      | with_reducible apply Keep.bind
      | with_reducible apply Keep.pure
      | with_reducible apply Keep.onPart
      | with_reducible apply Keep.who
      | with_reducible apply Keep.fault
      | with_reducible apply Keep.addrFault
      | with_reducible apply Keep.need
      | with_reducible apply Keep.foldlM
      | with_reducible apply Keep.forM
      | with_reducible apply Keep.mapM
      | with_reducible apply Keep.map
      | with_reducible apply Keep.ite
      | with_reducible apply Keep.stop
      | (intro _)
      | split
      | dsimp only

theorem keep_Rd_readMore {t : Task} {a n : Nat} : Keep (Rd.readMore t a n) := by
  unfold Rd.readMore
  repeat' first
    | with_reducible assumption
    | with_reducible apply keep_readAgain
    | with_reducible apply Good.ite
    | (intro _)
    | dsimp only
    | with_reducible apply Keep.stopId
    | with_reducible apply Keep.partBind
    | with_reducible apply Keep.bind
    | with_reducible apply Keep.pure
    | with_reducible apply Keep.onPart
    | with_reducible apply Keep.who
    | with_reducible apply Keep.fault
    | with_reducible apply Keep.addrFault
    | with_reducible apply Keep.need
    | with_reducible apply Keep.foldlM
    | with_reducible apply Keep.forM
    | with_reducible apply Keep.mapM
    | with_reducible apply Keep.map
    | with_reducible apply Keep.discard
    | with_reducible apply Keep.ite
    | with_reducible apply Keep.stop
    | split

theorem keep_Rd_sourceUnit {t : Task} : Keep (Rd.sourceUnit t) := by
  unfold Rd.sourceUnit
  repeat' first
    | with_reducible assumption
    | with_reducible apply keep_Rd_readEach
    | with_reducible apply keep_frees
    | with_reducible apply keep_Rd_readMore
    | with_reducible apply Good.ite
    | (intro _)
    | dsimp only
    | with_reducible apply Keep.stopId
    | with_reducible apply Keep.partBind
    | with_reducible apply Keep.bind
    | with_reducible apply Keep.pure
    | with_reducible apply Keep.onPart
    | with_reducible apply Keep.who
    | with_reducible apply Keep.fault
    | with_reducible apply Keep.addrFault
    | with_reducible apply Keep.need
    | with_reducible apply Keep.foldlM
    | with_reducible apply Keep.forM
    | with_reducible apply Keep.mapM
    | with_reducible apply Keep.map
    | with_reducible apply Keep.discard
    | with_reducible apply Keep.ite
    | with_reducible apply Keep.stop
    | split

theorem keep_carrierStep {t : Task} {key : Nat} : Keep (Part.carrierStep t key) := by
  unfold Part.carrierStep
  repeat' first
    | with_reducible assumption
    | with_reducible apply keep_taskGate
    | with_reducible apply keep_Rd_sourceUnit
    | with_reducible apply keep_mapTask
    | with_reducible apply keep_flush
    | with_reducible apply keep_Rd_flush
    | with_reducible apply keep_bumpCarrier
    | with_reducible apply keep_releaseFills
    | exact keep_taskGate ‹_›
    | (simp only [good_mk]; with_reducible apply Good.core)
    | with_reducible apply Good.ite
    | (intro _)
    | dsimp only
    | with_reducible apply Keep.stopId
    | with_reducible apply Keep.partBind
    | with_reducible apply Keep.bind
    | with_reducible apply Keep.pure
    | with_reducible apply Keep.onPart
    | with_reducible apply Keep.who
    | with_reducible apply Keep.fault
    | with_reducible apply Keep.addrFault
    | with_reducible apply Keep.need
    | with_reducible apply Keep.foldlM
    | with_reducible apply Keep.forM
    | with_reducible apply Keep.mapM
    | with_reducible apply Keep.map
    | with_reducible apply Keep.discard
    | with_reducible apply Keep.ite
    | with_reducible apply Keep.stop
    | split

theorem keep_carrierDataArrive {p : Part} {e : Nat} {st : RdStat} {ecc : Ecc} {cause : StallCause} {n : Nat} {hw : Cells} (hg : Good p) : Good (Part.carrierDataArrive p e st ecc cause n hw) := by
  unfold Part.carrierDataArrive
  repeat' first
    | with_reducible assumption
    | with_reducible apply keep_hostSees
    | with_reducible apply keep_stall
    | with_reducible apply keep_engage
    | with_reducible apply keep_carrierStep
    | with_reducible apply Good.ite
    | (intro _)
    | dsimp only
    | with_reducible apply Keep.stopId
    | with_reducible apply Keep.partBind
    | with_reducible apply Keep.bind
    | with_reducible apply Keep.pure
    | with_reducible apply Keep.onPart
    | with_reducible apply Keep.who
    | with_reducible apply Keep.fault
    | with_reducible apply Keep.addrFault
    | with_reducible apply Keep.need
    | with_reducible apply Keep.foldlM
    | with_reducible apply Keep.forM
    | with_reducible apply Keep.mapM
    | with_reducible apply Keep.map
    | with_reducible apply Keep.discard
    | with_reducible apply Keep.ite
    | with_reducible apply Keep.stop
    | split

theorem keep_returnRows {p : Part} {t : Task} (hg : Good p) : Good (Part.returnRows p t) := by
  unfold Part.returnRows
  repeat' first
    | with_reducible assumption
    | with_reducible apply keep_returnPos
    | with_reducible apply Good.foldl
    | with_reducible apply Good.foldl2
    | with_reducible apply Good.foldl1
    | with_reducible apply Good.ite
    | (intro _)
    | split
    | dsimp only

theorem keep_transferComplete {p : Part} {e : Nat} (hg : Good p) : Good (Part.transferComplete p e) := by
  unfold Part.transferComplete
  repeat' first
    | with_reducible assumption
    | with_reducible apply keep_bumpCarrier
    | with_reducible apply keep_returnRows
    | with_reducible apply keep_completeRec
    | with_reducible apply Good.foldl
    | with_reducible apply Good.foldl2
    | with_reducible apply Good.foldl1
    | (simp only [good_mk]; with_reducible apply Good.core)
    | with_reducible apply Good.ite
    | (intro _)
    | split
    | dsimp only

theorem keep_stopTask {p : Part} {t : Task} {on : Option Await} (hg : Good p) : Good (Part.stopTask p t on) := by
  unfold Part.stopTask
  repeat' first
    | with_reducible assumption
    | with_reducible apply keep_setRec
    | (simp only [good_mk]; with_reducible apply Good.core)
    | with_reducible apply Good.ite
    | (intro _)
    | split
    | dsimp only

end Sys2Proof.Safety
end

