-- ==== Sys2Proof/Laws/KeepPlaner.lean ====
section
/-!
SUPPORT. Sys2Proof/Laws/KeepPlaner.lean: every operation of Machine/Planer.lean keeps a part good (Safety.Good).
-/

set_option linter.unusedSimpArgs false

namespace Sys2Proof.Safety
open Sys2Proof Sys2Proof.Machine

theorem keep_Rd_inputAt {v : PTask} {n h : Nat} {w : Int} : Keep (Rd.inputAt v n h w) := by
  unfold Rd.inputAt
  repeat' first
    | with_reducible assumption
    | with_reducible apply keep_Rd_codes
    | with_reducible apply Good.ite
    | (intro _)
    | dsimp only
    | with_reducible apply Keep.stopId
    | with_reducible apply Keep.partBind
    | with_reducible apply Keep.bind
    | with_reducible apply Keep.pure
    | with_reducible apply Keep.onPart
    | with_reducible apply Keep.who
    | with_reducible apply Keep.fault
    | with_reducible apply Keep.addrFault
    | with_reducible apply Keep.need
    | with_reducible apply Keep.foldlM
    | with_reducible apply Keep.forM
    | with_reducible apply Keep.mapM
    | with_reducible apply Keep.map
    | with_reducible apply Keep.discard
    | with_reducible apply Keep.ite
    | with_reducible apply Keep.stop
    | split

theorem keep_Rd_load {t : Task} {v : PTask} {n a b : Nat} {m : Option Nat} : Keep (Rd.load t v n a b m) := by
  unfold Rd.load
  repeat' first
    | with_reducible assumption
    | with_reducible apply keep_Rd_inputAt
    | with_reducible apply keep_Rd_count
    | with_reducible apply Good.foldl
    | with_reducible apply Good.foldl2
    | with_reducible apply Good.foldl1
    | with_reducible apply Good.ite
    | (intro _)
    | dsimp only
    | with_reducible apply Keep.stopId
    | with_reducible apply Keep.partBind
    | with_reducible apply Keep.bind
    | with_reducible apply Keep.pure
    | with_reducible apply Keep.onPart
    | with_reducible apply Keep.who
    | with_reducible apply Keep.fault
    | with_reducible apply Keep.addrFault
    | with_reducible apply Keep.need
    | with_reducible apply Keep.foldlM
    | with_reducible apply Keep.forM
    | with_reducible apply Keep.mapM
    | with_reducible apply Keep.map
    | with_reducible apply Keep.discard
    | with_reducible apply Keep.ite
    | with_reducible apply Keep.stop
    | split

theorem keep_Rd_position {v : PTask} {ws : List Num.WVal} {ms : List Int} {k : Int} {img : Tab (List Num.XVal)} {oh ow : Nat} : Keep (Rd.position v ws ms k img oh ow) := by
  unfold Rd.position
  repeat' first
    | with_reducible assumption
    | with_reducible apply keep_ops
    | with_reducible apply keep_Rd_seg
    | with_reducible apply Good.ite
    | (intro _)
    | dsimp only
    | with_reducible apply Keep.stopId
    | with_reducible apply Keep.partBind
    | with_reducible apply Keep.bind
    | with_reducible apply Keep.pure
    | with_reducible apply Keep.onPart
    | with_reducible apply Keep.who
    | with_reducible apply Keep.fault
    | with_reducible apply Keep.addrFault
    | with_reducible apply Keep.need
    | with_reducible apply Keep.foldlM
    | with_reducible apply Keep.forM
    | with_reducible apply Keep.mapM
    | with_reducible apply Keep.map
    | with_reducible apply Keep.discard
    | with_reducible apply Keep.ite
    | with_reducible apply Keep.stop
    | split

theorem keep_Rd_regionPos {v : PTask} {t : Task} {n : Nat} : Keep (Rd.regionPos v t n) := by
  unfold Rd.regionPos
  repeat' first
    | with_reducible assumption
    | with_reducible apply keep_mapTask
    | with_reducible apply keep_reserve
    | (simp only [good_mk]; with_reducible apply Good.core)
    | with_reducible apply Good.ite
    | (intro _)
    | dsimp only
    | with_reducible apply Keep.stopId
    | with_reducible apply Keep.partBind
    | with_reducible apply Keep.bind
    | with_reducible apply Keep.pure
    | with_reducible apply Keep.onPart
    | with_reducible apply Keep.who
    | with_reducible apply Keep.fault
    | with_reducible apply Keep.addrFault
    | with_reducible apply Keep.need
    | with_reducible apply Keep.foldlM
    | with_reducible apply Keep.forM
    | with_reducible apply Keep.mapM
    | with_reducible apply Keep.map
    | with_reducible apply Keep.discard
    | with_reducible apply Keep.ite
    | with_reducible apply Keep.stop
    | split

theorem keep_Rd_positionExp {t : Task} {v : PTask} {n oh ow : Nat} : Keep (Rd.positionExp t v n oh ow) := by
  unfold Rd.positionExp
  repeat' first
    | with_reducible assumption
    | with_reducible apply keep_Rd_rowExp
    | with_reducible apply Good.ite
    | (intro _)
    | dsimp only
    | with_reducible apply Keep.stopId
    | with_reducible apply Keep.partBind
    | with_reducible apply Keep.bind
    | with_reducible apply Keep.pure
    | with_reducible apply Keep.onPart
    | with_reducible apply Keep.who
    | with_reducible apply Keep.fault
    | with_reducible apply Keep.addrFault
    | with_reducible apply Keep.need
    | with_reducible apply Keep.foldlM
    | with_reducible apply Keep.forM
    | with_reducible apply Keep.mapM
    | with_reducible apply Keep.map
    | with_reducible apply Keep.discard
    | with_reducible apply Keep.ite
    | with_reducible apply Keep.stop
    | split

theorem keep_Rd_results {t : Task} {v : PTask} {x : Tile} {raw : Tab (List Nat)} {cells : List (Nat × Nat)} : Keep (Rd.results t v x raw cells) := by
  unfold Rd.results
  repeat' first
    | with_reducible assumption
    | with_reducible apply keep_Rd_weights
    | with_reducible apply keep_Rd_count
    | with_reducible apply keep_Rd_mArr
    | with_reducible apply keep_Rd_positionExp
    | with_reducible apply keep_Rd_position
    | with_reducible apply keep_Rd_emit
    | with_reducible apply Good.foldl
    | with_reducible apply Good.foldl2
    | with_reducible apply Good.foldl1
    | with_reducible apply Good.ite
    | (intro _)
    | dsimp only
    | with_reducible apply Keep.stopId
    | with_reducible apply Keep.partBind
    | with_reducible apply Keep.bind
    | with_reducible apply Keep.pure
    | with_reducible apply Keep.onPart
    | with_reducible apply Keep.who
    | with_reducible apply Keep.fault
    | with_reducible apply Keep.addrFault
    | with_reducible apply Keep.need
    | with_reducible apply Keep.foldlM
    | with_reducible apply Keep.forM
    | with_reducible apply Keep.mapM
    | with_reducible apply Keep.map
    | with_reducible apply Keep.discard
    | with_reducible apply Keep.ite
    | with_reducible apply Keep.stop
    | split

theorem keep_Rd_offcutShared {t : Task} {v : PTask} : Keep (Rd.offcutShared t v) := by
  unfold Rd.offcutShared
  repeat' first
    | with_reducible assumption
    | with_reducible apply Good.ite
    | (intro _)
    | dsimp only
    | with_reducible apply Keep.stopId
    | with_reducible apply Keep.partBind
    | with_reducible apply Keep.bind
    | with_reducible apply Keep.pure
    | with_reducible apply Keep.onPart
    | with_reducible apply Keep.who
    | with_reducible apply Keep.fault
    | with_reducible apply Keep.addrFault
    | with_reducible apply Keep.need
    | with_reducible apply Keep.foldlM
    | with_reducible apply Keep.forM
    | with_reducible apply Keep.mapM
    | with_reducible apply Keep.map
    | with_reducible apply Keep.discard
    | with_reducible apply Keep.ite
    | with_reducible apply Keep.stop
    | split

theorem keep_Rd_freeCodes {l : List Nat} : Keep (Rd.freeCodes l) := by
  unfold Rd.freeCodes
  repeat' first
    | with_reducible assumption
    | with_reducible apply keep_free
    | with_reducible apply keep_Rd_free
    | with_reducible apply Good.ite
    | (intro _)
    | dsimp only
    | with_reducible apply Keep.stopId
    | with_reducible apply Keep.partBind
    | with_reducible apply Keep.bind
    | with_reducible apply Keep.pure
    | with_reducible apply Keep.onPart
    | with_reducible apply Keep.who
    | with_reducible apply Keep.fault
    | with_reducible apply Keep.addrFault
    | with_reducible apply Keep.need
    | with_reducible apply Keep.foldlM
    | with_reducible apply Keep.forM
    | with_reducible apply Keep.mapM
    | with_reducible apply Keep.map
    | with_reducible apply Keep.discard
    | with_reducible apply Keep.ite
    | with_reducible apply Keep.stop
    | split

theorem keep_Rd_tile {t : Task} {v : PTask} {x : Tile} : Keep (Rd.tile t v x) := by
  unfold Rd.tile
  repeat' first
    | with_reducible assumption
    | with_reducible apply keep_Rd_regionPos
    | with_reducible apply keep_Rd_load
    | with_reducible apply keep_Rd_results
    | with_reducible apply keep_Rd_offcutShared
    | with_reducible apply keep_Rd_freeCodes
    | with_reducible apply keep_Rd_storeAll
    | with_reducible apply keep_Rd_putCars
    | with_reducible apply keep_Rd_count
    | (simp only [good_mk]; with_reducible apply Good.core)
    | with_reducible apply Good.ite
    | (intro _)
    | dsimp only
    | with_reducible apply Keep.stopId
    | with_reducible apply Keep.partBind
    | with_reducible apply Keep.bind
    | with_reducible apply Keep.pure
    | with_reducible apply Keep.onPart
    | with_reducible apply Keep.who
    | with_reducible apply Keep.fault
    | with_reducible apply Keep.addrFault
    | with_reducible apply Keep.need
    | with_reducible apply Keep.foldlM
    | with_reducible apply Keep.forM
    | with_reducible apply Keep.mapM
    | with_reducible apply Keep.map
    | with_reducible apply Keep.discard
    | with_reducible apply Keep.ite
    | with_reducible apply Keep.stop
    | split

theorem keep_Rd_newOffcut {v : PTask} {t : Task} {n : Nat} : Keep (Rd.newOffcut v t n) := by
  unfold Rd.newOffcut
  repeat' first
    | with_reducible assumption
    | with_reducible apply keep_Rd_offcutShared
    | with_reducible apply keep_Rd_codes
    | with_reducible apply keep_Rd_freeBytes
    | with_reducible apply Good.ite
    | (intro _)
    | dsimp only
    | with_reducible apply Keep.stopId
    | with_reducible apply Keep.partBind
    | with_reducible apply Keep.bind
    | with_reducible apply Keep.pure
    | with_reducible apply Keep.onPart
    | with_reducible apply Keep.who
    | with_reducible apply Keep.fault
    | with_reducible apply Keep.addrFault
    | with_reducible apply Keep.need
    | with_reducible apply Keep.foldlM
    | with_reducible apply Keep.forM
    | with_reducible apply Keep.mapM
    | with_reducible apply Keep.map
    | with_reducible apply Keep.discard
    | with_reducible apply Keep.ite
    | with_reducible apply Keep.stop
    | split

theorem keep_planerTask {op j r img : Nat} : Keep (Part.planerTask op j r img) := by
  unfold Part.planerTask
  repeat' first
    | with_reducible assumption
    | with_reducible apply keep_Rd_blocks
    | with_reducible apply keep_Rd_opIs
    | with_reducible apply keep_Rd_control
    | with_reducible apply keep_Rd_seedIf
    | with_reducible apply keep_Rd_heldWord
    | with_reducible apply keep_Rd_seed
    | (simp only [good_mk]; with_reducible apply Good.core)
    | with_reducible apply Good.ite
    | (intro _)
    | dsimp only
    | with_reducible apply Keep.stopId
    | with_reducible apply Keep.partBind
    | with_reducible apply Keep.bind
    | with_reducible apply Keep.pure
    | with_reducible apply Keep.onPart
    | with_reducible apply Keep.who
    | with_reducible apply Keep.fault
    | with_reducible apply Keep.addrFault
    | with_reducible apply Keep.need
    | with_reducible apply Keep.foldlM
    | with_reducible apply Keep.forM
    | with_reducible apply Keep.mapM
    | with_reducible apply Keep.map
    | with_reducible apply Keep.discard
    | with_reducible apply Keep.ite
    | with_reducible apply Keep.stop
    | split

theorem keep_planerIssue {p : Part} {op j r : Nat} {st : RdStat} {hw : Cells} (hg : Good p) : Good (Part.planerIssue p op j r st hw) := by
  unfold Part.planerIssue Part.planerTask
  repeat' first
    | with_reducible assumption
    | with_reducible apply keep_Rd_blocks
    | with_reducible apply keep_Rd_control
    | with_reducible apply keep_Rd_heldWord
    | with_reducible apply keep_Rd_opIs
    | with_reducible apply keep_Rd_seed
    | with_reducible apply keep_Rd_seedIf
    | with_reducible apply keep_issue
    | (simp only [good_mk]; with_reducible apply Good.core)
    | with_reducible apply Good.ite
    | (intro _)
    | split
    | dsimp only
    | with_reducible apply Keep.stopId
    | with_reducible apply Keep.partBind
    | with_reducible apply Keep.bind
    | with_reducible apply Keep.pure
    | with_reducible apply Keep.onPart
    | with_reducible apply Keep.who
    | with_reducible apply Keep.fault
    | with_reducible apply Keep.addrFault
    | with_reducible apply Keep.need
    | with_reducible apply Keep.foldlM
    | with_reducible apply Keep.forM
    | with_reducible apply Keep.mapM
    | with_reducible apply Keep.map
    | with_reducible apply Keep.ite
    | with_reducible apply Keep.stop

theorem keep_planerUnit {buf : Ecc} {t : Task} : Keep (Part.planerUnit buf t) := by
  unfold Part.planerUnit
  repeat' first
    | with_reducible assumption
    | with_reducible apply keep_Rd_buffer
    | with_reducible apply keep_Rd_tile
    | with_reducible apply keep_Rd_storeAll
    | with_reducible apply keep_Rd_newOffcut
    | with_reducible apply keep_Rd_finish
    | (simp only [good_mk]; with_reducible apply Good.core)
    | with_reducible apply Good.ite
    | (intro _)
    | dsimp only
    | with_reducible apply Keep.stopId
    | with_reducible apply Keep.partBind
    | with_reducible apply Keep.bind
    | with_reducible apply Keep.pure
    | with_reducible apply Keep.onPart
    | with_reducible apply Keep.who
    | with_reducible apply Keep.fault
    | with_reducible apply Keep.addrFault
    | with_reducible apply Keep.need
    | with_reducible apply Keep.foldlM
    | with_reducible apply Keep.forM
    | with_reducible apply Keep.mapM
    | with_reducible apply Keep.map
    | with_reducible apply Keep.discard
    | with_reducible apply Keep.ite
    | with_reducible apply Keep.stop
    | split

end Sys2Proof.Safety
end

