-- ==== Sys2Proof/Laws/KeepEngines.lean ====
section
/-!
SUPPORT. Sys2Proof/Laws/KeepEngines.lean: every operation of Machine/Engines.lean keeps a part good (Safety.Good).
-/

set_option linter.unusedSimpArgs false

namespace Sys2Proof.Safety
open Sys2Proof Sys2Proof.Machine

theorem keep_operandArrive {p : Part} {cls : Cls} {e : Nat} {st : RdStat} {ecc buf : Ecc} {cause : StallCause} {n : Nat} {hw : Cells} (hg : Good p) : Good (Part.operandArrive p cls e st ecc buf cause n hw) := by
  unfold Part.operandArrive
  repeat' first
    | with_reducible assumption
    | with_reducible apply keep_runUnit
    | with_reducible apply keep_planerUnit
    | with_reducible apply keep_joinerUnit
    | with_reducible apply keep_burnisherUnit
    | with_reducible apply Good.ite
    | (intro _)
    | split
    | dsimp only

theorem keep_drainTask {p : Part} {id : Nat} (hg : Good p) : Good (Part.drainTask p id) := by
  unfold Part.drainTask
  repeat' first
    | with_reducible assumption
    | (simp only [good_mk]; with_reducible apply Good.core)
    | with_reducible apply Good.ite
    | (intro _)
    | split
    | dsimp only

theorem keep_batchSwitch {p : Part} {cls : Cls} {e : Nat} (hg : Good p) : Good (Part.batchSwitch p cls e) := by
  unfold Part.batchSwitch
  repeat' first
    | with_reducible assumption
    | with_reducible apply keep_bumpEng
    | with_reducible apply keep_drainTask
    | with_reducible apply keep_stopTask
    | with_reducible apply Good.ite
    | (intro _)
    | split
    | dsimp only

end Sys2Proof.Safety
end

