-- ==== Sys2Proof/Laws/KeepModelImage.lean ====
section
/-!
SUPPORT. Sys2Proof/Laws/KeepModelImage.lean: every operation of Machine/ModelImage.lean keeps a part good (Safety.Good).
-/

set_option linter.unusedSimpArgs false

namespace Sys2Proof.Safety
open Sys2Proof Sys2Proof.Machine

theorem keep_Rd_asGang {α : Type} {g : Nat} {m : Rd α} (hm : Keep m) : Keep (Rd.asGang g m) := ⟨fun _ s h => hm.out _ s h⟩

theorem keep_Rd_layer {image h n lutOff die row cab : Nat} {off : Nat} : Keep (Rd.layer image h n lutOff die row cab off) := by
  unfold Rd.layer
  repeat' first
    | with_reducible assumption
    | with_reducible apply keep_Rd_image
    | with_reducible apply keep_Rd_row
    | with_reducible apply keep_Rd_controlNat
    | with_reducible apply keep_Rd_mArr
    | with_reducible apply keep_Rd_control
    | with_reducible apply Good.ite
    | (intro _)
    | dsimp only
    | with_reducible apply Keep.stopId
    | with_reducible apply Keep.partBind
    | with_reducible apply Keep.bind
    | with_reducible apply Keep.pure
    | with_reducible apply Keep.onPart
    | with_reducible apply Keep.who
    | with_reducible apply Keep.fault
    | with_reducible apply Keep.addrFault
    | with_reducible apply Keep.need
    | with_reducible apply Keep.foldlM
    | with_reducible apply Keep.forM
    | with_reducible apply Keep.mapM
    | with_reducible apply Keep.map
    | with_reducible apply Keep.discard
    | with_reducible apply Keep.ite
    | with_reducible apply Keep.stop
    | split

theorem keep_Rd_image {image row g cab : Nat} : Keep (Rd.image image row g cab) := by
  unfold Rd.image
  repeat' first
    | with_reducible assumption
    | with_reducible apply keep_Rd_row
    | with_reducible apply keep_Rd_controlNat
    | with_reducible apply keep_Rd_layer
    | with_reducible apply Good.ite
    | (intro _)
    | dsimp only
    | with_reducible apply Keep.stopId
    | with_reducible apply Keep.partBind
    | with_reducible apply Keep.bind
    | with_reducible apply Keep.pure
    | with_reducible apply Keep.onPart
    | with_reducible apply Keep.who
    | with_reducible apply Keep.fault
    | with_reducible apply Keep.addrFault
    | with_reducible apply Keep.need
    | with_reducible apply Keep.foldlM
    | with_reducible apply Keep.forM
    | with_reducible apply Keep.mapM
    | with_reducible apply Keep.map
    | with_reducible apply Keep.discard
    | with_reducible apply Keep.ite
    | with_reducible apply Keep.stop
    | split

theorem keep_setGang {p : Part} {g : Nat} {x : Gang} (hg : Good p) : Good (Part.setGang p g x) := by
  unfold Part.setGang
  repeat' first
    | with_reducible assumption
    | (simp only [good_mk]; with_reducible apply Good.core)
    | with_reducible apply Good.ite
    | (intro _)
    | split
    | dsimp only

theorem keep_holdBanks {p : Part} {g : Nat} (hg : Good p) : Good (Part.holdBanks p g) := by
  unfold Part.holdBanks
  repeat' first
    | with_reducible assumption
    | with_reducible apply keep_wakeBank
    | with_reducible apply Good.foldl
    | with_reducible apply Good.foldl2
    | with_reducible apply Good.foldl1
    | (simp only [good_mk]; with_reducible apply Good.core)
    | with_reducible apply Good.ite
    | (intro _)
    | split
    | dsimp only

theorem keep_unbind {p : Part} {g : Nat} (hg : Good p) : Good (Part.unbind p g) := by
  unfold Part.unbind
  repeat' first
    | with_reducible assumption
    | with_reducible apply keep_setGang
    | (simp only [good_mk]; with_reducible apply Good.core)
    | with_reducible apply Good.ite
    | (intro _)
    | split
    | dsimp only

theorem keep_bindModel {p : Part} {g c b handle image row : Nat} {m : Nat × List Layer × Sched} (hg : Good p) : Good (Part.bindModel p g c b handle image row m) := by
  unfold Part.bindModel
  repeat' first
    | with_reducible assumption
    | with_reducible apply keep_Rd_image
    | with_reducible apply keep_Rd_row
    | with_reducible apply keep_setGang
    | with_reducible apply keep_Rd_layer
    | with_reducible apply keep_holdBanks
    | (simp only [good_mk]; with_reducible apply Good.core)
    | with_reducible apply Good.ite
    | (intro _)
    | split
    | dsimp only

end Sys2Proof.Safety
end

