-- ==== Sys2Proof/Laws/KeepStreams.lean ====
section
/-!
SUPPORT. Sys2Proof/Laws/KeepStreams.lean: every operation of Machine/Streams.lean keeps a part good (Safety.Good).
-/

set_option linter.unusedSimpArgs false

namespace Sys2Proof.Safety
open Sys2Proof Sys2Proof.Machine

theorem keep_opDone {p : Part} {n : Nat} {o : StrOp} (hg : Good p) : Good (Part.opDone p n o) := by
  unfold Part.opDone
  repeat' first
    | with_reducible assumption
    | with_reducible apply keep_completeRec
    | with_reducible apply Good.ite
    | (intro _)
    | split
    | dsimp only

theorem keep_refuseOp {p : Part} {c n : Nat} {o : StrOp} {code : Nat} (hg : Good p) : Good (Part.refuseOp p c n o code) := by
  unfold Part.refuseOp
  repeat' first
    | with_reducible assumption
    | with_reducible apply keep_bumpStream
    | with_reducible apply keep_mapStrm
    | with_reducible apply keep_strmBack
    | with_reducible apply keep_ctlWrite
    | with_reducible apply keep_completeRec
    | with_reducible apply Good.ite
    | (intro _)
    | split
    | dsimp only

theorem keep_placeStrm {p : Part} {c n k : Nat} (hg : Good p) : Good (Part.placeStrm p c n k) := by
  unfold Part.placeStrm
  repeat' first
    | with_reducible assumption
    | with_reducible apply keep_setSlot
    | with_reducible apply keep_mapStrm
    | with_reducible apply keep_strmState
    | with_reducible apply Good.ite
    | (intro _)
    | split
    | dsimp only

theorem keep_fillGang {g : Nat} (k : Nat) {p : Part} (hg : Good p) : Good (Part.fillGang g k p) := by
  induction k generalizing p g with
  | zero => unfold Part.fillGang; assumption
  | succ k ih =>
    unfold Part.fillGang
    repeat' first
      | with_reducible assumption
      | with_reducible apply ih
      | with_reducible apply keep_placeStrm
      | with_reducible apply Good.ite
      | (intro _)
      | split
      | dsimp only

theorem keep_fillCab {p : Part} {b : Nat} (hg : Good p) : Good (Part.fillCab p b) := by
  unfold Part.fillCab
  repeat' first
    | with_reducible assumption
    | with_reducible apply keep_fillGang
    | with_reducible apply Good.foldl
    | with_reducible apply Good.foldl2
    | with_reducible apply Good.foldl1
    | with_reducible apply Good.ite
    | (intro _)
    | split
    | dsimp only

theorem keep_modelGone {p : Part} {c b handle : Nat} (hg : Good p) : Good (Part.modelGone p c b handle) := by
  unfold Part.modelGone
  repeat' first
    | with_reducible assumption
    | with_reducible apply keep_mapStrm
    | with_reducible apply keep_strmBack
    | with_reducible apply Good.foldl
    | with_reducible apply Good.foldl2
    | with_reducible apply Good.foldl1
    | with_reducible apply Good.ite
    | (intro _)
    | split
    | dsimp only

theorem keep_takeModel {p : Part} {g c b handle image row : Nat} {m : Nat × List Layer × Sched} (hg : Good p) : Good (Part.takeModel p g c b handle image row m) := by
  unfold Part.takeModel
  repeat' first
    | with_reducible assumption
    | with_reducible apply keep_Rd_image
    | with_reducible apply keep_Rd_row
    | with_reducible apply keep_bindModel
    | with_reducible apply keep_modelGone
    | with_reducible apply Good.ite
    | (intro _)
    | split
    | dsimp only

theorem keep_reload {p : Part} {g c b handle image row : Nat} (hg : Good p) : Good (Part.reload p g c b handle image row) := by
  unfold Part.reload
  repeat' first
    | with_reducible assumption
    | with_reducible apply keep_Rd_image
    | with_reducible apply keep_Rd_row
    | with_reducible apply keep_engage
    | with_reducible apply keep_Rd_asGang
    | with_reducible apply keep_takeModel
    | with_reducible apply Good.ite
    | (intro _)
    | dsimp only
    | with_reducible apply Keep.stopId
    | with_reducible apply Keep.partBind
    | with_reducible apply Keep.bind
    | with_reducible apply Keep.pure
    | with_reducible apply Keep.onPart
    | with_reducible apply Keep.who
    | with_reducible apply Keep.fault
    | with_reducible apply Keep.addrFault
    | with_reducible apply Keep.need
    | with_reducible apply Keep.foldlM
    | with_reducible apply Keep.forM
    | with_reducible apply Keep.mapM
    | with_reducible apply Keep.map
    | with_reducible apply Keep.discard
    | with_reducible apply Keep.ite
    | with_reducible apply Keep.stop
    | split

theorem keep_bindPending {p : Part} {c b : Nat} (hg : Good p) : Good (Part.bindPending p c b) := by
  unfold Part.bindPending
  repeat' first
    | with_reducible assumption
    | with_reducible apply keep_setCtx
    | with_reducible apply keep_reload
    | with_reducible apply Good.foldl
    | with_reducible apply Good.foldl2
    | with_reducible apply Good.foldl1
    | (simp only [good_mk]; with_reducible apply Good.core)
    | with_reducible apply Good.ite
    | (intro _)
    | split
    | dsimp only

theorem keep_slotFreed {p : Part} {c b : Nat} (hg : Good p) : Good (Part.slotFreed p c b) := by
  unfold Part.slotFreed
  repeat' first
    | with_reducible assumption
    | with_reducible apply keep_bindPending
    | with_reducible apply keep_fillCab
    | with_reducible apply Good.ite
    | (intro _)
    | split
    | dsimp only

theorem keep_seedNow {p : Part} {c idx : Nat} (hg : Good p) : Good (Part.seedNow p c idx).2 := by
  unfold Part.seedNow
  repeat' first
    | with_reducible assumption
    | with_reducible apply keep_ctxFault
    | with_reducible apply keep_hbmFetch
    | with_reducible apply Good.ite
    | (intro _)
    | split
    | dsimp only

theorem keep_curDone {p : Part} {c n : Nat} (hg : Good p) : Good (Part.curDone p c n) := by
  unfold Part.curDone
  repeat' first
    | with_reducible assumption
    | with_reducible apply keep_opDone
    | with_reducible apply keep_mapStrm
    | with_reducible apply Good.foldl
    | with_reducible apply Good.foldl2
    | with_reducible apply Good.foldl1
    | (simp only [good_mk]; with_reducible apply Good.core)
    | with_reducible apply Good.ite
    | (intro _)
    | split
    | dsimp only

theorem keep_saveStrm {p : Part} {c n k : Nat} (hg : Good p) : Good (Part.saveStrm p c n k) := by
  unfold Part.saveStrm
  repeat' first
    | with_reducible assumption
    | with_reducible apply keep_seedNow
    | with_reducible apply keep_ctlWrite
    | with_reducible apply keep_freeSlot
    | with_reducible apply keep_dropWaits
    | with_reducible apply keep_mapStrm
    | with_reducible apply keep_strmState
    | with_reducible apply keep_bumpStream
    | with_reducible apply keep_curDone
    | with_reducible apply keep_strmBack
    | with_reducible apply Good.ite
    | (intro _)
    | split
    | dsimp only

theorem keep_startOp {p : Part} {c n : Nat} {o : StrOp} {more : List StrOp} (hg : Good p) : Good (Part.startOp p c n o more) := by
  unfold Part.startOp
  repeat' first
    | with_reducible assumption
    | with_reducible apply keep_ctlRead
    | with_reducible apply keep_ctxFault
    | with_reducible apply keep_refuseOp
    | with_reducible apply keep_aesBindErr
    | with_reducible apply keep_ops
    | with_reducible apply keep_setStrm
    | with_reducible apply keep_bumpStream
    | with_reducible apply keep_aesStart
    | with_reducible apply keep_placeStrm
    | with_reducible apply keep_strmState
    | with_reducible apply keep_curDone
    | (simp only [good_mk]; with_reducible apply Good.core)
    | with_reducible apply Good.ite
    | (intro _)
    | split
    | dsimp only

theorem keep_chunkOp {p : Part} {c n : Nat} {x : Strm} {o : StrOp} (hg : Good p) : Good (Part.chunkOp p c n x o) := by
  unfold Part.chunkOp
  repeat' first
    | with_reducible assumption
    | with_reducible apply keep_refuseOp
    | with_reducible apply keep_setStrm
    | with_reducible apply keep_Rd_seed
    | with_reducible apply keep_aesChunk
    | with_reducible apply keep_strmState
    | with_reducible apply keep_slotFreed
    | with_reducible apply keep_strmBack
    | (simp only [good_mk]; with_reducible apply Good.core)
    | with_reducible apply Good.ite
    | (intro _)
    | split
    | dsimp only

theorem keep_setOp {p : Part} {c n : Nat} {x : Strm} {o : StrOp} {late : Bool} (hg : Good p) : Good (Part.setOp p c n x o late) := by
  unfold Part.setOp
  repeat' first
    | with_reducible assumption
    | with_reducible apply keep_ctlRead
    | with_reducible apply keep_ctxFault
    | with_reducible apply keep_refuseOp
    | with_reducible apply keep_setStrm
    | with_reducible apply keep_strmBack
    | with_reducible apply keep_opDone
    | (simp only [good_mk]; with_reducible apply Good.core)
    | with_reducible apply Good.ite
    | (intro _)
    | split
    | dsimp only

theorem keep_dropInput {p : Part} {x : Strm} {h : Chunk} (hg : Good p) : Good (Part.dropInput p x h) := by
  unfold Part.dropInput
  repeat' first
    | with_reducible assumption
    | with_reducible apply keep_serveRegion
    | with_reducible apply keep_setRegion
    | (simp only [good_mk]; with_reducible apply Good.core)
    | with_reducible apply Good.ite
    | (intro _)
    | split
    | dsimp only

theorem keep_opsEnded {c n : Nat} (l : List StrOp) {p : Part} (hg : Good p) : Good (Part.opsEnded c n l p) := by
  induction l generalizing p with
  | nil => unfold Part.opsEnded; assumption
  | cons o l ih =>
    unfold Part.opsEnded
    repeat' first
      | with_reducible assumption
      | with_reducible apply ih
      | with_reducible apply keep_startOp
      | with_reducible apply keep_refuseOp
      | (intro _)
      | split
      | dsimp only

theorem keep_endOp {p : Part} {c n : Nat} {x : Strm} {o : StrOp} (hg : Good p) : Good (Part.endOp p c n x o) := by
  unfold Part.endOp
  repeat' first
    | with_reducible assumption
    | with_reducible apply keep_dropInput
    | with_reducible apply keep_completeRec
    | with_reducible apply keep_dropWaits
    | with_reducible apply keep_strmEnd
    | with_reducible apply keep_opsEnded
    | with_reducible apply keep_ops
    | with_reducible apply keep_opDone
    | with_reducible apply keep_slotFreed
    | with_reducible apply Good.foldl
    | with_reducible apply Good.foldl2
    | with_reducible apply Good.foldl1
    | with_reducible apply Good.ite
    | (intro _)
    | split
    | dsimp only

theorem keep_doOp {p : Part} {c n : Nat} {x : Strm} {o : StrOp} {late : Bool} (hg : Good p) : Good (Part.doOp p c n x o late) := by
  unfold Part.doOp
  repeat' first
    | with_reducible assumption
    | with_reducible apply keep_setStrm
    | with_reducible apply keep_strmBack
    | with_reducible apply keep_opDone
    | with_reducible apply keep_refuseOp
    | with_reducible apply keep_chunkOp
    | with_reducible apply keep_setOp
    | with_reducible apply keep_strmState
    | with_reducible apply keep_slotFreed
    | with_reducible apply keep_endOp
    | (simp only [good_mk]; with_reducible apply Good.core)
    | with_reducible apply Good.ite
    | (intro _)
    | split
    | dsimp only

theorem keep_runOps {c n : Nat} {late : Bool} (k : Nat) {p : Part} (hg : Good p) : Good (Part.runOps c n late k p) := by
  induction k generalizing p c n late with
  | zero => unfold Part.runOps; assumption
  | succ k ih =>
    unfold Part.runOps
    repeat' first
      | with_reducible assumption
      | with_reducible apply ih
      | with_reducible apply keep_doOp
      | with_reducible apply keep_setStrm
      | (simp only [good_mk]; with_reducible apply Good.core)
      | with_reducible apply Good.ite
      | (intro _)
      | split
      | dsimp only

theorem keep_ops {p : Part} {c n : Nat} (hg : Good p) : Good (Part.ops p c n) := by
  unfold Part.ops
  repeat' first
    | with_reducible assumption
    | with_reducible apply keep_runOps
    | with_reducible apply Good.ite
    | (intro _)
    | split
    | dsimp only

theorem keep_opsAll {p : Part} {c : Nat} (hg : Good p) : Good (Part.opsAll p c) := by
  unfold Part.opsAll
  repeat' first
    | with_reducible assumption
    | with_reducible apply keep_ops
    | with_reducible apply Good.foldl
    | with_reducible apply Good.foldl2
    | with_reducible apply Good.foldl1
    | with_reducible apply Good.ite
    | (intro _)
    | split
    | dsimp only

theorem keep_issueRec {p : Part} {j r home die c : Nat} {y : Rec} (hg : Good p) : Good (Part.issueRec p j r home die c y) := by
  unfold Part.issueRec
  repeat' first
    | with_reducible assumption
    | with_reducible apply keep_setRec
    | with_reducible apply keep_bumpJig
    | (simp only [good_mk]; with_reducible apply Good.core)
    | with_reducible apply Good.ite
    | (intro _)
    | split
    | dsimp only

theorem keep_strmEntry {c n : Nat} : Keep (Part.strmEntry c n) := by
  unfold Part.strmEntry
  repeat' first
    | with_reducible assumption
    | with_reducible apply keep_ctlRead
    | with_reducible apply Good.ite
    | (intro _)
    | dsimp only
    | with_reducible apply Keep.stopId
    | with_reducible apply Keep.partBind
    | with_reducible apply Keep.bind
    | with_reducible apply Keep.pure
    | with_reducible apply Keep.onPart
    | with_reducible apply Keep.who
    | with_reducible apply Keep.fault
    | with_reducible apply Keep.addrFault
    | with_reducible apply Keep.need
    | with_reducible apply Keep.foldlM
    | with_reducible apply Keep.forM
    | with_reducible apply Keep.mapM
    | with_reducible apply Keep.map
    | with_reducible apply Keep.discard
    | with_reducible apply Keep.ite
    | with_reducible apply Keep.stop
    | split

theorem keep_streamOp {p : Part} {code j r : Nat} {st : RdStat} {hw : Cells} (hg : Good p) : Good (Part.streamOp p code j r st hw) := by
  unfold Part.streamOp
  repeat' first
    | with_reducible assumption
    | with_reducible apply keep_hostSees
    | with_reducible apply keep_engage
    | with_reducible apply keep_Rd_controlNat
    | with_reducible apply keep_Rd_opIs
    | with_reducible apply keep_ops
    | with_reducible apply keep_Rd_cancel
    | with_reducible apply keep_strmEntry
    | with_reducible apply keep_Rd_seed
    | with_reducible apply keep_issueRec
    | with_reducible apply keep_refuseOp
    | with_reducible apply keep_setStrm
    | with_reducible apply keep_startOp
    | with_reducible apply keep_opsAll
    | (simp only [good_mk]; with_reducible apply Good.core)
    | with_reducible apply Good.ite
    | (intro _)
    | dsimp only
    | with_reducible apply Keep.stopId
    | with_reducible apply Keep.partBind
    | with_reducible apply Keep.bind
    | with_reducible apply Keep.pure
    | with_reducible apply Keep.onPart
    | with_reducible apply Keep.who
    | with_reducible apply Keep.fault
    | with_reducible apply Keep.addrFault
    | with_reducible apply Keep.need
    | with_reducible apply Keep.foldlM
    | with_reducible apply Keep.forM
    | with_reducible apply Keep.mapM
    | with_reducible apply Keep.map
    | with_reducible apply Keep.discard
    | with_reducible apply Keep.ite
    | with_reducible apply Keep.stop
    | split

theorem keep_modelLoad {p : Part} {j r : Nat} {st : RdStat} {hw : Cells} (hg : Good p) : Good (Part.modelLoad p j r st hw) := by
  unfold Part.modelLoad
  repeat' first
    | with_reducible assumption
    | with_reducible apply keep_hostSees
    | with_reducible apply keep_engage
    | with_reducible apply keep_Rd_controlNat
    | with_reducible apply keep_Rd_cancel
    | with_reducible apply keep_Rd_asGang
    | with_reducible apply keep_Rd_image
    | with_reducible apply keep_issueRec
    | with_reducible apply keep_takeModel
    | with_reducible apply keep_completeRec
    | with_reducible apply keep_fillCab
    | with_reducible apply keep_opsAll
    | with_reducible apply Good.ite
    | (intro _)
    | dsimp only
    | with_reducible apply Keep.stopId
    | with_reducible apply Keep.partBind
    | with_reducible apply Keep.bind
    | with_reducible apply Keep.pure
    | with_reducible apply Keep.onPart
    | with_reducible apply Keep.who
    | with_reducible apply Keep.fault
    | with_reducible apply Keep.addrFault
    | with_reducible apply Keep.need
    | with_reducible apply Keep.foldlM
    | with_reducible apply Keep.forM
    | with_reducible apply Keep.mapM
    | with_reducible apply Keep.map
    | with_reducible apply Keep.discard
    | with_reducible apply Keep.ite
    | with_reducible apply Keep.stop
    | split

theorem keep_streamSaveDone {p : Part} {c n : Nat} (hg : Good p) : Good (Part.streamSaveDone p c n) := by
  unfold Part.streamSaveDone
  repeat' first
    | with_reducible assumption
    | with_reducible apply keep_saveStrm
    | with_reducible apply keep_ops
    | with_reducible apply keep_slotFreed
    | with_reducible apply keep_opsAll
    | with_reducible apply Good.ite
    | (intro _)
    | split
    | dsimp only

theorem keep_poisonMark {p : Part} {g c : Nat} (hg : Good p) : Good (Part.poisonMark p g c) := by
  unfold Part.poisonMark
  repeat' first
    | with_reducible assumption
    | with_reducible apply keep_dropStep
    | with_reducible apply keep_setRb
    | with_reducible apply keep_bumpGang
    | with_reducible apply Good.ite
    | (intro _)
    | split
    | dsimp only

theorem keep_poisonStep {p : Part} {g c detail : Nat} (hg : Good p) : Good (Part.poisonStep p g c detail) := by
  unfold Part.poisonStep
  repeat' first
    | with_reducible assumption
    | with_reducible apply keep_poisonMark
    | with_reducible apply keep_ctxFault
    | with_reducible apply Good.ite
    | (intro _)
    | split
    | dsimp only

theorem keep_initVec {a n : Nat} : Keep (Part.initVec a n) := by
  unfold Part.initVec
  repeat' first
    | with_reducible assumption
    | with_reducible apply keep_Rd_read
    | with_reducible apply Good.ite
    | (intro _)
    | dsimp only
    | with_reducible apply Keep.stopId
    | with_reducible apply Keep.partBind
    | with_reducible apply Keep.bind
    | with_reducible apply Keep.pure
    | with_reducible apply Keep.onPart
    | with_reducible apply Keep.who
    | with_reducible apply Keep.fault
    | with_reducible apply Keep.addrFault
    | with_reducible apply Keep.need
    | with_reducible apply Keep.foldlM
    | with_reducible apply Keep.forM
    | with_reducible apply Keep.mapM
    | with_reducible apply Keep.map
    | with_reducible apply Keep.discard
    | with_reducible apply Keep.ite
    | with_reducible apply Keep.stop
    | split

theorem keep_rereadEnt {c n e : Nat} : Keep (Part.rereadEnt c n e) := by
  unfold Part.rereadEnt
  repeat' first
    | with_reducible assumption
    | with_reducible apply keep_strmEntry
    | with_reducible apply Good.ite
    | (intro _)
    | dsimp only
    | with_reducible apply Keep.stopId
    | with_reducible apply Keep.partBind
    | with_reducible apply Keep.bind
    | with_reducible apply Keep.pure
    | with_reducible apply Keep.onPart
    | with_reducible apply Keep.who
    | with_reducible apply Keep.fault
    | with_reducible apply Keep.addrFault
    | with_reducible apply Keep.need
    | with_reducible apply Keep.foldlM
    | with_reducible apply Keep.forM
    | with_reducible apply Keep.mapM
    | with_reducible apply Keep.map
    | with_reducible apply Keep.discard
    | with_reducible apply Keep.ite
    | with_reducible apply Keep.stop
    | split

theorem keep_restoreRead {e elems : Nat} {reset : Bool} {s : Slot} : Keep (Part.restoreRead e elems reset s) := by
  unfold Part.restoreRead
  repeat' first
    | with_reducible assumption
    | with_reducible apply keep_initVec
    | with_reducible apply keep_Rd_read
    | with_reducible apply keep_Rd_seed
    | with_reducible apply keep_Rd_codes
    | (simp only [good_mk]; with_reducible apply Good.core)
    | with_reducible apply Good.ite
    | (intro _)
    | dsimp only
    | with_reducible apply Keep.stopId
    | with_reducible apply Keep.partBind
    | with_reducible apply Keep.bind
    | with_reducible apply Keep.pure
    | with_reducible apply Keep.onPart
    | with_reducible apply Keep.who
    | with_reducible apply Keep.fault
    | with_reducible apply Keep.addrFault
    | with_reducible apply Keep.need
    | with_reducible apply Keep.foldlM
    | with_reducible apply Keep.forM
    | with_reducible apply Keep.mapM
    | with_reducible apply Keep.map
    | with_reducible apply Keep.discard
    | with_reducible apply Keep.ite
    | with_reducible apply Keep.stop
    | split

theorem keep_restoreStrm {p : Part} {c n k : Nat} {st : RdStat} {hw : Cells} (hg : Good p) : Good (Part.restoreStrm p c n k st hw) := by
  unfold Part.restoreStrm
  repeat' first
    | with_reducible assumption
    | with_reducible apply keep_hostSees
    | with_reducible apply keep_engage
    | with_reducible apply keep_rereadEnt
    | with_reducible apply keep_restoreRead
    | with_reducible apply keep_setSlot
    | with_reducible apply keep_setStrm
    | with_reducible apply keep_bumpStream
    | with_reducible apply keep_strmState
    | with_reducible apply keep_mapStrm
    | with_reducible apply keep_ops
    | with_reducible apply keep_curDone
    | with_reducible apply keep_opsAll
    | (simp only [good_mk]; with_reducible apply Good.core)
    | with_reducible apply Good.ite
    | (intro _)
    | dsimp only
    | with_reducible apply Keep.stopId
    | with_reducible apply Keep.partBind
    | with_reducible apply Keep.bind
    | with_reducible apply Keep.pure
    | with_reducible apply Keep.onPart
    | with_reducible apply Keep.who
    | with_reducible apply Keep.fault
    | with_reducible apply Keep.addrFault
    | with_reducible apply Keep.need
    | with_reducible apply Keep.foldlM
    | with_reducible apply Keep.forM
    | with_reducible apply Keep.mapM
    | with_reducible apply Keep.map
    | with_reducible apply Keep.discard
    | with_reducible apply Keep.ite
    | with_reducible apply Keep.stop
    | split

theorem keep_streamRestoreDone {p : Part} {c n : Nat} {st : RdStat} {hw : Cells} (hg : Good p) : Good (Part.streamRestoreDone p c n st hw) := by
  unfold Part.streamRestoreDone
  repeat' first
    | with_reducible assumption
    | with_reducible apply keep_restoreStrm
    | with_reducible apply Good.ite
    | (intro _)
    | split
    | dsimp only

theorem keep_streamExchange {p : Part} {g : Nat} (hg : Good p) : Good (Part.streamExchange p g) := by
  unfold Part.streamExchange
  repeat' first
    | with_reducible assumption
    | with_reducible apply keep_bumpStream
    | with_reducible apply keep_strmState
    | with_reducible apply Good.foldl
    | with_reducible apply Good.foldl2
    | with_reducible apply Good.foldl1
    | with_reducible apply Good.ite
    | (intro _)
    | split
    | dsimp only

end Sys2Proof.Safety
end

