-- ==== Sys2Proof/Laws/KeepGangs.lean ====
section
/-!
SUPPORT. Sys2Proof/Laws/KeepGangs.lean: every operation of Machine/Gangs.lean keeps a part good (Safety.Good).
-/

set_option linter.unusedSimpArgs false

namespace Sys2Proof.Safety
open Sys2Proof Sys2Proof.Machine

theorem keep_condRead {p : Part} {x : Strm} {n : Nat} {ecc : Ecc} (hg : Good p) : Good (Part.condRead p x n ecc).2 := by
  unfold Part.condRead
  repeat' first
    | with_reducible assumption
    | with_reducible apply keep_rowRead
    | with_reducible apply keep_frees
    | with_reducible apply Good.foldl
    | with_reducible apply Good.foldl2
    | with_reducible apply Good.foldl1
    | with_reducible apply Good.ite
    | (intro _)
    | split
    | dsimp only

theorem keep_condReturn {p : Part} {x : Strm} {n : Nat} (hg : Good p) : Good (Part.condReturn p x n) := by
  unfold Part.condReturn
  repeat' first
    | with_reducible assumption
    | with_reducible apply keep_returnPos
    | with_reducible apply Good.foldl
    | with_reducible apply Good.foldl2
    | with_reducible apply Good.foldl1
    | with_reducible apply Good.ite
    | (intro _)
    | split
    | dsimp only

theorem keep_arm {p : Part} {k : Nat} {s : Slot} {x : Strm} (hg : Good p) : Good (Part.arm p k s x).2 := by
  unfold Part.arm
  repeat' first
    | with_reducible assumption
    | with_reducible apply keep_condRead
    | with_reducible apply keep_setStrm
    | with_reducible apply keep_bumpStream
    | with_reducible apply keep_setSlot
    | (simp only [good_mk]; with_reducible apply Good.core)
    | with_reducible apply Good.ite
    | (intro _)
    | split
    | dsimp only

theorem keep_stepOps {p : Part} {g : Nat} (hg : Good p) : Good (Part.stepOps p g) := by
  unfold Part.stepOps
  repeat' first
    | with_reducible assumption
    | with_reducible apply keep_flush
    | with_reducible apply keep_Rd_flush
    | with_reducible apply keep_ops
    | with_reducible apply Good.foldl
    | with_reducible apply Good.foldl2
    | with_reducible apply Good.foldl1
    | with_reducible apply Good.ite
    | (intro _)
    | split
    | dsimp only

theorem keep_stepWakes {p : Part} {ks : List Nat} (hg : Good p) : Good (Part.stepWakes p ks) := by
  unfold Part.stepWakes
  repeat' first
    | with_reducible assumption
    | with_reducible apply keep_gateQueue
    | with_reducible apply Good.foldl
    | with_reducible apply Good.foldl2
    | with_reducible apply Good.foldl1
    | with_reducible apply Good.ite
    | (intro _)
    | split
    | dsimp only

theorem keep_armAll {p : Part} {ks : List Nat} (hg : Good p) : Good (Part.armAll p ks).2 := by
  unfold Part.armAll
  repeat' first
    | with_reducible assumption
    | with_reducible apply keep_arm
    | with_reducible apply Good.foldl
    | with_reducible apply Good.foldl2
    | with_reducible apply Good.foldl1
    | with_reducible apply Good.ite
    | (intro _)
    | split
    | dsimp only

theorem keep_stepBegins {p : Part} {g : Nat} (hg : Good p) : Good (Part.stepBegins p g) := by
  unfold Part.stepBegins
  repeat' first
    | with_reducible assumption
    | with_reducible apply keep_bumpGang
    | with_reducible apply keep_setGang
    | with_reducible apply keep_Rd_layer
    | (simp only [good_mk]; with_reducible apply Good.core)
    | with_reducible apply Good.ite
    | (intro _)
    | split
    | dsimp only

theorem keep_gangStepStart {p : Part} {g : Nat} (hg : Good p) : Good (Part.gangStepStart p g) := by
  unfold Part.gangStepStart Part.stepOps Part.stepWakes Part.armAll Part.stepBegins
  repeat' first
    | with_reducible assumption
    | with_reducible apply keep_Rd_flush
    | with_reducible apply keep_Rd_layer
    | with_reducible apply keep_arm
    | with_reducible apply keep_bumpGang
    | with_reducible apply keep_flush
    | with_reducible apply keep_gateQueue
    | with_reducible apply keep_ops
    | with_reducible apply keep_poisonStep
    | with_reducible apply keep_setGang
    | with_reducible apply Good.foldl
    | with_reducible apply Good.foldl2
    | with_reducible apply Good.foldl1
    | (simp only [good_mk]; with_reducible apply Good.core)
    | with_reducible apply Good.ite
    | (intro _)
    | split
    | dsimp only

theorem keep_slotCycles {p : Part} {g : Nat} {x : Gang} {l : Layer} {cs : List ((Nat × Nat × Nat) × List Num.WVal)} {k : Nat} (hg : Good p) : Good (Part.slotCycles p g x l cs k) := by
  unfold Part.slotCycles
  repeat' first
    | with_reducible assumption
    | with_reducible apply keep_Rd_layer
    | with_reducible apply keep_setSlot
    | with_reducible apply keep_bumpEng
    | with_reducible apply keep_bumpGang
    | (simp only [good_mk]; with_reducible apply Good.core)
    | with_reducible apply Good.ite
    | (intro _)
    | split
    | dsimp only

theorem keep_slotPend {p : Part} {x : Gang} {k : Nat} (hg : Good p) : Good (Part.slotPend p x k) := by
  unfold Part.slotPend
  repeat' first
    | with_reducible assumption
    | with_reducible apply keep_setStrm
    | with_reducible apply keep_setSlot
    | (simp only [good_mk]; with_reducible apply Good.core)
    | with_reducible apply Good.ite
    | (intro _)
    | split
    | dsimp only

theorem keep_runRow {p : Part} {g : Nat} {x : Gang} {l : Layer} {bs : List Byte} (hg : Good p) : Good (Part.runRow p g x l bs) := by
  unfold Part.runRow
  repeat' first
    | with_reducible assumption
    | with_reducible apply keep_Rd_codes
    | with_reducible apply keep_dropStep
    | with_reducible apply keep_ctxFault
    | with_reducible apply keep_bumpEng
    | with_reducible apply keep_slotCycles
    | with_reducible apply keep_setGang
    | with_reducible apply keep_Rd_layer
    | with_reducible apply keep_slotPend
    | with_reducible apply Good.foldl
    | with_reducible apply Good.foldl2
    | with_reducible apply Good.foldl1
    | (simp only [good_mk]; with_reducible apply Good.core)
    | with_reducible apply Good.ite
    | (intro _)
    | split
    | dsimp only

theorem keep_feedTake {p : Part} {g : Nat} (hg : Good p) : Good (Part.feedTake p g) := by
  unfold Part.feedTake
  repeat' first
    | with_reducible assumption
    | with_reducible apply keep_Rd_layer
    | with_reducible apply keep_poisonStep
    | with_reducible apply keep_runRow
    | with_reducible apply keep_setGang
    | (simp only [good_mk]; with_reducible apply Good.core)
    | with_reducible apply Good.ite
    | (intro _)
    | split
    | dsimp only

theorem keep_feedGo {g a : Nat} (k : Nat) {p : Part} (hg : Good p) : Good (Part.feedGo g a k p) := by
  induction k generalizing p with
  | zero => unfold Part.feedGo; assumption
  | succ k ih =>
    unfold Part.feedGo
    split
    · exact ih (keep_feedTake hg)
    · exact hg

theorem keep_feedSlip {p : Part} {g late : Nat} (hg : Good p) : Good (Part.feedSlip p g late) := by
  unfold Part.feedSlip
  repeat' first
    | with_reducible assumption
    | with_reducible apply keep_bumpGang
    | with_reducible apply keep_setRb
    | with_reducible apply Good.bump
    | with_reducible apply Good.ite
    | (intro _)
    | split
    | dsimp only

theorem keep_feedFetch {p : Part} {g : Nat} {kind row : Nat} {ecc : Ecc} (hg : Good p) : Good (Part.feedFetch p g kind row ecc) := by
  unfold Part.feedFetch
  repeat' first
    | with_reducible assumption
    | with_reducible apply keep_Rd_row
    | with_reducible apply keep_dropStep
    | with_reducible apply keep_ctxFault
    | with_reducible apply keep_rowRead
    | with_reducible apply keep_bumpGang
    | with_reducible apply keep_setGang
    | (simp only [good_mk]; with_reducible apply Good.core)
    | with_reducible apply Good.ite
    | (intro _)
    | split
    | dsimp only

theorem keep_feedRow {p : Part} {g : Nat} {ecc : Ecc} {late : Nat} (hg : Good p) : Good (Part.feedRow p g ecc late) := by
  unfold Part.feedRow
  repeat' first
    | with_reducible assumption
    | with_reducible apply keep_feedGo
    | with_reducible apply keep_Rd_row
    | with_reducible apply keep_feedSlip
    | with_reducible apply keep_feedFetch
    | with_reducible apply keep_setGang
    | (simp only [good_mk]; with_reducible apply Good.core)
    | with_reducible apply Good.ite
    | (intro _)
    | split
    | dsimp only

theorem keep_condArrive {p : Part} {k : Nat} {ecc : Ecc} (hg : Good p) : Good (Part.condArrive p k ecc) := by
  unfold Part.condArrive
  repeat' first
    | with_reducible assumption
    | with_reducible apply keep_gateQueue
    | with_reducible apply keep_condRead
    | with_reducible apply keep_setSlot
    | with_reducible apply Good.foldl
    | with_reducible apply Good.foldl2
    | with_reducible apply Good.foldl1
    | (simp only [good_mk]; with_reducible apply Good.core)
    | with_reducible apply Good.ite
    | (intro _)
    | split
    | dsimp only

theorem keep_initLoaded {p : Part} {k : Nat} {st : RdStat} {ecc : Ecc} {hw : Cells} (hg : Good p) : Good (Part.initLoaded p k st ecc hw) := by
  unfold Part.initLoaded
  repeat' first
    | with_reducible assumption
    | with_reducible apply keep_hostSees
    | with_reducible apply keep_engage
    | with_reducible apply keep_initVec
    | with_reducible apply keep_mapSlot
    | (simp only [good_mk]; with_reducible apply Good.core)
    | with_reducible apply Good.ite
    | (intro _)
    | dsimp only
    | with_reducible apply Keep.stopId
    | with_reducible apply Keep.partBind
    | with_reducible apply Keep.bind
    | with_reducible apply Keep.pure
    | with_reducible apply Keep.onPart
    | with_reducible apply Keep.who
    | with_reducible apply Keep.fault
    | with_reducible apply Keep.addrFault
    | with_reducible apply Keep.need
    | with_reducible apply Keep.foldlM
    | with_reducible apply Keep.forM
    | with_reducible apply Keep.mapM
    | with_reducible apply Keep.map
    | with_reducible apply Keep.discard
    | with_reducible apply Keep.ite
    | with_reducible apply Keep.stop
    | split

theorem keep_punchSlot {g : Nat} {x : Gang} {p : Part} {e : Nat × Slot} (hg : Good p) : Good (Part.punchSlot g x p e) := by
  unfold Part.punchSlot
  repeat' first
    | with_reducible assumption
    | with_reducible apply keep_setSlot
    | with_reducible apply keep_bumpGang
    | with_reducible apply keep_bumpEng
    | (simp only [good_mk]; with_reducible apply Good.core)
    | with_reducible apply Good.ite
    | (intro _)
    | split
    | dsimp only

theorem keep_punchStart {p : Part} {g : Nat} (hg : Good p) : Good (Part.punchStart p g) := by
  unfold Part.punchStart Part.punchSlot
  repeat' first
    | with_reducible assumption
    | with_reducible apply keep_Rd_seed
    | with_reducible apply keep_bumpEng
    | with_reducible apply keep_bumpGang
    | with_reducible apply keep_setSlot
    | with_reducible apply Good.foldl
    | with_reducible apply Good.foldl2
    | with_reducible apply Good.foldl1
    | (simp only [good_mk]; with_reducible apply Good.core)
    | with_reducible apply Good.ite
    | (intro _)
    | split
    | dsimp only

theorem keep_stepEnds {p : Part} {k : Nat} {s : Slot} {q : Pend} {x : Strm} (hg : Good p) : Good (Part.stepEnds p k s q x) := by
  unfold Part.stepEnds
  repeat' first
    | with_reducible assumption
    | with_reducible apply keep_setSlot
    | with_reducible apply keep_setStrm
    | with_reducible apply keep_condReturn
    | with_reducible apply keep_bumpGang
    | with_reducible apply keep_countMove
    | with_reducible apply keep_strmBack
    | with_reducible apply keep_flush
    | with_reducible apply keep_Rd_flush
    | (simp only [good_mk]; with_reducible apply Good.core)
    | with_reducible apply Good.ite
    | (intro _)
    | split
    | dsimp only

theorem keep_stepComplete {p : Part} {k : Nat} (hg : Good p) : Good (Part.stepComplete p k) := by
  unfold Part.stepComplete Part.stepEnds
  repeat' first
    | with_reducible assumption
    | with_reducible apply keep_Rd_flush
    | with_reducible apply keep_bumpGang
    | with_reducible apply keep_condReturn
    | with_reducible apply keep_countMove
    | with_reducible apply keep_flush
    | with_reducible apply keep_ops
    | with_reducible apply keep_runOps
    | with_reducible apply keep_setSlot
    | with_reducible apply keep_setStrm
    | with_reducible apply keep_strmBack
    | (simp only [good_mk]; with_reducible apply Good.core)
    | with_reducible apply Good.ite
    | (intro _)
    | split
    | dsimp only

theorem keep_assayStore {l : Tab Stat} : Keep (Part.assayStore l) := by
  unfold Part.assayStore
  repeat' first
    | with_reducible assumption
    | with_reducible apply keep_Rd_operand
    | with_reducible apply keep_Rd_store
    | with_reducible apply Good.ite
    | (intro _)
    | dsimp only
    | with_reducible apply Keep.stopId
    | with_reducible apply Keep.partBind
    | with_reducible apply Keep.bind
    | with_reducible apply Keep.pure
    | with_reducible apply Keep.onPart
    | with_reducible apply Keep.who
    | with_reducible apply Keep.fault
    | with_reducible apply Keep.addrFault
    | with_reducible apply Keep.need
    | with_reducible apply Keep.foldlM
    | with_reducible apply Keep.forM
    | with_reducible apply Keep.mapM
    | with_reducible apply Keep.map
    | with_reducible apply Keep.discard
    | with_reducible apply Keep.ite
    | with_reducible apply Keep.stop
    | split

theorem keep_chunkComplete {p : Part} {c n : Nat} (hg : Good p) : Good (Part.chunkComplete p c n) := by
  unfold Part.chunkComplete Part.assayStore
  repeat' first
    | with_reducible assumption
    | with_reducible apply keep_Rd_flush
    | with_reducible apply keep_Rd_operand
    | with_reducible apply keep_Rd_store
    | with_reducible apply keep_completeRec
    | with_reducible apply keep_engage
    | with_reducible apply keep_flush
    | with_reducible apply keep_mapStrm
    | with_reducible apply keep_ops
    | with_reducible apply keep_strmBack
    | (simp only [good_mk]; with_reducible apply Good.core)
    | with_reducible apply Good.ite
    | (intro _)
    | split
    | dsimp only
    | with_reducible apply Keep.stopId
    | with_reducible apply Keep.partBind
    | with_reducible apply Keep.bind
    | with_reducible apply Keep.pure
    | with_reducible apply Keep.onPart
    | with_reducible apply Keep.who
    | with_reducible apply Keep.fault
    | with_reducible apply Keep.addrFault
    | with_reducible apply Keep.need
    | with_reducible apply Keep.foldlM
    | with_reducible apply Keep.forM
    | with_reducible apply Keep.mapM
    | with_reducible apply Keep.map
    | with_reducible apply Keep.ite
    | with_reducible apply Keep.stop

theorem keep_gangClockRelease {p : Part} {g : Nat} (hg : Good p) : Good (Part.gangClockRelease p g) := by
  unfold Part.gangClockRelease
  repeat' first
    | with_reducible assumption
    | with_reducible apply keep_setGang
    | (simp only [good_mk]; with_reducible apply Good.core)
    | with_reducible apply Good.ite
    | (intro _)
    | split
    | dsimp only

end Sys2Proof.Safety
end

