-- ==== Sys2Proof/Laws/KeepCabCtx.lean ====
section
/-!
SUPPORT. Sys2Proof/Laws/KeepCabCtx.lean: every operation of Machine/CabCtx.lean keeps a part good (Safety.Good).
-/

set_option linter.unusedSimpArgs false

namespace Sys2Proof.Safety
open Sys2Proof Sys2Proof.Machine

theorem keep_copyShare {p : Part} {c b base : Nat} (hg : Good p) : Good (Part.copyShare p c b base) := by
  unfold Part.copyShare
  repeat' first
    | with_reducible assumption
    | with_reducible apply keep_hbmStore
    | with_reducible apply keep_Rd_read
    | with_reducible apply Memory.cleared_wf
    | with_reducible apply Good.onMem
    | exact Good.mem ‹_›
    | with_reducible apply Memory.write_wf
    | with_reducible apply Memory.hostWrite_wf
    | with_reducible apply Memory.hostPut_wf
    | with_reducible apply Memory.setPoison_wf
    | with_reducible apply Memory.openRange_wf
    | with_reducible apply Memory.zeroStack_wf
    | with_reducible apply Memory.foldl_wf
    | with_reducible apply Good.mem
    | with_reducible apply Good.foldl
    | with_reducible apply Good.foldl2
    | with_reducible apply Good.foldl1
    | (simp only [good_mk]; with_reducible apply Good.core)
    | with_reducible apply Good.ite
    | (intro _)
    | split
    | dsimp only

theorem keep_pasteShare {p : Part} {c : Nat} {b base : Nat} (hg : Good p) : Good (Part.pasteShare p c b base) := by
  unfold Part.pasteShare
  repeat' first
    | with_reducible assumption
    | with_reducible apply keep_Rd_write
    | with_reducible apply keep_Rd_read
    | with_reducible apply keep_Rd_image
    | with_reducible apply Memory.cleared_wf
    | with_reducible apply Good.onMem
    | exact Good.mem ‹_›
    | with_reducible apply Memory.write_wf
    | with_reducible apply Memory.hostWrite_wf
    | with_reducible apply Memory.hostPut_wf
    | with_reducible apply Memory.setPoison_wf
    | with_reducible apply Memory.openRange_wf
    | with_reducible apply Memory.zeroStack_wf
    | with_reducible apply Memory.foldl_wf
    | with_reducible apply Good.mem
    | with_reducible apply Good.foldl
    | with_reducible apply Good.foldl2
    | with_reducible apply Good.foldl1
    | (simp only [good_mk]; with_reducible apply Good.core)
    | with_reducible apply Good.ite
    | (intro _)
    | split
    | dsimp only

theorem keep_cabSave {p : Part} {b : Nat} (hg : Good p) : Good (Part.cabSave p b) := by
  unfold Part.cabSave
  repeat' first
    | with_reducible assumption
    | with_reducible apply keep_startSave
    | with_reducible apply Good.ite
    | (intro _)
    | split
    | dsimp only

theorem keep_quantumExpire {p : Part} {b : Nat} (hg : Good p) : Good (Part.quantumExpire p b) := by
  unfold Part.quantumExpire
  repeat' first
    | with_reducible assumption
    | with_reducible apply keep_setHold
    | with_reducible apply keep_decideCab
    | (simp only [good_mk]; with_reducible apply Good.core)
    | with_reducible apply Good.ite
    | (intro _)
    | split
    | dsimp only

theorem keep_graceEvict {p : Part} (hg : Good p) : Good (Part.graceEvict p) := by
  unfold Part.graceEvict
  repeat' first
    | with_reducible assumption
    | with_reducible apply keep_startSave
    | with_reducible apply Good.bump
    | with_reducible apply Good.ite
    | (intro _)
    | split
    | dsimp only

theorem keep_drainResponse {p : Part} {b : Nat} (hg : Good p) : Good (Part.drainResponse p b) := by
  unfold Part.drainResponse
  repeat' first
    | with_reducible assumption
    | (simp only [good_mk]; with_reducible apply Good.core)
    | with_reducible apply Good.ite
    | (intro _)
    | split
    | dsimp only

theorem keep_unqueue {p : Part} {ids : List Nat} (hg : Good p) : Good (Part.unqueue p ids) := by
  unfold Part.unqueue
  repeat' first
    | with_reducible assumption
    | (simp only [good_mk]; with_reducible apply Good.core)
    | with_reducible apply Good.ite
    | (intro _)
    | split
    | dsimp only

theorem keep_saveTasks {p : Part} {c b : Nat} {h : Hold} (hg : Good p) : Good (Part.saveTasks p c b h) := by
  unfold Part.saveTasks
  repeat' first
    | with_reducible assumption
    | with_reducible apply keep_stopTask
    | with_reducible apply keep_unqueue
    | with_reducible apply keep_setHold
    | with_reducible apply Good.foldl
    | with_reducible apply Good.foldl2
    | with_reducible apply Good.foldl1
    | (simp only [good_mk]; with_reducible apply Good.core)
    | with_reducible apply Good.ite
    | (intro _)
    | split
    | dsimp only

theorem keep_afterSave {p : Part} {b : Nat} {next : Option Nat} (hg : Good p) : Good (Part.afterSave p b next) := by
  unfold Part.afterSave
  repeat' first
    | with_reducible assumption
    | with_reducible apply keep_place
    | with_reducible apply keep_decideCab
    | with_reducible apply Good.ite
    | (intro _)
    | split
    | dsimp only

theorem keep_saveComplete {p : Part} {b : Nat} (hg : Good p) : Good (Part.saveComplete p b) := by
  unfold Part.saveComplete Part.afterSave
  repeat' first
    | with_reducible assumption
    | with_reducible apply Good.bump
    | with_reducible apply keep_Rd_free
    | with_reducible apply keep_Rd_image
    | with_reducible apply keep_clearDeadCabs
    | with_reducible apply keep_copyShare
    | with_reducible apply keep_decideCab
    | with_reducible apply keep_ctxFault
    | with_reducible apply keep_free
    | with_reducible apply keep_hbmStore
    | with_reducible apply keep_place
    | with_reducible apply keep_saveStrm
    | with_reducible apply keep_saveTasks
    | with_reducible apply keep_setHold
    | with_reducible apply keep_unbind
    | with_reducible apply Good.onMem
    | exact Good.mem ‹_›
    | with_reducible apply Memory.write_wf
    | with_reducible apply Memory.hostWrite_wf
    | with_reducible apply Memory.hostPut_wf
    | with_reducible apply Memory.setPoison_wf
    | with_reducible apply Memory.openRange_wf
    | with_reducible apply Memory.zeroStack_wf
    | with_reducible apply Memory.foldl_wf
    | with_reducible apply Good.mem
    | with_reducible apply Good.foldl
    | with_reducible apply Good.foldl2
    | with_reducible apply Good.foldl1
    | (simp only [good_mk]; with_reducible apply Good.core)
    | with_reducible apply Good.ite
    | (intro _)
    | split
    | dsimp only

theorem keep_restoreFault {p : Part} {c : Nat} {f : Nat × Nat} (hg : Good p) : Good (Part.restoreFault p c f) := by
  unfold Part.restoreFault
  repeat' first
    | with_reducible assumption
    | with_reducible apply keep_ctxFault
    | with_reducible apply Good.ite
    | (intro _)
    | split
    | dsimp only

theorem keep_bindSaved {p : Part} {c b : Nat} {l : List GangRec} (hg : Good p) : Good (Part.bindSaved p c b l) := by
  unfold Part.bindSaved
  repeat' first
    | with_reducible assumption
    | with_reducible apply keep_reload
    | with_reducible apply keep_Rd_image
    | with_reducible apply keep_Rd_row
    | with_reducible apply keep_setCtx
    | with_reducible apply Good.foldl
    | with_reducible apply Good.foldl2
    | with_reducible apply Good.foldl1
    | (simp only [good_mk]; with_reducible apply Good.core)
    | with_reducible apply Good.ite
    | (intro _)
    | split
    | dsimp only

theorem keep_placeSaved {p : Part} {c b : Nat} {l : List Nat} (hg : Good p) : Good (Part.placeSaved p c b l) := by
  unfold Part.placeSaved
  repeat' first
    | with_reducible assumption
    | with_reducible apply keep_placeStrm
    | with_reducible apply keep_restoreStrm
    | with_reducible apply keep_strmState
    | with_reducible apply Good.foldl
    | with_reducible apply Good.foldl2
    | with_reducible apply Good.foldl1
    | with_reducible apply Good.ite
    | (intro _)
    | split
    | dsimp only

theorem keep_requeue {p : Part} {t : Task} (hg : Good p) : Good (Part.requeue p t) := by
  unfold Part.requeue
  repeat' first
    | with_reducible assumption
    | with_reducible apply keep_reserve
    | with_reducible apply Good.foldl
    | with_reducible apply Good.foldl2
    | with_reducible apply Good.foldl1
    | with_reducible apply Good.ite
    | (intro _)
    | split
    | dsimp only

theorem keep_resumeAll {p : Part} {c b : Nat} (hg : Good p) : Good (Part.resumeAll p c b) := by
  unfold Part.resumeAll
  repeat' first
    | with_reducible assumption
    | with_reducible apply keep_requeue
    | with_reducible apply keep_carrierOn
    | with_reducible apply keep_resumeTask
    | with_reducible apply Good.foldl
    | with_reducible apply Good.foldl2
    | with_reducible apply Good.foldl1
    | with_reducible apply Good.ite
    | (intro _)
    | split
    | dsimp only

theorem keep_bringBack {p : Part} {c b : Nat} {h : Hold} (hg : Good p) : Good (Part.bringBack p c b h) := by
  unfold Part.bringBack
  repeat' first
    | with_reducible assumption
    | with_reducible apply keep_pasteShare
    | with_reducible apply keep_Rd_image
    | with_reducible apply keep_setSb
    | with_reducible apply keep_setHold
    | with_reducible apply keep_bindSaved
    | with_reducible apply Good.foldl
    | with_reducible apply Good.foldl2
    | with_reducible apply Good.foldl1
    | (simp only [good_mk]; with_reducible apply Good.core)
    | with_reducible apply Good.ite
    | (intro _)
    | split
    | dsimp only

theorem keep_runAgain {p : Part} {c b : Nat} (hg : Good p) : Good (Part.runAgain p c b) := by
  unfold Part.runAgain
  repeat' first
    | with_reducible assumption
    | with_reducible apply keep_resumeAll
    | with_reducible apply keep_fillCab
    | with_reducible apply keep_opsAll
    | with_reducible apply Good.bump
    | with_reducible apply Good.ite
    | (intro _)
    | split
    | dsimp only

theorem keep_restoreHold {p : Part} {b c : Nat} {h : Hold} (hg : Good p) : Good (Part.restoreHold p b c h) := by
  unfold Part.restoreHold
  repeat' first
    | with_reducible assumption
    | with_reducible apply keep_restoreFault
    | with_reducible apply keep_bringBack
    | with_reducible apply keep_placeSaved
    | with_reducible apply keep_runAgain
    | with_reducible apply Good.ite
    | (intro _)
    | split
    | dsimp only

theorem keep_restoreComplete {p : Part} {b : Nat} {hw : Cells} (hg : Good p) : Good (Part.restoreComplete p b hw) := by
  unfold Part.restoreComplete
  repeat' first
    | with_reducible assumption
    | with_reducible apply keep_hostSees
    | with_reducible apply keep_restoreHold
    | with_reducible apply Good.ite
    | (intro _)
    | split
    | dsimp only

theorem keep_teardownDone {p : Part} {c : Nat} (hg : Good p) : Good (Part.teardownDone p c) := by
  unfold Part.teardownDone
  repeat' first
    | with_reducible assumption
    | with_reducible apply keep_unbind
    | with_reducible apply keep_setCtx
    | with_reducible apply keep_setRb
    | with_reducible apply keep_decideCab
    | with_reducible apply keep_clearDeadCabs
    | with_reducible apply Good.bump
    | with_reducible apply Good.foldl
    | with_reducible apply Good.foldl2
    | with_reducible apply Good.foldl1
    | (simp only [good_mk]; with_reducible apply Good.core)
    | with_reducible apply Good.ite
    | (intro _)
    | split
    | dsimp only

theorem keep_transInval {p : Part} {c : Nat} (hg : Good p) : Good (Part.transInval p c) := by
  unfold Part.transInval
  repeat' first
    | with_reducible assumption
    | with_reducible apply keep_setCtx
    | with_reducible apply keep_setRb
    | with_reducible apply Good.foldl
    | with_reducible apply Good.foldl2
    | with_reducible apply Good.foldl1
    | (simp only [good_mk]; with_reducible apply Good.core)
    | with_reducible apply Good.ite
    | (intro _)
    | split
    | dsimp only

theorem keep_transInvalDone {p : Part} {c : Nat} (hg : Good p) : Good (Part.transInvalDone p c) := by
  unfold Part.transInvalDone
  repeat' first
    | with_reducible assumption
    | with_reducible apply keep_setCtx
    | with_reducible apply keep_setRb
    | (simp only [good_mk]; with_reducible apply Good.core)
    | with_reducible apply Good.ite
    | (intro _)
    | split
    | dsimp only

end Sys2Proof.Safety
end

