-- ==== Sys2Proof/Laws/KeepChest.lean ====
section
/-!
SUPPORT. Sys2Proof/Laws/KeepChest.lean: every operation of Machine/Chest.lean keeps a part good (Safety.Good).
-/

set_option linter.unusedSimpArgs false

namespace Sys2Proof.Safety
open Sys2Proof Sys2Proof.Machine

theorem keep_setBlk {p : Part} {k : Nat} {x : ChBlk} (hg : Good p) : Good (Part.setBlk p k x) := by
  unfold Part.setBlk
  repeat' first
    | with_reducible assumption
    | (simp only [good_mk]; with_reducible apply Good.core)
    | with_reducible apply Good.ite
    | (intro _)
    | split
    | dsimp only

theorem keep_bumpCh {p : Part} {ch ev n : Nat} (hg : Good p) : Good (Part.bumpCh p ch ev n) := by
  unfold Part.bumpCh
  repeat' first
    | with_reducible assumption
    | with_reducible apply Good.bump
    | with_reducible apply Good.ite
    | (intro _)
    | split
    | dsimp only

theorem keep_withSpare {p : Part} {f : Part → Part} (hg : Good p) (hf : ∀ (a0 : Part), Good a0 → Good (f a0)) : Good (Part.withSpare p f) := by
  unfold Part.withSpare
  repeat' first
    | with_reducible assumption
    | with_reducible apply keep_setRb
    | with_reducible apply hf
    | with_reducible apply Good.ite
    | (intro _)
    | split
    | dsimp only

theorem keep_badBlock {p : Part} {k : Nat} (hg : Good p) : Good (Part.badBlock p k) := by
  unfold Part.badBlock
  repeat' first
    | with_reducible assumption
    | with_reducible apply keep_setBlk
    | with_reducible apply keep_bumpCh
    | with_reducible apply keep_recordFault
    | (simp only [good_mk]; with_reducible apply Good.core)
    | with_reducible apply Good.ite
    | (intro _)
    | split
    | dsimp only

theorem keep_eraseBlk {p : Part} {k : Nat} (hg : Good p) : Good (Part.eraseBlk p k) := by
  unfold Part.eraseBlk
  repeat' first
    | with_reducible assumption
    | with_reducible apply keep_setBlk
    | with_reducible apply keep_bumpCh
    | with_reducible apply keep_badBlock
    | (simp only [good_mk]; with_reducible apply Good.core)
    | with_reducible apply Good.ite
    | (intro _)
    | split
    | dsimp only

theorem keep_wakeChan {p : Part} {ch : Nat} (hg : Good p) : Good (Part.wakeChan p ch) := by
  unfold Part.wakeChan
  repeat' first
    | with_reducible assumption
    | with_reducible apply keep_setChan
    | with_reducible apply Good.bump
    | (simp only [good_mk]; with_reducible apply Good.core)
    | with_reducible apply Good.ite
    | (intro _)
    | split
    | dsimp only

theorem keep_program {p : Part} {k : Nat} {x : ChPage} (hg : Good p) : Good (Part.program p k x).2 := by
  unfold Part.program
  repeat' first
    | with_reducible assumption
    | with_reducible apply keep_wakeChan
    | with_reducible apply keep_setBlk
    | (simp only [good_mk]; with_reducible apply Good.core)
    | with_reducible apply Good.ite
    | (intro _)
    | split
    | dsimp only

theorem keep_remap {p : Part} {a b : Nat} (hg : Good p) : Good (Part.remap p a b) := by
  unfold Part.remap
  repeat' first
    | with_reducible assumption
    | (simp only [good_mk]; with_reducible apply Good.core)
    | with_reducible apply Good.ite
    | (intro _)
    | split
    | dsimp only

theorem keep_moveBlk {p : Part} {k : Nat} (hg : Good p) : Good (Part.moveBlk p k) := by
  unfold Part.moveBlk
  repeat' first
    | with_reducible assumption
    | with_reducible apply keep_bumpCh
    | with_reducible apply keep_program
    | with_reducible apply keep_remap
    | with_reducible apply Good.foldl
    | with_reducible apply Good.foldl2
    | with_reducible apply Good.foldl1
    | with_reducible apply Good.ite
    | (intro _)
    | split
    | dsimp only

theorem keep_relocate {p : Part} {k : Nat} (hg : Good p) : Good (Part.relocate p k) := by
  unfold Part.relocate
  repeat' first
    | with_reducible assumption
    | with_reducible apply keep_moveBlk
    | with_reducible apply keep_eraseBlk
    | with_reducible apply Good.ite
    | (intro _)
    | split
    | dsimp only

theorem keep_retireBlk {p : Part} {k : Nat} (hg : Good p) : Good (Part.retireBlk p k) := by
  unfold Part.retireBlk
  repeat' first
    | with_reducible assumption
    | with_reducible apply keep_moveBlk
    | with_reducible apply keep_badBlock
    | with_reducible apply Good.ite
    | (intro _)
    | split
    | dsimp only

theorem keep_wearLevel {p : Part} {ch : Nat} (hg : Good p) : Good (Part.wearLevel p ch) := by
  unfold Part.wearLevel
  repeat' first
    | with_reducible assumption
    | with_reducible apply keep_relocate
    | with_reducible apply Good.foldl
    | with_reducible apply Good.foldl2
    | with_reducible apply Good.foldl1
    | with_reducible apply Good.ite
    | (intro _)
    | split
    | dsimp only

theorem keep_wearAll {p : Part} (hg : Good p) : Good (Part.wearAll p) := by
  unfold Part.wearAll
  repeat' first
    | with_reducible assumption
    | with_reducible apply keep_wearLevel
    | with_reducible apply Good.foldl
    | with_reducible apply Good.foldl2
    | with_reducible apply Good.foldl1
    | with_reducible apply Good.ite
    | (intro _)
    | split
    | dsimp only

theorem keep_reclaim {p : Part} (hg : Good p) : Good (Part.reclaim p) := by
  unfold Part.reclaim
  repeat' first
    | with_reducible assumption
    | with_reducible apply keep_eraseBlk
    | with_reducible apply Good.foldl
    | with_reducible apply Good.foldl2
    | with_reducible apply Good.foldl1
    | with_reducible apply Good.ite
    | (intro _)
    | split
    | dsimp only

theorem keep_decodeCw {p : Part} {g : Nat} {o : CwRead} (hg : Good p) : Good (Part.decodeCw p g o) := by
  unfold Part.decodeCw
  repeat' first
    | with_reducible assumption
    | with_reducible apply keep_bumpCh
    | with_reducible apply keep_recordFault
    | with_reducible apply keep_setRb
    | with_reducible apply Good.ite
    | (intro _)
    | split
    | dsimp only

theorem keep_pageRead {p : Part} {g : Nat} {cw : List CwRead} (hg : Good p) : Good (Part.pageRead p g cw).2 := by
  unfold Part.pageRead
  repeat' first
    | with_reducible assumption
    | with_reducible apply keep_wakeChan
    | with_reducible apply keep_decodeCw
    | with_reducible apply keep_setBlk
    | with_reducible apply Good.foldl
    | with_reducible apply Good.foldl2
    | with_reducible apply Good.foldl1
    | (simp only [good_mk]; with_reducible apply Good.core)
    | with_reducible apply Good.ite
    | (intro _)
    | split
    | dsimp only

theorem keep_afterRead {p : Part} {g : Nat} {r : Part.PageRead} (hg : Good p) : Good (Part.afterRead p g r) := by
  unfold Part.afterRead
  repeat' first
    | with_reducible assumption
    | with_reducible apply keep_retireBlk
    | with_reducible apply keep_relocate
    | with_reducible apply keep_bumpCh
    | with_reducible apply Good.ite
    | (intro _)
    | split
    | dsimp only

theorem keep_loadPage {p : Part} {pg : Nat × Option Nat} {cw : List CwRead} (hg : Good p) : Good (Part.loadPage p pg cw).2 := by
  unfold Part.loadPage
  repeat' first
    | with_reducible assumption
    | with_reducible apply keep_pageRead
    | with_reducible apply keep_afterRead
    | with_reducible apply Good.ite
    | (intro _)
    | split
    | dsimp only

theorem keep_loadDrawer {p : Part} {d : Drawer} {cw : List CwRead} (hg : Good p) : Good (Part.loadDrawer p d cw).2 := by
  unfold Part.loadDrawer
  repeat' first
    | with_reducible assumption
    | with_reducible apply keep_loadPage
    | with_reducible apply Good.foldl
    | with_reducible apply Good.foldl2
    | with_reducible apply Good.foldl1
    | (simp only [good_mk]; with_reducible apply Good.core)
    | with_reducible apply Good.ite
    | (intro _)
    | split
    | dsimp only

theorem keep_setCmd {p : Part} {c : ChCmd} (hg : Good p) : Good (Part.setCmd p c) := by
  unfold Part.setCmd
  repeat' first
    | with_reducible assumption
    | (simp only [good_mk]; with_reducible apply Good.core)
    | with_reducible apply Good.ite
    | (intro _)
    | split
    | dsimp only

theorem keep_chestLoad {p : Part} {id : Nat} {cw : List CwRead} (hg : Good p) : Good (Part.chestLoad p id cw) := by
  unfold Part.chestLoad
  repeat' first
    | with_reducible assumption
    | with_reducible apply keep_setCmd
    | with_reducible apply keep_loadDrawer
    | with_reducible apply Memory.cleared_wf
    | with_reducible apply Good.onMem
    | exact Good.mem ‹_›
    | with_reducible apply Memory.write_wf
    | with_reducible apply Memory.hostWrite_wf
    | with_reducible apply Memory.hostPut_wf
    | with_reducible apply Memory.setPoison_wf
    | with_reducible apply Memory.openRange_wf
    | with_reducible apply Memory.zeroStack_wf
    | with_reducible apply Memory.foldl_wf
    | with_reducible apply Good.mem
    | (simp only [good_mk]; with_reducible apply Good.core)
    | with_reducible apply Good.ite
    | (intro _)
    | split
    | dsimp only

theorem keep_writePage {p : Part} {ch t : Nat} {x : List Byte} {fails : List Nat} {k : Nat} {r : Nat × Part} (hg : Good p)
    (h : p.writePage ch t x fails k = some r) : Good r.2 := by
  induction k generalizing p with
  | zero => cases h
  | succ k ih =>
    unfold Part.writePage at h
    split at h
    · cases h
    · split at h
      · exact ih (keep_retireBlk hg) h
      · cases h
        exact keep_program hg

theorem keep_writeLogical {p q : Part} {chs : List Nat} {i : Nat} {mirror : Bool} {x : List Byte} {fails : List Nat} (hg : Good p)
    (h : p.writeLogical chs i mirror x fails = some q) : Good q := by
  unfold Part.writeLogical at h
  obtain ⟨a, ha, h⟩ := Option.bind_eq_some_iff.mp h
  have ka := keep_writePage hg ha
  obtain ⟨b, hb, h⟩ := Option.map_eq_some_iff.mp h
  have kb : Good b.2 := by
    split at hb
    · obtain ⟨c, hc, hb⟩ := Option.map_eq_some_iff.mp hb
      exact hb ▸ keep_writePage ka hc
    · cases hb; exact ka
  subst h
  simp only [good_mk]
  exact kb.core

theorem keep_chestWrite {p : Part} {id : Nat} {fails : List Nat} (hg : Good p) : Good (Part.chestWrite p id fails) := by
  unfold Part.chestWrite
  repeat' first
    | with_reducible assumption
    | with_reducible apply keep_setCmd
    | with_reducible apply keep_Rd_read
    | with_reducible apply keep_wearAll
    | (with_reducible refine Good.foldlOpt (by with_reducible assumption) ?_ ?_ <;> first | exact (fun q h => by cases h; exact keep_setCmd hg) | exact (fun o a ho q hq => by obtain ⟨b, hb, h⟩ := Option.bind_eq_some_iff.mp hq; exact keep_writeLogical (ho b hb) h))
    | with_reducible apply Memory.cleared_wf
    | with_reducible apply Good.onMem
    | exact Good.mem ‹_›
    | with_reducible apply Memory.write_wf
    | with_reducible apply Memory.hostWrite_wf
    | with_reducible apply Memory.hostPut_wf
    | with_reducible apply Memory.setPoison_wf
    | with_reducible apply Memory.openRange_wf
    | with_reducible apply Memory.zeroStack_wf
    | with_reducible apply Memory.foldl_wf
    | with_reducible apply Good.mem
    | with_reducible apply Good.foldl
    | with_reducible apply Good.foldl2
    | with_reducible apply Good.foldl1
    | (simp only [good_mk]; with_reducible apply Good.core)
    | with_reducible apply Good.ite
    | (intro _)
    | split
    | dsimp only

theorem keep_chestDelete {p : Part} {id : Nat} (hg : Good p) : Good (Part.chestDelete p id) := by
  unfold Part.chestDelete
  repeat' first
    | with_reducible assumption
    | with_reducible apply keep_setCmd
    | with_reducible apply Good.ite
    | (intro _)
    | split
    | dsimp only

theorem keep_chestList {p : Part} (hg : Good p) : Good (Part.chestList p) := by
  unfold Part.chestList
  repeat' first
    | with_reducible assumption
    | with_reducible apply keep_setCmd
    | with_reducible apply keep_Rd_count
    | with_reducible apply Good.ite
    | (intro _)
    | split
    | dsimp only

theorem keep_chestGo {p : Part} {op id : Nat} {cw : List CwRead} {fails : List Nat} (hg : Good p) : Good (Part.chestGo p op id cw fails) := by
  unfold Part.chestGo
  repeat' first
    | with_reducible assumption
    | with_reducible apply keep_badAccess
    | with_reducible apply keep_setRb
    | with_reducible apply keep_withSpare
    | with_reducible apply keep_chestLoad
    | with_reducible apply keep_chestWrite
    | with_reducible apply keep_chestDelete
    | with_reducible apply keep_chestList
    | with_reducible apply Good.ite
    | (intro _)
    | split
    | dsimp only

theorem keep_chestCommit {p : Part} {c : ChCmd} (hg : Good p) : Good (Part.chestCommit p c) := by
  unfold Part.chestCommit
  repeat' first
    | with_reducible assumption
    | with_reducible apply keep_reclaim
    | (simp only [good_mk]; with_reducible apply Good.core)
    | with_reducible apply Good.ite
    | (intro _)
    | split
    | dsimp only

theorem keep_chestCmdDone {p : Part} (hg : Good p) : Good (Part.chestCmdDone p) := by
  unfold Part.chestCmdDone
  repeat' first
    | with_reducible assumption
    | with_reducible apply keep_withSpare
    | with_reducible apply keep_hbmStore
    | with_reducible apply keep_chestCommit
    | with_reducible apply keep_wearAll
    | with_reducible apply keep_bumpCh
    | with_reducible apply keep_Rd_count
    | with_reducible apply Good.setReg
    | with_reducible apply Memory.cleared_wf
    | with_reducible apply Good.onMem
    | exact Good.mem ‹_›
    | with_reducible apply Memory.write_wf
    | with_reducible apply Memory.hostWrite_wf
    | with_reducible apply Memory.hostPut_wf
    | with_reducible apply Memory.setPoison_wf
    | with_reducible apply Memory.openRange_wf
    | with_reducible apply Memory.zeroStack_wf
    | with_reducible apply Memory.foldl_wf
    | with_reducible apply Good.mem
    | with_reducible apply Good.foldl
    | with_reducible apply Good.foldl2
    | with_reducible apply Good.foldl1
    | (simp only [good_mk]; with_reducible apply Good.core)
    | with_reducible apply Good.ite
    | (intro _)
    | split
    | dsimp only

theorem keep_scrubPage {p : Part} {g : Nat} {cw : List CwRead} (hg : Good p) : Good (Part.scrubPage p g cw) := by
  unfold Part.scrubPage
  repeat' first
    | with_reducible assumption
    | with_reducible apply keep_pageRead
    | with_reducible apply keep_afterRead
    | with_reducible apply keep_bumpCh
    | with_reducible apply keep_relocate
    | with_reducible apply Good.ite
    | (intro _)
    | split
    | dsimp only

theorem keep_retentionScrub {p : Part} {ch g : Nat} {cw : List CwRead} (hg : Good p) : Good (Part.retentionScrub p ch g cw) := by
  unfold Part.retentionScrub
  repeat' first
    | with_reducible assumption
    | with_reducible apply keep_withSpare
    | with_reducible apply keep_scrubPage
    | with_reducible apply keep_setChan
    | (simp only [good_mk]; with_reducible apply Good.core)
    | with_reducible apply Good.ite
    | (intro _)
    | split
    | dsimp only

theorem keep_channelOffline {p : Part} {ch : Nat} (hg : Good p) : Good (Part.channelOffline p ch) := by
  unfold Part.channelOffline
  repeat' first
    | with_reducible assumption
    | with_reducible apply keep_badAccess
    | with_reducible apply keep_setChan
    | (simp only [good_mk]; with_reducible apply Good.core)
    | with_reducible apply Good.ite
    | (intro _)
    | split
    | dsimp only

theorem keep_channelOfflineDone {p : Part} {ch : Nat} (hg : Good p) : Good (Part.channelOfflineDone p ch) := by
  unfold Part.channelOfflineDone
  repeat' first
    | with_reducible assumption
    | with_reducible apply keep_setChan
    | with_reducible apply keep_setRb
    | (simp only [good_mk]; with_reducible apply Good.core)
    | with_reducible apply Good.ite
    | (intro _)
    | split
    | dsimp only

theorem keep_channelOnline {p : Part} {ch : Nat} (hg : Good p) : Good (Part.channelOnline p ch) := by
  unfold Part.channelOnline
  repeat' first
    | with_reducible assumption
    | with_reducible apply keep_setChan
    | (simp only [good_mk]; with_reducible apply Good.core)
    | with_reducible apply Good.ite
    | (intro _)
    | split
    | dsimp only

theorem keep_firstUse {p : Part} {ch : Nat} {marked : List Nat} (hg : Good p) : Good (Part.firstUse p ch marked) := by
  unfold Part.firstUse
  repeat' first
    | with_reducible assumption
    | with_reducible apply keep_badBlock
    | with_reducible apply Good.foldl
    | with_reducible apply Good.foldl2
    | with_reducible apply Good.foldl1
    | (simp only [good_mk]; with_reducible apply Good.core)
    | with_reducible apply Good.ite
    | (intro _)
    | split
    | dsimp only

theorem keep_replaceTarget {p : Part} {ch t : Nat} (hg : Good p) : Good (Part.replaceTarget p ch t) := by
  unfold Part.replaceTarget
  repeat' first
    | with_reducible assumption
    | with_reducible apply keep_bumpCh
    | (simp only [good_mk]; with_reducible apply Good.core)
    | with_reducible apply Good.ite
    | (intro _)
    | split
    | dsimp only

theorem keep_chanTrained {p : Part} {ch : Nat} {ok : Bool} {info : Nat} {marked : List Nat} (hg : Good p) : Good (Part.chanTrained p ch ok info marked) := by
  unfold Part.chanTrained
  repeat' first
    | with_reducible assumption
    | with_reducible apply keep_setChan
    | with_reducible apply keep_chanFatal
    | with_reducible apply keep_setRb
    | with_reducible apply keep_setRf
    | with_reducible apply keep_firstUse
    | (simp only [good_mk]; with_reducible apply Good.core)
    | with_reducible apply Good.ite
    | (intro _)
    | split
    | dsimp only

theorem keep_channelRetrainDone {p : Part} {ch : Nat} {ok : Bool} {info replaced : Nat} {marked : List Nat} {cw : List CwRead} (hg : Good p) : Good (Part.channelRetrainDone p ch ok info replaced marked cw) := by
  unfold Part.channelRetrainDone
  repeat' first
    | with_reducible assumption
    | with_reducible apply keep_replaceTarget
    | with_reducible apply keep_chanTrained
    | with_reducible apply keep_setChan
    | with_reducible apply keep_withSpare
    | with_reducible apply keep_scrubPage
    | with_reducible apply Good.foldl
    | with_reducible apply Good.foldl2
    | with_reducible apply Good.foldl1
    | (simp only [good_mk]; with_reducible apply Good.core)
    | with_reducible apply Good.ite
    | (intro _)
    | split
    | dsimp only

end Sys2Proof.Safety
end

