-- ==== Sys2Proof/Laws/KeepDovetail.lean ====
section
/-!
SUPPORT. Sys2Proof/Laws/KeepDovetail.lean: every operation of Machine/Dovetail.lean keeps a part good (Safety.Good).
-/

set_option linter.unusedSimpArgs false

namespace Sys2Proof.Safety
open Sys2Proof Sys2Proof.Machine

theorem keep_ackFlits {p : Part} {l ack : Nat} (hg : Good p) : Good (Part.ackFlits p l ack) := by
  unfold Part.ackFlits
  repeat' first
    | with_reducible assumption
    | with_reducible apply keep_setLink
    | (simp only [good_mk]; with_reducible apply Good.core)
    | with_reducible apply Good.ite
    | (intro _)
    | split
    | dsimp only

theorem keep_replayAll {p : Part} {l : Nat} (hg : Good p) : Good (Part.replayAll p l) := by
  unfold Part.replayAll
  repeat' first
    | with_reducible assumption
    | with_reducible apply keep_setLink
    | with_reducible apply keep_bumpLink
    | (simp only [good_mk]; with_reducible apply Good.core)
    | with_reducible apply Good.ite
    | (intro _)
    | split
    | dsimp only

theorem keep_dataFlit {p : Part} {l : Nat} {f : Flit} (hg : Good p) : Good (Part.dataFlit p l f) := by
  unfold Part.dataFlit
  repeat' first
    | with_reducible assumption
    | with_reducible apply keep_setLink
    | with_reducible apply keep_frees
    | with_reducible apply keep_bumpLink
    | with_reducible apply Good.foldl
    | with_reducible apply Good.foldl2
    | with_reducible apply Good.foldl1
    | (simp only [good_mk]; with_reducible apply Good.core)
    | with_reducible apply Good.ite
    | (intro _)
    | split
    | dsimp only

theorem keep_flitReceive {p : Part} {l : Nat} {f : Flit} (hg : Good p) : Good (Part.flitReceive p l f) := by
  unfold Part.flitReceive
  repeat' first
    | with_reducible assumption
    | with_reducible apply keep_bumpLink
    | with_reducible apply keep_setLink
    | with_reducible apply keep_ackFlits
    | with_reducible apply keep_replayAll
    | with_reducible apply keep_dataFlit
    | with_reducible apply keep_pump
    | with_reducible apply keep_reroute
    | with_reducible apply keep_ackNow
    | (simp only [good_mk]; with_reducible apply Good.core)
    | with_reducible apply Good.ite
    | (intro _)
    | split
    | dsimp only

theorem keep_startRetrain {p : Part} {l : Nat} (hg : Good p) : Good (Part.startRetrain p l) := by
  unfold Part.startRetrain
  repeat' first
    | with_reducible assumption
    | with_reducible apply keep_setLink
    | with_reducible apply keep_setLinkSt
    | with_reducible apply keep_bumpLink
    | with_reducible apply keep_recordFault
    | (simp only [good_mk]; with_reducible apply Good.core)
    | with_reducible apply Good.ite
    | (intro _)
    | split
    | dsimp only

theorem keep_lanesUp {p : Part} {l lanes : Nat} (hg : Good p) : Good (Part.lanesUp p l lanes) := by
  unfold Part.lanesUp
  repeat' first
    | with_reducible assumption
    | with_reducible apply keep_setLinkWidth
    | with_reducible apply keep_setLink
    | with_reducible apply keep_bumpLink
    | with_reducible apply keep_recordFault
    | (simp only [good_mk]; with_reducible apply Good.core)
    | with_reducible apply Good.ite
    | (intro _)
    | split
    | dsimp only

theorem keep_retrain {p : Part} {l : Nat} (hg : Good p) : Good (Part.retrain p l) := by
  unfold Part.retrain
  repeat' first
    | with_reducible assumption
    | with_reducible apply keep_startRetrain
    | with_reducible apply Good.ite
    | (intro _)
    | split
    | dsimp only

theorem keep_retrainDone {p : Part} {l lanes : Nat} (hg : Good p) : Good (Part.retrainDone p l lanes) := by
  unfold Part.retrainDone
  repeat' first
    | with_reducible assumption
    | with_reducible apply keep_linkDown
    | with_reducible apply keep_setLinkSt
    | with_reducible apply keep_lanesUp
    | with_reducible apply keep_replayAll
    | with_reducible apply keep_setLink
    | with_reducible apply keep_pump
    | with_reducible apply keep_reroute
    | (simp only [good_mk]; with_reducible apply Good.core)
    | with_reducible apply Good.ite
    | (intro _)
    | split
    | dsimp only

theorem keep_freshLink {p : Part} {l : Nat} (hg : Good p) : Good (Part.freshLink p l) := by
  unfold Part.freshLink
  repeat' first
    | with_reducible assumption
    | with_reducible apply keep_setLink
    | (simp only [good_mk]; with_reducible apply Good.core)
    | with_reducible apply Good.ite
    | (intro _)
    | split
    | dsimp only

theorem keep_trainDone {p : Part} {l lanes : Nat} (hg : Good p) : Good (Part.trainDone p l lanes) := by
  unfold Part.trainDone
  repeat' first
    | with_reducible assumption
    | with_reducible apply keep_linkDown
    | with_reducible apply keep_setLink
    | with_reducible apply keep_freshLink
    | with_reducible apply keep_setLinkSt
    | with_reducible apply keep_lanesUp
    | with_reducible apply keep_sendHello
    | (simp only [good_mk]; with_reducible apply Good.core)
    | with_reducible apply Good.ite
    | (intro _)
    | split
    | dsimp only

theorem keep_linkEnable {p : Part} {l : Nat} (hg : Good p) : Good (Part.linkEnable p l) := by
  unfold Part.linkEnable
  repeat' first
    | with_reducible assumption
    | with_reducible apply keep_setLink
    | with_reducible apply keep_setLinkSt
    | with_reducible apply Good.ite
    | (intro _)
    | split
    | dsimp only

theorem keep_linkDisable {p : Part} {l : Nat} (hg : Good p) : Good (Part.linkDisable p l) := by
  unfold Part.linkDisable
  repeat' first
    | with_reducible assumption
    | with_reducible apply keep_setLink
    | with_reducible apply keep_linkOff
    | (simp only [good_mk]; with_reducible apply Good.core)
    | with_reducible apply Good.ite
    | (intro _)
    | split
    | dsimp only

theorem keep_drainEnd {p : Part} {l : Nat} (hg : Good p) : Good (Part.drainEnd p l) := by
  unfold Part.drainEnd
  repeat' first
    | with_reducible assumption
    | with_reducible apply keep_ctxFault
    | with_reducible apply keep_linkOff
    | with_reducible apply keep_memberLost
    | with_reducible apply keep_reroute
    | with_reducible apply Good.foldl
    | with_reducible apply Good.foldl2
    | with_reducible apply Good.foldl1
    | with_reducible apply Good.ite
    | (intro _)
    | split
    | dsimp only

theorem keep_narrow {p : Part} {l : Nat} (hg : Good p) : Good (Part.narrow p l) := by
  unfold Part.narrow
  repeat' first
    | with_reducible assumption
    | with_reducible apply keep_setLinkWidth
    | with_reducible apply keep_bumpLink
    | with_reducible apply Good.ite
    | (intro _)
    | split
    | dsimp only

theorem keep_widenDone {p : Part} {l : Nat} (hg : Good p) : Good (Part.widenDone p l) := by
  unfold Part.widenDone
  repeat' first
    | with_reducible assumption
    | with_reducible apply keep_setLinkWidth
    | with_reducible apply keep_setLink
    | (simp only [good_mk]; with_reducible apply Good.core)
    | with_reducible apply Good.ite
    | (intro _)
    | split
    | dsimp only

theorem keep_helloTimer {p : Part} {l : Nat} (hg : Good p) : Good (Part.helloTimer p l) := by
  unfold Part.helloTimer
  repeat' first
    | with_reducible assumption
    | with_reducible apply keep_sendHello
    | with_reducible apply Good.ite
    | (intro _)
    | split
    | dsimp only

theorem keep_takeMsg {p : Part} {l cls op : Nat} {f : Part → DtMsg → Part} (hg : Good p) (hf : ∀ (a0 : Part) (a1 : DtMsg), Good a0 → Good (f a0 a1)) : Good (Part.takeMsg p l cls op f) := by
  unfold Part.takeMsg
  repeat' first
    | with_reducible assumption
    | with_reducible apply keep_setLink
    | with_reducible apply keep_frees
    | with_reducible apply keep_fenceSelf
    | with_reducible apply hf
    | (simp only [good_mk]; with_reducible apply Good.core)
    | with_reducible apply Good.ite
    | (intro _)
    | split
    | dsimp only

theorem keep_answer {p : Part} {m : DtMsg} {op : Nat} {poison : Bool} {bs : List Byte} (hg : Good p) : Good (Part.answer p m op poison bs) := by
  unfold Part.answer
  repeat' first
    | with_reducible assumption
    | with_reducible apply keep_route
    | with_reducible apply keep_Rd_row
    | (simp only [good_mk]; with_reducible apply Good.core)
    | with_reducible apply Good.ite
    | (intro _)
    | split
    | dsimp only

theorem keep_msgRead {p : Part} {l : Nat} (hg : Good p) : Good (Part.msgRead p l) := by
  unfold Part.msgRead
  repeat' first
    | with_reducible assumption
    | with_reducible apply keep_Rd_row
    | with_reducible apply keep_gateQueue
    | with_reducible apply keep_takeMsg
    | with_reducible apply keep_answer
    | with_reducible apply keep_bumpLink
    | with_reducible apply keep_rowOf
    | with_reducible apply Good.ite
    | (intro _)
    | split
    | dsimp only

theorem keep_msgWrite {p : Part} {l : Nat} (hg : Good p) : Good (Part.msgWrite p l) := by
  unfold Part.msgWrite
  repeat' first
    | with_reducible assumption
    | with_reducible apply keep_Rd_row
    | with_reducible apply keep_takeMsg
    | with_reducible apply keep_sendMgmt
    | with_reducible apply keep_bumpBench
    | with_reducible apply keep_bumpLink
    | with_reducible apply keep_rowWrite
    | with_reducible apply Good.bump
    | (simp only [good_mk]; with_reducible apply Good.core)
    | with_reducible apply Good.ite
    | (intro _)
    | split
    | dsimp only

theorem keep_msgData {p : Part} {l : Nat} (hg : Good p) : Good (Part.msgData p l) := by
  unfold Part.msgData
  repeat' first
    | with_reducible assumption
    | with_reducible apply keep_takeMsg
    | with_reducible apply keep_mapTask
    | (simp only [good_mk]; with_reducible apply Good.core)
    | with_reducible apply Good.ite
    | (intro _)
    | split
    | dsimp only

theorem keep_msgFenced {p : Part} {l : Nat} (hg : Good p) : Good (Part.msgFenced p l) := by
  unfold Part.msgFenced
  repeat' first
    | with_reducible assumption
    | with_reducible apply keep_takeMsg
    | with_reducible apply keep_route
    | (simp only [good_mk]; with_reducible apply Good.core)
    | with_reducible apply Good.ite
    | (intro _)
    | split
    | dsimp only

theorem keep_msgRefused {p : Part} {l : Nat} (hg : Good p) : Good (Part.msgRefused p l) := by
  unfold Part.msgRefused
  repeat' first
    | with_reducible assumption
    | with_reducible apply keep_takeMsg
    | with_reducible apply keep_ctxFault
    | (simp only [good_mk]; with_reducible apply Good.core)
    | with_reducible apply Good.ite
    | (intro _)
    | split
    | dsimp only

theorem keep_msgHello {p : Part} {l : Nat} (hg : Good p) : Good (Part.msgHello p l) := by
  unfold Part.msgHello
  repeat' first
    | with_reducible assumption
    | with_reducible apply keep_takeMsg
    | with_reducible apply keep_setLink
    | with_reducible apply keep_setRf
    | with_reducible apply keep_setRb
    | with_reducible apply keep_freshLink
    | with_reducible apply keep_setLinkSt
    | with_reducible apply keep_pump
    | with_reducible apply keep_reroute
    | with_reducible apply keep_reviewMembers
    | with_reducible apply keep_electNow
    | (simp only [good_mk]; with_reducible apply Good.core)
    | with_reducible apply Good.ite
    | (intro _)
    | split
    | dsimp only

theorem keep_msgPrepare {p : Part} {l : Nat} (hg : Good p) : Good (Part.msgPrepare p l) := by
  unfold Part.msgPrepare
  repeat' first
    | with_reducible assumption
    | with_reducible apply keep_takeMsg
    | with_reducible apply keep_answer
    | with_reducible apply keep_setJoinSt
    | with_reducible apply keep_electNow
    | with_reducible apply keep_ackNow
    | (simp only [good_mk]; with_reducible apply Good.core)
    | with_reducible apply Good.ite
    | (intro _)
    | split
    | dsimp only

theorem keep_msgAck {p : Part} {l : Nat} (hg : Good p) : Good (Part.msgAck p l) := by
  unfold Part.msgAck
  repeat' first
    | with_reducible assumption
    | with_reducible apply keep_takeMsg
    | with_reducible apply keep_commitNow
    | (simp only [good_mk]; with_reducible apply Good.core)
    | with_reducible apply Good.ite
    | (intro _)
    | split
    | dsimp only

theorem keep_msgCommit {p : Part} {l : Nat} (hg : Good p) : Good (Part.msgCommit p l) := by
  unfold Part.msgCommit
  repeat' first
    | with_reducible assumption
    | with_reducible apply keep_takeMsg
    | with_reducible apply keep_adopt
    | with_reducible apply Good.ite
    | (intro _)
    | split
    | dsimp only

theorem keep_msgTimeReq {p : Part} {l : Nat} (hg : Good p) : Good (Part.msgTimeReq p l) := by
  unfold Part.msgTimeReq
  repeat' first
    | with_reducible assumption
    | with_reducible apply keep_takeMsg
    | with_reducible apply keep_sendOn
    | (simp only [good_mk]; with_reducible apply Good.core)
    | with_reducible apply Good.ite
    | (intro _)
    | split
    | dsimp only

theorem keep_msgTimeResp {p : Part} {l : Nat} (hg : Good p) : Good (Part.msgTimeResp p l) := by
  unfold Part.msgTimeResp
  repeat' first
    | with_reducible assumption
    | with_reducible apply keep_takeMsg
    | with_reducible apply keep_setRf
    | with_reducible apply keep_setRb
    | with_reducible apply Good.bump
    | (simp only [good_mk]; with_reducible apply Good.core)
    | with_reducible apply Good.ite
    | (intro _)
    | split
    | dsimp only

theorem keep_msgNotice {p : Part} {l : Nat} (hg : Good p) : Good (Part.msgNotice p l) := by
  unfold Part.msgNotice
  repeat' first
    | with_reducible assumption
    | with_reducible apply keep_takeMsg
    | with_reducible apply keep_fenceSelf
    | with_reducible apply keep_memberLost
    | with_reducible apply keep_ctxFault
    | with_reducible apply Good.ite
    | (intro _)
    | split
    | dsimp only

theorem keep_readTimeout {p : Part} {tag : Nat} (hg : Good p) : Good (Part.readTimeout p tag) := by
  unfold Part.readTimeout
  repeat' first
    | with_reducible assumption
    | with_reducible apply keep_bumpLink
    | with_reducible apply keep_ctxFault
    | with_reducible apply Good.bump
    | (simp only [good_mk]; with_reducible apply Good.core)
    | with_reducible apply Good.ite
    | (intro _)
    | split
    | dsimp only

theorem keep_quietExpire {p : Part} (hg : Good p) : Good (Part.quietExpire p) := by
  unfold Part.quietExpire
  repeat' first
    | with_reducible assumption
    | with_reducible apply keep_electNow
    | with_reducible apply keep_prepareNow
    | with_reducible apply Good.ite
    | (intro _)
    | split
    | dsimp only

theorem keep_commitTimeout {p : Part} (hg : Good p) : Good (Part.commitTimeout p) := by
  unfold Part.commitTimeout
  repeat' first
    | with_reducible assumption
    | with_reducible apply keep_answer
    | with_reducible apply keep_electNow
    | (simp only [good_mk]; with_reducible apply Good.core)
    | with_reducible apply Good.ite
    | (intro _)
    | split
    | dsimp only

theorem keep_helloLoss {p : Part} {j : Nat} (hg : Good p) : Good (Part.helloLoss p j) := by
  unfold Part.helloLoss
  repeat' first
    | with_reducible assumption
    | with_reducible apply keep_memberLost
    | with_reducible apply Good.ite
    | (intro _)
    | split
    | dsimp only

theorem keep_timeTimer {p : Part} (hg : Good p) : Good (Part.timeTimer p) := by
  unfold Part.timeTimer
  repeat' first
    | with_reducible assumption
    | with_reducible apply keep_sendMgmt
    | (simp only [good_mk]; with_reducible apply Good.core)
    | with_reducible apply Good.ite
    | (intro _)
    | split
    | dsimp only

theorem keep_joinStart {p : Part} (hg : Good p) : Good (Part.joinStart p) := by
  unfold Part.joinStart
  repeat' first
    | with_reducible assumption
    | with_reducible apply keep_setJoinSt
    | with_reducible apply keep_electNow
    | with_reducible apply keep_helloTimer
    | with_reducible apply Good.foldl
    | with_reducible apply Good.foldl2
    | with_reducible apply Good.foldl1
    | with_reducible apply Good.ite
    | (intro _)
    | split
    | dsimp only

theorem keep_joinStop {p : Part} (hg : Good p) : Good (Part.joinStop p) := by
  unfold Part.joinStop
  repeat' first
    | with_reducible assumption
    | with_reducible apply keep_sendMgmt
    | with_reducible apply keep_answer
    | with_reducible apply keep_setJoinSt
    | with_reducible apply Good.foldl
    | with_reducible apply Good.foldl2
    | with_reducible apply Good.foldl1
    | (simp only [good_mk]; with_reducible apply Good.core)
    | with_reducible apply Good.ite
    | (intro _)
    | split
    | dsimp only

end Sys2Proof.Safety
end

