-- ==== Sys2Proof/Laws/KeepDowel.lean ====
section
/-!
SUPPORT. Sys2Proof/Laws/KeepDowel.lean: every operation of Machine/Dowel.lean keeps a part good (Safety.Good).
-/

set_option linter.unusedSimpArgs false

namespace Sys2Proof.Safety
open Sys2Proof Sys2Proof.Machine

theorem keep_dowelErr {p : Part} {d : Nat} {again : Bool} (hg : Good p) : Good (Part.dowelErr p d again) := by
  unfold Part.dowelErr
  repeat' first
    | with_reducible assumption
    | with_reducible apply keep_setDowel
    | with_reducible apply keep_recordFault
    | with_reducible apply Good.bump
    | (simp only [good_mk]; with_reducible apply Good.core)
    | with_reducible apply Good.ite
    | (intro _)
    | split
    | dsimp only

theorem keep_dowelDone {p : Part} {d : Nat} {ok : Bool} (hg : Good p) : Good (Part.dowelDone p d ok) := by
  unfold Part.dowelDone
  repeat' first
    | with_reducible assumption
    | with_reducible apply keep_setDowel
    | with_reducible apply keep_benchDieFatal
    | with_reducible apply Good.ite
    | (intro _)
    | split
    | dsimp only

theorem keep_probeGo {p : Part} (hg : Good p) : Good (Part.probeGo p) := by
  unfold Part.probeGo
  repeat' first
    | with_reducible assumption
    | with_reducible apply keep_setRb
    | (simp only [good_mk]; with_reducible apply Good.core)
    | with_reducible apply Good.ite
    | (intro _)
    | split
    | dsimp only

theorem keep_probeDone {p : Part} (hg : Good p) : Good (Part.probeDone p) := by
  unfold Part.probeDone
  repeat' first
    | with_reducible assumption
    | with_reducible apply keep_setRb
    | with_reducible apply Good.setReg
    | (simp only [good_mk]; with_reducible apply Good.core)
    | with_reducible apply Good.ite
    | (intro _)
    | split
    | dsimp only

end Sys2Proof.Safety
end

