-- ==== Sys2Proof/Laws/KeepHostRings.lean ====
section
/-!
SUPPORT. Sys2Proof/Laws/KeepHostRings.lean: every operation of Machine/HostRings.lean keeps a part good (Safety.Good).
-/

set_option linter.unusedSimpArgs false

namespace Sys2Proof.Safety
open Sys2Proof Sys2Proof.Machine

theorem keep_setWatch {p : Part} {fn : Nat} {x : Watch} (hg : Good p) : Good (Part.setWatch p fn x) := by
  unfold Part.setWatch
  repeat' first
    | with_reducible assumption
    | (simp only [good_mk]; with_reducible apply Good.core)
    | with_reducible apply Good.ite
    | (intro _)
    | split
    | dsimp only

theorem keep_watchErr {p : Part} {fn : Nat} {st : RdStat} (hg : Good p) : Good (Part.watchErr p fn st) := by
  unfold Part.watchErr
  repeat' first
    | with_reducible assumption
    | with_reducible apply keep_hostReadErr
    | with_reducible apply Good.bump
    | with_reducible apply Good.ite
    | (intro _)
    | split
    | dsimp only

theorem keep_ringReadFault {p : Part} {c ring : Nat} {st : RdStat} (hg : Good p) : Good (Part.ringReadFault p c ring st) := by
  unfold Part.ringReadFault
  repeat' first
    | with_reducible assumption
    | with_reducible apply keep_hostReadErr
    | with_reducible apply keep_ctxFault
    | with_reducible apply Good.ite
    | (intro _)
    | split
    | dsimp only

theorem keep_watchRound {p : Part} {fn : Nat} (hg : Good p) : Good (Part.watchRound p fn) := by
  unfold Part.watchRound
  repeat' first
    | with_reducible assumption
    | with_reducible apply keep_setWatch
    | with_reducible apply keep_bumpFn
    | with_reducible apply keep_request
    | (simp only [good_mk]; with_reducible apply Good.core)
    | with_reducible apply Good.ite
    | (intro _)
    | split
    | dsimp only

theorem keep_shadow {p : Part} {r : Nat} (hg : Good p) : Good (Part.shadow p r) := by
  unfold Part.shadow
  repeat' first
    | with_reducible assumption
    | with_reducible apply keep_setSq
    | with_reducible apply keep_hostPost
    | (simp only [good_mk]; with_reducible apply Good.core)
    | with_reducible apply Good.ite
    | (intro _)
    | split
    | dsimp only

theorem keep_endRound {p : Part} {fn : Nat} (hg : Good p) : Good (Part.endRound p fn) := by
  unfold Part.endRound
  repeat' first
    | with_reducible assumption
    | with_reducible apply keep_shadow
    | with_reducible apply keep_setWatch
    | with_reducible apply Good.foldl
    | with_reducible apply Good.foldl2
    | with_reducible apply Good.foldl1
    | (simp only [good_mk]; with_reducible apply Good.core)
    | with_reducible apply Good.ite
    | (intro _)
    | split
    | dsimp only

theorem keep_sweepDue {p : Part} {r : Nat} (hg : Good p) : Good (Part.sweepDue p r) := by
  unfold Part.sweepDue
  repeat' first
    | with_reducible assumption
    | with_reducible apply keep_setSq
    | (simp only [good_mk]; with_reducible apply Good.core)
    | with_reducible apply Good.ite
    | (intro _)
    | split
    | dsimp only

theorem keep_bitmapReadDone {p : Part} {fn : Nat} {st : RdStat} {hw : Cells} (hg : Good p) : Good (Part.bitmapReadDone p fn st hw) := by
  unfold Part.bitmapReadDone
  repeat' first
    | with_reducible assumption
    | with_reducible apply keep_hostSees
    | with_reducible apply keep_setWatch
    | with_reducible apply keep_watchErr
    | with_reducible apply keep_setSq
    | with_reducible apply keep_bumpHif
    | with_reducible apply keep_endRound
    | with_reducible apply Memory.cleared_wf
    | with_reducible apply Good.onMem
    | exact Good.mem ‹_›
    | with_reducible apply Memory.write_wf
    | with_reducible apply Memory.hostWrite_wf
    | with_reducible apply Memory.hostPut_wf
    | with_reducible apply Memory.setPoison_wf
    | with_reducible apply Memory.openRange_wf
    | with_reducible apply Memory.zeroStack_wf
    | with_reducible apply Memory.foldl_wf
    | with_reducible apply Good.mem
    | with_reducible apply Good.foldl
    | with_reducible apply Good.foldl2
    | with_reducible apply Good.foldl1
    | (simp only [good_mk]; with_reducible apply Good.core)
    | with_reducible apply Good.ite
    | (intro _)
    | split
    | dsimp only

theorem keep_doorbellReadDone {p : Part} {r : Nat} {st : RdStat} {hw : Cells} (hg : Good p) : Good (Part.doorbellReadDone p r st hw) := by
  unfold Part.doorbellReadDone
  repeat' first
    | with_reducible assumption
    | with_reducible apply keep_hostSees
    | with_reducible apply keep_setSq
    | with_reducible apply keep_watchErr
    | with_reducible apply keep_endRound
    | with_reducible apply keep_bumpHif
    | with_reducible apply keep_setWatch
    | with_reducible apply Memory.cleared_wf
    | with_reducible apply Good.onMem
    | exact Good.mem ‹_›
    | with_reducible apply Memory.write_wf
    | with_reducible apply Memory.hostWrite_wf
    | with_reducible apply Memory.hostPut_wf
    | with_reducible apply Memory.setPoison_wf
    | with_reducible apply Memory.openRange_wf
    | with_reducible apply Memory.zeroStack_wf
    | with_reducible apply Memory.foldl_wf
    | with_reducible apply Good.mem
    | (simp only [good_mk]; with_reducible apply Good.core)
    | with_reducible apply Good.ite
    | (intro _)
    | split
    | dsimp only

theorem keep_wakeJig {p : Part} {n : Nat} (hg : Good p) : Good (Part.wakeJig p n) := by
  unfold Part.wakeJig
  repeat' first
    | with_reducible assumption
    | with_reducible apply keep_pllOff
    | with_reducible apply Good.bump
    | (simp only [good_mk]; with_reducible apply Good.core)
    | with_reducible apply Good.ite
    | (intro _)
    | split
    | dsimp only

theorem keep_acceptJob {p : Part} {r seq graph : Nat} (hg : Good p) : Good (Part.acceptJob p r seq graph) := by
  unfold Part.acceptJob
  repeat' first
    | with_reducible assumption
    | with_reducible apply keep_free
    | with_reducible apply keep_Rd_free
    | with_reducible apply keep_setJob
    | with_reducible apply keep_setSq
    | with_reducible apply keep_wakeJig
    | with_reducible apply keep_setHold
    | (simp only [good_mk]; with_reducible apply Good.core)
    | with_reducible apply Good.ite
    | (intro _)
    | split
    | dsimp only

theorem keep_submissionEntry {p : Part} {r : Nat} {st : RdStat} {hw : Cells} (hg : Good p) : Good (Part.submissionEntry p r st hw) := by
  unfold Part.submissionEntry
  repeat' first
    | with_reducible assumption
    | with_reducible apply keep_setSq
    | with_reducible apply keep_endRound
    | with_reducible apply keep_request
    | with_reducible apply keep_hostSees
    | with_reducible apply keep_ringReadFault
    | with_reducible apply keep_bumpHif
    | with_reducible apply keep_ctxFault
    | with_reducible apply keep_bumpJig
    | with_reducible apply keep_acceptJob
    | with_reducible apply Good.bump
    | with_reducible apply Memory.cleared_wf
    | with_reducible apply Good.onMem
    | exact Good.mem ‹_›
    | with_reducible apply Memory.write_wf
    | with_reducible apply Memory.hostWrite_wf
    | with_reducible apply Memory.hostPut_wf
    | with_reducible apply Memory.setPoison_wf
    | with_reducible apply Memory.openRange_wf
    | with_reducible apply Memory.zeroStack_wf
    | with_reducible apply Memory.foldl_wf
    | with_reducible apply Good.mem
    | (simp only [good_mk]; with_reducible apply Good.core)
    | with_reducible apply Good.ite
    | (intro _)
    | split
    | dsimp only

theorem keep_graphHeaderRead {p : Part} {j : Nat} {st : RdStat} {hw : Cells} (hg : Good p) : Good (Part.graphHeaderRead p j st hw) := by
  unfold Part.graphHeaderRead
  repeat' first
    | with_reducible assumption
    | with_reducible apply keep_hostSees
    | with_reducible apply keep_engage
    | with_reducible apply keep_Rd_controlNat
    | with_reducible apply keep_setJob
    | (simp only [good_mk]; with_reducible apply Good.core)
    | with_reducible apply Good.ite
    | (intro _)
    | dsimp only
    | with_reducible apply Keep.stopId
    | with_reducible apply Keep.partBind
    | with_reducible apply Keep.bind
    | with_reducible apply Keep.pure
    | with_reducible apply Keep.onPart
    | with_reducible apply Keep.who
    | with_reducible apply Keep.fault
    | with_reducible apply Keep.addrFault
    | with_reducible apply Keep.need
    | with_reducible apply Keep.foldlM
    | with_reducible apply Keep.forM
    | with_reducible apply Keep.mapM
    | with_reducible apply Keep.map
    | with_reducible apply Keep.discard
    | with_reducible apply Keep.ite
    | with_reducible apply Keep.stop
    | split

theorem keep_msixModTimer {p : Part} {q : Nat} (hg : Good p) : Good (Part.msixModTimer p q) := by
  unfold Part.msixModTimer
  repeat' first
    | with_reducible assumption
    | with_reducible apply keep_cqSignal
    | with_reducible apply Good.ite
    | (intro _)
    | split
    | dsimp only

theorem keep_returnLinePoll {p : Part} {q : Nat} (hg : Good p) : Good (Part.returnLinePoll p q) := by
  unfold Part.returnLinePoll
  repeat' first
    | with_reducible assumption
    | with_reducible apply keep_readReturn
    | with_reducible apply Good.ite
    | (intro _)
    | split
    | dsimp only

theorem keep_returnLineReadDone {p : Part} {q : Nat} {st : RdStat} {hw : Cells} (hg : Good p) : Good (Part.returnLineReadDone p q st hw) := by
  unfold Part.returnLineReadDone
  repeat' first
    | with_reducible assumption
    | with_reducible apply keep_hostSees
    | with_reducible apply keep_setCq
    | with_reducible apply keep_ringReadFault
    | with_reducible apply keep_bumpHif
    | with_reducible apply keep_cqDrain
    | with_reducible apply Memory.cleared_wf
    | with_reducible apply Good.onMem
    | exact Good.mem ‹_›
    | with_reducible apply Memory.write_wf
    | with_reducible apply Memory.hostWrite_wf
    | with_reducible apply Memory.hostPut_wf
    | with_reducible apply Memory.setPoison_wf
    | with_reducible apply Memory.openRange_wf
    | with_reducible apply Memory.zeroStack_wf
    | with_reducible apply Memory.foldl_wf
    | with_reducible apply Good.mem
    | (simp only [good_mk]; with_reducible apply Good.core)
    | with_reducible apply Good.ite
    | (intro _)
    | split
    | dsimp only

theorem keep_completionTimeout {p : Part} {kind idx : Nat} (hg : Good p) : Good (Part.completionTimeout p kind idx) := by
  unfold Part.completionTimeout
  repeat' first
    | with_reducible assumption
    | with_reducible apply keep_setWatch
    | with_reducible apply keep_watchErr
    | with_reducible apply keep_setSq
    | with_reducible apply keep_endRound
    | with_reducible apply keep_ringReadFault
    | with_reducible apply keep_setCq
    | (simp only [good_mk]; with_reducible apply Good.core)
    | with_reducible apply Good.ite
    | (intro _)
    | split
    | dsimp only

end Sys2Proof.Safety
end

