-- ==== Sys2Proof/Laws/KeepPcie.lean ====
section
/-!
SUPPORT. Sys2Proof/Laws/KeepPcie.lean: every operation of Machine/Pcie.lean keeps a part good (Safety.Good).
-/

set_option linter.unusedSimpArgs false

namespace Sys2Proof.Safety
open Sys2Proof Sys2Proof.Machine

theorem keep_configReset {p : Part} {f : Nat → Bool} (hg : Good p) : Good (Part.configReset p f) := by
  unfold Part.configReset
  repeat' first
    | with_reducible assumption
    | (simp only [good_mk]; with_reducible apply Good.core)
    | with_reducible apply Good.ite
    | (intro _)
    | split
    | dsimp only

theorem keep_vfsOff {p : Part} (hg : Good p) : Good (Part.vfsOff p) := by
  unfold Part.vfsOff
  repeat' first
    | with_reducible assumption
    | (simp only [good_mk]; with_reducible apply Good.core)
    | with_reducible apply Good.ite
    | (intro _)
    | split
    | dsimp only

theorem keep_portEvent {p : Part} {port : Nat} {f : Part → Nat → Bool} (hg : Good p) : Good (Part.portEvent p port f) := by
  unfold Part.portEvent
  repeat' first
    | with_reducible assumption
    | with_reducible apply keep_ctxFault
    | with_reducible apply keep_bumpPort
    | with_reducible apply Good.foldl
    | with_reducible apply Good.foldl2
    | with_reducible apply Good.foldl1
    | with_reducible apply Good.ite
    | (intro _)
    | split
    | dsimp only

theorem keep_portReset {p : Part} {port : Nat} (hg : Good p) : Good (Part.portReset p port) := by
  unfold Part.portReset
  repeat' first
    | with_reducible assumption
    | with_reducible apply keep_configReset
    | with_reducible apply keep_vfsOff
    | with_reducible apply keep_portEvent
    | with_reducible apply Good.ite
    | (intro _)
    | split
    | dsimp only

theorem keep_linkLost {p : Part} {port : Nat} {trains : Bool} (hg : Good p) : Good (Part.linkLost p port trains) := by
  unfold Part.linkLost
  repeat' first
    | with_reducible assumption
    | (simp only [good_mk]; with_reducible apply Good.core)
    | with_reducible apply Good.ite
    | (intro _)
    | split
    | dsimp only

theorem keep_perstAssert {p : Part} {port : Nat} (hg : Good p) : Good (Part.perstAssert p port) := by
  unfold Part.perstAssert
  repeat' first
    | with_reducible assumption
    | with_reducible apply keep_linkLost
    | with_reducible apply keep_portReset
    | (simp only [good_mk]; with_reducible apply Good.core)
    | with_reducible apply Good.ite
    | (intro _)
    | split
    | dsimp only

theorem keep_perstDeassert {p : Part} {port : Nat} (hg : Good p) : Good (Part.perstDeassert p port) := by
  unfold Part.perstDeassert
  repeat' first
    | with_reducible assumption
    | (simp only [good_mk]; with_reducible apply Good.core)
    | with_reducible apply Good.ite
    | (intro _)
    | split
    | dsimp only

theorem keep_linkUpEvent {p : Part} {port : Nat} (hg : Good p) : Good (Part.linkUpEvent p port) := by
  unfold Part.linkUpEvent
  repeat' first
    | with_reducible assumption
    | (simp only [good_mk]; with_reducible apply Good.core)
    | with_reducible apply Good.ite
    | (intro _)
    | split
    | dsimp only

theorem keep_hotReset {p : Part} {port : Nat} (hg : Good p) : Good (Part.hotReset p port) := by
  unfold Part.hotReset
  repeat' first
    | with_reducible assumption
    | with_reducible apply keep_linkLost
    | with_reducible apply keep_portReset
    | with_reducible apply Good.ite
    | (intro _)
    | split
    | dsimp only

theorem keep_linkDownEvent {p : Part} {port : Nat} (hg : Good p) : Good (Part.linkDownEvent p port) := by
  unfold Part.linkDownEvent
  repeat' first
    | with_reducible assumption
    | with_reducible apply keep_linkLost
    | with_reducible apply keep_portReset
    | with_reducible apply Good.ite
    | (intro _)
    | split
    | dsimp only

theorem keep_pfReset {p : Part} {port : Nat} (hg : Good p) : Good (Part.pfReset p port) := by
  unfold Part.pfReset
  repeat' first
    | with_reducible assumption
    | with_reducible apply keep_configReset
    | with_reducible apply keep_vfsOff
    | with_reducible apply keep_portEvent
    | with_reducible apply Good.ite
    | (intro _)
    | split
    | dsimp only

theorem keep_pfFlr {p : Part} {port : Nat} (hg : Good p) : Good (Part.pfFlr p port) := by
  unfold Part.pfFlr
  repeat' first
    | with_reducible assumption
    | with_reducible apply keep_pfReset
    | with_reducible apply Good.ite
    | (intro _)
    | split
    | dsimp only

theorem keep_vfReset {p : Part} {v : Nat} (hg : Good p) : Good (Part.vfReset p v) := by
  unfold Part.vfReset
  repeat' first
    | with_reducible assumption
    | with_reducible apply keep_configReset
    | with_reducible apply keep_portEvent
    | with_reducible apply Good.ite
    | (intro _)
    | split
    | dsimp only

theorem keep_vfFlr {p : Part} {v : Nat} (hg : Good p) : Good (Part.vfFlr p v) := by
  unfold Part.vfFlr
  repeat' first
    | with_reducible assumption
    | with_reducible apply keep_vfReset
    | with_reducible apply Good.ite
    | (intro _)
    | split
    | dsimp only

theorem keep_vfEnableClear {p : Part} {n : Nat} {en : Bool} (hg : Good p) : Good (Part.vfEnableClear p n en) := by
  unfold Part.vfEnableClear
  repeat' first
    | with_reducible assumption
    | with_reducible apply keep_configReset
    | with_reducible apply keep_portEvent
    | (simp only [good_mk]; with_reducible apply Good.core)
    | with_reducible apply Good.ite
    | (intro _)
    | split
    | dsimp only

theorem keep_d3Entry {p : Part} {port fn : Nat} (hg : Good p) : Good (Part.d3Entry p port fn) := by
  unfold Part.d3Entry
  repeat' first
    | with_reducible assumption
    | with_reducible apply keep_pfReset
    | with_reducible apply keep_vfReset
    | (simp only [good_mk]; with_reducible apply Good.core)
    | with_reducible apply Good.ite
    | (intro _)
    | split
    | dsimp only

theorem keep_configWrite {p : Part} {port fn : Nat} {ctl : FnCtl} {vfEn : Bool} {numVfs : Nat} (hg : Good p) : Good (Part.configWrite p port fn ctl vfEn numVfs) := by
  unfold Part.configWrite
  repeat' first
    | with_reducible assumption
    | with_reducible apply keep_sendPending
    | with_reducible apply Good.foldl
    | with_reducible apply Good.foldl2
    | with_reducible apply Good.foldl1
    | (simp only [good_mk]; with_reducible apply Good.core)
    | with_reducible apply Good.ite
    | (intro _)
    | split
    | dsimp only

theorem keep_unmask {p : Part} {port fn : Nat} {w : VecWrite} (hg : Good p) : Good (Part.unmask p port fn w) := by
  unfold Part.unmask
  repeat' first
    | with_reducible assumption
    | with_reducible apply keep_sendPending
    | with_reducible apply keep_setVec
    | with_reducible apply Good.ite
    | (intro _)
    | split
    | dsimp only

end Sys2Proof.Safety
end

