-- ==== Sys2Proof/Laws/KeepPower.lean ====
section
/-!
SUPPORT. Sys2Proof/Laws/KeepPower.lean: every operation of Machine/Power.lean keeps a part good (Safety.Good).
-/

set_option linter.unusedSimpArgs false

namespace Sys2Proof.Safety
open Sys2Proof Sys2Proof.Machine

theorem keep_markReset {p : Part} (hg : Good p) : Good (Part.markReset p).2 := by
  unfold Part.markReset
  repeat' first
    | with_reducible assumption
    | with_reducible apply keep_shadow
    | with_reducible apply keep_free
    | with_reducible apply keep_Rd_free
    | with_reducible apply keep_Rd_write
    | with_reducible apply keep_Rd_read
    | (simp only [good_mk]; with_reducible apply Good.core)
    | with_reducible apply Good.ite
    | (intro _)
    | split
    | dsimp only

theorem keep_cleared {p : Part} (hg : Good p) : Good (Part.cleared p) := by
  unfold Part.cleared
  repeat' first
    | with_reducible assumption
    | with_reducible apply keep_markReset
    | (simp only [good_mk]; exact ⟨Memory.hostOnly_wf hg.mem, rfl, rfl, (fun _ h => nomatch h), rfl, fun _ h => nomatch h⟩)
    | with_reducible apply Memory.cleared_wf
    | with_reducible apply Good.onMem
    | exact Good.mem ‹_›
    | with_reducible apply Memory.write_wf
    | with_reducible apply Memory.hostWrite_wf
    | with_reducible apply Memory.hostPut_wf
    | with_reducible apply Memory.setPoison_wf
    | with_reducible apply Memory.openRange_wf
    | with_reducible apply Memory.zeroStack_wf
    | with_reducible apply Memory.foldl_wf
    | with_reducible apply Good.mem
    | (simp only [good_mk]; with_reducible apply Good.core)
    | with_reducible apply Good.ite
    | (intro _)
    | split
    | dsimp only

theorem keep_packageOff {p : Part} {cause : Nat} (hg : Good p) : Good (Part.packageOff p cause) := by
  unfold Part.packageOff
  repeat' first
    | with_reducible assumption
    | with_reducible apply keep_cleared
    | (simp only [good_mk]; with_reducible apply Good.core)
    | with_reducible apply Good.ite
    | (intro _)
    | split
    | dsimp only

theorem keep_railStep {p : Part} {u : Nat} (hg : Good p) : Good (Part.railStep p u) := by
  unfold Part.railStep
  repeat' first
    | with_reducible assumption
    | (simp only [good_mk]; with_reducible apply Good.core)
    | with_reducible apply Good.ite
    | (intro _)
    | split
    | dsimp only

theorem keep_railsLit {p : Part} {u : Nat} (hg : Good p) : Good (Part.railsLit p u) := by
  unfold Part.railsLit
  repeat' first
    | with_reducible assumption
    | (simp only [good_mk]; with_reducible apply Good.core)
    | with_reducible apply Good.ite
    | (intro _)
    | split
    | dsimp only

theorem keep_tickRails {p : Part} (hg : Good p) : Good (Part.tickRails p) := by
  unfold Part.tickRails
  repeat' first
    | with_reducible assumption
    | with_reducible apply keep_free
    | with_reducible apply keep_Rd_free
    | with_reducible apply keep_railStep
    | with_reducible apply Good.foldl
    | with_reducible apply Good.foldl2
    | with_reducible apply Good.foldl1
    | with_reducible apply Good.ite
    | (intro _)
    | split
    | dsimp only

theorem keep_release {p : Part} {straps : Nat} (hg : Good p) : Good (Part.release p straps) := by
  unfold Part.release
  repeat' first
    | with_reducible assumption
    | with_reducible apply keep_railsUp
    | with_reducible apply Good.setReg
    | (simp only [good_mk]; with_reducible apply Good.core)
    | with_reducible apply Good.ite
    | (intro _)
    | split
    | dsimp only

theorem keep_restart {p : Part} {cause : Nat} {fatal : Option Nat} {straps : Nat} (hg : Good p) : Good (Part.restart p cause fatal straps) := by
  unfold Part.restart
  repeat' first
    | with_reducible assumption
    | with_reducible apply keep_cleared
    | with_reducible apply keep_release
    | with_reducible apply keep_recordFault
    | (simp only [good_mk]; with_reducible apply Good.core)
    | with_reducible apply Good.ite
    | (intro _)
    | split
    | dsimp only

theorem keep_powerOn {p : Part} {mv : Nat} {aonLost : Bool} {straps : Nat} (hg : Good p) : Good (Part.powerOn p mv aonLost straps) := by
  unfold Part.powerOn
  repeat' first
    | with_reducible assumption
    | with_reducible apply keep_restart
    | (simp only [good_mk]; with_reducible apply Good.core)
    | with_reducible apply Good.ite
    | (intro _)
    | split
    | dsimp only

theorem keep_brownOut {p : Part} (hg : Good p) : Good (Part.brownOut p) := by
  unfold Part.brownOut
  repeat' first
    | with_reducible assumption
    | with_reducible apply keep_packageOff
    | with_reducible apply Good.ite
    | (intro _)
    | split
    | dsimp only

theorem keep_overVoltage {p : Part} {mv : Nat} (hg : Good p) : Good (Part.overVoltage p mv) := by
  unfold Part.overVoltage
  repeat' first
    | with_reducible assumption
    | with_reducible apply keep_packageOff
    | with_reducible apply Good.ite
    | (intro _)
    | split
    | dsimp only

theorem keep_ovRecovery {p : Part} {straps : Nat} (hg : Good p) : Good (Part.ovRecovery p straps) := by
  unfold Part.ovRecovery
  repeat' first
    | with_reducible assumption
    | with_reducible apply keep_restart
    | with_reducible apply Good.ite
    | (intro _)
    | split
    | dsimp only

theorem keep_thermalEnd {p : Part} (hg : Good p) : Good (Part.thermalEnd p) := by
  unfold Part.thermalEnd
  repeat' first
    | with_reducible assumption
    | with_reducible apply keep_restart
    | with_reducible apply Good.ite
    | (intro _)
    | split
    | dsimp only

theorem keep_rstAssert {p : Part} {ns : Nat} (hg : Good p) : Good (Part.rstAssert p ns) := by
  unfold Part.rstAssert
  repeat' first
    | with_reducible assumption
    | with_reducible apply keep_cleared
    | (simp only [good_mk]; with_reducible apply Good.core)
    | with_reducible apply Good.ite
    | (intro _)
    | split
    | dsimp only

theorem keep_rstRelease {p : Part} {straps : Nat} (hg : Good p) : Good (Part.rstRelease p straps) := by
  unfold Part.rstRelease
  repeat' first
    | with_reducible assumption
    | with_reducible apply keep_thermalEnd
    | with_reducible apply keep_release
    | with_reducible apply keep_recordFault
    | (simp only [good_mk]; with_reducible apply Good.core)
    | with_reducible apply Good.ite
    | (intro _)
    | split
    | dsimp only

theorem keep_frameDieFatal {p : Part} {m code : Nat} (hg : Good p) : Good (Part.frameDieFatal p m code) := by
  unfold Part.frameDieFatal
  repeat' first
    | with_reducible assumption
    | with_reducible apply keep_recordFault
    | with_reducible apply keep_setRb
    | with_reducible apply keep_stackDown
    | with_reducible apply keep_chanDown
    | with_reducible apply keep_linkDown
    | with_reducible apply keep_setCup
    | with_reducible apply keep_aesFlag
    | with_reducible apply keep_setRefState
    | with_reducible apply keep_allHear
    | with_reducible apply keep_teardownAll
    | with_reducible apply Good.foldl
    | with_reducible apply Good.foldl2
    | with_reducible apply Good.foldl1
    | (simp only [good_mk]; with_reducible apply Good.core)
    | with_reducible apply Good.ite
    | (intro _)
    | split
    | dsimp only

theorem keep_aonFault {p : Part} {die : Nat} (hg : Good p) : Good (Part.aonFault p die) := by
  unfold Part.aonFault
  repeat' first
    | with_reducible assumption
    | with_reducible apply keep_packageOff
    | (simp only [good_mk]; with_reducible apply Good.core)
    | with_reducible apply Good.ite
    | (intro _)
    | split
    | dsimp only

theorem keep_regulatorFault {p : Part} {die sect : Nat} (hg : Good p) : Good (Part.regulatorFault p die sect) := by
  unfold Part.regulatorFault
  repeat' first
    | with_reducible assumption
    | with_reducible apply keep_aonFault
    | with_reducible apply keep_benchDieFatal
    | with_reducible apply keep_frameDieFatal
    | with_reducible apply keep_stackFatal
    | with_reducible apply keep_railsDown
    | with_reducible apply Good.foldl
    | with_reducible apply Good.foldl2
    | with_reducible apply Good.foldl1
    | with_reducible apply Good.ite
    | (intro _)
    | split
    | dsimp only

theorem keep_fwStart {p : Part} {source major minor : Nat} {fallback : Bool} (hg : Good p) : Good (Part.fwStart p source major minor fallback) := by
  unfold Part.fwStart
  repeat' first
    | with_reducible assumption
    | with_reducible apply keep_setRf
    | with_reducible apply keep_setRb
    | with_reducible apply keep_railsUp
    | with_reducible apply Good.foldl
    | with_reducible apply Good.foldl2
    | with_reducible apply Good.foldl1
    | with_reducible apply Good.ite
    | (intro _)
    | split
    | dsimp only

theorem keep_slotBoot {p : Part} {ok : Bool} (hg : Good p) : Good (Part.slotBoot p ok) := by
  unfold Part.slotBoot
  repeat' first
    | with_reducible assumption
    | with_reducible apply keep_fwStart
    | with_reducible apply keep_setRb
    | with_reducible apply keep_setRf
    | with_reducible apply Good.ite
    | (intro _)
    | split
    | dsimp only

theorem keep_portsDetect {p : Part} (hg : Good p) : Good (Part.portsDetect p) := by
  unfold Part.portsDetect
  repeat' first
    | with_reducible assumption
    | with_reducible apply Good.foldl
    | with_reducible apply Good.foldl2
    | with_reducible apply Good.foldl1
    | (simp only [good_mk]; with_reducible apply Good.core)
    | with_reducible apply Good.ite
    | (intro _)
    | split
    | dsimp only

theorem keep_applyRepairs {p : Part} {k : Nat} (hg : Good p) : Good (Part.applyRepairs p k) := by
  unfold Part.applyRepairs
  repeat' first
    | with_reducible assumption
    | with_reducible apply keep_setRf
    | with_reducible apply keep_setRb
    | with_reducible apply Good.foldl
    | with_reducible apply Good.foldl2
    | with_reducible apply Good.foldl1
    | (simp only [good_mk]; with_reducible apply Good.core)
    | with_reducible apply Good.ite
    | (intro _)
    | split
    | dsimp only

theorem keep_zeroBench {p : Part} {k : Nat} (hg : Good p) : Good (Part.zeroBench p k) := by
  unfold Part.zeroBench
  repeat' first
    | with_reducible assumption
    | with_reducible apply keep_setRb
    | with_reducible apply Memory.cleared_wf
    | with_reducible apply Good.onMem
    | exact Good.mem ‹_›
    | with_reducible apply Memory.write_wf
    | with_reducible apply Memory.hostWrite_wf
    | with_reducible apply Memory.hostPut_wf
    | with_reducible apply Memory.setPoison_wf
    | with_reducible apply Memory.openRange_wf
    | with_reducible apply Memory.zeroStack_wf
    | with_reducible apply Memory.foldl_wf
    | with_reducible apply Good.mem
    | (simp only [good_mk]; with_reducible apply Good.core)
    | with_reducible apply Good.ite
    | (intro _)
    | split
    | dsimp only

theorem keep_pairRails {p : Part} (hg : Good p) : Good (Part.pairRails p) := by
  unfold Part.pairRails
  repeat' first
    | with_reducible assumption
    | with_reducible apply keep_railsUp
    | with_reducible apply Good.foldl
    | with_reducible apply Good.foldl2
    | with_reducible apply Good.foldl1
    | with_reducible apply Good.ite
    | (intro _)
    | split
    | dsimp only

theorem keep_benchStage {p : Part} {k : Nat} {ok : Bool} {cause : Nat} (hg : Good p) : Good (Part.benchStage p k ok cause) := by
  unfold Part.benchStage
  repeat' first
    | with_reducible assumption
    | with_reducible apply keep_setRb
    | with_reducible apply keep_applyRepairs
    | with_reducible apply keep_railsLit
    | with_reducible apply keep_zeroBench
    | with_reducible apply keep_benchDieFatal
    | with_reducible apply Good.bump
    | with_reducible apply Good.ite
    | (intro _)
    | split
    | dsimp only

theorem keep_stackStage {p : Part} {s : Nat} {ok : Bool} (hg : Good p) : Good (Part.stackStage p s ok) := by
  unfold Part.stackStage
  repeat' first
    | with_reducible assumption
    | with_reducible apply keep_railsLit
    | with_reducible apply keep_setRb
    | with_reducible apply keep_stackFatal
    | with_reducible apply Memory.cleared_wf
    | with_reducible apply Good.onMem
    | exact Good.mem ‹_›
    | with_reducible apply Memory.write_wf
    | with_reducible apply Memory.hostWrite_wf
    | with_reducible apply Memory.hostPut_wf
    | with_reducible apply Memory.setPoison_wf
    | with_reducible apply Memory.openRange_wf
    | with_reducible apply Memory.zeroStack_wf
    | with_reducible apply Memory.foldl_wf
    | with_reducible apply Good.mem
    | with_reducible apply Good.ite
    | (intro _)
    | split
    | dsimp only

theorem keep_stageEnd {p : Part} {stage unit : Nat} {ok : Bool} {info : Nat} {marked : List Nat} (hg : Good p) : Good (Part.stageEnd p stage unit ok info marked) := by
  unfold Part.stageEnd
  repeat' first
    | with_reducible assumption
    | with_reducible apply keep_stage
    | with_reducible apply keep_railsLit
    | with_reducible apply keep_setRb
    | with_reducible apply keep_portsDetect
    | with_reducible apply keep_slotBoot
    | with_reducible apply keep_frameDieFatal
    | with_reducible apply keep_railsUp
    | with_reducible apply keep_stackStage
    | with_reducible apply keep_pairRails
    | with_reducible apply keep_benchStage
    | with_reducible apply keep_chanTrained
    | with_reducible apply keep_reclaim
    | with_reducible apply Good.foldl
    | with_reducible apply Good.foldl2
    | with_reducible apply Good.foldl1
    | (simp only [good_mk]; with_reducible apply Good.core)
    | with_reducible apply Good.ite
    | (intro _)
    | split
    | dsimp only

theorem keep_bootHostGo {p : Part} (hg : Good p) : Good (Part.bootHostGo p) := by
  unfold Part.bootHostGo
  repeat' first
    | with_reducible assumption
    | with_reducible apply keep_badAccess
    | (simp only [good_mk]; with_reducible apply Good.core)
    | with_reducible apply Good.ite
    | (intro _)
    | split
    | dsimp only

theorem keep_bootHostDone {p : Part} {st : RdStat} {hw : Cells} (hg : Good p) : Good (Part.bootHostDone p st hw) := by
  unfold Part.bootHostDone
  repeat' first
    | with_reducible assumption
    | with_reducible apply keep_hostSees
    | with_reducible apply keep_bumpFn
    | with_reducible apply keep_hostReadErr
    | with_reducible apply keep_fwStart
    | with_reducible apply keep_setRf
    | with_reducible apply Memory.cleared_wf
    | with_reducible apply Good.onMem
    | exact Good.mem ‹_›
    | with_reducible apply Memory.write_wf
    | with_reducible apply Memory.hostWrite_wf
    | with_reducible apply Memory.hostPut_wf
    | with_reducible apply Memory.setPoison_wf
    | with_reducible apply Memory.openRange_wf
    | with_reducible apply Memory.zeroStack_wf
    | with_reducible apply Memory.foldl_wf
    | with_reducible apply Good.mem
    | (simp only [good_mk]; with_reducible apply Good.core)
    | with_reducible apply Good.ite
    | (intro _)
    | split
    | dsimp only

theorem keep_dieTemp {p : Part} {k t : Nat} (hg : Good p) : Good (Part.dieTemp p k t) := by
  unfold Part.dieTemp
  repeat' first
    | with_reducible assumption
    | with_reducible apply keep_setRb
    | with_reducible apply Good.setReg
    | with_reducible apply Good.ite
    | (intro _)
    | split
    | dsimp only

theorem keep_stackTemp {p : Part} {s t : Nat} (hg : Good p) : Good (Part.stackTemp p s t) := by
  unfold Part.stackTemp
  repeat' first
    | with_reducible assumption
    | with_reducible apply keep_setRf
    | with_reducible apply keep_setRb
    | (simp only [good_mk]; with_reducible apply Good.core)
    | with_reducible apply Good.ite
    | (intro _)
    | split
    | dsimp only

theorem keep_thermAlert {p : Part} {dies stks : List Nat} (hg : Good p) : Good (Part.thermAlert p dies stks) := by
  unfold Part.thermAlert
  repeat' first
    | with_reducible assumption
    | with_reducible apply keep_setRb
    | with_reducible apply Good.bump
    | with_reducible apply Good.ite
    | (intro _)
    | split
    | dsimp only

theorem keep_sensorPoll {p : Part} {dies stks : List Nat} (hg : Good p) : Good (Part.sensorPoll p dies stks) := by
  unfold Part.sensorPoll
  repeat' first
    | with_reducible assumption
    | with_reducible apply keep_thermalEnd
    | with_reducible apply keep_packageOff
    | with_reducible apply keep_setRb
    | with_reducible apply keep_dieTemp
    | with_reducible apply keep_stackTemp
    | with_reducible apply keep_setRf
    | with_reducible apply keep_thermAlert
    | with_reducible apply Good.foldl
    | with_reducible apply Good.foldl2
    | with_reducible apply Good.foldl1
    | (simp only [good_mk]; with_reducible apply Good.core)
    | with_reducible apply Good.ite
    | (intro _)
    | split
    | dsimp only

theorem keep_pwrUpdate {p : Part} {power vin iin : Nat} (hg : Good p) : Good (Part.pwrUpdate p power vin iin) := by
  unfold Part.pwrUpdate
  repeat' first
    | with_reducible assumption
    | with_reducible apply Good.setReg
    | (simp only [good_mk]; with_reducible apply Good.core)
    | with_reducible apply Good.ite
    | (intro _)
    | split
    | dsimp only

theorem keep_jigOffNow {p : Part} {n : Nat} (hg : Good p) : Good (Part.jigOffNow p n) := by
  unfold Part.jigOffNow
  repeat' first
    | with_reducible assumption
    | (simp only [good_mk]; with_reducible apply Good.core)
    | with_reducible apply Good.ite
    | (intro _)
    | split
    | dsimp only

theorem keep_blockOff {p : Part} {cls : Cls} {e : Nat} (hg : Good p) : Good (Part.blockOff p cls e) := by
  unfold Part.blockOff
  repeat' first
    | with_reducible assumption
    | with_reducible apply keep_jigOffNow
    | (simp only [good_mk]; with_reducible apply Good.core)
    | with_reducible apply Good.ite
    | (intro _)
    | split
    | dsimp only

theorem keep_pllOff {p : Part} {n : Nat} (hg : Good p) : Good (Part.pllOff p n) := by
  unfold Part.pllOff
  repeat' first
    | with_reducible assumption
    | (simp only [good_mk]; with_reducible apply Good.core)
    | with_reducible apply Good.ite
    | (intro _)
    | split
    | dsimp only

theorem keep_chestClockOff {p : Part} {ch : Nat} (hg : Good p) : Good (Part.chestClockOff p ch) := by
  unfold Part.chestClockOff
  repeat' first
    | with_reducible assumption
    | with_reducible apply keep_setChan
    | (simp only [good_mk]; with_reducible apply Good.core)
    | with_reducible apply Good.ite
    | (intro _)
    | split
    | dsimp only

theorem keep_dieClock {p : Part} {n : Nat} {lockFail : Bool} (hg : Good p) : Good (Part.dieClock p n lockFail) := by
  unfold Part.dieClock
  repeat' first
    | with_reducible assumption
    | with_reducible apply keep_pllOff
    | with_reducible apply keep_benchDieFatal
    | with_reducible apply Good.bump
    | (simp only [good_mk]; with_reducible apply Good.core)
    | with_reducible apply Good.ite
    | (intro _)
    | split
    | dsimp only

theorem keep_blockStart {p : Part} {cls : Cls} {e : Nat} {lockFail : Bool} (hg : Good p) : Good (Part.blockStart p cls e lockFail) := by
  unfold Part.blockStart
  repeat' first
    | with_reducible assumption
    | with_reducible apply keep_dieClock
    | with_reducible apply Good.bump
    | (simp only [good_mk]; with_reducible apply Good.core)
    | with_reducible apply Good.ite
    | (intro _)
    | split
    | dsimp only

end Sys2Proof.Safety
end

