-- ==== Sys2Proof/Laws/KeepSmbus.lean ====
section
/-!
SUPPORT. Sys2Proof/Laws/KeepSmbus.lean: every operation of Machine/Smbus.lean keeps a part good (Safety.Good).
-/

set_option linter.unusedSimpArgs false

namespace Sys2Proof.Safety
open Sys2Proof Sys2Proof.Machine

theorem keep_respond {p : Part} {v : Option Nat} (hg : Good p) : Good (Part.respond p v) := by
  unfold Part.respond
  repeat' first
    | with_reducible assumption
    | (simp only [good_mk]; with_reducible apply Good.core)
    | with_reducible apply Good.ite
    | (intro _)
    | split
    | dsimp only

theorem keep_smbRead {p : Part} {f : Part → Nat} (hg : Good p) : Good (Part.smbRead p f) := by
  unfold Part.smbRead
  repeat' first
    | with_reducible assumption
    | with_reducible apply keep_respond
    | with_reducible apply Good.ite
    | (intro _)
    | split
    | dsimp only

theorem keep_smbNack {p : Part} {code : Nat} {write : Bool} (hg : Good p) : Good (Part.smbNack p code write) := by
  unfold Part.smbNack
  repeat' first
    | with_reducible assumption
    | with_reducible apply keep_Rd_write
    | with_reducible apply keep_respond
    | with_reducible apply Good.ite
    | (intro _)
    | split
    | dsimp only

end Sys2Proof.Safety
end

