-- ==== Sys2Proof/Laws/KeepRegRead.lean ====
section
/-!
SUPPORT. Sys2Proof/Laws/KeepRegRead.lean: every operation of Machine/RegRead.lean keeps a part good (Safety.Good).
-/

set_option linter.unusedSimpArgs false

namespace Sys2Proof.Safety
open Sys2Proof Sys2Proof.Machine

theorem keep_lowHalfRead {p : Part} {port off : Nat} (hg : Good p) : Good (Part.lowHalfRead p port off) := by
  unfold Part.lowHalfRead
  repeat' first
    | with_reducible assumption
    | with_reducible apply keep_respond
    | (simp only [good_mk]; with_reducible apply Good.core)
    | with_reducible apply Good.ite
    | (intro _)
    | split
    | dsimp only

theorem keep_pwrMeasRead {p : Part} {port : Nat} {h : Half} (hg : Good p) : Good (Part.pwrMeasRead p port h) := by
  unfold Part.pwrMeasRead
  repeat' first
    | with_reducible assumption
    | with_reducible apply keep_respond
    | with_reducible apply keep_setRf
    | with_reducible apply Good.ite
    | (intro _)
    | split
    | dsimp only

theorem keep_feedRead {p : Part} {port g : Nat} {h : Half} (hg : Good p) : Good (Part.feedRead p port g h) := by
  unfold Part.feedRead
  repeat' first
    | with_reducible assumption
    | with_reducible apply keep_respond
    | (simp only [good_mk]; with_reducible apply Good.core)
    | with_reducible apply Good.ite
    | (intro _)
    | split
    | dsimp only

end Sys2Proof.Safety
end

