-- ==== Sys2Proof/Laws/KeepService.lean ====
section
/-!
SUPPORT. Sys2Proof/Laws/KeepService.lean: every operation of Machine/Service.lean keeps a part good (Safety.Good).
-/

set_option linter.unusedSimpArgs false

namespace Sys2Proof.Safety
open Sys2Proof Sys2Proof.Machine

theorem keep_svcGo {p : Part} (hg : Good p) : Good (Part.svcGo p) := by
  unfold Part.svcGo
  repeat' first
    | with_reducible assumption
    | with_reducible apply keep_badAccess
    | with_reducible apply keep_setRb
    | with_reducible apply keep_setSvcState
    | with_reducible apply keep_railsUp
    | (simp only [good_mk]; with_reducible apply Good.core)
    | with_reducible apply Good.ite
    | (intro _)
    | split
    | dsimp only

theorem keep_copyWindow {p : Part} {a b : Nat} (hg : Good p) : Good (Part.copyWindow p a b) := by
  unfold Part.copyWindow
  repeat' first
    | with_reducible assumption
    | with_reducible apply keep_Rd_count
    | with_reducible apply Good.setReg
    | with_reducible apply Good.foldl
    | with_reducible apply Good.foldl2
    | with_reducible apply Good.foldl1
    | with_reducible apply Good.ite
    | (intro _)
    | split
    | dsimp only

theorem keep_copyCounts {p : Part} {a b : Nat} (hg : Good p) : Good (Part.copyCounts p a b) := by
  unfold Part.copyCounts
  repeat' first
    | with_reducible assumption
    | with_reducible apply keep_setRegion
    | with_reducible apply Good.setReg
    | with_reducible apply Good.foldl
    | with_reducible apply Good.foldl2
    | with_reducible apply Good.foldl1
    | (simp only [good_mk]; with_reducible apply Good.core)
    | with_reducible apply Good.ite
    | (intro _)
    | split
    | dsimp only

theorem keep_swapCtrs {p : Part} {n m : Nat} (hg : Good p) : Good (Part.swapCtrs p n m) := by
  unfold Part.swapCtrs
  repeat' first
    | with_reducible assumption
    | exact Good.moveCtrs (f := fun k => if k < 0x3000000 ∨ 0x3800000 ≤ k then k else if (k - 0x3000000) / 0x100000 = n then k - n * 0x100000 + m * 0x100000 else if (k - 0x3000000) / 0x100000 = m then k - m * 0x100000 + n * 0x100000 else k) hg
    | with_reducible apply Good.keepCtrs
    | with_reducible apply Good.moveCtrs
    | with_reducible apply Good.keepCtrs
    | with_reducible apply Good.moveCtrs
    | with_reducible apply Good.keepCtrs
    | with_reducible apply Good.moveCtrs
    | with_reducible apply Good.keepCtrs
    | with_reducible apply Good.moveCtrs
    | with_reducible apply Good.keepCtrs
    | with_reducible apply Good.moveCtrs
    | with_reducible apply Good.keepCtrs
    | with_reducible apply Good.moveCtrs
    | with_reducible apply Good.keepCtrs
    | with_reducible apply Good.moveCtrs
    | with_reducible apply Good.keepCtrs
    | with_reducible apply Good.moveCtrs
    | with_reducible apply Good.keepCtrs
    | with_reducible apply Good.moveCtrs
    | with_reducible apply Good.keepCtrs
    | with_reducible apply Good.moveCtrs
    | with_reducible apply Good.keepCtrs
    | with_reducible apply Good.moveCtrs
    | with_reducible apply Good.foldl
    | with_reducible apply Good.foldl2
    | with_reducible apply Good.foldl1
    | (simp only [good_mk]; with_reducible apply Good.core)
    | with_reducible apply Good.ite
    | (intro _)
    | split
    | dsimp only

theorem keep_moveDie {p : Part} {a b : Nat} (hg : Good p) : Good (Part.moveDie p a b) := by
  unfold Part.moveDie
  repeat' first
    | with_reducible assumption
    | (simp only [good_mk]; with_reducible apply Good.core)
    | with_reducible apply Good.ite
    | (intro _)
    | split
    | dsimp only

theorem keep_leaveSwap {p : Part} {k m : Nat} (hg : Good p) : Good (Part.leaveSwap p k m) := by
  unfold Part.leaveSwap
  repeat' first
    | with_reducible assumption
    | with_reducible apply keep_copyWindow
    | with_reducible apply keep_copyCounts
    | with_reducible apply keep_moveDie
    | with_reducible apply keep_setRf
    | with_reducible apply keep_swapCtrs
    | with_reducible apply keep_setSvcState
    | with_reducible apply Good.bump
    | (simp only [good_mk]; with_reducible apply Good.core)
    | with_reducible apply Good.ite
    | (intro _)
    | split
    | dsimp only

theorem keep_testEnd {p : Part} {k : Nat} {rows : List Nat} {engineOk genOk : Bool} (hg : Good p) : Good (Part.testEnd p k rows engineOk genOk).2 := by
  unfold Part.testEnd
  repeat' first
    | with_reducible assumption
    | with_reducible apply keep_mapOut
    | with_reducible apply keep_benchDieFatal
    | with_reducible apply keep_zeroBench
    | with_reducible apply keep_setSvcState
    | with_reducible apply Good.bump
    | with_reducible apply Good.foldl
    | with_reducible apply Good.foldl2
    | with_reducible apply Good.foldl1
    | (simp only [good_mk]; with_reducible apply Good.core)
    | with_reducible apply Good.ite
    | (intro _)
    | split
    | dsimp only

theorem keep_updateEnd {p : Part} {k : Nat} (hg : Good p) : Good (Part.updateEnd p k).2 := by
  unfold Part.updateEnd
  repeat' first
    | with_reducible assumption
    | with_reducible apply keep_setSvcState
    | (simp only [good_mk]; with_reducible apply Good.core)
    | with_reducible apply Good.ite
    | (intro _)
    | split
    | dsimp only

theorem keep_rejoinEnd {p : Part} {k : Nat} {genOk : Bool} (hg : Good p) : Good (Part.rejoinEnd p k genOk).2 := by
  unfold Part.rejoinEnd
  repeat' first
    | with_reducible assumption
    | with_reducible apply keep_benchDieFatal
    | with_reducible apply keep_setSvcState
    | with_reducible apply keep_setRb
    | exact Good.keepCtrs (f := fun a _ => decide (a < 0x3000000 + p.logi k * 0x100000) || decide (0x3000000 + (p.logi k + 1) * 0x100000 ≤ a)) hg
    | with_reducible apply Good.keepCtrs
    | with_reducible apply Good.moveCtrs
    | with_reducible apply Good.keepCtrs
    | with_reducible apply Good.moveCtrs
    | with_reducible apply Good.keepCtrs
    | with_reducible apply Good.moveCtrs
    | with_reducible apply Good.keepCtrs
    | with_reducible apply Good.moveCtrs
    | with_reducible apply Good.keepCtrs
    | with_reducible apply Good.moveCtrs
    | with_reducible apply Good.keepCtrs
    | with_reducible apply Good.moveCtrs
    | with_reducible apply Good.keepCtrs
    | with_reducible apply Good.moveCtrs
    | with_reducible apply Good.keepCtrs
    | with_reducible apply Good.moveCtrs
    | with_reducible apply Good.keepCtrs
    | with_reducible apply Good.moveCtrs
    | with_reducible apply Good.keepCtrs
    | with_reducible apply Good.moveCtrs
    | with_reducible apply Good.bump
    | with_reducible apply Good.keepCtrs
    | with_reducible apply Good.moveCtrs
    | (simp only [good_mk]; with_reducible apply Good.core)
    | with_reducible apply Good.ite
    | (intro _)
    | split
    | dsimp only

theorem keep_svcDone {p : Part} {rows : List Nat} {engineOk genOk : Bool} (hg : Good p) : Good (Part.svcDone p rows engineOk genOk) := by
  unfold Part.svcDone
  repeat' first
    | with_reducible assumption
    | with_reducible apply keep_setSvcState
    | with_reducible apply keep_leaveSwap
    | with_reducible apply keep_testEnd
    | with_reducible apply keep_updateEnd
    | with_reducible apply keep_rejoinEnd
    | with_reducible apply Good.setReg
    | (simp only [good_mk]; with_reducible apply Good.core)
    | with_reducible apply Good.ite
    | (intro _)
    | split
    | dsimp only

theorem keep_fwSlotGo {p : Part} (hg : Good p) : Good (Part.fwSlotGo p) := by
  unfold Part.fwSlotGo
  repeat' first
    | with_reducible assumption
    | with_reducible apply keep_badAccess
    | with_reducible apply keep_setRb
    | (simp only [good_mk]; with_reducible apply Good.core)
    | with_reducible apply Good.ite
    | (intro _)
    | split
    | dsimp only

theorem keep_fwSlotDone {p : Part} {spiOk : Bool} (hg : Good p) : Good (Part.fwSlotDone p spiOk) := by
  unfold Part.fwSlotDone
  repeat' first
    | with_reducible assumption
    | with_reducible apply Good.setReg
    | (simp only [good_mk]; with_reducible apply Good.core)
    | with_reducible apply Good.ite
    | (intro _)
    | split
    | dsimp only

theorem keep_markWrite {p : Part} {o : Nat} {bs : List Byte} (hg : Good p) : Good (Part.markWrite p o bs) := by
  unfold Part.markWrite
  repeat' first
    | with_reducible assumption
    | with_reducible apply keep_badAccess
    | with_reducible apply keep_shadow
    | with_reducible apply keep_Rd_write
    | (simp only [good_mk]; with_reducible apply Good.core)
    | with_reducible apply Good.ite
    | (intro _)
    | split
    | dsimp only

theorem keep_markCommit {p : Part} (hg : Good p) : Good (Part.markCommit p) := by
  unfold Part.markCommit
  repeat' first
    | with_reducible assumption
    | with_reducible apply keep_badAccess
    | with_reducible apply keep_setRb
    | (simp only [good_mk]; with_reducible apply Good.core)
    | with_reducible apply Good.ite
    | (intro _)
    | split
    | dsimp only

theorem keep_markLock {p : Part} (hg : Good p) : Good (Part.markLock p) := by
  unfold Part.markLock
  repeat' first
    | with_reducible assumption
    | (simp only [good_mk]; with_reducible apply Good.core)
    | with_reducible apply Good.ite
    | (intro _)
    | split
    | dsimp only

theorem keep_markDone {p : Part} (hg : Good p) : Good (Part.markDone p) := by
  unfold Part.markDone
  repeat' first
    | with_reducible assumption
    | with_reducible apply keep_Rd_write
    | with_reducible apply keep_Rd_read
    | with_reducible apply keep_shadow
    | with_reducible apply keep_setRb
    | with_reducible apply Good.bump
    | (simp only [good_mk]; with_reducible apply Good.core)
    | with_reducible apply Good.ite
    | (intro _)
    | split
    | dsimp only

end Sys2Proof.Safety
end

