-- ==== Sys2Proof/Laws/KeepRegSet.lean ====
section
/-!
SUPPORT. Sys2Proof/Laws/KeepRegSet.lean: every operation of Machine/RegSet.lean keeps a part good (Safety.Good).
-/

set_option linter.unusedSimpArgs false

namespace Sys2Proof.Safety
open Sys2Proof Sys2Proof.Machine

theorem keep_putImage {p : Part} {r : RegId} {v : Nat} (hg : Good p) : Good (Part.putImage p r v) := by
  unfold Part.putImage
  repeat' first
    | with_reducible assumption
    | with_reducible apply Good.setReg
    | with_reducible apply Good.ite
    | (intro _)
    | split
    | dsimp only

theorem keep_once {p : Part} {bad : Bool} {f : Part → Part} (hg : Good p) (hf : ∀ (a0 : Part), Good a0 → Good (f a0)) : Good (Part.once p bad f) := by
  unfold Part.once
  repeat' first
    | with_reducible assumption
    | with_reducible apply keep_badAccess
    | with_reducible apply hf
    | with_reducible apply Good.ite
    | (intro _)
    | split
    | dsimp only

theorem keep_store {p : Part} {a : Acc} {f : Part → Part} (hg : Good p) (hf : ∀ (a0 : Part), Good a0 → Good (f a0)) : Good (Part.store p a f) := by
  unfold Part.store
  repeat' first
    | with_reducible assumption
    | with_reducible apply keep_Rd_store
    | with_reducible apply keep_once
    | with_reducible apply keep_putImage
    | with_reducible apply hf
    | with_reducible apply Good.ite
    | (intro _)
    | split
    | dsimp only

theorem keep_act {p : Part} {a : Acc} {f : Part → Nat → Part} (hg : Good p) (hf : ∀ (a0 : Part) (a1 : Nat), Good a0 → Good (f a0 a1)) : Good (Part.act p a f) := by
  unfold Part.act
  repeat' first
    | with_reducible assumption
    | with_reducible apply keep_once
    | with_reducible apply hf
    | with_reducible apply Good.ite
    | (intro _)
    | split
    | dsimp only

theorem keep_setHbmMap {p : Part} {a : Acc} (hg : Good p) : Good (Part.setHbmMap p a) := by
  unfold Part.setHbmMap
  refine Good.ite (fun _ => keep_badAccess hg) fun _ => keep_store hg fun q hq => ?_
  dsimp only
  refine Good.ite (fun _ => hq) fun _ => ?_
  have k : Good (q.onMem fun m => { m.openRange 0 hbmEnd q.fresh q.hbmMode with
      poison := (m.poison.map (Part.movePoison p.hbmMode q.hbmMode)).foldl (fun l u => insNat u l) [] }) :=
    hq.onMem fun h => Memory.poison_wf (Memory.openRange_wf _ _ _ _ _ h)
  simp only [good_mk]
  exact k.core

theorem keep_setGo {p : Part} {a : Acc} {refused : Bool} {go : Part → Part} (hg : Good p) (hgo : ∀ (a0 : Part), Good a0 → Good (go a0)) : Good (Part.setGo p a refused go) := by
  unfold Part.setGo
  repeat' first
    | with_reducible assumption
    | with_reducible apply keep_badAccess
    | with_reducible apply keep_store
    | with_reducible apply keep_Rd_store
    | with_reducible apply hgo
    | with_reducible apply Good.ite
    | (intro _)
    | split
    | dsimp only

theorem keep_setBootHost {p : Part} {a : Acc} (hg : Good p) : Good (Part.setBootHost p a) := by
  unfold Part.setBootHost
  repeat' first
    | with_reducible assumption
    | with_reducible apply keep_setGo
    | with_reducible apply keep_bootHostGo
    | with_reducible apply Good.ite
    | (intro _)
    | split
    | dsimp only

theorem keep_setSvcDie {p : Part} {a : Acc} (hg : Good p) : Good (Part.setSvcDie p a) := by
  unfold Part.setSvcDie
  repeat' first
    | with_reducible assumption
    | with_reducible apply keep_setGo
    | with_reducible apply keep_svcGo
    | with_reducible apply Good.ite
    | (intro _)
    | split
    | dsimp only

theorem keep_setFwSlot {p : Part} {a : Acc} (hg : Good p) : Good (Part.setFwSlot p a) := by
  unfold Part.setFwSlot
  repeat' first
    | with_reducible assumption
    | with_reducible apply keep_setGo
    | with_reducible apply keep_fwSlotGo
    | with_reducible apply Good.ite
    | (intro _)
    | split
    | dsimp only

theorem keep_setChestCmd {p : Part} {a : Acc} (hg : Good p) : Good (Part.setChestCmd p a) := by
  unfold Part.setChestCmd
  repeat' first
    | with_reducible assumption
    | with_reducible apply keep_setGo
    | with_reducible apply keep_chestGo
    | with_reducible apply Good.ite
    | (intro _)
    | split
    | dsimp only

theorem keep_setHallmark {p : Part} {a : Acc} (hg : Good p) : Good (Part.setHallmark p a) := by
  unfold Part.setHallmark
  repeat' first
    | with_reducible assumption
    | with_reducible apply keep_store
    | with_reducible apply keep_Rd_store
    | with_reducible apply keep_markCommit
    | with_reducible apply keep_markLock
    | with_reducible apply Good.ite
    | (intro _)
    | split
    | dsimp only

theorem keep_setShadow {p : Part} {a : Acc} (hg : Good p) : Good (Part.setShadow p a) := by
  unfold Part.setShadow
  repeat' first
    | with_reducible assumption
    | with_reducible apply keep_markWrite
    | with_reducible apply Good.ite
    | (intro _)
    | split
    | dsimp only

theorem keep_setJoin {p : Part} {a : Acc} (hg : Good p) : Good (Part.setJoin p a) := by
  unfold Part.setJoin
  repeat' first
    | with_reducible assumption
    | with_reducible apply keep_badAccess
    | with_reducible apply keep_joinStop
    | with_reducible apply keep_setRb
    | with_reducible apply keep_store
    | with_reducible apply keep_Rd_store
    | with_reducible apply keep_joinStart
    | with_reducible apply Good.ite
    | (intro _)
    | split
    | dsimp only

theorem keep_setFaultCtl {p : Part} {a : Acc} (hg : Good p) : Good (Part.setFaultCtl p a) := by
  unfold Part.setFaultCtl
  repeat' first
    | with_reducible assumption
    | with_reducible apply keep_store
    | with_reducible apply keep_Rd_store
    | (simp only [good_mk]; with_reducible apply Good.core)
    | with_reducible apply Good.ite
    | (intro _)
    | split
    | dsimp only

theorem keep_setCabCtl {p : Part} {a : Acc} (hg : Good p) : Good (Part.setCabCtl p a) := by
  unfold Part.setCabCtl
  repeat' first
    | with_reducible assumption
    | with_reducible apply keep_badAccess
    | with_reducible apply keep_setRb
    | with_reducible apply keep_store
    | with_reducible apply keep_Rd_store
    | with_reducible apply keep_decideCab
    | with_reducible apply Good.ite
    | (intro _)
    | split
    | dsimp only

theorem keep_quiesceEnd {p : Part} {b : Nat} (hg : Good p) : Good (Part.quiesceEnd p b) := by
  unfold Part.quiesceEnd
  repeat' first
    | with_reducible assumption
    | with_reducible apply keep_place
    | with_reducible apply keep_decideCab
    | with_reducible apply Good.ite
    | (intro _)
    | split
    | dsimp only

theorem keep_setCabCmd {p : Part} {a : Acc} (hg : Good p) : Good (Part.setCabCmd p a) := by
  unfold Part.setCabCmd
  repeat' first
    | with_reducible assumption
    | with_reducible apply keep_store
    | with_reducible apply keep_Rd_store
    | with_reducible apply keep_cabSave
    | with_reducible apply keep_quiesceEnd
    | with_reducible apply Good.ite
    | (intro _)
    | split
    | dsimp only

theorem keep_setCabReg {p : Part} {b : Nat} {a : Acc} (hg : Good p) : Good (Part.setCabReg p b a) := by
  unfold Part.setCabReg
  repeat' first
    | with_reducible assumption
    | with_reducible apply keep_badAccess
    | with_reducible apply keep_store
    | with_reducible apply keep_Rd_store
    | with_reducible apply Good.ite
    | (intro _)
    | split
    | dsimp only

theorem keep_clearCtxCtrs {p : Part} {c : Nat} (hg : Good p) : Good (Part.clearCtxCtrs p c) := by
  unfold Part.clearCtxCtrs
  repeat' first
    | with_reducible assumption
    | exact Good.keepCtrs hg
    | with_reducible apply Good.keepCtrs
    | with_reducible apply Good.moveCtrs
    | with_reducible apply Good.keepCtrs
    | with_reducible apply Good.moveCtrs
    | with_reducible apply Good.keepCtrs
    | with_reducible apply Good.moveCtrs
    | with_reducible apply Good.keepCtrs
    | with_reducible apply Good.moveCtrs
    | with_reducible apply Good.keepCtrs
    | with_reducible apply Good.moveCtrs
    | with_reducible apply Good.keepCtrs
    | with_reducible apply Good.moveCtrs
    | with_reducible apply Good.keepCtrs
    | with_reducible apply Good.moveCtrs
    | with_reducible apply Good.keepCtrs
    | with_reducible apply Good.moveCtrs
    | with_reducible apply Good.keepCtrs
    | with_reducible apply Good.moveCtrs
    | with_reducible apply Good.keepCtrs
    | with_reducible apply Good.moveCtrs
    | with_reducible apply Good.keepCtrs
    | with_reducible apply Good.moveCtrs
    | (simp only [good_mk]; with_reducible apply Good.core)
    | with_reducible apply Good.ite
    | (intro _)
    | split
    | dsimp only

theorem keep_ctxCreate {p : Part} {c : Nat} (hg : Good p) : Good (Part.ctxCreate p c) := by
  unfold Part.ctxCreate
  repeat' first
    | with_reducible assumption
    | with_reducible apply keep_clearCtxCtrs
    | with_reducible apply keep_setRf
    | with_reducible apply keep_setCtx
    | with_reducible apply keep_setHold
    | with_reducible apply keep_place
    | with_reducible apply Good.foldl
    | with_reducible apply Good.foldl2
    | with_reducible apply Good.foldl1
    | with_reducible apply Good.ite
    | (intro _)
    | split
    | dsimp only

theorem keep_ctxEnd {p : Part} {c : Nat} (hg : Good p) : Good (Part.ctxEnd p c) := by
  unfold Part.ctxEnd
  repeat' first
    | with_reducible assumption
    | with_reducible apply keep_setRb
    | with_reducible apply keep_setCtx
    | with_reducible apply keep_ctxFault
    | (simp only [good_mk]; with_reducible apply Good.core)
    | with_reducible apply Good.ite
    | (intro _)
    | split
    | dsimp only

theorem keep_setCtxCtl {p : Part} {a : Acc} (hg : Good p) : Good (Part.setCtxCtl p a) := by
  unfold Part.setCtxCtl
  repeat' first
    | with_reducible assumption
    | with_reducible apply keep_once
    | with_reducible apply keep_setRf
    | with_reducible apply keep_ctxEnd
    | with_reducible apply keep_badAccess
    | with_reducible apply keep_store
    | with_reducible apply keep_Rd_store
    | with_reducible apply keep_ctxCreate
    | with_reducible apply Good.ite
    | (intro _)
    | split
    | dsimp only

theorem keep_setCtxReg {p : Part} {a : Acc} (hg : Good p) : Good (Part.setCtxReg p a) := by
  unfold Part.setCtxReg
  repeat' first
    | with_reducible assumption
    | with_reducible apply keep_badAccess
    | with_reducible apply keep_store
    | with_reducible apply keep_Rd_store
    | with_reducible apply Good.ite
    | (intro _)
    | split
    | dsimp only

theorem keep_setCtxPort {p : Part} {a : Acc} (hg : Good p) : Good (Part.setCtxPort p a) := by
  unfold Part.setCtxPort
  repeat' first
    | with_reducible assumption
    | with_reducible apply keep_once
    | with_reducible apply keep_putImage
    | with_reducible apply Good.foldl
    | with_reducible apply Good.foldl2
    | with_reducible apply Good.foldl1
    | with_reducible apply Good.ite
    | (intro _)
    | split
    | dsimp only

theorem keep_setSummary {p : Part} {a : Acc} (hg : Good p) : Good (Part.setSummary p a) := by
  unfold Part.setSummary
  repeat' first
    | with_reducible assumption
    | with_reducible apply keep_badAccess
    | with_reducible apply keep_store
    | with_reducible apply keep_Rd_store
    | with_reducible apply Good.ite
    | (intro _)
    | split
    | dsimp only

theorem keep_setSqCfg {p : Part} {a : Acc} (hg : Good p) : Good (Part.setSqCfg p a) := by
  unfold Part.setSqCfg
  repeat' first
    | with_reducible assumption
    | with_reducible apply keep_badAccess
    | with_reducible apply keep_shadow
    | with_reducible apply keep_setRb
    | with_reducible apply keep_setSq
    | with_reducible apply keep_endRound
    | with_reducible apply keep_store
    | with_reducible apply keep_Rd_store
    | with_reducible apply keep_setWatch
    | (simp only [good_mk]; with_reducible apply Good.core)
    | with_reducible apply Good.ite
    | (intro _)
    | split
    | dsimp only

theorem keep_setSqReg {p : Part} {a : Acc} (hg : Good p) : Good (Part.setSqReg p a) := by
  unfold Part.setSqReg
  repeat' first
    | with_reducible assumption
    | with_reducible apply keep_badAccess
    | with_reducible apply keep_store
    | with_reducible apply keep_Rd_store
    | with_reducible apply Good.ite
    | (intro _)
    | split
    | dsimp only

theorem keep_setCqCfg {p : Part} {a : Acc} (hg : Good p) : Good (Part.setCqCfg p a) := by
  unfold Part.setCqCfg
  repeat' first
    | with_reducible assumption
    | with_reducible apply keep_badAccess
    | with_reducible apply keep_setRb
    | with_reducible apply keep_store
    | with_reducible apply keep_Rd_store
    | with_reducible apply keep_setCq
    | with_reducible apply Good.ite
    | (intro _)
    | split
    | dsimp only

theorem keep_setCqReg {p : Part} {a : Acc} (hg : Good p) : Good (Part.setCqReg p a) := by
  unfold Part.setCqReg
  repeat' first
    | with_reducible assumption
    | with_reducible apply keep_badAccess
    | with_reducible apply keep_store
    | with_reducible apply keep_Rd_store
    | with_reducible apply Good.ite
    | (intro _)
    | split
    | dsimp only

theorem keep_regionEnd {p : Part} {d i : Nat} (hg : Good p) : Good (Part.regionEnd p d i) := by
  unfold Part.regionEnd
  repeat' first
    | with_reducible assumption
    | with_reducible apply keep_ctxFault
    | with_reducible apply Good.foldl
    | with_reducible apply Good.foldl2
    | with_reducible apply Good.foldl1
    | with_reducible apply Good.ite
    | (intro _)
    | split
    | dsimp only

theorem keep_regionStrms {p : Part} {d i : Nat} (hg : Good p) : Good (Part.regionStrms p d i) := by
  unfold Part.regionStrms
  repeat' first
    | with_reducible assumption
    | with_reducible apply keep_ops
    | with_reducible apply Good.foldl
    | with_reducible apply Good.foldl2
    | with_reducible apply Good.foldl1
    | with_reducible apply Good.ite
    | (intro _)
    | split
    | dsimp only

theorem keep_setRegionCfg {p : Part} {a : Acc} (hg : Good p) : Good (Part.setRegionCfg p a) := by
  unfold Part.setRegionCfg
  repeat' first
    | with_reducible assumption
    | with_reducible apply keep_badAccess
    | with_reducible apply keep_once
    | with_reducible apply keep_regionEnd
    | with_reducible apply keep_putImage
    | with_reducible apply keep_regionStrms
    | with_reducible apply keep_store
    | with_reducible apply keep_Rd_store
    | with_reducible apply keep_setRegion
    | with_reducible apply Good.ite
    | (intro _)
    | split
    | dsimp only

theorem keep_loosenWaits {p : Part} {d i : Nat} (hg : Good p) : Good (Part.loosenWaits p d i) := by
  unfold Part.loosenWaits
  repeat' first
    | with_reducible assumption
    | with_reducible apply keep_free
    | with_reducible apply keep_Rd_free
    | (simp only [good_mk]; with_reducible apply Good.core)
    | with_reducible apply Good.ite
    | (intro _)
    | split
    | dsimp only

theorem keep_setArrivalCfg {p : Part} {a : Acc} (hg : Good p) : Good (Part.setArrivalCfg p a) := by
  unfold Part.setArrivalCfg
  repeat' first
    | with_reducible assumption
    | with_reducible apply keep_store
    | with_reducible apply keep_Rd_store
    | with_reducible apply keep_loosenWaits
    | with_reducible apply Good.setReg
    | with_reducible apply Good.ite
    | (intro _)
    | split
    | dsimp only

theorem keep_setStackCtl {p : Part} {a : Acc} (hg : Good p) : Good (Part.setStackCtl p a) := by
  unfold Part.setStackCtl
  repeat' first
    | with_reducible assumption
    | with_reducible apply keep_badAccess
    | with_reducible apply keep_setRb
    | with_reducible apply keep_dropLines
    | with_reducible apply Good.ite
    | (intro _)
    | split
    | dsimp only

theorem keep_setChestCh {p : Part} {a : Acc} (hg : Good p) : Good (Part.setChestCh p a) := by
  unfold Part.setChestCh
  repeat' first
    | with_reducible assumption
    | with_reducible apply keep_channelOnline
    | with_reducible apply keep_channelOffline
    | with_reducible apply Good.ite
    | (intro _)
    | split
    | dsimp only

theorem keep_setAesPort {p : Part} {a : Acc} (hg : Good p) : Good (Part.setAesPort p a) := by
  unfold Part.setAesPort
  repeat' first
    | with_reducible assumption
    | with_reducible apply keep_aesDisable
    | with_reducible apply keep_badAccess
    | with_reducible apply keep_store
    | with_reducible apply keep_Rd_store
    | with_reducible apply keep_act
    | with_reducible apply keep_aesEnable
    | with_reducible apply Good.ite
    | (intro _)
    | split
    | dsimp only

theorem keep_setAesReg {p : Part} {a : Acc} (hg : Good p) : Good (Part.setAesReg p a) := by
  unfold Part.setAesReg
  repeat' first
    | with_reducible assumption
    | with_reducible apply keep_badAccess
    | with_reducible apply keep_store
    | with_reducible apply keep_Rd_store
    | with_reducible apply Good.ite
    | (intro _)
    | split
    | dsimp only

theorem keep_setAesRef {p : Part} {a : Acc} (hg : Good p) : Good (Part.setAesRef p a) := by
  unfold Part.setAesRef
  repeat' first
    | with_reducible assumption
    | with_reducible apply keep_aesRefWrite
    | with_reducible apply Good.ite
    | (intro _)
    | split
    | dsimp only

theorem keep_setCupboard {p : Part} {a : Acc} (hg : Good p) : Good (Part.setCupboard p a) := by
  unfold Part.setCupboard
  repeat' first
    | with_reducible assumption
    | with_reducible apply keep_store
    | with_reducible apply keep_Rd_store
    | with_reducible apply keep_setCup
    | with_reducible apply keep_setRb
    | (simp only [good_mk]; with_reducible apply Good.core)
    | with_reducible apply Good.ite
    | (intro _)
    | split
    | dsimp only

theorem keep_setDtLink {p : Part} {a : Acc} (hg : Good p) : Good (Part.setDtLink p a) := by
  unfold Part.setDtLink
  repeat' first
    | with_reducible assumption
    | with_reducible apply keep_store
    | with_reducible apply keep_Rd_store
    | with_reducible apply keep_linkEnable
    | with_reducible apply keep_linkDisable
    | with_reducible apply keep_startRetrain
    | with_reducible apply Good.ite
    | (intro _)
    | split
    | dsimp only

theorem keep_applyWrite {p : Part} {a : Acc} (hg : Good p) : Good (Part.applyWrite p a) := by
  unfold Part.applyWrite
  repeat' first
    | with_reducible assumption
    | with_reducible apply keep_probeGo
    | with_reducible apply keep_setHbmMap
    | with_reducible apply keep_setBootHost
    | with_reducible apply keep_setSvcDie
    | with_reducible apply keep_setFwSlot
    | with_reducible apply keep_setHallmark
    | with_reducible apply keep_setShadow
    | with_reducible apply keep_setJoin
    | with_reducible apply keep_setFaultCtl
    | with_reducible apply keep_setCabCtl
    | with_reducible apply keep_setCabCmd
    | with_reducible apply keep_setCabReg
    | with_reducible apply keep_setCtxCtl
    | with_reducible apply keep_transInval
    | with_reducible apply keep_setCtxReg
    | with_reducible apply keep_setCtxPort
    | with_reducible apply keep_setSummary
    | with_reducible apply keep_setSqCfg
    | with_reducible apply keep_setSqReg
    | with_reducible apply keep_setCqCfg
    | with_reducible apply keep_setCqReg
    | with_reducible apply keep_setRegionCfg
    | with_reducible apply keep_setArrivalCfg
    | with_reducible apply keep_setStackCtl
    | with_reducible apply keep_setChestCmd
    | with_reducible apply keep_setChestCh
    | with_reducible apply keep_setAesPort
    | with_reducible apply keep_setAesReg
    | with_reducible apply keep_setAesRef
    | with_reducible apply keep_setCupboard
    | with_reducible apply keep_setDtLink
    | with_reducible apply keep_store
    | with_reducible apply keep_Rd_store
    | with_reducible apply Good.ite
    | (intro _)
    | split
    | dsimp only

end Sys2Proof.Safety
end

