-- ==== Sys2Proof/Laws/KeepRegAccess.lean ====
section
/-!
SUPPORT. Sys2Proof/Laws/KeepRegAccess.lean: every operation of Machine/RegAccess.lean keeps a part good (Safety.Good).
-/

set_option linter.unusedSimpArgs false

namespace Sys2Proof.Safety
open Sys2Proof Sys2Proof.Machine

theorem keep_unstage {p : Part} {port off : Nat} (hg : Good p) : Good (Part.unstage p port off) := by
  unfold Part.unstage
  repeat' first
    | with_reducible assumption
    | (simp only [good_mk]; with_reducible apply Good.core)
    | with_reducible apply Good.ite
    | (intro _)
    | split
    | dsimp only

theorem keep_stage {p : Part} {port off v : Nat} (hg : Good p) : Good (Part.stage p port off v) := by
  unfold Part.stage
  repeat' first
    | with_reducible assumption
    | with_reducible apply keep_unstage
    | (simp only [good_mk]; with_reducible apply Good.core)
    | with_reducible apply Good.ite
    | (intro _)
    | split
    | dsimp only

theorem keep_writeNow {p : Part} {port off : Nat} {h : Half} {v ev : Nat} {cw : List CwRead} {fails : List Nat} (hg : Good p) : Good (Part.writeNow p port off h v ev cw fails) := by
  unfold Part.writeNow
  repeat' first
    | with_reducible assumption
    | with_reducible apply keep_badAccess
    | with_reducible apply keep_unstage
    | with_reducible apply keep_applyWrite
    | with_reducible apply keep_stage
    | with_reducible apply Good.ite
    | (intro _)
    | split
    | dsimp only

theorem keep_hold426 {p : Part} {x : Nat × Nat × Half × Option (Nat × Nat)} (hg : Good p) : Good (Part.hold426 p x) := by
  unfold Part.hold426
  repeat' first
    | with_reducible assumption
    | (simp only [good_mk]; with_reducible apply Good.core)
    | with_reducible apply Good.ite
    | (intro _)
    | split
    | dsimp only

theorem keep_writeAcc {p : Part} {port off : Nat} {h : Half} {v ev : Nat} {cw : List CwRead} {fails : List Nat} (hg : Good p) : Good (Part.writeAcc p port off h v ev cw fails) := by
  unfold Part.writeAcc
  repeat' first
    | with_reducible assumption
    | with_reducible apply keep_hold426
    | with_reducible apply keep_writeNow
    | with_reducible apply Good.ite
    | (intro _)
    | split
    | dsimp only

theorem keep_writeReg {p : Part} {port off : Nat} {h : Half} {v : Reg} (hg : Good p) : Good (Part.writeReg p port off h v) := by
  unfold Part.writeReg
  repeat' first
    | with_reducible assumption
    | with_reducible apply keep_writeAcc
    | with_reducible apply Good.ite
    | (intro _)
    | split
    | dsimp only

theorem keep_readNow {p : Part} {port off : Nat} {h : Half} (hg : Good p) : Good (Part.readNow p port off h) := by
  unfold Part.readNow
  repeat' first
    | with_reducible assumption
    | with_reducible apply keep_lowHalfRead
    | with_reducible apply keep_respond
    | with_reducible apply keep_badAccess
    | with_reducible apply keep_pwrMeasRead
    | with_reducible apply keep_feedRead
    | with_reducible apply Good.ite
    | (intro _)
    | split
    | dsimp only

theorem keep_readAcc {p : Part} {port off : Nat} {h : Half} (hg : Good p) : Good (Part.readAcc p port off h) := by
  unfold Part.readAcc
  repeat' first
    | with_reducible assumption
    | with_reducible apply keep_hold426
    | with_reducible apply keep_readNow
    | with_reducible apply Good.ite
    | (intro _)
    | split
    | dsimp only

theorem keep_badSize {p : Part} {port off size : Nat} {write : Bool} (hg : Good p) : Good (Part.badSize p port off size write) := by
  unfold Part.badSize
  repeat' first
    | with_reducible assumption
    | with_reducible apply keep_Rd_write
    | with_reducible apply keep_badAccess
    | with_reducible apply keep_respond
    | with_reducible apply Good.ite
    | (intro _)
    | split
    | dsimp only

theorem keep_unmapped {p : Part} {port off : Nat} {h : Half} {write : Bool} (hg : Good p) : Good (Part.unmapped p port off h write) := by
  unfold Part.unmapped
  repeat' first
    | with_reducible assumption
    | with_reducible apply keep_Rd_write
    | with_reducible apply keep_badAccess
    | with_reducible apply keep_respond
    | with_reducible apply keep_writeAcc
    | with_reducible apply keep_readAcc
    | with_reducible apply Good.ite
    | (intro _)
    | split
    | dsimp only

theorem keep_svcCmdDone {p : Part} {rows : List Nat} {engineOk genOk : Bool} (hg : Good p) : Good (Part.svcCmdDone p rows engineOk genOk) := by
  unfold Part.svcCmdDone
  repeat' first
    | with_reducible assumption
    | with_reducible apply keep_svcDone
    | with_reducible apply keep_writeNow
    | with_reducible apply keep_readNow
    | with_reducible apply Good.foldl
    | with_reducible apply Good.foldl2
    | with_reducible apply Good.foldl1
    | (simp only [good_mk]; with_reducible apply Good.core)
    | with_reducible apply Good.ite
    | (intro _)
    | split
    | dsimp only

end Sys2Proof.Safety
end

