-- ==== Sys2Proof/Laws/KeepTicks.lean ====
section
/-!
SUPPORT. Sys2Proof/Laws/KeepTicks.lean: every operation of Machine/Ticks.lean keeps a part good (Safety.Good).
-/

set_option linter.unusedSimpArgs false

namespace Sys2Proof.Safety
open Sys2Proof Sys2Proof.Machine

theorem keep_tickTime {p : Part} (hg : Good p) : Good (Part.tickTime p) := by
  unfold Part.tickTime
  repeat' first
    | with_reducible assumption
    | (simp only [good_mk]; with_reducible apply Good.core)
    | with_reducible apply Good.ite
    | (intro _)
    | split
    | dsimp only

theorem keep_charge {p : Part} {c : Nat} {cls : Cls} {n : Nat} {work : Bool} (hg : Good p) : Good (Part.charge p c cls n work) := by
  unfold Part.charge
  repeat' first
    | with_reducible assumption
    | with_reducible apply keep_setCtx
    | with_reducible apply Good.bump
    | (simp only [good_mk]; with_reducible apply Good.core)
    | with_reducible apply Good.ite
    | (intro _)
    | split
    | dsimp only

theorem keep_chargeEngines {p : Part} (hg : Good p) : Good (Part.chargeEngines p) := by
  unfold Part.chargeEngines
  repeat' first
    | with_reducible assumption
    | with_reducible apply keep_charge
    | with_reducible apply Good.foldl
    | with_reducible apply Good.foldl2
    | with_reducible apply Good.foldl1
    | with_reducible apply Good.ite
    | (intro _)
    | split
    | dsimp only

theorem keep_chargeGangs {p : Part} (hg : Good p) : Good (Part.chargeGangs p) := by
  unfold Part.chargeGangs
  repeat' first
    | with_reducible assumption
    | with_reducible apply keep_charge
    | with_reducible apply Good.bump
    | with_reducible apply Good.foldl
    | with_reducible apply Good.foldl2
    | with_reducible apply Good.foldl1
    | with_reducible apply Good.ite
    | (intro _)
    | split
    | dsimp only

theorem keep_chargeCarriers {p : Part} (hg : Good p) : Good (Part.chargeCarriers p) := by
  unfold Part.chargeCarriers
  repeat' first
    | with_reducible assumption
    | with_reducible apply keep_charge
    | with_reducible apply Good.foldl
    | with_reducible apply Good.foldl2
    | with_reducible apply Good.foldl1
    | with_reducible apply Good.ite
    | (intro _)
    | split
    | dsimp only

theorem keep_chargeMoves {p : Part} (hg : Good p) : Good (Part.chargeMoves p) := by
  unfold Part.chargeMoves
  repeat' first
    | with_reducible assumption
    | with_reducible apply keep_free
    | with_reducible apply keep_Rd_free
    | with_reducible apply keep_charge
    | with_reducible apply Good.foldl
    | with_reducible apply Good.foldl2
    | with_reducible apply Good.foldl1
    | with_reducible apply Good.ite
    | (intro _)
    | split
    | dsimp only

theorem keep_tickSeen {before p : Part} (hg : Good p) : Good (Part.tickSeen before p) := by
  unfold Part.tickSeen
  repeat' first
    | with_reducible assumption
    | (simp only [good_mk]; with_reducible apply Good.core)
    | with_reducible apply Good.ite
    | (intro _)
    | split
    | dsimp only

theorem keep_tickAway {p : Part} (hg : Good p) : Good (Part.tickAway p) := by
  unfold Part.tickAway
  repeat' first
    | with_reducible assumption
    | (simp only [good_mk]; with_reducible apply Good.core)
    | with_reducible apply Good.ite
    | (intro _)
    | split
    | dsimp only

theorem keep_tickThrottle {p : Part} (hg : Good p) : Good (Part.tickThrottle p) := by
  unfold Part.tickThrottle
  repeat' first
    | with_reducible assumption
    | with_reducible apply Good.bump
    | with_reducible apply Good.foldl
    | with_reducible apply Good.foldl2
    | with_reducible apply Good.foldl1
    | with_reducible apply Good.ite
    | (intro _)
    | split
    | dsimp only

theorem keep_tickGates {p : Part} (hg : Good p) : Good (Part.tickGates p) := by
  unfold Part.tickGates
  repeat' first
    | with_reducible assumption
    | with_reducible apply keep_bumpBench
    | with_reducible apply Good.foldl
    | with_reducible apply Good.foldl2
    | with_reducible apply Good.foldl1
    | with_reducible apply Good.ite
    | (intro _)
    | split
    | dsimp only

theorem keep_tickFetch {p : Part} (hg : Good p) : Good (Part.tickFetch p) := by
  unfold Part.tickFetch
  repeat' first
    | with_reducible assumption
    | with_reducible apply keep_bumpJig
    | with_reducible apply Good.foldl
    | with_reducible apply Good.foldl2
    | with_reducible apply Good.foldl1
    | with_reducible apply Good.ite
    | (intro _)
    | split
    | dsimp only

theorem keep_tickParked {p : Part} (hg : Good p) : Good (Part.tickParked p) := by
  unfold Part.tickParked
  repeat' first
    | with_reducible assumption
    | with_reducible apply Good.bump
    | with_reducible apply Good.foldl
    | with_reducible apply Good.foldl2
    | with_reducible apply Good.foldl1
    | with_reducible apply Good.ite
    | (intro _)
    | split
    | dsimp only

theorem keep_tickAbsent {p : Part} (hg : Good p) : Good (Part.tickAbsent p) := by
  unfold Part.tickAbsent
  repeat' first
    | with_reducible assumption
    | with_reducible apply keep_bumpStream
    | with_reducible apply Good.foldl
    | with_reducible apply Good.foldl2
    | with_reducible apply Good.foldl1
    | with_reducible apply Good.ite
    | (intro _)
    | split
    | dsimp only

theorem keep_tickHeld {p : Part} (hg : Good p) : Good (Part.tickHeld p) := by
  unfold Part.tickHeld
  repeat' first
    | with_reducible assumption
    | with_reducible apply Good.bump
    | with_reducible apply Good.ite
    | (intro _)
    | split
    | dsimp only

theorem keep_pilotTick {p : Part} (hg : Good p) : Good (Part.pilotTick p) := by
  unfold Part.pilotTick
  repeat' first
    | with_reducible assumption
    | with_reducible apply keep_chargeEngines
    | with_reducible apply keep_chargeGangs
    | with_reducible apply keep_chargeCarriers
    | with_reducible apply keep_chargeMoves
    | with_reducible apply keep_tickSeen
    | with_reducible apply keep_tickAway
    | with_reducible apply keep_tickThrottle
    | with_reducible apply keep_tickGates
    | with_reducible apply keep_tickFetch
    | with_reducible apply keep_tickParked
    | with_reducible apply keep_tickAbsent
    | with_reducible apply keep_tickHeld
    | with_reducible apply keep_tickRails
    | with_reducible apply keep_tickTime
    | with_reducible apply Good.ite
    | (intro _)
    | split
    | dsimp only

theorem keep_faultTimer {p : Part} (hg : Good p) : Good (Part.faultTimer p) := by
  unfold Part.faultTimer
  repeat' first
    | with_reducible assumption
    | with_reducible apply keep_signal
    | (simp only [good_mk]; with_reducible apply Good.core)
    | with_reducible apply Good.ite
    | (intro _)
    | split
    | dsimp only

end Sys2Proof.Safety
end

