-- ==== Sys2Proof/WellFormed.lean ====
section
/-!
DEFINITION. Sys2Proof/WellFormed.lean: which commands are well formed: every operand in the range that the spec gives the object it names.
-/

namespace Sys2Proof

/-- How many engines of a class the part has (01 Table 1-3, 00 Table 0-4). -/
def classSize (c : Cls) : Nat :=
  match c with
  | .lathe => 256
  | .planer => 64
  | .joiner => 32
  | .burnisher => 64
  | .carrier => 160

/-- A Dovetail message whose fields fit the header of 15 Table 15-4. Reserved operations are not excluded: a link may carry them. -/
def DtMsg.wf (m : DtMsg) : Bool :=
  decide (m.cls < 4) && decide (m.op < 16) && decide (m.src < 32) && decide (m.dst < 32) && decide (m.ctx < 256) &&
    decide (m.arrival < 1024) && decide (m.len < 1024) && decide (m.tag < 65536) && decide (m.die < 8) && decide (m.row < 262144) &&
    decide (m.byte < 512) && decide (m.epoch < 2 ^ 32)

/-- A flit whose header fields fit 15 Table 15-3. -/
def Flit.wf (f : Flit) : Bool :=
  decide (f.kind < 4) && decide (f.seq < 65536) && decide (f.ack < 65536) && decide (f.crClass < 4) && decide (f.crCount < 1024) &&
    f.msgs.all DtMsg.wf

/-- A command is well formed. -/
def Instr.wf (i : Instr) : Bool :=
  match i with
  | .regWrite port off _ _ => decide (port < 2) && decide (off < 0x4000000)
  | .stagedHalfWrite port off _ => decide (port < 2) && decide (off < 0x4000000)
  | .badSizeAccess port off _ _ => decide (port < 2) && decide (off < 0x4000000)
  | .unmappedAccess port off _ _ => decide (port < 2) && decide (off < 0x5000000)
  | .w1cClear port off _ _ _ => decide (port < 2) && decide (off < 0x4000000)
  | .counterWindowWrite port off _ _ => decide (port < 2) && decide (off < 0x4000000)
  | .pwrMeasRead port _ => decide (port < 2)
  | .gangFeedStatusRead port g _ => decide (port < 2) && decide (g < 32)
  | .lowHalfRead port off => decide (port < 2) && decide (off < 0x4000000)
  | .randProbeGo port => decide (port < 2)
  | .randProbeDone => true
  | .cabEnWrite port b _ _ => decide (port < 2) && decide (b < 32)
  | .save port b => decide (port < 2) && decide (b < 32)
  | .quiesce port b _ => decide (port < 2) && decide (b < 32)
  | .ctxEnSet port c _ _ => decide (port < 2) && decide (c < 256)
  | .ctxEnClear port c _ _ => decide (port < 2) && decide (c < 256)
  | .teardownDone c => decide (c < 256)
  | .transInval port c => decide (port < 2) && decide (c < 256)
  | .transInvalDone c => decide (c < 256)
  | .sqEnSet port r _ _ => decide (port < 2) && decide (r < 1024)
  | .sqEnClear port r _ _ => decide (port < 2) && decide (r < 1024)
  | .cqEnSet port q _ _ => decide (port < 2) && decide (q < 1024)
  | .cqEnClear port q _ _ => decide (port < 2) && decide (q < 1024)
  | .regionCfgWrite port die i _ _ => decide (port < 2) && decide (die < 8) && decide (i < 256)
  | .arrivalCfgWrite port die i _ _ => decide (port < 2) && decide (die < 8) && decide (i < 1024)
  | .cupboardFlush port m => decide (port < 2) && decide (m < 4)
  | .cupboardDisable port m => decide (port < 2) && decide (m < 4)
  | .cupboardFlushDone m => decide (m < 4)
  | .hbmMapWrite port _ _ => decide (port < 2)
  | .stackOffline port s => decide (port < 2) && decide (s < 12)
  | .stackOnline port s => decide (port < 2) && decide (s < 12)
  | .repair port s => decide (port < 2) && decide (s < 12)
  | .repairDone s _ _ _ => decide (s < 12)
  | .chestLoad port _ _ _ => decide (port < 2)
  | .chestWrite port _ _ _ => decide (port < 2)
  | .delete port _ _ => decide (port < 2)
  | .list port _ _ => decide (port < 2)
  | .chestCmdDone => true
  | .retentionScrub ch _ _ => decide (ch < 16)
  | .channelOffline port ch => decide (port < 2) && decide (ch < 16)
  | .channelOfflineDone ch => decide (ch < 16)
  | .channelOnline port ch => decide (port < 2) && decide (ch < 16)
  | .channelRetrainDone ch _ _ _ _ _ => decide (ch < 16)
  | .aesPortEnable port a _ _ => decide (port < 2) && decide (a < 32)
  | .aesPortDisable port a _ _ => decide (port < 2) && decide (a < 32)
  | .aesRefEnable port ref _ _ => decide (port < 2) && decide (ref < 2)
  | .dtLinkEnable port l => decide (port < 2) && decide (l < 64)
  | .dtLinkDisable port l => decide (port < 2) && decide (l < 64)
  | .dtDisableDrainEnd l => decide (l < 64)
  | .dtRetrainForce port l => decide (port < 2) && decide (l < 64)
  | .joinEnable port _ _ => decide (port < 2)
  | .joinDisable port _ _ => decide (port < 2)
  | .bootHostGo port _ _ => decide (port < 2)
  | .bootHostLoadDone _ _ => true
  | .leave port _ _ => decide (port < 2)
  | .test port _ _ => decide (port < 2)
  | .update port _ _ => decide (port < 2)
  | .rejoin port _ _ => decide (port < 2)
  | .svcCmdDone _ _ _ => true
  | .fwSlotGo port _ _ => decide (port < 2)
  | .fwSlotDone _ => true
  | .hallmarkShadowWrite port off _ _ => decide (port < 2) && decide (off < 0x4000000)
  | .hallmarkCommit port _ _ => decide (port < 2)
  | .hallmarkCommitDone => true
  | .hallmarkLock port => decide (port < 2)
  | .smbReadPkgIdent => true
  | .smbReadBootStatus => true
  | .smbReadBringupStatus => true
  | .smbReadPwrMeas => true
  | .smbReadPwrEnergy => true
  | .smbReadThermStatus => true
  | .smbReadDieTemps => true
  | .smbReadStackTemps => true
  | .smbNack code _ => decide (code < 256)
  | .powerOnReset _ _ straps => decide (straps < 16)
  | .rstNAssert _ => true
  | .rstNRelease straps => decide (straps < 16)
  | .brownOut => true
  | .overVoltage _ => true
  | .ovRecovery straps => decide (straps < 16)
  | .regulatorFault die sect => decide (die < 16) && decide (sect < 2)
  | .sensorPoll dies stks => decide (dies.length = 12) && decide (stks.length = 12) && dies.all (fun t => decide (t < 256)) && stks.all (fun t => decide (t < 256))
  | .pwrMeasUpdate power vin iin => decide (power < 65536) && decide (vin < 65536) && decide (iin < 65536)
  | .blockClockOff cls e => decide (e < classSize cls)
  | .pllOff die => decide (die < 8)
  | .chestClockOff ch => decide (ch < 16)
  | .gangClockRelease g => decide (g < 32)
  | .blockClockStart cls e _ => decide (e < classSize cls)
  | .perstAssert port => decide (port < 2)
  | .hotReset port => decide (port < 2)
  | .pcieLinkDown port => decide (port < 2)
  | .pfFlr port => decide (port < 2)
  | .vfEnableClear numVfs _ => decide (numVfs ≤ 255)
  | .vfFlr vf => decide (vf < 256)
  | .d3hotEntry port fn => decide (port < 2) && decide (fn ≤ 256)
  | .watchRound fn => decide (fn ≤ 256)
  | .sweepDue r => decide (r < 1024)
  | .bitmapReadDone fn _ _ => decide (fn ≤ 256)
  | .doorbellReadDone r _ _ => decide (r < 1024)
  | .submissionEntry r _ _ => decide (r < 1024)
  | .graphHeaderRead _ _ _ => true
  | .recordFetch _ _ _ => true
  | .nop _ r => decide (r < 32768)
  | .fence _ r => decide (r < 32768)
  | .computeTaskComplete cls e => decide (e < classSize cls)
  | .msixModTimer q => decide (q < 1024)
  | .returnLinePoll q => decide (q < 1024)
  | .returnLineReadDone q _ _ => decide (q < 1024)
  | .modelLoad _ r _ _ => decide (r < 32768)
  | .start _ r _ _ => decide (r < 32768)
  | .chunk _ r _ _ => decide (r < 32768)
  | .set _ r _ _ => decide (r < 32768)
  | .pause _ r _ _ => decide (r < 32768)
  | .resume _ r _ _ => decide (r < 32768)
  | .reset _ r _ _ => decide (r < 32768)
  | .swapOut _ r _ _ => decide (r < 32768)
  | .swapIn _ r _ _ => decide (r < 32768)
  | .endOp _ r _ _ => decide (r < 32768)
  | .streamSaveDone c n => decide (c < 256) && decide (n < 262144)
  | .streamRestoreDone c n _ _ => decide (c < 256) && decide (n < 262144)
  | .streamExchange g => decide (g < 32)
  | .chunkComplete c n => decide (c < 256) && decide (n < 262144)
  | .gangStepStart g => decide (g < 32)
  | .feedRowArrive g _ _ => decide (g < 32)
  | .condRecordArrive slot _ _ _ => decide (slot < 4096)
  | .initVectorLoaded slot _ _ _ => decide (slot < 4096)
  | .punchStart g => decide (g < 32)
  | .stepComplete slot => decide (slot < 4096)
  | .conv _ r _ _ => decide (r < 32768)
  | .tconv _ r _ _ => decide (r < 32768)
  | .maxpool _ r _ _ => decide (r < 32768)
  | .avgpool _ r _ _ => decide (r < 32768)
  | .s2c _ r _ _ => decide (r < 32768)
  | .c2s _ r _ _ => decide (r < 32768)
  | .gemm _ r _ _ => decide (r < 32768)
  | .aa _ r _ _ => decide (r < 32768)
  | .attn _ r _ _ => decide (r < 32768)
  | .add _ r _ _ => decide (r < 32768)
  | .mul _ r _ _ => decide (r < 32768)
  | .max _ r _ _ => decide (r < 32768)
  | .min _ r _ _ => decide (r < 32768)
  | .convert _ r _ _ => decide (r < 32768)
  | .lut _ r _ _ => decide (r < 32768)
  | .rmsnorm _ r _ _ => decide (r < 32768)
  | .layernorm _ r _ _ => decide (r < 32768)
  | .softmax _ r _ _ => decide (r < 32768)
  | .gather _ r _ _ => decide (r < 32768)
  | .dropout _ r _ _ => decide (r < 32768)
  | .fillUniform _ r _ _ => decide (r < 32768)
  | .fillNormal _ r _ _ => decide (r < 32768)
  | .operandDataArrive cls e _ _ _ _ _ _ => decide (e < classSize cls)
  | .benchRead die row _ => decide (die < 8) && decide (row < 262144)
  | .correctedWriteback die row => decide (die < 8) && decide (row < 262144)
  | .benchWrite c die row first ds _ _ _ => decide (c < 256) && decide (die < 8) && decide (row < 262144) && decide (first + ds.length ≤ 512) && !ds.isEmpty
  | .transposedRead c die row stride width _ => decide (c < 256) && decide (die < 8) && decide (row < 262144) && decide (1 ≤ stride) && decide (stride ≤ 16384) && decide (width ∈ [1, 2, 4])
  | .stridedRead c die row stride seg _ => decide (c < 256) && decide (die < 8) && decide (row < 262144) && decide (1 ≤ stride) && decide (stride ≤ 16384) && decide (seg < 16)
  | .patrolScrub die _ => decide (die < 8)
  | .scoreboardRegister cls e => decide (e < classSize cls)
  | .regionReserve c die i _ => decide (c < 256) && decide (die < 8) && decide (i < 256)
  | .regionReturn c die i _ => decide (c < 256) && decide (die < 8) && decide (i < 256)
  | .bankGate die bank => decide (die < 8) && decide (bank < 64)
  | .bankWakeDone die bank => decide (die < 8) && decide (bank < 64)
  | .carrier _ r _ _ => decide (r < 32768)
  | .carrierDataArrive e _ _ _ _ _ => decide (e < classSize .carrier)
  | .transferComplete e => decide (e < classSize .carrier)
  | .cupboardFillDone m line _ => decide (m < 4) && decide (line < 0x6C00000000 / 64)
  | .batchSwitch cls e => decide (e < classSize cls)
  | .quantumExpire b => decide (b < 32)
  | .graceEvict => true
  | .drainResponse b => decide (b < 32)
  | .saveComplete b => decide (b < 32)
  | .restoreComplete b _ => decide (b < 32)
  | .hbmRead addr _ _ => decide (addr < 0x6C00000000) && decide (addr % 32 = 0)
  | .hbmWrite addr ds _ _ => decide (addr < 0x6C00000000) && !ds.isEmpty && decide (addr % 32 + ds.length ≤ 32)
  | .hbmRefresh s bank => decide (s < 12) && decide (bank < 64)
  | .selfRefreshEnter s => decide (s < 12)
  | .stackWakeDone s => decide (s < 12)
  | .odeccPoll s _ => decide (s < 12)
  | .hbmPatrolScrub s _ => decide (s < 12)
  | .aesFrame a => decide (a < 32)
  | .aesSideArrive a _ _ _ => decide (a < 32)
  | .aesFeedArrive a ch _ => decide (a < 32) && decide (ch < 2)
  | .aesRampEnd a ch => decide (a < 32) && decide (ch < 2)
  | .aesTaperEnd a ch => decide (a < 32) && decide (ch < 2)
  | .refWindow ref _ => decide (ref < 2)
  | .refAbsentTimeout ref => decide (ref < 2)
  | .refRateBroadcast ref => decide (ref < 2)
  | .dowelFlitCrcErr d _ => decide (d < 26)
  | .dowelRetrainDone d _ => decide (d < 26)
  | .dtFlitReceive l f => decide (l < 64) && f.wf
  | .dtRetrain l => decide (l < 64)
  | .dtRetrainDone l lanes => decide (l < 64) && decide (lanes ∈ [0, 4, 8])
  | .dtTrainDone l lanes => decide (l < 64) && decide (lanes ∈ [0, 4, 8])
  | .dtHelloTimer l => decide (l < 64)
  | .dtNarrow l => decide (l < 64)
  | .dtWidenDone l => decide (l < 64)
  | .read l => decide (l < 64)
  | .data l => decide (l < 64)
  | .fenced l => decide (l < 64)
  | .refusedMsg l => decide (l < 64)
  | .write l => decide (l < 64)
  | .hello l => decide (l < 64)
  | .prepare l => decide (l < 64)
  | .ack l => decide (l < 64)
  | .commit l => decide (l < 64)
  | .timeReq l => decide (l < 64)
  | .timeResp l => decide (l < 64)
  | .notice l => decide (l < 64)
  | .remoteReadTimeout tag => decide (tag < 65536)
  | .joinQuietExpire => true
  | .joinAckTimeout => true
  | .joinCommitTimeout => true
  | .joinHelloLoss member => decide (member < 32)
  | .timeMeasureTimer => true
  | .faultIrqTimer => true
  | .pilotTick => true
  | .bringupStageEnd stage _ _ _ _ => decide (stage ≤ 8)
  | .perstDeassert port => decide (port < 2)
  | .pcieLinkUp port => decide (port < 2)
  | .completionTimeout _ _ => true
  | .configWrite port fn _ _ numVfs => decide (port < 2) && decide (fn ≤ 256) && decide (numVfs ≤ 255)
  | .msixVectorUnmask port fn w =>
    decide (port < 2) && decide (fn ≤ 256) && decide (w.vec < 2048) && decide (w.addr < 2 ^ 64) && decide (w.data < 2 ^ 32)
  | .refEdgesPresent ref => decide (ref < 2)

end Sys2Proof
end

