-- ==== Sys2Proof/Laws/PerInstr.lean ====
section
/-!
SUPPORT. Sys2Proof/Laws/PerInstr.lean: what well-formedness says of a command that arrives through a port, one lemma per constructor.
-/

namespace Sys2Proof.Laws.Wf

set_option Elab.async false

/-- The PCIe port through which a register access arrives, for the commands that carry one (08 R214: either port reaches every register). -/
def portOf : Instr → Option Nat
  | .regWrite port _ _ _ => some port
  | .stagedHalfWrite port _ _ => some port
  | .badSizeAccess port _ _ _ => some port
  | .unmappedAccess port _ _ _ => some port
  | .w1cClear port _ _ _ _ => some port
  | .counterWindowWrite port _ _ _ => some port
  | .pwrMeasRead port _ => some port
  | .gangFeedStatusRead port _ _ => some port
  | .lowHalfRead port _ => some port
  | .randProbeGo port => some port
  | .cabEnWrite port _ _ _ => some port
  | .save port _ => some port
  | .quiesce port _ _ => some port
  | .ctxEnSet port _ _ _ => some port
  | .ctxEnClear port _ _ _ => some port
  | .transInval port _ => some port
  | .sqEnSet port _ _ _ => some port
  | .sqEnClear port _ _ _ => some port
  | .cqEnSet port _ _ _ => some port
  | .cqEnClear port _ _ _ => some port
  | .regionCfgWrite port _ _ _ _ => some port
  | .arrivalCfgWrite port _ _ _ _ => some port
  | .cupboardFlush port _ => some port
  | .cupboardDisable port _ => some port
  | .hbmMapWrite port _ _ => some port
  | .stackOffline port _ => some port
  | .stackOnline port _ => some port
  | .repair port _ => some port
  | .chestLoad port _ _ _ => some port
  | .chestWrite port _ _ _ => some port
  | .delete port _ _ => some port
  | .list port _ _ => some port
  | .channelOffline port _ => some port
  | .channelOnline port _ => some port
  | .aesPortEnable port _ _ _ => some port
  | .aesPortDisable port _ _ _ => some port
  | .aesRefEnable port _ _ _ => some port
  | .dtLinkEnable port _ => some port
  | .dtLinkDisable port _ => some port
  | .dtRetrainForce port _ => some port
  | .joinEnable port _ _ => some port
  | .joinDisable port _ _ => some port
  | .bootHostGo port _ _ => some port
  | .leave port _ _ => some port
  | .test port _ _ => some port
  | .update port _ _ => some port
  | .rejoin port _ _ => some port
  | .fwSlotGo port _ _ => some port
  | .hallmarkShadowWrite port _ _ _ => some port
  | .hallmarkCommit port _ _ => some port
  | .hallmarkLock port => some port
  | .perstAssert port => some port
  | .hotReset port => some port
  | .pcieLinkDown port => some port
  | .pfFlr port => some port
  | .d3hotEntry port _ => some port
  | .perstDeassert port => some port
  | .pcieLinkUp port => some port
  | .configWrite port _ _ _ _ => some port
  | .msixVectorUnmask port _ _ => some port
  | _ => none

/-- The family's statement: a well-formed command that carries a port names one of the two that the part has. -/
def Statement (i : Instr) : Prop :=
  i.wf = true → ∀ p ∈ portOf i, p < 2

theorem of_none {i : Instr} (h : portOf i = none) : Statement i := by
  intro _ p hp
  rw [h] at hp
  cases hp

theorem of_port {i : Instr} {p : Nat} (h : portOf i = some p) (k : i.wf = true → p < 2) : Statement i := by
  intro hw q hq
  rw [h] at hq
  cases hq
  exact k hw

theorem regWrite (port off : Nat) (h : Half) (v : Reg) : Statement (.regWrite port off h v) := of_port rfl fun h => by simp only [Instr.wf, Bool.and_eq_true, decide_eq_true_eq] at h; omega
theorem stagedHalfWrite (port off : Nat) (v : Reg) : Statement (.stagedHalfWrite port off v) := of_port rfl fun h => by simp only [Instr.wf, Bool.and_eq_true, decide_eq_true_eq] at h; omega
theorem badSizeAccess (port off size : Nat) (write : Bool) : Statement (.badSizeAccess port off size write) := of_port rfl fun h => by simp only [Instr.wf, Bool.and_eq_true, decide_eq_true_eq] at h; omega
theorem unmappedAccess (port off : Nat) (h : Half) (write : Bool) : Statement (.unmappedAccess port off h write) := of_port rfl fun h => by simp only [Instr.wf, Bool.and_eq_true, decide_eq_true_eq] at h; omega
theorem w1cClear (port off : Nat) (h : Half) (v ev : Reg) : Statement (.w1cClear port off h v ev) := of_port rfl fun h => by simp only [Instr.wf, Bool.and_eq_true, decide_eq_true_eq] at h; omega
theorem counterWindowWrite (port off : Nat) (h : Half) (v : Reg) : Statement (.counterWindowWrite port off h v) := of_port rfl fun h => by simp only [Instr.wf, Bool.and_eq_true, decide_eq_true_eq] at h; omega
theorem pwrMeasRead (port : Nat) (h : Half) : Statement (.pwrMeasRead port h) := of_port rfl fun h => by simp only [Instr.wf, decide_eq_true_eq] at h; omega
theorem gangFeedStatusRead (port g : Nat) (h : Half) : Statement (.gangFeedStatusRead port g h) := of_port rfl fun h => by simp only [Instr.wf, Bool.and_eq_true, decide_eq_true_eq] at h; omega
theorem lowHalfRead (port off : Nat) : Statement (.lowHalfRead port off) := of_port rfl fun h => by simp only [Instr.wf, Bool.and_eq_true, decide_eq_true_eq] at h; omega
theorem randProbeGo (port : Nat) : Statement (.randProbeGo port) := of_port rfl fun h => by simp only [Instr.wf, decide_eq_true_eq] at h; omega
theorem randProbeDone : Statement .randProbeDone := of_none rfl
theorem cabEnWrite (port b : Nat) (h : Half) (v : Reg) : Statement (.cabEnWrite port b h v) := of_port rfl fun h => by simp only [Instr.wf, Bool.and_eq_true, decide_eq_true_eq] at h; omega
theorem save (port b : Nat) : Statement (.save port b) := of_port rfl fun h => by simp only [Instr.wf, Bool.and_eq_true, decide_eq_true_eq] at h; omega
theorem quiesce (port b : Nat) (q : Bool) : Statement (.quiesce port b q) := of_port rfl fun h => by simp only [Instr.wf, Bool.and_eq_true, decide_eq_true_eq] at h; omega
theorem ctxEnSet (port c : Nat) (h : Half) (v : Reg) : Statement (.ctxEnSet port c h v) := of_port rfl fun h => by simp only [Instr.wf, Bool.and_eq_true, decide_eq_true_eq] at h; omega
theorem ctxEnClear (port c : Nat) (h : Half) (v : Reg) : Statement (.ctxEnClear port c h v) := of_port rfl fun h => by simp only [Instr.wf, Bool.and_eq_true, decide_eq_true_eq] at h; omega
theorem teardownDone (c : Nat) : Statement (.teardownDone c) := of_none rfl
theorem transInval (port c : Nat) : Statement (.transInval port c) := of_port rfl fun h => by simp only [Instr.wf, Bool.and_eq_true, decide_eq_true_eq] at h; omega
theorem transInvalDone (c : Nat) : Statement (.transInvalDone c) := of_none rfl
theorem sqEnSet (port r : Nat) (h : Half) (v : Reg) : Statement (.sqEnSet port r h v) := of_port rfl fun h => by simp only [Instr.wf, Bool.and_eq_true, decide_eq_true_eq] at h; omega
theorem sqEnClear (port r : Nat) (h : Half) (v : Reg) : Statement (.sqEnClear port r h v) := of_port rfl fun h => by simp only [Instr.wf, Bool.and_eq_true, decide_eq_true_eq] at h; omega
theorem cqEnSet (port q : Nat) (h : Half) (v : Reg) : Statement (.cqEnSet port q h v) := of_port rfl fun h => by simp only [Instr.wf, Bool.and_eq_true, decide_eq_true_eq] at h; omega
theorem cqEnClear (port q : Nat) (h : Half) (v : Reg) : Statement (.cqEnClear port q h v) := of_port rfl fun h => by simp only [Instr.wf, Bool.and_eq_true, decide_eq_true_eq] at h; omega
theorem regionCfgWrite (port die i : Nat) (h : Half) (v : Reg) : Statement (.regionCfgWrite port die i h v) := of_port rfl fun h => by simp only [Instr.wf, Bool.and_eq_true, decide_eq_true_eq] at h; omega
theorem arrivalCfgWrite (port die i : Nat) (h : Half) (v : Reg) : Statement (.arrivalCfgWrite port die i h v) := of_port rfl fun h => by simp only [Instr.wf, Bool.and_eq_true, decide_eq_true_eq] at h; omega
theorem cupboardFlush (port m : Nat) : Statement (.cupboardFlush port m) := of_port rfl fun h => by simp only [Instr.wf, Bool.and_eq_true, decide_eq_true_eq] at h; omega
theorem cupboardDisable (port m : Nat) : Statement (.cupboardDisable port m) := of_port rfl fun h => by simp only [Instr.wf, Bool.and_eq_true, decide_eq_true_eq] at h; omega
theorem cupboardFlushDone (m : Nat) : Statement (.cupboardFlushDone m) := of_none rfl
theorem hbmMapWrite (port : Nat) (h : Half) (v : Reg) : Statement (.hbmMapWrite port h v) := of_port rfl fun h => by simp only [Instr.wf, decide_eq_true_eq] at h; omega
theorem stackOffline (port s : Nat) : Statement (.stackOffline port s) := of_port rfl fun h => by simp only [Instr.wf, Bool.and_eq_true, decide_eq_true_eq] at h; omega
theorem stackOnline (port s : Nat) : Statement (.stackOnline port s) := of_port rfl fun h => by simp only [Instr.wf, Bool.and_eq_true, decide_eq_true_eq] at h; omega
theorem repair (port s : Nat) : Statement (.repair port s) := of_port rfl fun h => by simp only [Instr.wf, Bool.and_eq_true, decide_eq_true_eq] at h; omega
theorem repairDone (s : Nat) (unspared failed : List Nat) (rest : Nat) : Statement (.repairDone s unspared failed rest) := of_none rfl
theorem chestLoad (port : Nat) (h : Half) (v : Reg) (cw : List CwRead) : Statement (.chestLoad port h v cw) := of_port rfl fun h => by simp only [Instr.wf, decide_eq_true_eq] at h; omega
theorem chestWrite (port : Nat) (h : Half) (v : Reg) (fails : List Nat) : Statement (.chestWrite port h v fails) := of_port rfl fun h => by simp only [Instr.wf, decide_eq_true_eq] at h; omega
theorem delete (port : Nat) (h : Half) (v : Reg) : Statement (.delete port h v) := of_port rfl fun h => by simp only [Instr.wf, decide_eq_true_eq] at h; omega
theorem list (port : Nat) (h : Half) (v : Reg) : Statement (.list port h v) := of_port rfl fun h => by simp only [Instr.wf, decide_eq_true_eq] at h; omega
theorem chestCmdDone : Statement .chestCmdDone := of_none rfl
theorem retentionScrub (ch page : Nat) (cw : List CwRead) : Statement (.retentionScrub ch page cw) := of_none rfl
theorem channelOffline (port ch : Nat) : Statement (.channelOffline port ch) := of_port rfl fun h => by simp only [Instr.wf, Bool.and_eq_true, decide_eq_true_eq] at h; omega
theorem channelOfflineDone (ch : Nat) : Statement (.channelOfflineDone ch) := of_none rfl
theorem channelOnline (port ch : Nat) : Statement (.channelOnline port ch) := of_port rfl fun h => by simp only [Instr.wf, Bool.and_eq_true, decide_eq_true_eq] at h; omega
theorem channelRetrainDone (ch : Nat) (ok : Bool) (info replaced : Nat) (marked : List Nat) (cw : List CwRead) : Statement (.channelRetrainDone ch ok info replaced marked cw) := of_none rfl
theorem aesPortEnable (port a : Nat) (h : Half) (v : Reg) : Statement (.aesPortEnable port a h v) := of_port rfl fun h => by simp only [Instr.wf, Bool.and_eq_true, decide_eq_true_eq] at h; omega
theorem aesPortDisable (port a : Nat) (h : Half) (v : Reg) : Statement (.aesPortDisable port a h v) := of_port rfl fun h => by simp only [Instr.wf, Bool.and_eq_true, decide_eq_true_eq] at h; omega
theorem aesRefEnable (port ref : Nat) (h : Half) (v : Reg) : Statement (.aesRefEnable port ref h v) := of_port rfl fun h => by simp only [Instr.wf, Bool.and_eq_true, decide_eq_true_eq] at h; omega
theorem dtLinkEnable (port l : Nat) : Statement (.dtLinkEnable port l) := of_port rfl fun h => by simp only [Instr.wf, Bool.and_eq_true, decide_eq_true_eq] at h; omega
theorem dtLinkDisable (port l : Nat) : Statement (.dtLinkDisable port l) := of_port rfl fun h => by simp only [Instr.wf, Bool.and_eq_true, decide_eq_true_eq] at h; omega
theorem dtDisableDrainEnd (l : Nat) : Statement (.dtDisableDrainEnd l) := of_none rfl
theorem dtRetrainForce (port l : Nat) : Statement (.dtRetrainForce port l) := of_port rfl fun h => by simp only [Instr.wf, Bool.and_eq_true, decide_eq_true_eq] at h; omega
theorem joinEnable (port : Nat) (h : Half) (v : Reg) : Statement (.joinEnable port h v) := of_port rfl fun h => by simp only [Instr.wf, decide_eq_true_eq] at h; omega
theorem joinDisable (port : Nat) (h : Half) (v : Reg) : Statement (.joinDisable port h v) := of_port rfl fun h => by simp only [Instr.wf, decide_eq_true_eq] at h; omega
theorem bootHostGo (port : Nat) (h : Half) (v : Reg) : Statement (.bootHostGo port h v) := of_port rfl fun h => by simp only [Instr.wf, decide_eq_true_eq] at h; omega
theorem bootHostLoadDone (st : RdStat) (hw : Cells) : Statement (.bootHostLoadDone st hw) := of_none rfl
theorem leave (port : Nat) (h : Half) (v : Reg) : Statement (.leave port h v) := of_port rfl fun h => by simp only [Instr.wf, decide_eq_true_eq] at h; omega
theorem test (port : Nat) (h : Half) (v : Reg) : Statement (.test port h v) := of_port rfl fun h => by simp only [Instr.wf, decide_eq_true_eq] at h; omega
theorem update (port : Nat) (h : Half) (v : Reg) : Statement (.update port h v) := of_port rfl fun h => by simp only [Instr.wf, decide_eq_true_eq] at h; omega
theorem rejoin (port : Nat) (h : Half) (v : Reg) : Statement (.rejoin port h v) := of_port rfl fun h => by simp only [Instr.wf, decide_eq_true_eq] at h; omega
theorem svcCmdDone (rows : List Nat) (engineOk genOk : Bool) : Statement (.svcCmdDone rows engineOk genOk) := of_none rfl
theorem fwSlotGo (port : Nat) (h : Half) (v : Reg) : Statement (.fwSlotGo port h v) := of_port rfl fun h => by simp only [Instr.wf, decide_eq_true_eq] at h; omega
theorem fwSlotDone (spiOk : Bool) : Statement (.fwSlotDone spiOk) := of_none rfl
theorem hallmarkShadowWrite (port off : Nat) (h : Half) (v : Reg) : Statement (.hallmarkShadowWrite port off h v) := of_port rfl fun h => by simp only [Instr.wf, Bool.and_eq_true, decide_eq_true_eq] at h; omega
theorem hallmarkCommit (port : Nat) (h : Half) (v : Reg) : Statement (.hallmarkCommit port h v) := of_port rfl fun h => by simp only [Instr.wf, decide_eq_true_eq] at h; omega
theorem hallmarkCommitDone : Statement .hallmarkCommitDone := of_none rfl
theorem hallmarkLock (port : Nat) : Statement (.hallmarkLock port) := of_port rfl fun h => by simp only [Instr.wf, decide_eq_true_eq] at h; omega
theorem smbReadPkgIdent : Statement .smbReadPkgIdent := of_none rfl
theorem smbReadBootStatus : Statement .smbReadBootStatus := of_none rfl
theorem smbReadBringupStatus : Statement .smbReadBringupStatus := of_none rfl
theorem smbReadPwrMeas : Statement .smbReadPwrMeas := of_none rfl
theorem smbReadPwrEnergy : Statement .smbReadPwrEnergy := of_none rfl
theorem smbReadThermStatus : Statement .smbReadThermStatus := of_none rfl
theorem smbReadDieTemps : Statement .smbReadDieTemps := of_none rfl
theorem smbReadStackTemps : Statement .smbReadStackTemps := of_none rfl
theorem smbNack (code : Nat) (write : Bool) : Statement (.smbNack code write) := of_none rfl
theorem powerOnReset (mv : Nat) (aonLost : Bool) (straps : Nat) : Statement (.powerOnReset mv aonLost straps) := of_none rfl
theorem rstNAssert (ns : Nat) : Statement (.rstNAssert ns) := of_none rfl
theorem rstNRelease (straps : Nat) : Statement (.rstNRelease straps) := of_none rfl
theorem brownOut : Statement .brownOut := of_none rfl
theorem overVoltage (mv : Nat) : Statement (.overVoltage mv) := of_none rfl
theorem ovRecovery (straps : Nat) : Statement (.ovRecovery straps) := of_none rfl
theorem regulatorFault (die sect : Nat) : Statement (.regulatorFault die sect) := of_none rfl
theorem sensorPoll (dies stks : List Nat) : Statement (.sensorPoll dies stks) := of_none rfl
theorem pwrMeasUpdate (power vin iin : Nat) : Statement (.pwrMeasUpdate power vin iin) := of_none rfl
theorem blockClockOff (cls : Cls) (e : Nat) : Statement (.blockClockOff cls e) := of_none rfl
theorem pllOff (die : Nat) : Statement (.pllOff die) := of_none rfl
theorem chestClockOff (ch : Nat) : Statement (.chestClockOff ch) := of_none rfl
theorem gangClockRelease (g : Nat) : Statement (.gangClockRelease g) := of_none rfl
theorem blockClockStart (cls : Cls) (e : Nat) (lockFail : Bool) : Statement (.blockClockStart cls e lockFail) := of_none rfl
theorem perstAssert (port : Nat) : Statement (.perstAssert port) := of_port rfl fun h => by simp only [Instr.wf, decide_eq_true_eq] at h; omega
theorem hotReset (port : Nat) : Statement (.hotReset port) := of_port rfl fun h => by simp only [Instr.wf, decide_eq_true_eq] at h; omega
theorem pcieLinkDown (port : Nat) : Statement (.pcieLinkDown port) := of_port rfl fun h => by simp only [Instr.wf, decide_eq_true_eq] at h; omega
theorem pfFlr (port : Nat) : Statement (.pfFlr port) := of_port rfl fun h => by simp only [Instr.wf, decide_eq_true_eq] at h; omega
theorem vfEnableClear (numVfs : Nat) (en : Bool) : Statement (.vfEnableClear numVfs en) := of_none rfl
theorem vfFlr (vf : Nat) : Statement (.vfFlr vf) := of_none rfl
theorem d3hotEntry (port fn : Nat) : Statement (.d3hotEntry port fn) := of_port rfl fun h => by simp only [Instr.wf, Bool.and_eq_true, decide_eq_true_eq] at h; omega
theorem watchRound (fn : Nat) : Statement (.watchRound fn) := of_none rfl
theorem sweepDue (r : Nat) : Statement (.sweepDue r) := of_none rfl
theorem bitmapReadDone (fn : Nat) (st : RdStat) (hw : Cells) : Statement (.bitmapReadDone fn st hw) := of_none rfl
theorem doorbellReadDone (r : Nat) (st : RdStat) (hw : Cells) : Statement (.doorbellReadDone r st hw) := of_none rfl
theorem submissionEntry (r : Nat) (st : RdStat) (hw : Cells) : Statement (.submissionEntry r st hw) := of_none rfl
theorem graphHeaderRead (j : Nat) (st : RdStat) (hw : Cells) : Statement (.graphHeaderRead j st hw) := of_none rfl
theorem recordFetch (j : Nat) (st : RdStat) (hw : Cells) : Statement (.recordFetch j st hw) := of_none rfl
theorem nop (j r : Nat) : Statement (.nop j r) := of_none rfl
theorem fence (j r : Nat) : Statement (.fence j r) := of_none rfl
theorem computeTaskComplete (cls : Cls) (e : Nat) : Statement (.computeTaskComplete cls e) := of_none rfl
theorem msixModTimer (q : Nat) : Statement (.msixModTimer q) := of_none rfl
theorem returnLinePoll (q : Nat) : Statement (.returnLinePoll q) := of_none rfl
theorem returnLineReadDone (q : Nat) (st : RdStat) (hw : Cells) : Statement (.returnLineReadDone q st hw) := of_none rfl
theorem modelLoad (j r : Nat) (st : RdStat) (hw : Cells) : Statement (.modelLoad j r st hw) := of_none rfl
theorem start (j r : Nat) (st : RdStat) (hw : Cells) : Statement (.start j r st hw) := of_none rfl
theorem chunk (j r : Nat) (st : RdStat) (hw : Cells) : Statement (.chunk j r st hw) := of_none rfl
theorem set (j r : Nat) (st : RdStat) (hw : Cells) : Statement (.set j r st hw) := of_none rfl
theorem pause (j r : Nat) (st : RdStat) (hw : Cells) : Statement (.pause j r st hw) := of_none rfl
theorem resume (j r : Nat) (st : RdStat) (hw : Cells) : Statement (.resume j r st hw) := of_none rfl
theorem reset (j r : Nat) (st : RdStat) (hw : Cells) : Statement (.reset j r st hw) := of_none rfl
theorem swapOut (j r : Nat) (st : RdStat) (hw : Cells) : Statement (.swapOut j r st hw) := of_none rfl
theorem swapIn (j r : Nat) (st : RdStat) (hw : Cells) : Statement (.swapIn j r st hw) := of_none rfl
theorem endOp (j r : Nat) (st : RdStat) (hw : Cells) : Statement (.endOp j r st hw) := of_none rfl
theorem streamSaveDone (c n : Nat) : Statement (.streamSaveDone c n) := of_none rfl
theorem streamRestoreDone (c n : Nat) (st : RdStat) (hw : Cells) : Statement (.streamRestoreDone c n st hw) := of_none rfl
theorem streamExchange (g : Nat) : Statement (.streamExchange g) := of_none rfl
theorem chunkComplete (c n : Nat) : Statement (.chunkComplete c n) := of_none rfl
theorem gangStepStart (g : Nat) : Statement (.gangStepStart g) := of_none rfl
theorem feedRowArrive (g : Nat) (ecc : Ecc) (late : Nat) : Statement (.feedRowArrive g ecc late) := of_none rfl
theorem condRecordArrive (slot : Nat) (st : RdStat) (ecc : Ecc) (hw : Cells) : Statement (.condRecordArrive slot st ecc hw) := of_none rfl
theorem initVectorLoaded (slot : Nat) (st : RdStat) (ecc : Ecc) (hw : Cells) : Statement (.initVectorLoaded slot st ecc hw) := of_none rfl
theorem punchStart (g : Nat) : Statement (.punchStart g) := of_none rfl
theorem stepComplete (slot : Nat) : Statement (.stepComplete slot) := of_none rfl
theorem conv (j r : Nat) (st : RdStat) (hw : Cells) : Statement (.conv j r st hw) := of_none rfl
theorem tconv (j r : Nat) (st : RdStat) (hw : Cells) : Statement (.tconv j r st hw) := of_none rfl
theorem maxpool (j r : Nat) (st : RdStat) (hw : Cells) : Statement (.maxpool j r st hw) := of_none rfl
theorem avgpool (j r : Nat) (st : RdStat) (hw : Cells) : Statement (.avgpool j r st hw) := of_none rfl
theorem s2c (j r : Nat) (st : RdStat) (hw : Cells) : Statement (.s2c j r st hw) := of_none rfl
theorem c2s (j r : Nat) (st : RdStat) (hw : Cells) : Statement (.c2s j r st hw) := of_none rfl
theorem gemm (j r : Nat) (st : RdStat) (hw : Cells) : Statement (.gemm j r st hw) := of_none rfl
theorem aa (j r : Nat) (st : RdStat) (hw : Cells) : Statement (.aa j r st hw) := of_none rfl
theorem attn (j r : Nat) (st : RdStat) (hw : Cells) : Statement (.attn j r st hw) := of_none rfl
theorem add (j r : Nat) (st : RdStat) (hw : Cells) : Statement (.add j r st hw) := of_none rfl
theorem mul (j r : Nat) (st : RdStat) (hw : Cells) : Statement (.mul j r st hw) := of_none rfl
theorem max (j r : Nat) (st : RdStat) (hw : Cells) : Statement (.max j r st hw) := of_none rfl
theorem min (j r : Nat) (st : RdStat) (hw : Cells) : Statement (.min j r st hw) := of_none rfl
theorem convert (j r : Nat) (st : RdStat) (hw : Cells) : Statement (.convert j r st hw) := of_none rfl
theorem lut (j r : Nat) (st : RdStat) (hw : Cells) : Statement (.lut j r st hw) := of_none rfl
theorem rmsnorm (j r : Nat) (st : RdStat) (hw : Cells) : Statement (.rmsnorm j r st hw) := of_none rfl
theorem layernorm (j r : Nat) (st : RdStat) (hw : Cells) : Statement (.layernorm j r st hw) := of_none rfl
theorem softmax (j r : Nat) (st : RdStat) (hw : Cells) : Statement (.softmax j r st hw) := of_none rfl
theorem gather (j r : Nat) (st : RdStat) (hw : Cells) : Statement (.gather j r st hw) := of_none rfl
theorem dropout (j r : Nat) (st : RdStat) (hw : Cells) : Statement (.dropout j r st hw) := of_none rfl
theorem fillUniform (j r : Nat) (st : RdStat) (hw : Cells) : Statement (.fillUniform j r st hw) := of_none rfl
theorem fillNormal (j r : Nat) (st : RdStat) (hw : Cells) : Statement (.fillNormal j r st hw) := of_none rfl
theorem operandDataArrive (cls : Cls) (e : Nat) (st : RdStat) (ecc buf : Ecc) (cause : StallCause) (stall : Nat) (hw : Cells) : Statement (.operandDataArrive cls e st ecc buf cause stall hw) := of_none rfl
theorem benchRead (die row : Nat) (ecc : Ecc) : Statement (.benchRead die row ecc) := of_none rfl
theorem correctedWriteback (die row : Nat) : Statement (.correctedWriteback die row) := of_none rfl
theorem benchWrite (c die row first : Nat) (data : List Byte) (poison : Bool) (arrival : Option Nat) (ecc : Ecc) : Statement (.benchWrite c die row first data poison arrival ecc) := of_none rfl
theorem transposedRead (c die row stride width : Nat) (ecc : Ecc) : Statement (.transposedRead c die row stride width ecc) := of_none rfl
theorem stridedRead (c die row stride seg : Nat) (ecc : Ecc) : Statement (.stridedRead c die row stride seg ecc) := of_none rfl
theorem patrolScrub (die : Nat) (ecc : Ecc) : Statement (.patrolScrub die ecc) := of_none rfl
theorem scoreboardRegister (cls : Cls) (e : Nat) : Statement (.scoreboardRegister cls e) := of_none rfl
theorem regionReserve (c die i n : Nat) : Statement (.regionReserve c die i n) := of_none rfl
theorem regionReturn (c die i pos : Nat) : Statement (.regionReturn c die i pos) := of_none rfl
theorem bankGate (die bank : Nat) : Statement (.bankGate die bank) := of_none rfl
theorem bankWakeDone (die bank : Nat) : Statement (.bankWakeDone die bank) := of_none rfl
theorem carrier (j r : Nat) (st : RdStat) (hw : Cells) : Statement (.carrier j r st hw) := of_none rfl
theorem carrierDataArrive (e : Nat) (st : RdStat) (ecc : Ecc) (cause : StallCause) (stall : Nat) (hw : Cells) : Statement (.carrierDataArrive e st ecc cause stall hw) := of_none rfl
theorem transferComplete (e : Nat) : Statement (.transferComplete e) := of_none rfl
theorem cupboardFillDone (m line : Nat) (ecc : Ecc) : Statement (.cupboardFillDone m line ecc) := of_none rfl
theorem batchSwitch (cls : Cls) (e : Nat) : Statement (.batchSwitch cls e) := of_none rfl
theorem quantumExpire (b : Nat) : Statement (.quantumExpire b) := of_none rfl
theorem graceEvict : Statement .graceEvict := of_none rfl
theorem drainResponse (b : Nat) : Statement (.drainResponse b) := of_none rfl
theorem saveComplete (b : Nat) : Statement (.saveComplete b) := of_none rfl
theorem restoreComplete (b : Nat) (hw : Cells) : Statement (.restoreComplete b hw) := of_none rfl
theorem hbmRead (addr : Nat) (lineRead : Bool) (ecc : Ecc) : Statement (.hbmRead addr lineRead ecc) := of_none rfl
theorem hbmWrite (addr : Nat) (data : List Byte) (poison : Bool) (ecc : Ecc) : Statement (.hbmWrite addr data poison ecc) := of_none rfl
theorem hbmRefresh (s bank : Nat) : Statement (.hbmRefresh s bank) := of_none rfl
theorem selfRefreshEnter (s : Nat) : Statement (.selfRefreshEnter s) := of_none rfl
theorem stackWakeDone (s : Nat) : Statement (.stackWakeDone s) := of_none rfl
theorem odeccPoll (s n : Nat) : Statement (.odeccPoll s n) := of_none rfl
theorem hbmPatrolScrub (s : Nat) (ecc : Ecc) : Statement (.hbmPatrolScrub s ecc) := of_none rfl
theorem aesFrame (a : Nat) : Statement (.aesFrame a) := of_none rfl
theorem aesSideArrive (a : Nat) (st : RdStat) (ecc : Ecc) (hw : Cells) : Statement (.aesSideArrive a st ecc hw) := of_none rfl
theorem aesFeedArrive (a ch : Nat) (ecc : Ecc) : Statement (.aesFeedArrive a ch ecc) := of_none rfl
theorem aesRampEnd (a ch : Nat) : Statement (.aesRampEnd a ch) := of_none rfl
theorem aesTaperEnd (a ch : Nat) : Statement (.aesTaperEnd a ch) := of_none rfl
theorem refWindow (ref : Nat) (ppm16 : Int) : Statement (.refWindow ref ppm16) := of_none rfl
theorem refAbsentTimeout (ref : Nat) : Statement (.refAbsentTimeout ref) := of_none rfl
theorem refRateBroadcast (ref : Nat) : Statement (.refRateBroadcast ref) := of_none rfl
theorem dowelFlitCrcErr (d : Nat) (again : Bool) : Statement (.dowelFlitCrcErr d again) := of_none rfl
theorem dowelRetrainDone (d : Nat) (ok : Bool) : Statement (.dowelRetrainDone d ok) := of_none rfl
theorem dtFlitReceive (l : Nat) (f : Flit) : Statement (.dtFlitReceive l f) := of_none rfl
theorem dtRetrain (l : Nat) : Statement (.dtRetrain l) := of_none rfl
theorem dtRetrainDone (l : Nat) (lanes : Nat) : Statement (.dtRetrainDone l lanes) := of_none rfl
theorem dtTrainDone (l lanes : Nat) : Statement (.dtTrainDone l lanes) := of_none rfl
theorem dtHelloTimer (l : Nat) : Statement (.dtHelloTimer l) := of_none rfl
theorem dtNarrow (l : Nat) : Statement (.dtNarrow l) := of_none rfl
theorem dtWidenDone (l : Nat) : Statement (.dtWidenDone l) := of_none rfl
theorem read (l : Nat) : Statement (.read l) := of_none rfl
theorem data (l : Nat) : Statement (.data l) := of_none rfl
theorem fenced (l : Nat) : Statement (.fenced l) := of_none rfl
theorem refusedMsg (l : Nat) : Statement (.refusedMsg l) := of_none rfl
theorem write (l : Nat) : Statement (.write l) := of_none rfl
theorem hello (l : Nat) : Statement (.hello l) := of_none rfl
theorem prepare (l : Nat) : Statement (.prepare l) := of_none rfl
theorem ack (l : Nat) : Statement (.ack l) := of_none rfl
theorem commit (l : Nat) : Statement (.commit l) := of_none rfl
theorem timeReq (l : Nat) : Statement (.timeReq l) := of_none rfl
theorem timeResp (l : Nat) : Statement (.timeResp l) := of_none rfl
theorem notice (l : Nat) : Statement (.notice l) := of_none rfl
theorem remoteReadTimeout (tag : Nat) : Statement (.remoteReadTimeout tag) := of_none rfl
theorem joinQuietExpire : Statement .joinQuietExpire := of_none rfl
theorem joinAckTimeout : Statement .joinAckTimeout := of_none rfl
theorem joinCommitTimeout : Statement .joinCommitTimeout := of_none rfl
theorem joinHelloLoss (member : Nat) : Statement (.joinHelloLoss member) := of_none rfl
theorem timeMeasureTimer : Statement .timeMeasureTimer := of_none rfl
theorem faultIrqTimer : Statement .faultIrqTimer := of_none rfl
theorem pilotTick : Statement .pilotTick := of_none rfl
theorem bringupStageEnd (stage unit : Nat) (ok : Bool) (info : Nat) (marked : List Nat) : Statement (.bringupStageEnd stage unit ok info marked) := of_none rfl
theorem perstDeassert (port : Nat) : Statement (.perstDeassert port) := of_port rfl fun h => by simp only [Instr.wf, decide_eq_true_eq] at h; omega
theorem pcieLinkUp (port : Nat) : Statement (.pcieLinkUp port) := of_port rfl fun h => by simp only [Instr.wf, decide_eq_true_eq] at h; omega
theorem completionTimeout (kind idx : Nat) : Statement (.completionTimeout kind idx) := of_none rfl
theorem configWrite (port fn : Nat) (ctl : FnCtl) (vfEn : Bool) (numVfs : Nat) : Statement (.configWrite port fn ctl vfEn numVfs) := of_port rfl fun h => by simp only [Instr.wf, Bool.and_eq_true, decide_eq_true_eq] at h; omega
theorem msixVectorUnmask (port fn : Nat) (w : VecWrite) : Statement (.msixVectorUnmask port fn w) := of_port rfl fun h => by simp only [Instr.wf, Bool.and_eq_true, decide_eq_true_eq] at h; omega
theorem refEdgesPresent (ref : Nat) : Statement (.refEdgesPresent ref) := of_none rfl

end Sys2Proof.Laws.Wf
end

