-- ==== Sys2Proof/Laws/Regs.lean ====
section
/-!
SUPPORT. Sys2Proof/Laws/Regs.lean: bit fields read back what was put into them, and registers what was stored.
-/

namespace Sys2Proof.Machine
open Sys2Proof

theorem bits_lt (x lo w : Nat) : bits x lo w < 2 ^ w := Nat.mod_lt _ (Nat.two_pow_pos w)

/-- A bit of a field. -/
theorem testBit_bits (x lo w i : Nat) : (bits x lo w).testBit i = (decide (i < w) && x.testBit (lo + i)) := by
  simp [bits, Nat.testBit_mod_two_pow, Nat.testBit_shiftRight]

/-- A bit of a number with a field replaced. -/
theorem testBit_setBits (x lo w v i : Nat) :
    (setBits x lo w v).testBit i = if i < lo then x.testBit i else if i < lo + w then v.testBit (i - lo) else x.testBit i := by
  have h : setBits x lo w v = ((x >>> (lo + w)) * 2 ^ w + v % 2 ^ w) * 2 ^ lo + x % 2 ^ lo := by
    simp only [setBits, Nat.pow_add, Nat.add_mul, Nat.mul_assoc, Nat.mul_comm (2 ^ w) (2 ^ lo)]
    omega
  rw [h, Nat.mul_comm _ (2 ^ lo), Nat.testBit_two_pow_mul_add _ (Nat.mod_lt _ (Nat.two_pow_pos lo))]
  split
  · rename_i hi; rw [Nat.testBit_mod_two_pow]; simp [hi]
  · rename_i hi
    rw [Nat.mul_comm _ (2 ^ w), Nat.testBit_two_pow_mul_add _ (Nat.mod_lt _ (Nat.two_pow_pos w))]
    by_cases h2 : i < lo + w
    · rw [if_pos (by omega), if_pos h2, Nat.testBit_mod_two_pow]; simp; omega
    · rw [if_neg (by omega), if_neg h2, Nat.testBit_shiftRight]; congr 1; omega

theorem bits_setBits_same (x lo w v : Nat) : bits (setBits x lo w v) lo w = v % 2 ^ w := by
  apply Nat.eq_of_testBit_eq
  intro i
  rw [testBit_bits, testBit_setBits, Nat.testBit_mod_two_pow]
  by_cases h : i < w
  · simp [h, show ¬ lo + i < lo by omega]
  · simp [h]

theorem bits_setBits_other (x lo w v l n : Nat) (h : l + n ≤ lo ∨ lo + w ≤ l) : bits (setBits x lo w v) l n = bits x l n := by
  apply Nat.eq_of_testBit_eq
  intro i
  rw [testBit_bits, testBit_setBits, testBit_bits]
  by_cases hi : i < n
  · simp only [hi, decide_true, Bool.true_and]
    rcases h with h | h
    · rw [if_pos (by omega)]
    · rw [if_neg (by omega), if_neg (by omega)]
  · simp [hi]

theorem setBits_lt (x lo w v : Nat) (hx : x < 2 ^ 64) (h : lo + w ≤ 64) : setBits x lo w v < 2 ^ 64 := by
  refine Nat.lt_pow_two_of_testBit _ fun j hj => ?_
  rw [testBit_setBits, if_neg (by omega), if_neg (by omega)]
  exact Nat.testBit_lt_two_pow (Nat.lt_of_lt_of_le hx (Nat.pow_le_pow_right (by omega) hj))

namespace Part

theorem rv_lt (p : Part) (r : RegName) (d i : Nat) : p.rv r d i < 2 ^ 64 := BitVec.isLt _

/-- A register stored reads back. -/
theorem rv_setReg_same (p : Part) (r : RegName) (d i v : Nat) : (p.setReg r d i v).rv r d i = v % 2 ^ 64 := by
  simp [Part.rv, Part.reg, Part.setReg]

/-- A register stored leaves every other as it was. -/
theorem rv_setReg_other (p : Part) (r r' : RegName) (d d' i i' v : Nat) (h : regOff r' d' i' ≠ regOff r d i) :
    (p.setReg r d i v).rv r' d' i' = p.rv r' d' i' := by
  simp [Part.rv, Part.reg, Part.setReg, Tab.find_put_other h]

theorem rf_setRf_same (p : Part) (r : RegName) (d i lo w v : Nat) (h : lo + w ≤ 64) (hv : v < 2 ^ w) :
    (p.setRf r d i lo w v).rf r d i lo w = v := by
  rw [Part.rf, Part.setRf, rv_setReg_same, Nat.mod_eq_of_lt (setBits_lt _ _ _ _ (rv_lt _ _ _ _) h), bits_setBits_same, Nat.mod_eq_of_lt hv]

theorem rf_setRf_field (p : Part) (r : RegName) (d i lo w v l n : Nat) (h : lo + w ≤ 64) (hd : l + n ≤ lo ∨ lo + w ≤ l) :
    (p.setRf r d i lo w v).rf r d i l n = p.rf r d i l n := by
  rw [Part.rf, Part.setRf, rv_setReg_same, Nat.mod_eq_of_lt (setBits_lt _ _ _ _ (rv_lt _ _ _ _) h), bits_setBits_other _ _ _ _ _ _ hd, Part.rf]

theorem rf_setRf_other (p : Part) (r r' : RegName) (d d' i i' lo w v l n : Nat) (h : regOff r' d' i' ≠ regOff r d i) :
    (p.setRf r d i lo w v).rf r' d' i' l n = p.rf r' d' i' l n := by
  rw [Part.rf, Part.setRf, rv_setReg_other _ _ _ _ _ _ _ _ h, Part.rf]

end Part

end Sys2Proof.Machine
end

