-- ==== Sys2Proof/Laws/Write.lean ====
section
/-!
SUPPORT. Sys2Proof/Laws/Write.lean: a write that reaches its register is Part.applyWrite of what it carries; a part where nothing falls due
settles as it is.
-/

namespace Sys2Proof.Safety
open Sys2Proof Sys2Proof.Machine

theorem writeReg_served {p : Part} {port off : Nat} {r : RegId} (h : Served p port off r) (hh : Half) (v : Reg) :
    p.writeReg port off hh v = p.writeNow port off hh v.toNat 0 [] [] := by
  unfold Part.writeReg Part.writeAcc
  simp only [h.link, h.free, Bool.not_true, Bool.false_eq_true, if_false]

/-- A register without a pair is written with the half's mask. -/
theorem writeNow_single {p : Part} {port off : Nat} {r : RegId} (h : Served p port off r) (hp : paired r.name = false) (hh : Half) (v ev : Nat)
    (cw : List CwRead) (fails : List Nat) :
    p.writeNow port off hh v ev cw fails = p.applyWrite ⟨r, halfMask hh, halfData hh v, ev, cw, fails⟩ := by
  unfold Part.writeNow
  simp only [h.here, h.up, hp, Bool.not_true, Bool.false_eq_true, if_false]

/-- A whole write of a paired register discards its staged half and applies. -/
theorem writeNow_full {p : Part} {port off : Nat} {r : RegId} (h : Served p port off r) (hp : paired r.name = true) (v ev : Nat)
    (cw : List CwRead) (fails : List Nat) :
    p.writeNow port off .full v ev cw fails = (p.unstage port off).applyWrite ⟨r, 2 ^ 64 - 1, v % 2 ^ 64, ev, cw, fails⟩ := by
  unfold Part.writeNow
  simp only [h.here, h.up, hp, Bool.not_true, Bool.false_eq_true, if_false, if_true, halfMask, halfData]

/-- The low half of a paired register is staged. -/
theorem writeNow_lo {p : Part} {port off : Nat} {r : RegId} (h : Served p port off r) (hp : paired r.name = true) (v ev : Nat)
    (cw : List CwRead) (fails : List Nat) : p.writeNow port off .lo v ev cw fails = p.stage port off v := by
  unfold Part.writeNow
  simp only [h.here, h.up, hp, Bool.not_true, Bool.false_eq_true, if_false, if_true]

/-- The high half commits the staged half with it. -/
theorem writeNow_hi {p : Part} {port off lo : Nat} {r : RegId} (h : Served p port off r) (hp : paired r.name = true)
    (hs : p.stagedHalf port off = some lo) (v ev : Nat) (cw : List CwRead) (fails : List Nat) :
    p.writeNow port off .hi v ev cw fails = (p.unstage port off).applyWrite ⟨r, 2 ^ 64 - 1, lo + v % 2 ^ 32 * 2 ^ 32, ev, cw, fails⟩ := by
  unfold Part.writeNow
  simp only [h.here, h.up, hp, hs, Bool.not_true, Bool.false_eq_true, if_false, if_true, halfMask, halfData]

/-- A write without a reserved encoding stores its new image, then does what it triggers. -/
theorem store_clean {p : Part} {a : Acc} {f : Part → Part} (h : p.carriesReserved a = false) : p.store a f = f (p.putImage a.r (p.newImage a)) := by
  simp only [Part.store, Part.once, h, Bool.false_and, Bool.false_eq_true, if_false]

/-- The new image of a write without a reserved encoding: the RW fields written, W1C bits written 1 cleared but for events of the same
cycle. -/
theorem newImage_clean {p : Part} {a : Acc} (h : p.carriesReserved a = false) :
    p.newImage a = (p.raw a - (p.raw a &&& (a.mask &&& a.val &&& (regRow a.r.name).w1c))) ||| (a.ev &&& (regRow a.r.name).w1c) := by
  have e : (fieldRanges a.r.name).filter (reservedIn a.mask (p.raw a)) = [] := by
    simp only [Part.carriesReserved, List.any_eq_false] at h
    exact List.filter_eq_nil_iff.mpr h
  simp only [Part.newImage, e, List.foldl_nil]

/-- With no field ranges, no encoding is reserved. -/
theorem reserved_none {p : Part} {a : Acc} (h : fieldRanges a.r.name = []) : p.carriesReserved a = false := by
  simp only [Part.carriesReserved, h, List.any_nil]

theorem rw_covered (r : RegName) : (2 ^ 64 - 1) &&& (regRow r).rw = (regRow r).rw := by cases r <;> decide

/-- A whole write of a register without W1C fields: what a clean store leaves. -/
theorem raw_whole (p : Part) (r : RegId) (v ev : Nat) (cw : List CwRead) (fails : List Nat) :
    p.raw ⟨r, 2 ^ 64 - 1, v, ev, cw, fails⟩ = imageOf p r v := by
  simp only [Part.raw, rw_covered, imageOf]

theorem clean_whole {p : Part} {r : RegId} {v : Nat} (h : Plain p r v) (ev : Nat) (cw : List CwRead) (fails : List Nat) :
    p.carriesReserved ⟨r, 2 ^ 64 - 1, v, ev, cw, fails⟩ = false := by
  simp only [Part.carriesReserved, raw_whole]
  exact h

theorem newImage_whole {p : Part} {r : RegId} {v : Nat} (h : Plain p r v) (hw : (regRow r.name).w1c = 0) (ev : Nat) (cw : List CwRead)
    (fails : List Nat) : p.newImage ⟨r, 2 ^ 64 - 1, v, ev, cw, fails⟩ = imageOf p r v := by
  rw [newImage_clean (clean_whole h ev cw fails), raw_whole]
  simp [hw]

/-- Two numbers of 64 bits without a common bit add up to their union. -/
theorem add_eq_or {a b : Nat} (ha : a < 2 ^ 64) (hb : b < 2 ^ 64) (h : a &&& b = 0) : a + b = a ||| b := by
  have e := BitVec.add_eq_or_of_and_eq_zero (BitVec.ofNat 65 a) (BitVec.ofNat 65 b) (by
    apply BitVec.eq_of_toNat_eq
    simp only [BitVec.toNat_and, BitVec.toNat_ofNat]
    rw [Nat.mod_eq_of_lt (by omega), Nat.mod_eq_of_lt (by omega), h])
  have e := congrArg BitVec.toNat e
  simp only [BitVec.toNat_add, BitVec.toNat_or, BitVec.toNat_ofNat] at e
  rw [Nat.mod_eq_of_lt (a := a) (by omega), Nat.mod_eq_of_lt (a := b) (by omega), Nat.mod_eq_of_lt (by omega)] at e
  exact e

/-- A number of 64 bits less its bits in a mask. -/
theorem sub_and {x m : Nat} (hx : x < 2 ^ 64) : x - (x &&& m) = x &&& ((2 ^ 64 - 1) ^^^ (m % 2 ^ 64)) := by
  have h : x = (x &&& ((2 ^ 64 - 1) ^^^ (m % 2 ^ 64))) + (x &&& m) := by
    rw [add_eq_or (Nat.lt_of_le_of_lt Nat.and_le_left hx) (Nat.lt_of_le_of_lt Nat.and_le_left hx)]
    · apply Nat.eq_of_testBit_eq
      intro i
      simp only [Nat.testBit_or, Nat.testBit_and, Nat.testBit_xor, Nat.testBit_two_pow_sub_one, Nat.testBit_mod_two_pow]
      by_cases hi : i < 64
      · cases x.testBit i <;> cases m.testBit i <;> simp [hi]
      · simp [hi, Nat.testBit_lt_two_pow (Nat.lt_of_lt_of_le hx (Nat.pow_le_pow_right (by omega) (Nat.not_lt.mp hi)))]
    · apply Nat.eq_of_testBit_eq
      intro i
      simp only [Nat.testBit_and, Nat.testBit_xor, Nat.testBit_two_pow_sub_one, Nat.testBit_mod_two_pow, Nat.zero_testBit]
      by_cases hi : i < 64
      · cases x.testBit i <;> cases m.testBit i <;> simp [hi]
      · simp [hi]
  omega

theorem rw_lt (r : RegName) : (regRow r).rw < 2 ^ 64 := by cases r <;> decide

/-- A bit of a register's image after a whole write. -/
theorem testBit_imageOf (p : Part) (r : RegId) (v i : Nat) :
    (imageOf p r v).testBit i = if (regRow r.name).rw.testBit i then v.testBit i else (p.old r).testBit i := by
  have ho : p.old r < 2 ^ 64 := BitVec.isLt _
  have hr := rw_lt r.name
  have e : imageOf p r v = (p.old r &&& ((2 ^ 64 - 1) ^^^ (regRow r.name).rw)) ||| (v &&& (regRow r.name).rw) := by
    rw [imageOf, sub_and ho, Nat.mod_eq_of_lt hr, add_eq_or (Nat.lt_of_le_of_lt Nat.and_le_left ho) (Nat.lt_of_le_of_lt Nat.and_le_right hr)]
    apply Nat.eq_of_testBit_eq
    intro i
    simp only [Nat.testBit_and, Nat.testBit_xor, Nat.testBit_two_pow_sub_one, Nat.zero_testBit]
    by_cases hi : i < 64
    · cases (regRow r.name).rw.testBit i <;> simp [hi]
    · simp [Nat.testBit_lt_two_pow (Nat.lt_of_lt_of_le hr (Nat.pow_le_pow_right (by omega) (Nat.not_lt.mp hi)))]
  rw [e]
  simp only [Nat.testBit_or, Nat.testBit_and, Nat.testBit_xor, Nat.testBit_two_pow_sub_one]
  by_cases hi : i < 64
  · cases (regRow r.name).rw.testBit i <;> simp [hi]
  · simp [hi, Nat.testBit_lt_two_pow (Nat.lt_of_lt_of_le hr (Nat.pow_le_pow_right (by omega) (Nat.not_lt.mp hi))),
      Nat.testBit_lt_two_pow (Nat.lt_of_lt_of_le ho (Nat.pow_le_pow_right (by omega) (Nat.not_lt.mp hi)))]

theorem imageOf_lt (p : Part) (r : RegId) (v : Nat) : imageOf p r v < 2 ^ 64 := by
  refine Nat.lt_pow_two_of_testBit _ fun j hj => ?_
  have hr := rw_lt r.name
  have ho : p.old r < 2 ^ 64 := BitVec.isLt _
  rw [testBit_imageOf, Nat.testBit_lt_two_pow (Nat.lt_of_lt_of_le hr (Nat.pow_le_pow_right (by omega) hj)),
    Nat.testBit_lt_two_pow (Nat.lt_of_lt_of_le ho (Nat.pow_le_pow_right (by omega) hj))]
  rfl

theorem putImage_rv (p : Part) (r : RegId) (v : Nat) (h : v < 2 ^ 64) : (p.putImage r v).rv r.name r.die r.idx = v := by
  unfold Part.putImage; split
  · rename_i e; exact e.symm
  · rw [Part.rv_setReg_same, Nat.mod_eq_of_lt h]

/-- A field of a register's image is the written one where the field is RW. -/
theorem rf_putImage_rw (p : Part) (r : RegId) (v lo w : Nat) (h : bits (regRow r.name).rw lo w = 2 ^ w - 1) :
    (p.putImage r (imageOf p r v)).rf r.name r.die r.idx lo w = bits v lo w := by
  rw [Part.rf, putImage_rv _ _ _ (imageOf_lt p r v)]
  apply Nat.eq_of_testBit_eq
  intro i
  rw [testBit_bits, testBit_bits, testBit_imageOf]
  by_cases hi : i < w
  · have k := congrArg (fun x => x.testBit i) h
    simp only [testBit_bits, Nat.testBit_two_pow_sub_one, hi, decide_true, Bool.true_and] at k
    simp [k]
  · simp [hi]

theorem rb_putImage_rw (p : Part) (r : RegId) (v b : Nat) (h : (regRow r.name).rw.testBit b = true) :
    (p.putImage r (imageOf p r v)).rb r.name r.die r.idx b = v.testBit b := by
  rw [Part.rb, putImage_rv _ _ _ (imageOf_lt p r v), bit, testBit_imageOf, h, if_pos rfl]

theorem rf_putImage_other (p : Part) (r : RegId) (v : Nat) (n : RegName) (d i lo w : Nat) (h : regOff n d i ≠ regOff r.name r.die r.idx) :
    (p.putImage r v).rf n d i lo w = p.rf n d i lo w := by
  unfold Part.putImage; split
  · rfl
  · rw [Part.rf, Part.rv_setReg_other _ _ _ _ _ _ _ _ h, Part.rf]

theorem putImage_unstage (p : Part) (r : RegId) (v port off : Nat) : imageOf (p.unstage port off) r v = imageOf p r v := rfl

/-- Where nothing falls due, what a command made of the part stands. -/
theorem after_calm {p q : Part} (h : Calm p q) : after p q = q := by
  have e : q.settle = q := by
    have hb : q.ctxs.filterMap (fun e => e.2.bad.map fun a => (e.1, a)) = [] := List.filterMap_eq_nil_iff.mpr fun x hx => by simp [h.2.1 x hx]
    have hf : q.hif.cq.filter (fun e => e.2.full) = [] := List.filter_eq_nil_iff.mpr fun x hx => by simp [h.2.2.1 x hx]
    unfold Part.settle
    simp only [hb, List.foldl_nil, hf, List.map_nil]
  unfold after
  rw [h.1, e]
  have hn : (q.holds.filter fun e => q.due (e.1 / 32) (e.1 % 32) &&
      !(p.due (e.1 / 32) (e.1 % 32) && p.holdOut (e.1 / 32) (e.1 % 32) == q.holdOut (e.1 / 32) (e.1 % 32))) = [] := by
    refine List.filter_eq_nil_iff.mpr fun x hx hd => ?_
    simp only [Bool.and_eq_true, Bool.not_eq_true'] at hd
    have k := h.2.2.2 x hx hd.1
    rw [k.1, k.2] at hd
    simp at hd
  unfold Part.react
  simp only [hn, List.foldl_nil, List.map_nil]
  rfl

theorem full_mod (v : Reg) : v.toNat % 2 ^ 64 = v.toNat := Nat.mod_eq_of_lt v.isLt

/-- A whole write of a paired register through the port. -/
theorem writeReg_paired {p : Part} {port off : Nat} {r : RegId} (h : Served p port off r) (hp : paired r.name = true) (v : Reg) :
    p.writeReg port off .full v = (p.unstage port off).applyWrite ⟨r, 2 ^ 64 - 1, v.toNat, 0, [], []⟩ := by
  rw [writeReg_served h, writeNow_full h hp, full_mod]

/-- A whole write of a single register through the port. -/
theorem writeReg_single {p : Part} {port off : Nat} {r : RegId} (h : Served p port off r) (hp : paired r.name = false) (v : Reg) :
    p.writeReg port off .full v = p.applyWrite ⟨r, 2 ^ 64 - 1, v.toNat, 0, [], []⟩ := by
  rw [writeReg_served h, writeNow_single h hp]
  simp only [halfMask, halfData, full_mod]

theorem one_full (r : RegId) (v b : Nat) (hb : b < 64) (ev : Nat) (cw : List CwRead) (fails : List Nat) :
    (⟨r, 2 ^ 64 - 1, v, ev, cw, fails⟩ : Acc).one b = v.testBit b := by
  show (Nat.testBit (2 ^ 64 - 1) b && _) = _
  rw [Nat.testBit_two_pow_sub_one, decide_eq_true hb]
  rfl

theorem zero_full (r : RegId) (v b : Nat) (hb : b < 64) (ev : Nat) (cw : List CwRead) (fails : List Nat) :
    (⟨r, 2 ^ 64 - 1, v, ev, cw, fails⟩ : Acc).zero b = !v.testBit b := by
  show (Nat.testBit (2 ^ 64 - 1) b && _) = _
  rw [Nat.testBit_two_pow_sub_one, decide_eq_true hb]
  rfl

/-- A field of a register's image after a whole write of it. -/
theorem bits_imageOf (p : Part) (r : RegId) (v lo w : Nat) (h : bits (regRow r.name).rw lo w = 2 ^ w - 1) :
    bits (imageOf p r v) lo w = bits v lo w := by
  have := rf_putImage_rw p r v lo w h
  rwa [Part.rf, putImage_rv _ _ _ (imageOf_lt p r v)] at this

theorem force_bit (v : Reg) (b : Nat) (on : Bool) (hb : b < 64) : (forceBit .full v b on).toNat.testBit b = on := by
  simp only [forceBit, BitVec.toNat_ofNat, Nat.testBit_mod_two_pow, testBit_setBits]
  cases on <;> simp [b2n, hb]

end Sys2Proof.Safety
end

