-- ==== Sys2Proof/Tests/Slice0.lean ====
section
/-!
SUPPORT. Sys2Proof/Tests/Slice0.lean: a smoke test of WellFormed, a witness for the hypotheses of every statement, and worked examples of the spec.
-/

namespace Sys2Proof.Tests
open Sys2Proof Sys2Proof.Machine Sys2Proof.Safety

set_option Elab.async false

/-! ### Helpers -/

/-- `Served` as a check. -/
def served (p : Part) (port off : Nat) (r : RegId) : Bool := p.portUp port && !p.heldOff off && p.regHere off == some r && p.offUp off

theorem served_of {p : Part} {port off : Nat} {r : RegId} (h : served p port off r = true) : Served p port off r := by
  simp only [served, Bool.and_eq_true, Bool.not_eq_true', beq_iff_eq] at h
  exact ⟨h.1.1.1, h.1.1.2, h.1.2, h.2⟩

/-- `Plain` as a check. -/
def plain (p : Part) (r : RegId) (v : Nat) : Bool := !(fieldRanges r.name).any (reservedIn (2 ^ 64 - 1) (imageOf p r v))

theorem plain_of {p : Part} {r : RegId} {v : Nat} (h : plain p r v = true) : Plain p r v := by simpa [plain, Plain] using h

/-- Supply, dies and both ports up, Bus Master Enable of the physical functions. -/
def up : Part :=
  { regs := [(regOff .bringupStatus 0 0, 0x0700FF0F)]
    hif := { linkUp := [0, 1], bme := [0, 256] }
    power := { held := false, started := true, rails := true, pwrOk := true } }

/-- A state with part `p` and nothing waiting. -/
def st (p : Part) : State := ⟨[], p⟩

/-- The state in which work ends with an answer; none where it waits or faults. -/
def ends {α : Type} (m : Rd α) (w : Who) (s : RS) : Option RS :=
  match (m w).run s with
  | (.ok _, t) => some t
  | (.error _, _) => none

theorem answers_of {α : Type} {m : Rd α} {w : Who} {s t : RS} (h : ends m w s = some t) : ∃ a, Answers m w s a t := by
  unfold ends at h
  unfold Answers
  rcases hr : (m w).run s with ⟨_ | a, u⟩ <;> rw [hr] at h
  · cases h
  · cases h; exact ⟨a, rfl⟩

/-! ### WellFormed: each check accepts and refuses -/

def badMsg : DtMsg := { cls := 4, op := 0, src := 0, dst := 0 }

theorem test_wf_accepts_1 : ([.regWrite 0 0 .full 0, .stagedHalfWrite 0 0 0, .badSizeAccess 0 0 0 true, .unmappedAccess 0 0 .full true,
    .w1cClear 0 0 .full 0 0, .counterWindowWrite 0 0 .full 0, .pwrMeasRead 0 .full, .gangFeedStatusRead 0 0 .full,
    .lowHalfRead 0 0, .randProbeGo 0, .randProbeDone, .cabEnWrite 0 0 .full 0,
    .save 0 0, .quiesce 0 0 true, .ctxEnSet 0 0 .full 0, .ctxEnClear 0 0 .full 0,
    .teardownDone 0, .transInval 0 0, .transInvalDone 0, .sqEnSet 0 0 .full 0,
    .sqEnClear 0 0 .full 0, .cqEnSet 0 0 .full 0, .cqEnClear 0 0 .full 0, .regionCfgWrite 0 0 0 .full 0,
    .arrivalCfgWrite 0 0 0 .full 0, .cupboardFlush 0 0, .cupboardDisable 0 0, .cupboardFlushDone 0,
    .hbmMapWrite 0 .full 0, .stackOffline 0 0, .stackOnline 0 0, .repair 0 0] : List Instr).all (fun i => i.wf) = true := by decide

theorem test_wf_accepts_2 : ([.repairDone 0 [1] [2] 3, .chestLoad 0 .full 0 default, .chestWrite 0 .full 0 [0], .delete 0 .full 0,
    .list 0 .full 0, .chestCmdDone, .retentionScrub 0 0 default, .channelOffline 0 0,
    .channelOfflineDone 0, .channelOnline 0 0, .channelRetrainDone 0 true 0 0 [0] default, .aesPortEnable 0 0 .full 0,
    .aesPortDisable 0 0 .full 0, .aesRefEnable 0 0 .full 0, .dtLinkEnable 0 0, .dtLinkDisable 0 0,
    .dtDisableDrainEnd 0, .dtRetrainForce 0 0, .joinEnable 0 .full 0, .joinDisable 0 .full 0,
    .bootHostGo 0 .full 0, .bootHostLoadDone .ok [], .leave 0 .full 0, .test 0 .full 0,
    .update 0 .full 0, .rejoin 0 .full 0, .svcCmdDone [0] true true, .fwSlotGo 0 .full 0,
    .fwSlotDone true, .hallmarkShadowWrite 0 0 .full 0, .hallmarkCommit 0 .full 0, .hallmarkCommitDone] : List Instr).all (fun i => i.wf) = true := by decide

theorem test_wf_accepts_3 : ([.hallmarkLock 0, .smbReadPkgIdent, .smbReadBootStatus, .smbReadBringupStatus,
    .smbReadPwrMeas, .smbReadPwrEnergy, .smbReadThermStatus, .smbReadDieTemps,
    .smbReadStackTemps, .smbNack 0 true, .powerOnReset 0 true 0, .rstNAssert 0,
    .rstNRelease 0, .brownOut, .overVoltage 0, .ovRecovery 0,
    .regulatorFault 0 0, .sensorPoll (List.replicate 12 40) (List.replicate 12 40), .pwrMeasUpdate 0 0 0, .blockClockOff .planer 0,
    .pllOff 0, .chestClockOff 0, .gangClockRelease 0, .blockClockStart .planer 0 true,
    .perstAssert 0, .hotReset 0, .pcieLinkDown 0, .pfFlr 0,
    .vfEnableClear 0 true, .vfFlr 0, .d3hotEntry 0 0, .watchRound 0] : List Instr).all (fun i => i.wf) = true := by decide

theorem test_wf_accepts_4 : ([.sweepDue 0, .bitmapReadDone 0 .ok [], .doorbellReadDone 0 .ok [], .submissionEntry 0 .ok [],
    .graphHeaderRead 0 .ok [], .recordFetch 0 .ok [], .nop 0 0, .fence 0 0,
    .computeTaskComplete .planer 0, .msixModTimer 0, .returnLinePoll 0, .returnLineReadDone 0 .ok [],
    .modelLoad 0 0 .ok [], .start 0 0 .ok [], .chunk 0 0 .ok [], .set 0 0 .ok [],
    .pause 0 0 .ok [], .resume 0 0 .ok [], .reset 0 0 .ok [], .swapOut 0 0 .ok [],
    .swapIn 0 0 .ok [], .endOp 0 0 .ok [], .streamSaveDone 0 0, .streamRestoreDone 0 0 .ok [],
    .streamExchange 0, .chunkComplete 0 0, .gangStepStart 0, .feedRowArrive 0 .clean 0,
    .condRecordArrive 0 .ok .clean [], .initVectorLoaded 0 .ok .clean [], .punchStart 0, .stepComplete 0] : List Instr).all (fun i => i.wf) = true := by decide

theorem test_wf_accepts_5 : ([.conv 0 0 .ok [], .tconv 0 0 .ok [], .maxpool 0 0 .ok [], .avgpool 0 0 .ok [],
    .s2c 0 0 .ok [], .c2s 0 0 .ok [], .gemm 0 0 .ok [], .aa 0 0 .ok [],
    .attn 0 0 .ok [], .add 0 0 .ok [], .mul 0 0 .ok [], .max 0 0 .ok [],
    .min 0 0 .ok [], .convert 0 0 .ok [], .lut 0 0 .ok [], .rmsnorm 0 0 .ok [],
    .layernorm 0 0 .ok [], .softmax 0 0 .ok [], .gather 0 0 .ok [], .dropout 0 0 .ok [],
    .fillUniform 0 0 .ok [], .fillNormal 0 0 .ok [], .operandDataArrive .planer 0 .ok .clean .clean .dataLate 0 [], .benchRead 0 0 .clean,
    .correctedWriteback 0 0, .benchWrite 0 0 0 0 [0] true none .clean, .transposedRead 0 0 0 1 1 .clean, .stridedRead 0 0 0 1 0 .clean,
    .patrolScrub 0 .clean, .scoreboardRegister .planer 0, .regionReserve 0 0 0 0, .regionReturn 0 0 0 0] : List Instr).all (fun i => i.wf) = true := by decide

theorem test_wf_accepts_6 : ([.bankGate 0 0, .bankWakeDone 0 0, .carrier 0 0 .ok [], .carrierDataArrive 0 .ok .clean .dataLate 0 [],
    .transferComplete 0, .cupboardFillDone 0 0 .clean, .batchSwitch .planer 0, .quantumExpire 0,
    .graceEvict, .drainResponse 0, .saveComplete 0, .restoreComplete 0 [],
    .hbmRead 0 true .clean, .hbmWrite 0 [0] true .clean, .hbmRefresh 0 0, .selfRefreshEnter 0,
    .stackWakeDone 0, .odeccPoll 0 0, .hbmPatrolScrub 0 .clean, .aesFrame 0,
    .aesSideArrive 0 .ok .clean [], .aesFeedArrive 0 0 .clean, .aesRampEnd 0 0, .aesTaperEnd 0 0,
    .refWindow 0 default, .refAbsentTimeout 0, .refRateBroadcast 0, .dowelFlitCrcErr 0 true,
    .dowelRetrainDone 0 true, .dtFlitReceive 0 ⟨0, 0, true, 0, false, 0, 0, 0, 0, []⟩, .dtRetrain 0, .dtRetrainDone 0 0] : List Instr).all (fun i => i.wf) = true := by decide

theorem test_wf_accepts_7 : ([.dtTrainDone 0 0, .dtHelloTimer 0, .dtNarrow 0, .dtWidenDone 0,
    .read 0, .data 0, .fenced 0, .refusedMsg 0,
    .write 0, .hello 0, .prepare 0, .ack 0,
    .commit 0, .timeReq 0, .timeResp 0, .notice 0,
    .remoteReadTimeout 0, .joinQuietExpire, .joinAckTimeout, .joinCommitTimeout,
    .joinHelloLoss 0, .timeMeasureTimer, .faultIrqTimer, .pilotTick,
    .bringupStageEnd 0 0 true 0 [0], .perstDeassert 0, .pcieLinkUp 0, .completionTimeout 0 0,
    .configWrite 0 0 ⟨true, true, false⟩ true 0, .msixVectorUnmask 0 0 ⟨0, 0, 0, true⟩, .refEdgesPresent 0] : List Instr).all (fun i => i.wf) = true := by decide

theorem test_wf_refuses_1 : ([.regWrite 2 0 .full 0, .regWrite 0 0x4000000 .full 0, .stagedHalfWrite 2 0 0, .stagedHalfWrite 0 0x4000000 0,
    .badSizeAccess 2 0 0 true, .badSizeAccess 0 0x4000000 0 true, .unmappedAccess 2 0 .full true, .unmappedAccess 0 0x5000000 .full true,
    .w1cClear 2 0 .full 0 0, .w1cClear 0 0x4000000 .full 0 0, .counterWindowWrite 2 0 .full 0, .counterWindowWrite 0 0x4000000 .full 0,
    .pwrMeasRead 2 .full, .gangFeedStatusRead 2 0 .full, .gangFeedStatusRead 0 32 .full, .lowHalfRead 2 0,
    .lowHalfRead 0 0x4000000, .randProbeGo 2, .cabEnWrite 2 0 .full 0, .cabEnWrite 0 32 .full 0,
    .save 2 0, .save 0 32, .quiesce 2 0 true, .quiesce 0 32 true,
    .ctxEnSet 2 0 .full 0, .ctxEnSet 0 256 .full 0, .ctxEnClear 2 0 .full 0, .ctxEnClear 0 256 .full 0,
    .teardownDone 256, .transInval 2 0, .transInval 0 256, .transInvalDone 256] : List Instr).all (fun i => !i.wf) = true := by decide

theorem test_wf_refuses_2 : ([.sqEnSet 2 0 .full 0, .sqEnSet 0 1024 .full 0, .sqEnClear 2 0 .full 0, .sqEnClear 0 1024 .full 0,
    .cqEnSet 2 0 .full 0, .cqEnSet 0 1024 .full 0, .cqEnClear 2 0 .full 0, .cqEnClear 0 1024 .full 0,
    .regionCfgWrite 2 0 0 .full 0, .regionCfgWrite 0 8 0 .full 0, .regionCfgWrite 0 0 256 .full 0, .arrivalCfgWrite 2 0 0 .full 0,
    .arrivalCfgWrite 0 8 0 .full 0, .arrivalCfgWrite 0 0 1024 .full 0, .cupboardFlush 2 0, .cupboardFlush 0 4,
    .cupboardDisable 2 0, .cupboardDisable 0 4, .cupboardFlushDone 4, .hbmMapWrite 2 .full 0,
    .stackOffline 2 0, .stackOffline 0 12, .stackOnline 2 0, .stackOnline 0 12,
    .repair 2 0, .repair 0 12, .repairDone 12 [] [] 0, .chestLoad 2 .full 0 default,
    .chestWrite 2 .full 0 [0], .delete 2 .full 0, .list 2 .full 0, .retentionScrub 16 0 default] : List Instr).all (fun i => !i.wf) = true := by decide

theorem test_wf_refuses_3 : ([.channelOffline 2 0, .channelOffline 0 16, .channelOfflineDone 16, .channelOnline 2 0,
    .channelOnline 0 16, .channelRetrainDone 16 true 0 0 [0] default, .aesPortEnable 2 0 .full 0, .aesPortEnable 0 32 .full 0,
    .aesPortDisable 2 0 .full 0, .aesPortDisable 0 32 .full 0, .aesRefEnable 2 0 .full 0, .aesRefEnable 0 2 .full 0,
    .dtLinkEnable 2 0, .dtLinkEnable 0 64, .dtLinkDisable 2 0, .dtLinkDisable 0 64,
    .dtDisableDrainEnd 64, .dtRetrainForce 2 0, .dtRetrainForce 0 64, .joinEnable 2 .full 0,
    .joinDisable 2 .full 0, .bootHostGo 2 .full 0, .leave 2 .full 0, .test 2 .full 0,
    .update 2 .full 0, .rejoin 2 .full 0, .fwSlotGo 2 .full 0, .hallmarkShadowWrite 2 0 .full 0,
    .hallmarkShadowWrite 0 0x4000000 .full 0, .hallmarkCommit 2 .full 0, .hallmarkLock 2, .smbNack 256 true] : List Instr).all (fun i => !i.wf) = true := by decide

theorem test_wf_refuses_4 : ([.powerOnReset 0 true 16, .rstNRelease 16, .ovRecovery 16, .regulatorFault 16 0,
    .regulatorFault 0 2, .sensorPoll [40] (List.replicate 12 40), .sensorPoll (List.replicate 12 40) [40], .sensorPoll (256 :: List.replicate 11 40) (List.replicate 12 40),
    .sensorPoll (List.replicate 12 40) (256 :: List.replicate 11 40), .pwrMeasUpdate 65536 0 0, .pwrMeasUpdate 0 65536 0, .pwrMeasUpdate 0 0 65536,
    .blockClockOff .planer 64, .pllOff 8, .chestClockOff 16, .gangClockRelease 32,
    .blockClockStart .planer 64 true, .perstAssert 2, .hotReset 2, .pcieLinkDown 2,
    .pfFlr 2, .vfEnableClear 256 true, .vfFlr 256, .d3hotEntry 2 0,
    .d3hotEntry 0 257, .watchRound 257, .sweepDue 1024, .bitmapReadDone 257 .ok [],
    .doorbellReadDone 1024 .ok [], .submissionEntry 1024 .ok [], .nop 0 32768, .fence 0 32768] : List Instr).all (fun i => !i.wf) = true := by decide

theorem test_wf_refuses_5 : ([.computeTaskComplete .planer 64, .msixModTimer 1024, .returnLinePoll 1024, .returnLineReadDone 1024 .ok [],
    .modelLoad 0 32768 .ok [], .start 0 32768 .ok [], .chunk 0 32768 .ok [], .set 0 32768 .ok [],
    .pause 0 32768 .ok [], .resume 0 32768 .ok [], .reset 0 32768 .ok [], .swapOut 0 32768 .ok [],
    .swapIn 0 32768 .ok [], .endOp 0 32768 .ok [], .streamSaveDone 256 0, .streamSaveDone 0 262144,
    .streamRestoreDone 256 0 .ok [], .streamRestoreDone 0 262144 .ok [], .streamExchange 32, .chunkComplete 256 0,
    .chunkComplete 0 262144, .gangStepStart 32, .feedRowArrive 32 .clean 0, .condRecordArrive 4096 .ok .clean [],
    .initVectorLoaded 4096 .ok .clean [], .punchStart 32, .stepComplete 4096, .conv 0 32768 .ok [],
    .tconv 0 32768 .ok [], .maxpool 0 32768 .ok [], .avgpool 0 32768 .ok [], .s2c 0 32768 .ok []] : List Instr).all (fun i => !i.wf) = true := by decide

theorem test_wf_refuses_6 : ([.c2s 0 32768 .ok [], .gemm 0 32768 .ok [], .aa 0 32768 .ok [], .attn 0 32768 .ok [],
    .add 0 32768 .ok [], .mul 0 32768 .ok [], .max 0 32768 .ok [], .min 0 32768 .ok [],
    .convert 0 32768 .ok [], .lut 0 32768 .ok [], .rmsnorm 0 32768 .ok [], .layernorm 0 32768 .ok [],
    .softmax 0 32768 .ok [], .gather 0 32768 .ok [], .dropout 0 32768 .ok [], .fillUniform 0 32768 .ok [],
    .fillNormal 0 32768 .ok [], .operandDataArrive .planer 64 .ok .clean .clean .dataLate 0 [], .benchRead 8 0 .clean, .benchRead 0 262144 .clean,
    .correctedWriteback 8 0, .correctedWriteback 0 262144, .benchWrite 256 0 0 0 [0] true none .clean, .benchWrite 0 8 0 0 [0] true none .clean,
    .benchWrite 0 0 262144 0 [0] true none .clean, .benchWrite 0 0 0 512 [0] true none .clean, .benchWrite 0 0 0 0 [] true none .clean, .transposedRead 256 0 0 1 1 .clean,
    .transposedRead 0 8 0 1 1 .clean, .transposedRead 0 0 262144 1 1 .clean, .transposedRead 0 0 0 0 1 .clean, .transposedRead 0 0 0 16385 1 .clean] : List Instr).all (fun i => !i.wf) = true := by decide

theorem test_wf_refuses_7 : ([.transposedRead 0 0 0 1 3 .clean, .stridedRead 256 0 0 1 0 .clean, .stridedRead 0 8 0 1 0 .clean, .stridedRead 0 0 262144 1 0 .clean,
    .stridedRead 0 0 0 0 0 .clean, .stridedRead 0 0 0 16385 0 .clean, .stridedRead 0 0 0 1 16 .clean, .patrolScrub 8 .clean,
    .scoreboardRegister .planer 64, .regionReserve 256 0 0 0, .regionReserve 0 8 0 0, .regionReserve 0 0 256 0,
    .regionReturn 256 0 0 0, .regionReturn 0 8 0 0, .regionReturn 0 0 256 0, .bankGate 8 0,
    .bankGate 0 64, .bankWakeDone 8 0, .bankWakeDone 0 64, .carrier 0 32768 .ok [],
    .carrierDataArrive 160 .ok .clean .dataLate 0 [], .transferComplete 160, .cupboardFillDone 4 0 .clean, .cupboardFillDone 0 0x1B0000000 .clean,
    .batchSwitch .planer 64, .quantumExpire 32, .drainResponse 32, .saveComplete 32,
    .restoreComplete 32 [], .hbmRead 0x6C00000000 true .clean, .hbmRead 8 true .clean, .hbmWrite 0x6C00000000 [0] true .clean] : List Instr).all (fun i => !i.wf) = true := by decide

theorem test_wf_refuses_8 : ([.hbmWrite 0 [] true .clean, .hbmWrite 31 [0, 0] true .clean, .hbmRefresh 12 0, .hbmRefresh 0 64,
    .selfRefreshEnter 12, .stackWakeDone 12, .odeccPoll 12 0, .hbmPatrolScrub 12 .clean,
    .aesFrame 32, .aesSideArrive 32 .ok .clean [], .aesFeedArrive 32 0 .clean, .aesFeedArrive 0 2 .clean,
    .aesRampEnd 32 0, .aesRampEnd 0 2, .aesTaperEnd 32 0, .aesTaperEnd 0 2,
    .refWindow 2 default, .refAbsentTimeout 2, .refRateBroadcast 2, .dowelFlitCrcErr 26 true,
    .dowelRetrainDone 26 true, .dtFlitReceive 64 ⟨0, 0, true, 0, false, 0, 0, 0, 0, []⟩, .dtFlitReceive 0 ⟨0, 0, true, 4, false, 0, 0, 0, 0, []⟩, .dtFlitReceive 0 ⟨0, 0, true, 0, false, 65536, 0, 0, 0, []⟩,
    .dtFlitReceive 0 ⟨0, 0, true, 0, false, 0, 65536, 0, 0, []⟩, .dtFlitReceive 0 ⟨0, 0, true, 0, false, 0, 0, 4, 0, []⟩, .dtFlitReceive 0 ⟨0, 0, true, 0, false, 0, 0, 0, 1024, []⟩, .dtFlitReceive 0 ⟨0, 0, true, 0, false, 0, 0, 0, 0, [badMsg]⟩,
    .dtRetrain 64, .dtRetrainDone 64 0, .dtRetrainDone 0 2, .dtTrainDone 64 0] : List Instr).all (fun i => !i.wf) = true := by decide

theorem test_wf_refuses_9 : ([.dtTrainDone 0 2, .dtHelloTimer 64, .dtNarrow 64, .dtWidenDone 64,
    .read 64, .data 64, .fenced 64, .refusedMsg 64,
    .write 64, .hello 64, .prepare 64, .ack 64,
    .commit 64, .timeReq 64, .timeResp 64, .notice 64,
    .remoteReadTimeout 65536, .joinHelloLoss 32, .bringupStageEnd 9 0 true 0 [0], .perstDeassert 2,
    .pcieLinkUp 2, .configWrite 2 0 ⟨true, true, false⟩ true 0, .configWrite 0 257 ⟨true, true, false⟩ true 0, .configWrite 0 0 ⟨true, true, false⟩ true 256,
    .msixVectorUnmask 2 0 ⟨0, 0, 0, true⟩, .msixVectorUnmask 0 257 ⟨0, 0, 0, true⟩, .msixVectorUnmask 0 0 ⟨2048, 0, 0, true⟩, .refEdgesPresent 2] : List Instr).all (fun i => !i.wf) = true := by decide

theorem test_wf_refuses_messages : ([{ cls := 4, op := 0, src := 0, dst := 0 }, { cls := 0, op := 16, src := 0, dst := 0 }, { cls := 0, op := 0, src := 32, dst := 0 }, { cls := 0, op := 0, src := 0, dst := 32 },
    { cls := 0, op := 0, src := 0, dst := 0, ctx := 256 }, { cls := 0, op := 0, src := 0, dst := 0, arrival := 1024 }, { cls := 0, op := 0, src := 0, dst := 0, len := 1024 }, { cls := 0, op := 0, src := 0, dst := 0, tag := 65536 },
    { cls := 0, op := 0, src := 0, dst := 0, die := 8 }, { cls := 0, op := 0, src := 0, dst := 0, row := 262144 }, { cls := 0, op := 0, src := 0, dst := 0, byte := 512 }, { cls := 0, op := 0, src := 0, dst := 0, epoch := 2 ^ 32 }] : List DtMsg).all (fun m => !m.wf) = true := by decide

/-! ### Register accesses -/

theorem witness_RegisterWriteStoresItsFields : ∀ n ∈ [RegName.probeKeyLo, .probeKeyHi, .probeCtrLo, .probeCtrHi, .thermCtl, .bootHostAddr,
    .svcFwAddr, .joinId, .joinTag, .schedCtl, .watchCtl, .benchPwrCtl, .gangFeedCtl, .streamCtl, .benchCtl, .stallCtl, .hbmCtl, .chestCtl,
    .chestArg0, .chestArg1, .dtCtl, .framePwrCtl],
    served up 0 (regOff n 0 0) ⟨n, 0, 0⟩ = true ∧ up.carriesReserved ⟨⟨n, 0, 0⟩, halfMask .full, halfData .full (regRow n).reset, 0, [], []⟩ = false := by
  decide

theorem witness_StagedHalvesCommitTogether :
    served up 1 (regOff .cqCfg 0 0) ⟨.cqCfg, 0, 0⟩ = true ∧ paired .cqCfg = true ∧
    (up.stage 1 (regOff .cqCfg 0 0) 0xFFFFFFFF).stagedHalf 1 (regOff .cqCfg 0 0) = some 0xFFFFFFFF := by decide

theorem witness_ReservedEncodingKeepsItsField :
    served up 0 (regOff .watchCtl 0 0) ⟨.watchCtl, 0, 0⟩ = true ∧
    up.carriesReserved ⟨⟨.watchCtl, 0, 0⟩, halfMask .full, halfData .full 0xFFFFFFFF, 0, [], []⟩ = true := by decide

/-- The last offset before the counter windows is in no table; the first counter has no register. -/
theorem witness_BadAccessesAreDiscardedAndCounted :
    up.portUp 0 = true ∧ ¬(2 = 4 ∧ 2 % 4 = 0) ∧ ¬(8 = 8 ∧ 4 % 8 = 0) ∧ up.heldOff 0x2FFFFF8 = false ∧ regAt 0x2FFFFF8 = none ∧
    inCounterWindow 0x2FFFFF8 = false ∧ up.heldOff 0x3000000 = false ∧ regAt 0x3000000 = none ∧ inCounterWindow 0x3000000 = true := by decide

theorem witness_WriteOneClearsUnlessItsEventComes : ∀ n ∈ [RegName.thermStatus, .svcDieStatus, .fwSlotStatus, .hallmarkStatus, .joinStatus,
    .faultStatus, .gangFeedStatus, .benchStatus, .stackStatus, .chestStatus, .chestCmdStatus, .aesPortStatus, .aesRefStatus, .cupboardStatus,
    .dtLinkStatus], served up 0 (regOff n 0 0) ⟨n, 0, 0⟩ = true := by decide

theorem witness_ReadsAnswerAndSomeRestart :
    up.portUp 1 = true ∧ up.heldOff (Part.feedStatusOff 31) = false ∧ up.benchUp (up.phys 7) = true ∧
    up.heldOff 0x3000000 = false ∧ inCounterWindow 0x3000000 = true ∧ up.heldOff (regOff .devTime 0 0) = false ∧
    up.power.pwrOk = true ∧ ({ up with power := { up.power with pwrOk := false } } : Part).power.pwrOk = false := by decide

theorem witness_RandomProbeStoresG :
    served up 0 (regOff .probeCtl 0 0) ⟨.probeCtl, 0, 0⟩ = true ∧ ({ up with probe := { busy := true } } : Part).probe.busy = true := by decide

/-- The last word of the shadow, of the page that is programmed and of an idle area. -/
theorem witness_HallmarkCommitsItsShadow :
    served up 0 (regOff .hallmarkShadow 0 767) ⟨.hallmarkShadow, 0, 767⟩ = true ∧
    served up 0 (regOff .hallmarkCtl 0 0) ⟨.hallmarkCtl, 0, 0⟩ = true ∧ Plain up ⟨.hallmarkCtl, 0, 0⟩ (forceBit .full 23 8 true).toNat ∧
    (forceBit .full 23 8 true).toNat.testBit 16 = false ∧ up.mark.lock = false ∧ up.mark.busy = none ∧
    up.rf .hallmarkCtl 0 0 0 5 < 24 ∧ ({ up with mark := { busy := some 23 } } : Part).mark.busy = some 23 := by
  unfold Plain; decide

/-! ### Firmware, service, Cabinets, contexts, rings, regions -/

theorem witness_FirmwareImagesAreTakenOrReported :
    served up 0 (regOff .fwSlotCtl 0 0) ⟨.fwSlotCtl, 0, 0⟩ = true ∧ up.svc.slotGo = none ∧
    ({ up with svc := { slotGo := some (1, 0, 2, 0) } } : Part).svc.slotGo = some (1, 0, 2, 0) ∧
    (let p : Part := { up with power := { up.power with straps := 1 } }
     served p 0 (regOff .bootHostCtl 0 0) ⟨.bootHostCtl, 0, 0⟩ = true ∧ p.rf .pkgIdent 0 0 32 8 = 0 ∧ p.power.straps % 4 ≠ 0) ∧
    (let p : Part := { up with svc := { hostLoad := true } }
     p.svc.hostLoad = true ∧ p.masters 0 = true ∧ ({ p with hif := { p.hif with bme := [] } } : Part).masters 0 = false) :=
  ⟨by decide, by decide, rfl, ⟨by decide, by decide, by decide⟩, by decide, by decide, by decide⟩

/-- Die 7 is IN_SERVICE and may leave to die 0; the others may be tested, updated or rejoined where SVC_DIE_STATE shows OUT. -/
theorem witness_ServiceCommandsBegin : ∀ e ∈ [(1, 0x07), (2, 0x07), (3, 0x07), (4, 0x07)],
    let p := if e.1 = 1 then up else { (up.setSvcState 7 2) with svc := { passed := [7] } }
    let v : Reg := BitVec.ofNat 64 (e.2 + e.1 * 2 ^ 8)
    let u := p.unstage 0 (regOff .svcDieCtl 0 0)
    let q := u.putImage ⟨.svcDieCtl, 0, 0⟩ (imageOf u ⟨.svcDieCtl, 0, 0⟩ (forceOp .full v 8 4 e.1).toNat)
    served p 0 (regOff .svcDieCtl 0 0) ⟨.svcDieCtl, 0, 0⟩ = true ∧ p.svcBusy = false ∧ q.rf .svcDieCtl 0 0 8 4 = e.1 ∧
    q.svcResult e.1 (q.rf .svcDieCtl 0 0 0 3) (q.rf .svcDieCtl 0 0 4 3) = 0 := by decide +kernel

theorem witness_ServiceCommandsEnd : ∀ op ∈ [1, 2, 3, 4], ∀ result ∈ [0, 1],
    let p : Part := { up with svc := { cmd := some ⟨op, 7, 0, result⟩ } }
    p.svc.cmd = some ⟨op, 7, 0, result⟩ ∧ p.hif.held = [] ∧ p.svcState 7 ≠ 6 ∧ p.writesAt 7 = false := by decide

/-- Cabinet `b` enabled with Stack 0 and the whole store of die 0, context 1 enabled. -/
def cabOn (b : Nat) : Part := ((up.setReg .cabCtl 0 b (2 ^ 63 + 1 + 2 ^ 32)).setReg .cabShare 0 (8 * b) (262144 * 2 ^ 20)).setRb .ctxCtl 0 1 63 true

def resident (b : Nat) : Part := { cabOn b with holds := [(32 + b, { st := .resident })] }

theorem witness_CabinetsOpenSaveAndQuiesce : ∀ b ∈ [0, 31],
    served up 0 (regOff .cabCtl 0 b) ⟨.cabCtl, 0, b⟩ = true ∧ up.cabEn b = false ∧ up.ready = true ∧
    (2 ^ 63 + 1 + 2 ^ 32).testBit 63 = true ∧ served (cabOn b) 0 (regOff .cabCtl 0 b) ⟨.cabCtl, 0, b⟩ = true ∧ (cabOn b).cabEn b = true ∧
    (cabOn b).occupant b = none ∧ served (resident b) 0 (regOff .cabCmd 0 b) ⟨.cabCmd, 0, b⟩ = true ∧ (resident b).residentCtx b = some 1 := by
  decide

theorem witness_ContextsBeginAndEnd : ∀ c ∈ [0, 255],
    served up 0 (regOff .ctxCtl 0 c) ⟨.ctxCtl, 0, c⟩ = true ∧ up.ctxEn c = false ∧
    plain up ⟨.ctxCtl, 0, c⟩ (forceBit .full 0x100 63 true).toNat = true ∧
    (let p := (up.setReg .ctxCtl 0 c (2 ^ 63 + 0x100))
     served p 0 (regOff .ctxCtl 0 c) ⟨.ctxCtl, 0, c⟩ = true ∧ p.ctxEn c = true ∧ (p.ctx c).state = 0 ∧
     (let x := (forceBit .full 0x100 63 false).toNat
      let image := imageOf (p.unstage 0 (regOff .ctxCtl 0 c)) ⟨.ctxCtl, 0, c⟩ x
      plain p ⟨.ctxCtl, 0, c⟩ x = true ∧
      bit image 0 = p.rb .ctxCtl 0 c 0 ∧ bits image 16 8 = p.rf .ctxCtl 0 c 16 8)) ∧
    ((up.setCtx c { state := 4 }).ctx c).state = 4 ∧ (up.join.reads.any fun r => r.2.drain && r.2.msg.ctx == c) = false ∧ served up 0 (regOff .ctxTransInval 0 c) ⟨.ctxTransInval, 0, c⟩ = true := by decide

theorem witness_RingsStartEmptyAndStop : ∀ r ∈ [0, 1023],
    served up 0 (regOff .sqCfg 0 r) ⟨.sqCfg, 0, r⟩ = true ∧ up.sqEn r = false ∧
    plain up ⟨.sqCfg, 0, r⟩ (forceBit .full 4 63 true).toNat = true ∧
    (up.setRb .sqCfg 0 r 63 true).sqEn r = true ∧
    served up 0 (regOff .cqCfg 0 r) ⟨.cqCfg, 0, r⟩ = true ∧ up.rb .cqCfg 0 r 63 = false ∧
    plain up ⟨.cqCfg, 0, r⟩ (forceBit .full (4 + 2 ^ 32) 63 true).toNat = true ∧
    (up.setRb .cqCfg 0 r 63 true).rb .cqCfg 0 r 63 = true := by decide

theorem witness_RegionsAndArrivalCountersAreSetUp : ∀ die ∈ [0, 7], ∀ i ∈ [0, 255],
    served up 0 (regOff .regionCfg die i) ⟨.regionCfg, die, i⟩ = true ∧ up.rb .regionCfg die i 63 = false ∧
    (∀ v ∈ [2 ^ 63 + 1 * 2 ^ 24, 1 * 2 ^ 24],
      plain up ⟨.regionCfg, die, i⟩ v = true) ∧
    (up.setRb .regionCfg die i 63 true).rb .regionCfg die i 63 = true ∧
    served up 0 (regOff .arrivalCfg die i) ⟨.arrivalCfg, die, i⟩ = true := by decide

/-! ### Memory stacks, Cupboards, the Chest -/

/-- Every stack online and trained, the Chest ready. -/
def hbm : Part := (((List.range 12).foldl (fun (p : Part) k => p.setRb .stackStatus (k / 3) (k % 3) 0 true) up)
  |>.setRb .chestStatus 0 0 0 true)

/-- The Cupboards off as well. -/
def bare : Part := (List.range 4).foldl (fun p m => p.setRb .cupboardCtl m 0 0 false) hbm

/-- The first and the last sector, the Cupboards off, poisoned or not. -/
theorem witness_SectorsReadAndWrite : ∀ a ∈ [0, hbmEnd - 32],
    a % 32 = 0 ∧ a < hbmEnd ∧ bare.stackOn (stackAt bare.hbmMode a) = true ∧ (bare.stack (stackAt bare.hbmMode a)).asleep = false ∧
    bare.cupEn (stackAt bare.hbmMode a / 3) = false ∧ bare.mem.poisoned a = false ∧
    ({ bare with mem := { poison := [a] } } : Part).mem.poisoned a = true ∧ (List.replicate 32 (0 : Byte)).length = 32 := by decide +kernel

theorem witness_StacksRefreshSleepAndScrub : ∀ k ∈ [0, 11],
    hbm.trained k = true ∧ hbm.rb .stackStatus (k / 3) (k % 3) 3 = false ∧ (hbm.stack k).asleep = false ∧
    (hbm.setRf .hbmCtl (k / 3) 0 16 16 0xFFFF).rf .hbmCtl (k / 3) 0 16 16 ≠ 0 ∧
    (let p := hbm.setStack k { asleep := true, waking := true }
     (p.stack k).asleep = true ∧ (p.stack k).waking = true) := by decide +kernel

theorem witness_RepairsEndWithAZeroStack : ∀ k ∈ [0, 11],
    served up 0 (regOff .stackCtl (k / 3) (k % 3)) ⟨.stackCtl, k / 3, k % 3⟩ = true ∧
    (up.setRb .stackCtl (k / 3) (k % 3) 0 false).rb .stackCtl (k / 3) (k % 3) 0 = false ∧ (∀ j, j < 12 → up.rb .stackStatus (j / 3) (j % 3) 3 = false) ∧
    (up.setRb .stackStatus (k / 3) (k % 3) 3 true).rb .stackStatus (k / 3) (k % 3) 3 = true ∧
    (∀ o ∈ up.mem.opens, o.mode = up.hbmMode) ∧ Part.candsLeft { cands := [1, 2, 3] } [2] [3, 4] = [2, 3, 4] ∧ stackAt 1 (if k = 0 then 0 else hbmEnd - 1) = k := by decide +kernel

/-- The last stack, named by no Cabinet, and MODE 1 written over MODE 1. -/
theorem witness_MapAndStacksAreSwitched :
    served up 0 (regOff .hbmMap 0 0) ⟨.hbmMap, 0, 0⟩ = true ∧ plain up ⟨.hbmMap, 0, 0⟩ 0 = true ∧ plain up ⟨.hbmMap, 0, 0⟩ 1 = true ∧
    (List.range 256).any up.ctxEn = false ∧
    served hbm 0 (regOff .stackCtl 3 2) ⟨.stackCtl, 3, 2⟩ = true ∧ hbm.rb .stackCtl 3 2 0 = true ∧ hbm.chestBusy = false ∧
    (∀ b, b < 32 → hbm.cabEn b = true → hbm.rb .cabCtl 0 b (32 + 11) = false) ∧
    (up.setRb .stackCtl 3 2 0 false).rb .stackCtl 3 2 0 = false ∧ up.rb .stackStatus 3 2 3 = false ∧ up.rb .stackStatus 3 2 5 = false := by decide +kernel

theorem witness_CupboardsFillAndFlush : ∀ m ∈ [0, 3],
    served up 0 (regOff .cupboardCtl m 0) ⟨.cupboardCtl, m, 0⟩ = true ∧
    (let p := (up.setRb .cupboardCtl m 0 0 true).setCup m { fills := [7] }
     (p.cup m).fills.contains 7 = true ∧ p.cupEn m = true ∧ p.mem.poisoned (7 * 64) = false ∧ p.mem.poisoned (7 * 64 + 32) = false) := by decide +kernel

theorem witness_ChestCommandsBegin :
    served hbm 0 (regOff .chestCmd 0 0) ⟨.chestCmd, 0, 0⟩ = true ∧ hbm.rb .chestStatus 0 0 0 = true ∧ hbm.chestBusy = false ∧
    up.rb .chestStatus 0 0 0 = false ∧ (hbm.setRb .chestCmdStatus 0 0 0 true).chestBusy = true := by decide +kernel

/-- An absent Drawer, a present one, and commands that end: refused, a DELETE, a LOAD of one byte. -/
theorem witness_ChestCommandsEnd :
    Tab.find 5 hbm.chest.drawers = none ∧
    (let p : Part := { hbm with chest := { drawers := [(5, ⟨0, []⟩)] } }
     Tab.find 5 p.chest.drawers = some ⟨0, []⟩ ∧ (p.setReg .chestArg0 0 0 63).rv .chestArg0 0 0 % 64 ≠ 0) ∧
    (∀ c ∈ [({ op := 4, id := 0, result := 1 } : ChCmd), { op := 3, id := 5 }, { op := 1, id := 5, addr := hbmEnd - 64, data := [1] }],
      ({ hbm with chest := { cmd := some c } } : Part).chest.cmd = some c ∧
      (∀ e ∈ hbm.mem.cells, ¬(c.addr ≤ e.1 ∧ e.1 < c.addr + c.data.length))) := by decide +kernel

/-- The last channel. -/
theorem witness_ChannelsLeaveAndReturn :
    served up 0 (regOff .chestChCtl 3 3) ⟨.chestChCtl, 3, 3⟩ = true ∧ up.frameUp 3 = true ∧
    ((up.setChan 15 { leaving := true }).chan 15).leaving = true ∧ ((up.setChan 15 { training := true }).chan 15).training = true ∧ ((up.setChan 15 { training := true }).chan 15).overdue = [] ∧
    0xFF &&& Tab.getD up.chest.known 15 0 = 0 ∧
    (let p : Part := { hbm with chest := { drawers := [(5, ⟨0, [(15 * 2 ^ 35 + 9, none)]⟩)] } }
     p.validPages.contains (15 * 2 ^ 35 + 9) = true ∧ p.rb .chestStatus 0 0 0 = true) := by decide +kernel

/-! ### Audio, Bench stores -/

/-- The last port enabled, both channels sourcing nothing. -/
def aes : Part := (up.setRb .aesPortCtl 3 7 63 true).setRb .aesPortStatus 3 7 0 true

/-- A write that R339 takes (RATE 3, FADE 5 ms, START_FILL 32, context 1 enabled) and one that it refuses (START_FILL beyond the FIFO). -/
def aesGood : Reg := BitVec.ofNat 64 (3 + 5 * 2 ^ 8 + 1 * 2 ^ 16 + 32 * 2 ^ 32 + 544 * 2 ^ 48)

theorem witness_AudioPortsStartAndStop :
    served up 0 (regOff .aesPortCtl 3 7) ⟨.aesPortCtl, 3, 7⟩ = true ∧ up.aesEn 31 = false ∧
    plain up ⟨.aesPortCtl, 3, 7⟩ (forceBit .full aesGood 63 true).toNat = true ∧
    (let p := up.setRb .ctxCtl 0 1 63 true
     p.aesRefused 31 (imageOf p ⟨.aesPortCtl, 3, 7⟩ (forceBit .full aesGood 63 true).toNat) = false) ∧
    up.aesRefused 31 (imageOf up ⟨.aesPortCtl, 3, 7⟩ (forceBit .full aesGood 63 true).toNat) = true ∧
    served aes 0 (regOff .aesPortCtl 3 7) ⟨.aesPortCtl, 3, 7⟩ = true ∧ aes.aesEn 31 = true ∧
    ((aes.setAesCh 31 0 { st := 1 }).aesCh 31 0).st = 1 ∧ ((aes.setAesCh 31 1 { st := 2 }).aesCh 31 1).st = 2 ∧
    (aes.aesCh 31 0).st = 0 ∧ (aes.aesCh 31 1).st = 0 ∧
    ∀ ref ∈ [0, 1], served up 0 (regOff .aesRefCtl (refDie ref) 0) ⟨.aesRefCtl, refDie ref, 0⟩ = true := by decide +kernel

theorem witness_ReferencesLockAndAreHeard : ∀ ref ∈ [0, 1],
    let p := up.setRb .aesRefCtl (refDie ref) 0 0 true
    p.refEn ref = true ∧ p.refState ref = 0 ∧ (p.setRefState ref 3).refState ref ≠ 0 ∧ Tab.wf p.audio.heard = true ∧
    p.frameUp 3 = true ∧ 3 ≠ refDie ref := by decide +kernel

theorem witness_SilentFramesCarryZeroWords :
    (let p := (aes.setRf .aesPortCtl 3 7 32 14 1).setPort 31 { frame := 191 }
     p.aesRunning 31 = true ∧ p.frameUp 3 = true ∧ p.aesCtl 31 2 2 = 0 ∧ p.aesSrc 31 1 ≠ 2 ∧ (p.aesPort 31).a.st = 0 ∧ (p.aesPort 31).b.st = 0 ∧
     (p.aesPort 31).a.fifo.length < p.aesCtl 31 32 14 ∧ (p.aesPort 31).b.fifo.length < p.aesCtl 31 32 14 ∧ (p.aesPort 31).frame ≠ 0) := by
  decide +kernel

theorem witness_SubframesHaveEvenParity : 15 < 16 := by decide

/-- Channel B of the last port is bound to region 255 of die 7, whose first row is the last row of the store. -/
def feed : Part :=
  ((aes.setReg .regionCfg 7 255 (2 ^ 63 + 262143 + 1 * 2 ^ 24 + 1 * 2 ^ 48)).setRegion 7 255 { rsvd := 1, tail := 1 }).setAesCh 31 1
    { bind := some (1, 0, 7, 255), todo := [256] }

theorem witness_AudioChannelsFeedRampAndTaper :
    ((feed.aesCh 31 1).bind = some (1, 0, 7, 255) ∧ feed.phys 7 = 7 ∧ feed.aesEn 31 = true ∧ feed.aesRunning 31 = true ∧ feed.benchUp 7 = true ∧
      feed.regionEn 7 255 = true ∧ feed.regionCtx 7 255 = 1 ∧ Part.rowLeft (feed.aesCh 31 1) ≠ 0 ∧
      (feed.aesCh 31 1).pos < (feed.region 7 255).tail ∧ (feed.region 7 255).head ≤ (feed.aesCh 31 1).pos ∧
      (feed.aesCh 31 1).fifo.length + 256 ≤ 8192 ∧ feed.regionRow 7 255 (feed.aesCh 31 1).pos = 262143 ∧
      (feed.bank 7 (bankOf 262143)).gated = false ∧ feed.crowded 7 255 = false ∧ feed.mem.poisoned (benchAt 7 (512 * 262143)) = false) ∧
    (let p := aes.setAesCh 31 0 { st := 1, n := 384 }
     (p.aesCh 31 0).st = 1 ∧ p.aesN 31 ≤ (p.aesCh 31 0).n) ∧
    (let p := aes.setAesCh 31 1 { st := 3, n := 384, fade := true }
     (p.aesCh 31 1).st = 3 ∧ p.aesN 31 ≤ (p.aesCh 31 1).n ∧ (p.aesPort 31).stopping = false ∧ (p.aesCh 31 1).fade = true ∧
     ((p.setPort 31 { p.aesPort 31 with stopping := true }).aesPort 31).stopping = true) ∧
    (let p := (((List.range 4).foldl (fun p m => p.setRb .cupboardCtl m 0 0 false) aes).setReg .aesPortSide 3 7 (hbmEnd - 320)).setPort 31
       { reading := true }
     (p.aesPort 31).reading = true ∧ bit (p.sidePtr 31) 63 = false ∧ p.sidePtr 31 + 320 ≤ hbmEnd ∧ p.mem.poison = [] ∧
     (∀ k, k < 12 → p.stackOn k = true) ∧ (∀ m, m < 4 → p.cupEn m = false)) := by decide +kernel

/-- The last row of die 7, with no arrival counter and with the last one. -/
theorem witness_BenchRowsReadAndWrite :
    up.phys 7 = 7 ∧ up.benchUp 7 = true ∧ 262143 < 262144 ∧ (up.bank 7 (bankOf 262143)).gated = false ∧ up.dieHeld 7 = false ∧
    up.rowBusy 7 262143 0xFFFE = false ∧ up.rowBusy 7 262143 (up.engOf (((up.rangeFor 1 7 262143).map SbRange.owner).getD 0)) = false ∧
    (up.setSb 7 [⟨1, 0, ⟨7, 262143, 1, none, 0⟩, 1, []⟩]).rowBusy 7 262143 0xFFFE = true ∧ (∀ x ∈ up.sbOf 7, up.rangeIdx 7 x.range 262143 = none) ∧
    (List.replicate 512 (0 : Byte)).length = 512 ∧
    (let p := up.setReg .arrivalCfg 7 255 (2 ^ 63 + 1)
     p.arrivalEn 7 255 = true ∧ p.rf .arrivalCfg 7 255 0 8 = 1) ∧
    up.redirectOf 1 7 262143 = none ∧ up.rowOwner (up.logi 7) 262143 = none ∧
    ({ up with bench := { wback := [rowKey 7 262143] } } : Part).bench.wback.contains (rowKey 7 262143) = true := by decide +kernel

/-- Context 1 holds the whole store of die 0 in Cabinet 31: the last 16 rows, and a row of another die. -/
theorem witness_ModeReadsGatherSixteenRows :
    (resident 31).benchUp ((resident 31).phys 0) = true ∧ (resident 31).dieHeld ((resident 31).phys 0) = false ∧
    (∀ i, i < 16 → 262128 + i * 1 < 262144 ∧ (resident 31).rowGranted 1 0 (262128 + i * 1) = true ∧
      ((resident 31).bank 0 (bankOf (262128 + i * 1))).gated = false ∧ (resident 31).rowBusy 0 (262128 + i * 1) 0xFFFE = false ∧
      (resident 31).mem.poisoned (benchAt 0 (512 * (262128 + i * 1))) = false) ∧
    (resident 31).benchUp ((resident 31).phys 7) = true ∧ (resident 31).rowGranted 1 7 0 = false := by decide +kernel

theorem witness_BanksGateAndWake :
    up.benchUp (up.phys 7) = true ∧ (up.setRb .benchCtl 7 0 0 true).rb .benchCtl 7 0 0 = true ∧ (up.bank 7 63).gated = false ∧
    (∀ g ∈ up.bench.feedBanks, g.1 / 4 = 7 → g.2.contains 63 = false) ∧ up.bench.waits = [] ∧
    (let p := up.setBank 7 63 { gated := true, queue := [.wait 0] }
     (p.bank 7 63).gated = true ∧ (p.bank 7 63).queue ≠ []) ∧ (up.bank 7 (bankOf (Tab.getD up.bench.scrub 7 0))).gated = false := by decide +kernel

/-- Region 255 of die 0, of one row, of the context that holds the store. -/
def regions : Part := (resident 31).setReg .regionCfg 0 255 (2 ^ 63 + 1 * 2 ^ 24 + 1 * 2 ^ 48)

theorem witness_RegionsReserveAndReturn :
    (let t : Task := { id := 1, job := 0, rix := 1, ctx := 1, cab := 31, img := 0, toReg := [⟨0, 0, 1, none, 0⟩, ⟨0, 1, 1, none, 0⟩] }
     let p : Part := { up with jig := { eng := [(engKey .planer 63, t)] } }
     Tab.find (engKey .planer 63) p.jig.eng = some t ∧ t.toReg = [⟨0, 0, 1, none, 0⟩, ⟨0, 1, 1, none, 0⟩] ∧ (p.sbOf 0).length < 8192) ∧
    regions.benchUp (regions.phys 0) = true ∧ regions.ctxRuns 1 = true ∧ regions.regionOk 1 0 255 = true ∧ regions.regionSize 0 255 < 2 ∧
    (regions.region 0 255).waiting = [] ∧ 1 ≤ regions.regionSize 0 255 ∧ (regions.sbOf 0).length < 8192 ∧
    (regions.region 0 255).rsvd + 1 ≤ (regions.region 0 255).head + regions.regionSize 0 255 ∧
    regions.regionEn 0 255 = true ∧ regions.regionCtx 0 255 = 1 ∧
    (let x := (regions.setRegion 0 255 { rsvd := 1, tail := 1 }).region 0 255
     x.waiting = [] ∧ x.head ≤ 0 ∧ 0 < x.tail ∧ x.returned.contains 0 = false) := by decide +kernel

/-! ### Dovetail links and the join -/

/-- The HELLO of a member. -/
def hello (member link fwMajor digest : Nat) : Hello :=
  { member := member, serial := 1, link := link, fwMajor := fwMajor, fwMinor := 0, digest := digest, epoch := 0, state := 1, seen := 0 }

/-- The last link enabled, in LINK_STATE `k`, with what it holds. -/
def linked (k : Nat) (x : Link) : Part := (((up.setRb .dtLinkCtl 3 15 0 true).setLinkSt 63 k).setLink 63 x)

theorem witness_LinksTrainRetrainAndStop :
    served up 0 (regOff .dtLinkCtl 3 15) ⟨.dtLinkCtl, 3, 15⟩ = true ∧
    (let p := up.setRb .dtLinkCtl 3 15 0 false
     p.linkEn 63 = false ∧ p.linkSt 63 = 0) ∧
    (∀ k ∈ [3, 4, 5], (linked k {}).linkEn 63 = true ∧ (linked k {}).linkRuns 63 = true ∧ ((linked k { resent := [0, 16] }).link 63).resent.any (16 ≤ ·) = true) ∧
    (linked 6 {}).linkSt 63 = 6 ∧ (linked 1 {}).linkSt 63 = 1 ∧ (linked 1 {}).linkEn 63 = true ∧
    (let x := (linked 4 { drain := true }).link 63
     x.drain = true ∧ x.wait = [] ∧ x.replay = [] ∧ x.peer = none) := by decide +kernel

/-- SEQ 65,535 is the last before 0. -/
theorem witness_FlitsAreTakenInOrder :
    let p := ((linked 4 { expect := 65535, widening := true }).setLinkWidth 63 3).setRf .dtCtl 3 0 0 16 1
    let f : Flit := { fecCorr := 1, fecUe := 0, crcOk := true, kind := 1, nak := false, seq := 65535, ack := 0, crClass := 3, crCount := 1, msgs := [] }
    p.linkRuns 63 = true ∧ f.fecUe = 0 ∧ f.crcOk = true ∧ f.nak = false ∧ f.kind ≤ 1 ∧ f.seq = (p.link 63).expect ∧
    ({ f with crcOk := false } : Flit).crcOk = false ∧ ({ f with seq := 0 } : Flit).seq ≠ (p.link 63).expect ∧
    p.linkSt 63 = 4 ∧ p.rf .dtCtl 3 0 0 16 ≠ 0 ∧ p.linkWidth 63 ≠ 1 ∧ (p.link 63).wait = [] ∧ (p.link 63).replay = [] ∧
    (p.link 63).widening = true := by decide +kernel

/-- Cabinet 31 lends die 0 to member 2; one message waits at link 63. -/
def remote (m : DtMsg) : Part :=
  ((resident 31).setReg .cabRemote 0 31 4).setLink 63 { rx := [m], peer := some (hello 2 0 0 0) }

def readMsg : DtMsg := { cls := 0, op := 0, src := 2, dst := 0, ctx := 1, row := 262143, len := 512 }

theorem witness_RemoteAccessesAreChecked :
    (let p := remote readMsg
     (p.link 63).rx = readMsg :: [] ∧ ¬(p.joinSt = 2 ∧ p.epoch < readMsg.epoch) ∧ readMsg.cls = 0 ∧ readMsg.op = 0 ∧ readMsg.epoch = p.epoch ∧
     p.remoteOk readMsg = true ∧ p.dieHeld (p.phys 0) = false ∧ p.rowBusy (p.phys 0) 262143 0xFFFE = false ∧ (p.bank (p.phys 0) (bankOf 262143)).gated = false ∧
     up.remoteOk readMsg = false ∧ ({ readMsg with epoch := 1 } : DtMsg).epoch ≠ p.epoch) ∧
    (∀ op ∈ [0, 1, 2], ∀ task ∈ [1, 2 ^ 50],
      let m : DtMsg := { cls := 1, op := op, src := 2, dst := 0, tag := 65535 }
      let r : RdReq := { msg := readMsg, task := task, cab := 31 }
      let p : Part := { remote m with join := { reads := [(65535, r)] } }
      (p.link 63).rx = m :: [] ∧ ¬(p.joinSt = 2 ∧ p.epoch < m.epoch) ∧ Tab.find m.tag p.join.reads = some r ∧ m.cls = 1 ∧ m.op = op ∧
      r.drain = false ∧ p.joinSt ≠ 2 ∧ (p.setJoinSt 2).joinSt = 2 ∧ r.held = false ∧ p.unsent m.tag = false) ∧
    (let m : DtMsg := { readMsg with cls := 2, len := 0, data := [1] }
     let p := remote m
     (p.link 63).rx = m :: [] ∧ ¬(p.joinSt = 2 ∧ p.epoch < m.epoch) ∧ m.cls = 2 ∧ m.op = 0 ∧ m.epoch = p.epoch ∧ p.remoteOk m = true ∧
     p.dieHeld (p.phys m.die) = false ∧ p.rowBusy (p.phys m.die) m.row 0xFFFE = false ∧ m.arrivalEn = false ∧ ({ m with epoch := 1 } : DtMsg).epoch ≠ p.epoch ∧
     p.join.notices.any (fun n => n.1 == m.src && decide (p.time < n.2 + 10000)) = false ∧
     ({ p with join := { notices := [(2, 0)] }, time := 9999 } : Part).join.notices.any (fun n => n.1 == m.src && decide (9999 < n.2 + 10000)) = true) ∧
    (let p := (linked 4 { peer := some (hello 2 0 0 (up.setReg .joinCtl 0 0 (2 ^ 63)).digest) }).setReg .joinCtl 0 0 (2 ^ 63)
     p.mgmtLink 2 = some 63) := by decide +kernel

theorem witness_JoinMessagesAct :
    (let h : Hello := hello 31 63 255 0
     let m : DtMsg := { cls := 3, op := 0, src := 31, dst := 0, mgmt := .hello h }
     let p := linked 3 { rx := [m] }
     (p.link 63).rx = m :: [] ∧ ¬(p.joinSt = 2 ∧ p.epoch < m.epoch) ∧ m.cls = 3 ∧ m.op = 0 ∧ m.mgmt = .hello h ∧ p.linkSt 63 = 3 ∧ p.joinSt = 0 ∧
     h.member < 32 ∧ h.link < 64 ∧ h.fwMajor < 256) ∧
    (let h : Hello := hello 0 0 up.fwMajor up.digest
     let m : DtMsg := { cls := 3, op := 1, src := 0, dst := 31, mgmt := .mask 1 3 }
     let p := ((linked 4 { rx := [m], peer := some h, heard := true }).setReg .joinCtl 0 0 (2 ^ 63 + 31)).setJoinSt 1
     let q := p.setLink 63 { p.link 63 with rx := [] }
     (p.link 63).rx = m :: [] ∧ m.cls = 3 ∧ m.op = 1 ∧ p.joinSt ≠ 0 ∧ m.src = q.elect ∧ m.src ≠ q.member ∧ p.epoch < 1) ∧
    (let m : DtMsg := { cls := 3, op := 2, src := 1, dst := 0, mgmt := .mask 1 3 }
     let p : Part := { linked 4 { rx := [m] } with join := { prep := some (1, 3) } }
     (p.link 63).rx = m :: [] ∧ m.op = 2 ∧ p.join.prep = some (1, 3)) ∧
    (∀ k ∈ [1, 3],
      let m : DtMsg := { cls := 3, op := 3, src := 1, dst := 0, mgmt := .mask 1 3 }
      let p := (linked 4 { rx := [m] }).setJoinSt k
      (p.link 63).rx = m :: [] ∧ m.op = 3 ∧ p.joinSt = k ∧ Nat.testBit 3 p.member = true ∧ p.epoch < 1) ∧
    (∀ code ∈ [noticeFence, noticeLeave, 0x0402],
      let m : DtMsg := { cls := 3, op := 6, src := 1, dst := 0, mgmt := .notice code }
      let p := (linked 4 { rx := [m] }).setJoinSt 2
      (p.link 63).rx = m :: [] ∧ ¬(p.joinSt = 2 ∧ p.epoch < m.epoch) ∧ m.op = 6 ∧ m.mgmt = .notice code ∧ p.joinSt = 2) ∧
    0x0402 ≠ noticeFence ∧ 0x0402 ≠ noticeLeave := by decide +kernel

/-- Offsets at the boundary of 1 us, beyond it and below it. -/
theorem witness_JoinTimeIsMeasured :
    (∀ op ∈ [4, 5],
      let m : DtMsg := { cls := 3, op := op, src := 0, dst := 1, mgmt := .time 5000 0 0 }
      let p : Part := { linked 4 { rx := [m] } with join := { t1 := some 5000 } }
      (p.link 63).rx = m :: [] ∧ ¬(p.joinSt = 2 ∧ p.epoch < m.epoch) ∧ m.cls = 3 ∧ m.op = op ∧ m.mgmt = .time 5000 0 0 ∧ p.join.t1 = some 5000) ∧
    (Part.timeOffset 0 1000 1000 0).natAbs ≤ 1000 ∧ 1000 < Part.timeOffset 0 1001 1001 0 ∧ Part.timeOffset 0 0 0 2002 < -1000 ∧
    (let h : Hello := hello 0 0 up.fwMajor up.digest
     let p := ((linked 4 { peer := some h, heard := true }).setReg .joinCtl 0 0 (2 ^ 63 + 31)).setJoinSt 2
     p.joinSt ≠ 0 ∧ p.elect ≠ p.member) := by decide +kernel

theorem witness_JoinsBeginAndEnd :
    served up 0 (regOff .joinCtl 0 0) ⟨.joinCtl, 0, 0⟩ = true ∧ up.rb .joinCtl 0 0 63 = false ∧
    (up.setReg .joinCtl 0 0 (2 ^ 63)).rb .joinCtl 0 0 63 = true ∧
    (let p := (up.setReg .joinCtl 0 0 (2 ^ 63)).setJoinSt 1
     p.joinSt = 1 ∧ p.isMaster = true ∧ p.join.prep = none ∧ ({ p with join := { acked := true } } : Part).join.acked = true) ∧
    ({ up with join := { prep := some (1, 2 ^ 31) } } : Part).join.prep = some (1, 2 ^ 31) := by decide +kernel

/-! ### Supply, reset, sensors, clocks, bring-up -/

theorem witness_ResetClearsThePart :
    1000 ≤ 1000 ∧ up.power.held = false ∧ up.power.rails = true ∧
    (let p := State.reset.part
     p.power.held = true ∧ p.power.trip = none ∧ p.power.rails = true ∧ p.power.pwrOk = true ∧ p.flog.packageFatal = none) ∧
    62000 < 62001 ∧ 66000 ≤ 66000 ∧ ({ up with power := { trip := some 3 } } : Part).power.trip = some 3 := by decide +kernel

theorem witness_ReleaseSamplesTheStraps : State.reset.part.power.cause < 256 ∧ State.reset.part.power.clkMode.getD (bits 15 2 2) < 4 := by decide +kernel

theorem witness_SensorsAndRegulatorsReport :
    up.power.rails = true ∧ up.power.started = true ∧ up.benchUp 7 = true ∧ up.frameUp 3 = true ∧ (∃ t ∈ [110], 110 ≤ t) ∧ (∃ t ∈ [105], 105 ≤ t) ∧
    (List.replicate 12 99).length = 12 ∧ (∀ t ∈ List.replicate 12 99, t < 100) ∧ (∀ t ∈ List.replicate 12 94, t < 95) ∧
    (∀ k, k < 12 → up.rb .thermStatus 0 0 (8 + k) = false) ∧ up.power.heat = [] ∧ 65535 < 2 ^ 16 := by decide +kernel

theorem witness_ClocksStopAndStart :
    Tab.find (engKey .planer 63) up.jig.eng = none ∧ up.clocks.waking.contains (engKey .planer 63) = false ∧
    (let p : Part := { up with clocks := { off := (List.range 1280), jigOff := [7] } }
     p.enginesOff 7 = true ∧ p.clocks.jigOff.contains 7 = true ∧ p.clocks.waking = []) ∧
    (let p := (up.setRb .chestChCtl 3 3 0 true).setChan 15 { targets := 1 }
     p.chOnline 15 = true ∧ p.chestBusy = false ∧ (p.chan 15).leaving = false ∧ (p.chan 15).training = false) ∧
    (let p := up.setGang 31 { clock := true }
     (p.gang 31).clock = true ∧ (p.gang 31).stepping = false ∧ p.gangSlots 31 = []) ∧
    (let p : Part := { up with clocks := { waking := [engKey .planer 63] } }
     p.clocks.waking.contains (engKey .planer 63) = true ∧ p.benchUp (p.phys 7) = true ∧ p.clocks.pllOff.contains 7 = false ∧
     p.clocks.jigOff.contains 7 = false) := by decide +kernel

theorem witness_BringUpAdvances :
    (let p : Part := { power := { held := false, started := true } }
     p.power.started = true ∧ p.power.stuck = false ∧ p.power.rails = true ∧ p.frameUp 0 = false) ∧
    (let p := (({ power := { held := false, started := true } } : Part).setReg .bringupStatus 0 0 (0xF + 2 ^ 24))
     p.rb .bringupStatus 0 0 24 = true ∧ p.dieEnded 15 23 = false ∧ p.svcState 7 ≠ 6 ∧ p.mem.opens = []) ∧
    (let p := (({ power := { held := false, started := true } } : Part).setReg .bringupStatus 0 0 (0xFF0F + 2 ^ 24))
     p.benchesEnded = true ∧ p.rb .bringupStatus 0 0 25 = false) := by decide +kernel

/-! ### Work on Cabinet 31: the last engine of each class on die 7, every stack, the whole store of dies 0 and 7 -/

def lastEngine (cls : Cls) : Nat :=
  match cls with
  | .lathe => 31
  | .planer => 63
  | .joiner => 31
  | .burnisher => 63
  | .carrier => 127

/-- The bytes of 64-byte words that are not 0, words by rising address. -/
def bytesOf (words : List (Nat × Nat)) : Cells :=
  words.flatMap fun w => (List.range 64).filterMap fun i =>
    let b := bits w.2 (8 * i) 8
    if b = 0 then none else some (w.1 + i, BitVec.ofNat 8 b)

/-- HBM holds the words given; job 0 of context 1 on ring 0 has record 1, of kind `kind`, whose descriptor lies at `desc`. -/
def work (words : List (Nat × Nat)) (kind desc : Nat) : Part :=
  { up with
    regs := [(regOff .bringupStatus 0 0, 0x0700FF0F), (regOff .cabCtl 0 31, BitVec.ofNat 64 (2 ^ 63 + 1 + 0xFFF * 2 ^ 32)),
      (regOff .cabGangs 0 31, BitVec.ofNat 64 (2 ^ 31)), (regOff .cabPlaners 0 31, BitVec.ofNat 64 (2 ^ 63)),
      (regOff .cabJoiners 0 31, BitVec.ofNat 64 (2 ^ 31)), (regOff .cabBurnishers 0 31, BitVec.ofNat 64 (2 ^ 63)),
      (regOff .cabCarriersHi 0 31, BitVec.ofNat 64 (2 ^ 63)), (regOff .cabShare 0 248, BitVec.ofNat 64 (262144 * 2 ^ 20)),
      (regOff .cabShare 0 255, BitVec.ofNat 64 (262144 * 2 ^ 20)), (regOff .ctxCtl 0 1, BitVec.ofNat 64 (2 ^ 63 + 0x100))]
    holds := [(32 + 31, { st := .resident })]
    mem := { cells := bytesOf words }
    jig := { jobs := [(0, { ring := 0, seq := 1, ctx := 1, cab := 31, cq := 0, graph := 0, tasks := 1, header := true, next := 2 })]
             recs := [(recKey 0 1, { img := kind + desc * 2 ^ 128 })], nextJob := 1 } }

/-- A task on the last engine of a class. -/
def onEngine (cls : Cls) (t : Task) (p : Part) : Part :=
  if cls = .carrier then { p with jig := { p.jig with xfer := [(lastEngine cls, [t])] } }
  else { p with jig := { p.jig with eng := [(engKey cls (lastEngine cls), t)] } }

/-! ### PCIe, rings, records -/

theorem witness_PortsAndFunctionsReset :
    (∀ port ∈ [0, 1], port < 2 ∧ up.hif.linkUp.contains port = true ∧
      ({ up with hif := { perst := [] } } : Part).hif.perst.contains port = false ∧
      up.frameUp (2 * port) = true ∧ ({ up with hif := { linkUp := [] } } : Part).hif.linkUp.contains port = false ∧
      ({ up with hif := { perst := [], training := [port] } } : Part).hif.training.contains port = true) ∧
    (let p : Part := { up with hif := { linkUp := [0], vfEn := true, numVfs := 255 } }
     p.hif.linkUp.contains 0 = true ∧ (∀ v ∈ [1, 255], 1 ≤ v ∧ v < 256 ∧ p.fnEnabled v = true ∧ p.hif.d3.contains v = false) ∧
     p.hif.vfEn = true ∧ 254 < p.hif.numVfs ∧
     fnKey 0 255 ≠ 0 ∧ p.hif.linkUp.contains (portOfFn (fnKey 0 255)) = true ∧ p.fnEnabled (fnKey 0 255) = true ∧ 15 < vecCount (fnKey 0 255) ∧
     (let q := p.setVec (fnKey 0 255) 15 { pending := true }
      (q.vec (fnKey 0 255) 15).pending = true)) := by decide +kernel

/-- Ring 1023 of context 1 on Cabinet 31, with 16 entries, doorbell and summary in host memory; the entry with SEQ 1 names the graph at 64. -/
def ringPart (x : Sq) : Part :=
  { ((resident 31).setReg .sqCfg 0 1023 (2 ^ 63 + 4 + 1 * 2 ^ 8 + 31 * 2 ^ 16)).setReg .funcSummary 0 0 1 with
    hif := { linkUp := [0, 1], bme := [0, 256], sq := [(1023, x)], watch := [(0, { reading := true })] }
    mem := { host := Cells.write [] 0 (leBytes 32 (1 + 64 * 2 ^ 64 + 1023 * 2 ^ 128)) } }

theorem witness_RingsBringJobs :
    (let p := ringPart {}
     p.rb .funcSummary 0 0 0 = true ∧ (p.ringsOf 0).isEmpty = false ∧ (p.setWatch 0 {}).watch 0 = {} ∧ p.sqEn 1023 = true ∧
     (p.watch 0).reading = true ∧ p.masters 0 = true) ∧
    (let p := ringPart { dbRead := true }
     (p.sq 1023).dbRead = true ∧ p.masters (p.fnOf (p.sqCtx 1023)) = true ∧ p.sqEn 1023 = true ∧ p.ctxRuns (p.sqCtx 1023) = true ∧
     (p.sq 1023).consumed < leNat (p.mem.hostRead (p.rv .sqDb 0 1023 / 64 * 64) 8) ∧
     leNat (p.mem.hostRead (p.rv .sqDb 0 1023 / 64 * 64) 8) ≤ (p.sq 1023).consumed + p.sqSize 1023) ∧
    (let p := ringPart { producer := 1 }
     let e := leNat (p.mem.hostRead (p.rv .sqBase 0 1023 / 64 * 64 + ((p.sq 1023).consumed % p.sqSize 1023) * 32) 32)
     p.sqEn 1023 = true ∧ p.ctxRuns (p.sqCtx 1023) = true ∧ (p.sq 1023).dbRead = false ∧ (p.sq 1023).consumed < (p.sq 1023).producer ∧
     (p.jigJobs (p.homeDie (p.sqCab 1023))).length < 256 ∧ p.masters (p.fnOf (p.sqCtx 1023)) = true ∧
     bits e 128 10 = 1023 ∧ bits e 138 118 = 0 ∧ (p.sq 1023).lastSeq < bits e 0 64 ∧ bits e 64 64 % 64 = 0) ∧
    (let x : Job := { ring := 1023, seq := 1, ctx := 1, cab := 31, cq := 0, graph := 64 }
     let p := work [(64, 31 * 2 ^ 6 + 1 * 2 ^ 16)] 0 0
     let q : Part := { p.setReg .sqCfg 0 1023 (31 * 2 ^ 16) with jig := { jobs := [(0, x)] } }
     q.job 0 = some x ∧ x.header = false ∧ q.ctxRuns x.ctx = true ∧
     ((ends (Rd.controlNat x.graph 64) ⟨x.ctx, x.cab, none, earlyKey (recKey 0 0), 0, x.ring⟩ ⟨q, .clean, .ok⟩).map fun t =>
       t.p.headerOk x (31 * 2 ^ 6 + 1 * 2 ^ 16)) = some true) := by decide +kernel

theorem witness_CompletionRingsDrain :
    (let p := up.setCq 1023 { pend := [⟨1, 0⟩], reading := true, posted := 1, u := 1 }
     let q := (p.setReg .cqCfg 0 1023 (2 ^ 63 + 2 ^ 27 + 1 * 2 ^ 40))
     (p.cq 1023).pend ≠ [] ∧ (p.cq 1023).reading = true ∧ ((p.setCq 1023 { pend := [⟨1, 0⟩] }).cq 1023).reading = false ∧ p.masters (p.fnOf (p.rf .cqCfg 0 1023 8 8)) = true ∧
     (p.cq 1023).consumed ≤ 0 ∧ 0 ≤ (p.cq 1023).posted ∧ (p.cq 1023).posted < 2 ∧
     q.rb .cqCfg 0 1023 27 = true ∧ 0 < (q.cq 1023).u ∧ q.rf .cqCfg 0 1023 40 16 ≠ 0) ∧
    (let p : Part := { up with hif := { watch := [(0, { reading := true })] } }
     (p.watch 0).reading = true) ∧
    (let x : Job := { ring := 1023, seq := 1, ctx := 1, cab := 31, cq := 0, graph := 0 }
     let p : Part := { up with jig := { jobs := [(0, x)] } }
     p.job 0 = some x) := by decide +kernel

theorem witness_RecordsAreFetchedAndCompleted :
    (let p := work [(64, 1)] 0 0
     let x : Job := { ring := 0, seq := 1, ctx := 1, cab := 31, cq := 0, graph := 0, tasks := 1, header := true }
     let q : Part := { p with jig := { jobs := [(0, x)] } }
     q.job 0 = some x ∧ q.canFetch x = true ∧ q.canFetch { x with next := 2 } = false ∧ q.fetchTurn (q.homeDie x.cab) = some 0 ∧
     (ends (Rd.controlNat (x.graph + 64 * x.next) 64) ⟨x.ctx, x.cab, none, earlyKey (recKey 0 x.next), x.next, x.ring⟩ ⟨q, .clean, .ok⟩).isSome = true) ∧
    (∀ kind ∈ [1, 2],
      let p := work [] kind 0
      (p.liveRec 0 1).map (fun z => decide (z.2.st = .pending ∧ kindOf z.2.img = kind) && p.recReady 0 z.1 1 z.2) = some true ∧
      p.fencePasses 0 1 kind = true) ∧
    (∀ cls ∈ [Cls.planer, .joiner, .burnisher],
      let t : Task := { id := 1, job := 0, rix := 1, ctx := 1, cab := 31, img := 0, next := 1, units := 1 }
      let p := onEngine cls t (work [] (3 + clsCode cls) 0)
      Tab.find (engKey cls (lastEngine cls)) p.jig.eng = some t ∧ p.ctxRuns t.ctx = true ∧ p.residentOn t.ctx t.cab = true ∧ t.toReg = [] ∧
      t.units ≤ t.next ∧ t.waitPos = [] ∧ p.writesOpen t.id = false ∧
      (let u := { t with units := 2 }
       let q := onEngine cls u (work [] (3 + clsCode cls) 0)
       q.workOf cls (lastEngine cls) = some u ∧ (q.waitsFor cls (lastEngine cls) u).isSome = true ∧ q.realTime t.ctx = false ∧
       q.otherReady u cls (lastEngine cls) = true)) ∧
    (let t : Task := { id := 1, job := 0, rix := 1, ctx := 1, cab := 31, img := 0, next := 1, units := 1 }
     let p := onEngine .carrier t (work [] 3 0)
     (Tab.getD p.jig.xfer 127 []).find? (fun t => decide (t.units ≤ t.next) && t.buf.isEmpty && t.toReg.isEmpty && t.waitPos.isEmpty) = some t ∧
     p.ctxRuns t.ctx = true ∧ p.residentOn t.ctx t.cab = true ∧ p.writesOpen t.id = false) := by decide +kernel

/-! ### Issue and units of work -/

/-- Tensors of A8I at HBM addresses: a Planer's of 32-byte positions, a token-major one of 128-byte rows. -/
def planerTens (base : Nat) : Nat := base + (8 + 1 * 2 ^ 4) * 2 ^ 64 + 32 * 2 ^ 192 + 64 * 2 ^ 224 + 256 * 2 ^ 264
def tokenTens (base : Nat) : Nat := base + (8 + 1 * 2 ^ 4) * 2 ^ 64 + 128 * 2 ^ 192

/-- The descriptor blocks of operation `op` on one element, or on 2 × 1 positions where it regroups. -/
def planerBlocks (op : Nat) : List Nat :=
  let par := if op = 4 then 1 * 2 ^ 20 + 1 * 2 ^ 60 + 1 * 2 ^ 77 else if op = 5 then 1 * 2 ^ 20 + 1 * 2 ^ 60 + 1 * 2 ^ 64 else 0
  [op + par, planerTens 0x8000, planerTens 0x9000, 0, 0]
def joinerBlocks (op : Nat) : List Nat :=
  if op = 0 then [0, tokenTens 0x8000, 0, 0, 0, benchAt 7 0, 0, 0, 0, tokenTens 0x9000, 0]
  else [op + 0xA000 * 2 ^ 192, tokenTens 0x8000, tokenTens 0x8100, (if op = 2 then tokenTens 0x8200 else 0), 0, 0, 0, 0, 0, tokenTens 0x9000, 0]
def burnBlocks (op : Nat) : List Nat :=
  let a := if op = 9 ∨ op = 11 ∨ op = 12 then 0 else tokenTens 0x8000
  [op, a, (if op < 4 then tokenTens 0x8100 else 0), tokenTens 0x9000, 0]

/-- A part in which record 1 of kind `kind` names the blocks. -/
def desk (kind : Nat) (blocks : List Nat) : Part := work (blocks.mapIdx fun i b => (0x4000 + 64 * i, b)) kind 0x4000

/-- The hypotheses of `TakesTask` on a part, for the class, its last engine and the reading of its task: the Jig picks record 1 for it, no
stopped task waits, descriptor, write list and wait are read. -/
def takes (p : Part) (cls : Cls) (read : Nat → Nat → Rd Task) : Bool :=
  match p.liveRec 0 1 with
  | some (x, y) =>
    let w : Who := ⟨x.ctx, x.cab, some (cls, lastEngine cls), earlyKey (recKey 0 1), 1, x.ring⟩
    p.pick x.ctx x.cab cls == some (0, 1, lastEngine cls) && (p.stoppedTask 0 1).isNone &&
      ((ends (read (lastEngine cls) y.img) w ⟨p, .clean, .ok⟩).bind fun t1 =>
        (ends (Rd.writeList y.img) w t1).bind fun t2 => ends (Rd.armWait y.img) w t2).isSome
  | none => false

theorem witness_TasksIssueOnEngines :
    (∀ op ∈ [0, 1, 2, 3, 4, 5], takes (desk 4 (planerBlocks op)) .planer (fun _ => Part.planerTask op 0 1) = true) ∧
    (∀ op ∈ [0, 1, 2], takes (desk 5 (joinerBlocks op)) .joiner (Part.joinerTask op 0 1) = true) ∧
    (∀ op ∈ [0, 1, 2, 3, 4, 5, 6, 7, 8, 9, 10, 11, 12], takes (desk 6 (burnBlocks op)) .burnisher (fun _ => Part.burnTask op 0 1) = true) := by
  decide +kernel

/-- A stopped task of the record resumes. -/
theorem witness_TasksIssueOnEngines_resume : ∀ cls ∈ [Cls.planer, .joiner, .burnisher],
    let t : Task := { id := 1, job := 0, rix := 1, ctx := 1, cab := 31, img := 0 }
    let p := work [] (3 + clsCode cls) 0
    let q : Part := { p with jig := { p.jig with recs := [(recKey 0 1, { img := 3 + clsCode cls, st := .stopped })]
                                                 stopped := [(recKey 0 1, t)] } }
    q.pick 1 31 cls = some (0, 1, lastEngine cls) ∧ q.stoppedTask 0 1 = some t := by decide +kernel

/-- A block list that copies 64 bytes of HBM. -/
def copyList : List Nat :=
  [1 + 1 * 2 ^ 16 + 64 * 2 ^ 64, 0x8000 + 64 * 2 ^ 64 + 1 * 2 ^ 96, 0x9000 + 64 * 2 ^ 64 + 1 * 2 ^ 96]

/-- The first unit of a MAXPOOL, an AA and an ADD. -/
theorem witness_WorkIsDoneInUnits :
    (∀ e ∈ [(Cls.planer, planerBlocks 2), (.joiner, joinerBlocks 1), (.burnisher, burnBlocks 0)],
      let t : Task := { id := 1, job := 0, rix := 1, ctx := 1, cab := 31, img := 0, desc := e.2, units := 2, held := [0, 0, 0, 0, 0] }
      let unit := if e.1 = .planer then Part.planerUnit .clean t else if e.1 = .joiner then Part.joinerUnit .clean t else Part.burnisherUnit .clean t
      let p := onEngine e.1 t (desk (3 + clsCode e.1) e.2)
      Tab.find (engKey e.1 (lastEngine e.1)) p.jig.eng = some t ∧ (p.job t.job).isSome = true ∧ p.ctxRuns t.ctx = true ∧
      p.residentOn t.ctx t.cab = true ∧ t.next < t.units ∧
      ((p.stall e.1 (lastEngine e.1) t .dataLate 0).taskGate (engKey e.1 (lastEngine e.1)) t).isNone = true ∧
      (ends unit ⟨t.ctx, t.cab, some (e.1, lastEngine e.1), t.id, t.rix, 0⟩
        ⟨p.stall e.1 (lastEngine e.1) t .dataLate 0, .clean, .ok⟩).isSome = true) ∧
    (let t : Task := { id := 1, job := 0, rix := 1, ctx := 1, cab := 31, img := 0, desc := copyList, units := 1 }
     let p := onEngine .carrier t (desk 3 [])
     p.working 127 = some t ∧ (p.job t.job).isSome = true ∧ p.ctxRuns t.ctx = true ∧ p.residentOn t.ctx t.cab = true ∧
     p.homeCarrier t.id = 127 ∧
     (ends (Part.carrierStep t (engKey .carrier 127)) ⟨t.ctx, t.cab, some (.carrier, 127), t.id, t.rix, 0⟩
       ⟨p.stall .carrier 127 t .dataLate 0, .clean, .ok⟩).isSome = true) ∧
    (let p := desk 3 [copyList.getD 0 0 + copyList.getD 1 0 * 2 ^ 256, copyList.getD 2 0]
     let img := 3 + 0x4000 * 2 ^ 128
     let w : Who := ⟨1, 31, some (.carrier, 127), earlyKey (recKey 0 1), 1, 0⟩
     let t : Task := { id := 1, job := 0, rix := 1, ctx := 1, cab := 31, img := img, desc := copyList, units := 1 }
     (p.liveRec 0 1).isSome = true ∧ p.pick 1 31 .carrier = some (0, 1, 127) ∧ p.stoppedTask 0 1 = none ∧ listRanges img copyList ≤ 64 ∧
     ((ends (Rd.blockList (bits img 128 64)) w ⟨p, .clean, .ok⟩).bind fun t1 => (ends (Rd.sharedOk copyList) w t1).bind fun t2 =>
       if t2.p.carriersNow 31 0 1 img copyList = some [127] then
         (ends (Rd.regionsOk copyList) w t2).bind fun t3 => (ends (Rd.writeList img) w t3).bind fun t4 => ends (Rd.armWait img) w t4
       else none).isSome = true ∧
     (let q : Part := { p with jig := { p.jig with
        recs := [(recKey 0 1, { img := img, st := .stopped })], stopped := [(recKey 0 1, t)], parked := [(recKey 0 1, copyList)] } }
      q.stoppedTask 0 1 = some t ∧ q.pick 1 31 .carrier = some (0, 1, 127) ∧ q.parkedList 0 1 = some copyList ∧
      ((ends (Rd.sharedOk copyList) w ⟨q, .clean, .ok⟩).map fun t2 => t2.p.carriersNow 31 0 1 img copyList) = some (some [127])) ∧
     (let l := [copyList.getD 0 0 + 2 ^ 32 + 0x81 * 2 ^ 40, copyList.getD 1 0, benchAt 0 0 + 64 * 2 ^ 64 + 1 * 2 ^ 96]
      let p := desk 3 [l.getD 0 0 + l.getD 1 0 * 2 ^ 256, l.getD 2 0]
      p.pick 1 31 .carrier = some (0, 1, 127) ∧
      ((ends (Rd.blockList (bits img 128 64)) w ⟨p, .clean, .ok⟩).bind fun t1 => (ends (Rd.sharedOk l) w t1).map fun t2 =>
        t2.p.carriersNow 31 0 1 img l) = some none)) := by decide +kernel

/-! ### Models, streams, Gangs -/

/-- Stream 0 of context 1 on Cabinet 31 in STATE `k`, its chunks from and to region 255 of die 7, two steps queued. -/
def entry (k : Nat) : Nat := k + 31 * 2 ^ 144 + (7 + 255 * 2 ^ 8 + 7 * 2 ^ 16 + 255 * 2 ^ 24) * 2 ^ 512 + 2 * 2 ^ 576

def oneChunk : Chunk := { job := 0, rix := 1, first := 0, len := 2, marks := [0] }

/-- The header, layer and output descriptor of a model of one layer of two class logits, at HBM 0x8000. -/
def hdr : Nat := 2 * 2 ^ 4 + 1 * 2 ^ 41 + 1 * 2 ^ 68 + 64 * 2 ^ 192
def layer : Nat := 1 + 2 * 2 ^ 26 + 1 * 2 ^ 64 + 128 * 2 ^ 256
def modelWords : List (Nat × Nat) := [(0x8000, hdr), (0x8040, layer), (0x8080, 192)]

/-- The last Gang loaded with that model, stream `x` in its last slot `sl`, one record of its region written. -/
def ganged (kind : Nat) (x : Strm) (sl : Slot) (y : Gang) : Part :=
  let p := work [] kind 0x4000
  let p := (p.setReg .regionCfg 7 255 (2 ^ 63 + 2 * 2 ^ 24 + 1 * 2 ^ 48)).setRegion 7 255 { rsvd := 1, tail := 1 }
  { p with
    strms := [(strmKey 1 0, x)]
    slots := [(4095, sl)]
    gangs := [(31, { y with loaded := true, ctx := 1, cab := 31, hdr := hdr, layers := [⟨layer, 192, [1, 1], [0, 1], []⟩] })] }

/-- The operations refused beyond the table (entry 1 of a table of one), START of a stream that is not live, operations of a live stream. -/
theorem witness_StreamOperationsAreTaken :
    (∀ code ∈ [0, 1, 2, 3, 4, 5, 6, 7, 8], ∀ n ∈ [0, 1],
      let d := code + n * 2 ^ 16
      let p := work [(0x4000, d)] 8 0x4000
      let img := 8 + 0x4000 * 2 ^ 128
      (p.liveRec 0 1).map (fun z => decide (z.2.st = .pending ∧ z.2.img = img) && p.recReady 0 z.1 1 z.2) = some true ∧
      let w : Who := ⟨1, 31, none, earlyKey (recKey 0 1), 1, 0⟩
      kindOf img = 8 ∧ Part.opDescOk d = true ∧ bits d 0 4 = code ∧ bits d 16 18 = n ∧ p.strmCount 1 = 1 ∧
      ((ends (Rd.controlNat (bits img 128 64) 64) w ⟨p, .clean, .ok⟩).map fun t =>
        decide (t.p.strmCount 1 = 1) && (t.p.strm 1 n).isNone) = some true ∧
      (n = 0 → ((ends (Rd.controlNat (bits img 128 64) 64) w ⟨p, .clean, .ok⟩).bind fun t => (ends (Part.strmEntry 1 n) w t).map fun t1 =>
        decide (t1.p.strmCount 1 = 1) && (t1.p.strm 1 n).isNone) = some true)) ∧
    (∀ code ∈ [1, 3, 4, 5],
      let z : Strm := { ent := entry 1, chunks := [oneChunk] }
      let p := { ganged 8 z { ctx := 1, strm := 0 } {} with mem := { cells := bytesOf [(0x4000, code)] } }
      let w : Who := ⟨1, 31, none, earlyKey (recKey 0 1), 1, 0⟩
      p.strm 1 0 = some z ∧ z.chunks.length + (z.ops.filter fun o => o.op == 1).length < 4 ∧ z.ops = [] ∧
      p.opReady 1 0 z ⟨code, 0, 1, code, (0, false)⟩ = true ∧ p.strmRegionsOk 1 z.ent = true ∧
      ((ends (Rd.controlNat 0x4000 64) w ⟨p, .clean, .ok⟩).bind fun t => (ends (Part.strmEntry 1 0) w t).bind fun t1 =>
        (ends (if code = 1 then Rd.seed (Ent.seedIdx z.ent) else pure (0, false)) w t1).map fun t2 =>
          decide (t2.p.strmCount 1 = 1) && decide (t2.p.strm 1 0 = some z)) = some true) ∧
    (let d := 0x8000 + 31 * 2 ^ 88
     let p := work ((0x4000, d) :: modelWords) 7 0x4000
     let w : Who := ⟨1, 31, none, earlyKey (recKey 0 1), 1, 0⟩
     bits d 82 6 = 0 ∧ bits d 93 3 = 0 ∧ bits d 112 400 = 0 ∧ bits d 0 64 % 64 = 0 ∧ (p.cabGangs 31).contains (bits d 88 5) = true ∧
     p.gangSlots 31 = [] ∧
     ((ends (Rd.controlNat 0x4000 64) w ⟨p, .clean, .ok⟩).bind fun t => ends (Rd.asGang 31 (Rd.image 0x8000 0 31 31)) w t).isSome = true) := by
  decide +kernel

/-- A save, a restore with and without a held SWAP_OUT whose re-read entry names a Cabinet the context holds or one it does not, an exchange, a
chunk's end. -/
theorem witness_StreamsComeAndGo :
    (let x : Strm := { ent := entry 2 }
     let p := ganged 8 x { ctx := 1, strm := 0 } {}
     p.ctxRuns 1 = true ∧ p.strm 1 0 = some x ∧ p.slotOf 1 0 = some 4095 ∧ Ent.state x.ent = 2) ∧
    (∀ ops ∈ [[], [⟨6, 0, 1, 6, (0, false)⟩]], ∀ cab ∈ [0, 31],
      let x : Strm := { ent := entry 5, ops := ops }
      let sl : Slot := { ctx := 1, strm := 0 }
      let m : Memory := { cells := bytesOf [(0, setBits (entry 5) 144 6 cab), (64, entry 5 / 2 ^ 512)] }
      let p := { ganged 8 x sl {} with mem := m }
      let w : Who := ⟨1, 31, some (.lathe, 255), earlyStrm 1 0, 0x7FFF, 0⟩
      p.ctxRuns 1 = true ∧ p.strm 1 0 = some x ∧ p.slotOf 1 0 = some 4095 ∧ Ent.state x.ent = 5 ∧ p.slot 4095 = some sl ∧
      Part.swapWaits x = !ops.isEmpty ∧
      (match (Part.rereadEnt 1 0 x.ent w).run ⟨p, .clean, .ok⟩ with
      | (.ok e, t) =>
        match (Part.restoreRead e.1 (Hdr.state hdr) (Ent.resetNext e.1 || x.marked (Ent.step e.1)) sl w).run t with
        | (.ok v, t) =>
          let z := { x with ent := setBits e.1 32 20 v.2.1, wrote := e.2, armedAt := t.p.time }
          let q := ((t.p.setSlot 4095 { v.1 with initBad := v.2.2 }).setStrm 1 0 z).bumpStream 7 1 2 1
          q.residentOn 1 (Ent.cab z.ent) == decide (cab = 31) && q.strmRegionsOk 1 z.ent == decide (cab = 31)
        | _ => false
      | _ => false) = true) ∧
    (let z : Strm := { ent := entry 1 }
     let p := (ganged 8 z { ctx := 1, strm := 0 } {}).setReg .streamCtl 7 0 (2 ^ 16 + 1)
     let p : Part := { p with
       time := 1000
       strms := [(strmKey 1 0, z), (strmKey 1 1, { ent := entry 4 })]
       slots := (List.range 128).map fun i => (3968 + i, { ctx := 1, strm := if i = 127 then 0 else 2 }) }
     (p.gang 31).loaded = true ∧ (p.gang 31).ctx = 1 ∧ p.residentOn 1 31 = true ∧ p.realTime 1 = false ∧ p.rb .streamCtl 7 0 16 = true ∧
     p.openSlot 31 = none ∧ p.chosen 31 = some 1 ∧ Ent.state z.ent = 1 ∧ z.armedAt + 1000 * p.rf .streamCtl 7 0 0 16 ≤ p.time ∧
     (p.slots.filter fun e => e.2.strm == 0).length = 1) ∧
    (let h : Chunk := { oneChunk with ended := true }
     let x : Strm := { ent := entry 1, chunks := [h] }
     let p := ganged 8 x { ctx := 1, strm := 0 } {}
     let q := p.flush 4095
     p.slotOf 1 0 = some 4095 ∧ q.strm 1 0 = some x ∧ x.chunks = h :: [] ∧ h.ended = true ∧ (q.liveRec h.job h.rix).isSome = true ∧
     (ends (Part.assayStore h.stats) ⟨1, 31, some (.lathe, 255), earlyKey (recKey 0 1), 1, 0⟩ ⟨q, .clean, .ok⟩).isSome = true) := by decide +kernel

theorem witness_GangsStepTogether :
    (let x : Strm := { ent := entry 1, chunks := [oneChunk] }
     let sl : Slot := { ctx := 1, strm := 0 }
     ∀ clock ∈ [false, true], ∀ poison ∈ [[], [benchAt 7 0]],
       let p := ganged 8 x sl { clock := clock }
       let p : Part := { p with mem := { poison := poison } }
       let q := p.stepOps 31
       let ready := q.stepReady ((p.gangSlots 31).map Prod.fst)
       p.ctxRuns 1 = true ∧ p.residentOn 1 31 = true ∧ (p.gang 31).loaded = true ∧ (p.gang 31).stepping = false ∧ q.ctxRuns 1 = true ∧
       (p.gang 31).clock = clock ∧ (q.stepWakes ready).stepRun ready = [4095] ∧
       (((q.stepWakes ready).armAll [4095]).1 = none ↔ poison = [])) ∧
    (let p := ganged 8 { ent := entry 1 } { ctx := 1, strm := 0 } { stepping := true, lead := 1, feed := { dir := some (0, []) } }
     let x := p.gang 31
     Part.feedNext x = some (0, Lay.codeRow layer) ∧ x.stepping = true ∧ p.benchUp (p.phys 7) = true ∧ x.feed.fifo.length < x.lead ∧
     x.feed.debt < 16 ∧ x.row + Lay.codeRow layer < 262144 ∧ p.rowInGrant 1 31 7 (x.row + Lay.codeRow layer) = true ∧
     p.rowBusy (p.phys 7) (x.row + Lay.codeRow layer) (engKey .lathe 248) = false) ∧
    (let p := ganged 8 { ent := entry 1 } { ctx := 1, strm := 0 } { stepping := true, lead := 1, feed := { dir := some (0, []), fifo := [⟨0, [], false⟩] } }
     let x := p.gang 31
     Part.feedNext x = some (0, Lay.codeRow layer) ∧ x.feed.fifo.length = x.lead ∧
     (p.setGang 31 { x with feed := Part.feedPush x 0 [] false }).feedBlocked 31 = false) ∧
    (∀ kind ∈ [0, 1, 2, 3], ∀ poison ∈ [false, true],
      let r : FeedRow := ⟨kind, [], poison⟩
      let p := ganged 8 { ent := entry 1 } { ctx := 1, strm := 0 } { stepping := true, feed := { fifo := [r] } }
      (p.gang 31).feed.fifo = r :: [] ∧ (p.gang 31).layers[(p.gang 31).layer]?.isSome = true ∧ r.kind = kind ∧ r.poison = poison) ∧
    (let q : Pend := { step := 0, ent := entry 1, logits := [0, 0] }
     let sl : Slot := { ctx := 1, strm := 0, pend := some q }
     let p := ganged 8 { ent := entry 1 } sl {}
     sl.pend = some q ∧ q.drawn = false ∧ (p.strm sl.ctx sl.strm).isSome = true) ∧
    (let x : Strm := { ent := entry 1, chunks := [oneChunk] }
     let sl : Slot := { ctx := 1, strm := 0 }
     let p := ganged 8 x sl {}
     p.slot 4095 = some sl ∧ p.strm 1 0 = some x ∧ p.ctxRuns 1 = true ∧ Ent.state x.ent = 1 ∧ sl.cond.length < 16 ∧
     sl.next x + sl.cond.length < Ent.queued x.ent ∧ p.benchUp (p.phys (Ent.inDie x.ent)) = true ∧
     p.condReleased x (sl.next x) = true ∧ p.condGated x (sl.next x) = [] ∧
     p.fabricHeld (.bench (p.phys 7)) (.bench (p.phys (Ent.inDie x.ent))) (benchAt (Ent.inDie x.ent) 0) = false ∧ sl.init = none ∧ x.resets (sl.next x) = true ∧
     (ends (Part.initVec (Ent.initPtr x.ent) (Hdr.state hdr)) ⟨1, 31, some (.lathe, 255), earlyStrm 1 0, 0x7FFF, 0⟩ ⟨p, .clean, .ok⟩).isSome = true) ∧
    (∀ step ∈ [0, 2 ^ 64 - 2],
      let q : Pend := { step := step, ent := entry 1, logits := [], drawn := true, outs := [1] }
      let x : Strm := { ent := entry 1, chunks := [{ oneChunk with first := step }] }
      let sl : Slot := { ctx := 1, strm := 0, pend := some q }
      let p := ganged 8 x sl {}
      let r := p.flush 4095
      p.slot 4095 = some sl ∧ p.ctxRuns 1 = true ∧ r.slot 4095 = some sl ∧ sl.pend = some q ∧ r.strm 1 0 = some x ∧ q.drawn = true ∧
      r.residentOn 1 (Ent.cab x.ent) = true ∧ sl.out.length + Hdr.bands (r.gang 31).hdr ≤ 256 ∧ q.step + 1 < 2 ^ 64) :=
  ⟨by decide +kernel, by decide +kernel, by decide +kernel, by decide +kernel, by decide +kernel, by decide +kernel, by decide +kernel⟩

/-! ### Holds, timers, the whole machine -/

/-- The hold of context 1 on Cabinet 31 in state `st`; context 2 has a new hold on it and a stream that waits for its state. -/
def held (st : HoldSt) : Part :=
  let p := work [] 1 0
  let p := ((p.setReg .cabCtl 0 31 (2 ^ 63 + 0xFFF * 2 ^ 32)).setReg .ctxCtl 0 2 (2 ^ 63 + 0x100)).setReg .ctxCabs 0 2 (2 ^ 31)
  let p := (p.setReg .cabShare 0 248 0).setReg .cabShare 0 255 (2 ^ 20)
  { p with
    holds := [(32 + 31, { st := st, hdr := 0 }), (64 + 31, {})]
    strms := [(strmKey 2 0, { ent := entry 4 })] }

theorem witness_HoldsAreSavedAndRestored :
    (∀ st ∈ [HoldSt.resident, .saving, .restoring],
      let p := held st
      (p.occupant 31).map (fun e => (e.1, e.2.st)) = some (1, st) ∧ p.ctxRuns 1 = true ∧
      (∀ e ∈ p.slots, e.2.ctx = 1 → (p.cabGangs 31).contains (e.1 / 128) = true → ∀ x, p.strm 1 e.2.strm = some x → Ent.state x.ent ≠ 5) ∧
      (p.join.reads.any fun r => r.2.drain && r.2.cab == 31 && r.2.msg.ctx == 1) = false ∧
      (st = .saving →
        let q := p.saveTasks 1 31 { st := .saving }
        let h := (q.hold 1 31).getD {}
        let q := h.gangs.foldl (fun (p : Part) r => p.unbind r.gang) q
        (p.slots.filter fun e => e.2.ctx == 1 && (p.cabGangs 31).contains (e.1 / 128)) = [] ∧
        q.imageGap (p.imageAt 1 31) (q.imageBytes 31) = none)) ∧
    (let p := (held .resident).setRb .schedCtl 0 0 32 true
     let p : Part := { p with jig := {} }
     (p.occupant 31).map (fun e => (e.1, e.2.st)) = some (1, .resident) ∧ p.rb .schedCtl 0 0 32 = true ∧ p.cabEn 31 = true ∧
     p.cabPinned 31 = false ∧ p.blockedSet = [(1, 31)] ∧ p.wset 31 = [2]) ∧
    (let r : RdReq := { msg := readMsg, task := 1, cab := 31, drain := true }
     let p : Part := { held .saving with join := { reads := [(65535, r)] } }
     p.join.reads.find? (fun r => r.2.drain && r.2.cab == 31) = some (65535, r)) ∧
    (let h : Hold := { st := .restoring, image := 0x10000 }
     let p : Part := { held .restoring with holds := [(32 + 31, h)] }
     let q := p.setHold 1 31 { h with st := .resident }
     p.restoreCheck 1 31 h = none ∧ p.ctxRuns 1 = true ∧ q.ctxRuns 1 = true ∧
     ({ p with mem := { poison := [0x10000] } } : Part).restoreCheck 1 31 h = some (0x0411, 31)) :=
  ⟨by decide +kernel, by decide +kernel, by decide +kernel, by decide +kernel⟩

theorem witness_TimersAndPortsAdvance :
    (∀ n ∈ [14, 15], let p := up.setDowel 25 { fails := n }
      25 < 26 ∧ (p.dowel 25).training = false ∧ (p.dowel 25).fails = n) ∧
    (let p := up.setDowel 25 { training := true }
     (p.dowel 25).training = true ∧ p.svcState (dowelDie 25) ≠ 6) ∧
    (∀ owed ∈ [false, true], let p : Part := { up.setRb .faultCtl 0 0 12 true with flog := { spacing := true, owed := owed } }
      p.flog.spacing = true ∧ p.flog.owed = owed ∧ p.rb .faultCtl 0 0 12 = true) ∧
    up.power.held = false ∧ up.power.started = true ∧ up.power.rails = true ∧ up.join.half = false ∧ up.join.slew = 0 ∧
    ({ up with join := { half := true } } : Part).join.half = true := by decide +kernel

/-- One operation of each shape, a task of one line among them. -/
theorem witness_PlanerOutputSizes : ∀ op ∈ [0, 1, 2, 3],
    (PlanerPar.of op).op = op ∧ (PlanerPar.of op).h = 1 ∧ (PlanerPar.of op).kh = 1 ∧ (PlanerPar.of op).sh = 1 ∧ (PlanerPar.of op).dh = 1 ∧
    (PlanerPar.of op).padLoH = 0 ∧ (PlanerPar.of op).padHiH = 0 ∧ (PlanerPar.of op).extraH = 0 := by decide

/-- The last register of the last instance of a die window, and an offset that no table lists. -/
theorem witness_RegistersStandAtTheirOffsets :
    regAt (regOff .arrivalCfg 7 1023) = some ⟨.arrivalCfg, 7, 1023⟩ ∧ 1023 < (regRow .arrivalCfg).count ∧ onFrame .aesRefCtl 2 = true ∧
    onFrame .aesRefCtl 1 = false ∧ regAt 0x2FFFFF8 = none := by decide +kernel

theorem witness_QuietCommandsKeepMemory : Quiet (.sweepDue 0) ∧ exec (.sweepDue 1023) (st (up.setRb .sqCfg 0 1023 63 true)) =
    .next (st ((up.setRb .sqCfg 0 1023 63 true).setSq 1023 { sweep := true })) := by
  refine ⟨trivial, ?_⟩
  rfl

theorem witness_StepRunsTheFrontCommand :
    (⟨[.pilotTick], up⟩ : State).pending = .pilotTick :: [] ∧ (st up).pending = [] := ⟨rfl, rfl⟩

theorem witness_EveryStepKeepsThePartGood :
    Good up ∧ (∀ c ∈ (⟨[Instr.overVoltage 66000], up⟩ : State).pending.head?, WithinRatings c) ∧ 66000 < 66001 := by
  refine ⟨⟨by decide, by decide, by decide, by decide, by decide, by decide⟩, ?_, by decide⟩
  intro c h
  cases h
  exact Nat.le_refl _

/-! ### Worked examples of the spec -/

/-- 03 R68, Table 3-7 and the worked use of the probe. -/
theorem test_G_counter_one : Rand.G 0 1 = 0x9B77317D78DEE8E8D2A81A3517D79294 := by decide +kernel

/-- 03, worked example: stream 1,234, step 5,000, element 300, and band 1 of the Punch; the test and recovery seed of the same element. -/
theorem test_counters :
    Rand.keyCtr ⟨0, false⟩ 0 0x4D2 0x1388 2 = (0, 0x4D2000000000000001388000002) ∧
    Rand.keyCtr ⟨0, false⟩ 2 0x4D2 0x1388 1 = (0, 0x4D2020000000000001388000001) ∧
    Rand.keyCtr ⟨0, true⟩ 0 0x4D2 0x1388 2 = (0x4D3 * 2 ^ 96, 0x1388000002) := by decide +kernel

/-- 02, worked example of one Lathe output element: 116, and 117 where a one-bit stochastic rounding draws 1. -/
theorem test_output_element :
    let o : Num.OutCfg := { fmt := 8, uns := false, rnd := 2, mode := 0, s := 20, z := 0, k := 0 }
    let x := Num.merge [⟨true, 40000, 44236800, 0⟩]
    x = 2665676800 ∧ (Num.outRow { o with rnd := 0 } (fun _ => true) [⟨x, 3000, 0⟩]).1.map Num.OutEl.code = [116] ∧
    (Num.outRow o (fun _ => true) [⟨x, 3000, 0⟩]).1.map Num.OutEl.code = [117] ∧
    (Num.outRow o (fun _ => false) [⟨x, 3000, 0⟩]).1.map Num.OutEl.code = [116] := by decide +kernel

/-- 02, worked example of a ROW-mode row: codes, SSE, exponent and sidecar. -/
theorem test_row_mode :
    let o : Num.OutCfg := { fmt := 8, uns := false, rnd := 0, mode := 1, s := 4, z := 0, k := 0 }
    let r := Num.outRow o (fun _ => false) ([52, -732, 4648, -10].map fun a => ⟨Num.merge [⟨true, a, 0, 0⟩], 1, 0⟩)
    r.1.map (fun e => signed 8 e.code) = [1, -11, 73, 0] ∧ r.2.sse = 25664 ∧ r.2.sats = 0 ∧ r.2.k = 2 ∧ Num.sidecar r.2 = 2 := by decide +kernel

/-- 02, worked example of a stream's carried state: SAT_UP 4, HOLD 32, K_MIN -12, K_MAX 0, EN 1. -/
theorem test_anneal :
    let w := 4 + 32 * 2 ^ 16 + 0xF4 * 2 ^ 28 + 2 ^ 44
    Num.anneal w 127 ⟨1024, 19, 0, 127, -7, false⟩ (-7) 0 = (-6, 0, .up) ∧
    Num.anneal w 127 ⟨1024, 0, 0, 32, -6, false⟩ (-6) 0 = (-6, 0, .none) ∧
    Num.anneal w 127 ⟨1024, 0, 0, 31, -6, false⟩ (-6) 30 = (-6, 31, .none) ∧
    Num.anneal w 127 ⟨1024, 0, 0, 31, -6, false⟩ (-6) 31 = (-7, 0, .down) := by decide +kernel

/-- 04, worked example of one draw over logits 0.6953125, 0 and 0.6953125: L, and the boundaries of class 1 by R88
(the example's 0x6666_6666 itself gives t = 16,777,215, below the first weight). -/
theorem test_draw_logits : Punch.scaled (Num.bf16 0x3F80).1 [(Num.bf16 0x3F32).1, 0, (Num.bf16 0x3F32).1] = [178, 0, 178] := by decide +kernel
theorem test_draw_scan :
    [0x40000000, 0x66666666, 0x66666667, 0x80000000, 0x99999999, 0x9999999A].map
      (fun r => Punch.scan (r * 41943040 / 2 ^ 32) [2 ^ 24, 2 ^ 23, 2 ^ 24] 0 0) = [0, 0, 1, 1, 1, 2] := by decide +kernel

/-- 06, worked example of an AVGPOOL of three codes: 20. -/
theorem test_avgpool : PTask.recip 3 = 5592405 ∧ Num.roundMode 0 false (61 * 2 ^ 16 * 5592405) (16 + 24) = 20 := by decide +kernel

/-- 07, worked example of ADD with exponents -6 and -4. -/
theorem test_add : Rd.intOp { (default : BurnPar) with op := 0 } (-6) (-4) 50 (-20) = (-30, -6, false) := by decide +kernel

/-- 08, worked example: offset 0x0123_4400 is row 0x91A2, in bank 45. -/
theorem test_bank : 0x01234400 / 512 = 0x91A2 ∧ bankOf 0x91A2 = 45 := by decide

/-- 13, worked example: the stack of device address 0x0020_0000_1234 in each mode. -/
theorem test_stacks : [0, 1, 2].map (stackAt · 0x2000001234) = [3, 3, 9] := by decide

/-- 00, worked example: Lathe 173. -/
theorem test_lathe_173 : engDie .lathe 173 = 5 ∧ engInst .lathe 173 = 13 := by decide

/-- 19, worked example: locating registers. -/
theorem test_offsets :
    regOff .sqCfg 0 40 = 0x108508 ∧ regOff .ctxStatus 0 17 = 0x808C8 ∧ regOff .cabShare 0 (8 * 6 + 5) = 0x606A8 ∧
    regOff .gangFeedCtl 5 1 = 0x1A10100 ∧ regOff .regionHead 5 200 = 0x1A51910 ∧ regOff .aesPortStatus 1 4 = 0x2600420 ∧
    regOff .dtLinkStatus 2 5 = 0x2B41508 := by decide

/-- 12, worked example of the phase rule: entry 37 of a ring of 16 lands in slot 5 with PHASE 1. -/
theorem test_phase :
    let p := ((resident 31).setReg .cqCfg 0 0 (2 ^ 63 + 4 + 1 * 2 ^ 8)).setCq 0 { posted := 37, consumed := 22 }
    (p.cqPost 0 ⟨1, 0⟩).mem.host = [(32 * 5, 1)] := by decide +kernel

/-- 06 R122 with the row of Table 1-10: a TCONV of stride 4 and kernel 4 quadruples the width. -/
theorem test_tconv_size : (PlanerPar.of (1 + 99 * 2 ^ 32 + 3 * 2 ^ 90 + 3 * 2 ^ 106)).ow = 400 := by decide +kernel

end Sys2Proof.Tests
end

section
/-!
Accesses of BAR0 (00 R10 to R14, 01 R23): what the access commands do to the part, the writes of registers that only store, staged
halves, and accesses that reach no register.
-/

namespace Sys2Proof.Safety
open Sys2Proof Sys2Proof.Machine

/-! ### The access commands -/

theorem exec_regWrite (s : State) (port off : Nat) (h : Half) (v : Reg) :
    exec (.regWrite port off h v) s = settlesTo s (s.part.writeReg port off h v) := rfl

theorem exec_stagedHalfWrite (s : State) (port off : Nat) (v : Reg) :
    exec (.stagedHalfWrite port off v) s = settlesTo s (s.part.writeReg port off .lo v) := rfl

theorem exec_badSizeAccess (s : State) (port off size : Nat) (write : Bool) :
    exec (.badSizeAccess port off size write) s = becomes s (s.part.badSize port off size write) := rfl

theorem exec_unmappedAccess (s : State) (port off : Nat) (h : Half) (write : Bool) :
    exec (.unmappedAccess port off h write) s = becomes s (s.part.unmapped port off h write) := rfl

theorem exec_counterWindowWrite (s : State) (port off : Nat) (h : Half) (v : Reg) :
    exec (.counterWindowWrite port off h v) s =
      becomes s (if inCounterWindow off then s.part.writeReg port off h v else s.part) := rfl

/-! ### Registers that only store -/

/-- Registers whose write triggers nothing and is never refused: their RW fields are all that a write of them reaches. -/
def storingRegs : List RegName :=
  [.probeKeyLo, .probeKeyHi, .probeCtrLo, .probeCtrHi, .thermCtl, .bootHostAddr, .svcFwAddr, .joinId, .joinTag, .schedCtl, .watchCtl,
    .benchPwrCtl, .gangFeedCtl, .streamCtl, .benchCtl, .stallCtl, .hbmCtl, .chestCtl, .chestArg0, .chestArg1, .dtCtl, .framePwrCtl]

theorem paired_of_storing : ∀ n ∈ storingRegs, paired n = false := by decide

theorem w1c_of_storing : ∀ n ∈ storingRegs, (regRow n).w1c = 0 := by decide

theorem applyWrite_storing (p : Part) (a : Acc) (h : a.r.name ∈ storingRegs) : p.applyWrite a = p.store a fun p => p := by
  obtain ⟨⟨n, d, i⟩, m, v, ev, cw, fails⟩ := a
  simp only [storingRegs, List.mem_cons, List.not_mem_nil, or_false] at h
  rcases h with rfl | rfl | rfl | rfl | rfl | rfl | rfl | rfl | rfl | rfl | rfl | rfl | rfl | rfl | rfl | rfl | rfl | rfl | rfl | rfl | rfl | rfl
  all_goals rfl

/-- A write of a storing register through the port stores what the access carries. -/
theorem writeReg_storing {p : Part} {port off : Nat} {r : RegId} (h : Served p port off r) (hr : r.name ∈ storingRegs) (hh : Half) (v : Reg) :
    p.writeReg port off hh v = p.store ⟨r, halfMask hh, halfData hh v.toNat, 0, [], []⟩ fun p => p := by
  rw [writeReg_served h, writeNow_single h (paired_of_storing _ hr), applyWrite_storing _ _ hr]

/-- The new image where no W1C field stands and no event comes: the RW fields written, reserved encodings put back. -/
theorem newImage_no_w1c (p : Part) {a : Acc} (hw : (regRow a.r.name).w1c = 0) :
    p.newImage a = ((fieldRanges a.r.name).filter (reservedIn a.mask (p.raw a))).foldl
      (fun x f => setBits x f.1 f.2.1 (bits (p.old a.r) f.1 f.2.1)) (p.raw a) := by
  simp only [Part.newImage, hw, Nat.and_zero, Nat.sub_zero, Nat.or_zero]

theorem newImage_clean_no_w1c {p : Part} {a : Acc} (hc : p.carriesReserved a = false) (hw : (regRow a.r.name).w1c = 0) :
    p.newImage a = p.raw a := by
  rw [newImage_clean hc, hw]
  simp only [Nat.and_zero, Nat.sub_zero, Nat.or_zero]

@[simp] theorem putImage_ctrs (p : Part) (r : RegId) (v : Nat) : (p.putImage r v).ctrs = p.ctrs := by
  unfold Part.putImage; split
  · rfl
  · rw [Part.setReg_ctrs]

/-- A write with a reserved encoding counts one bad access where what it triggers counts none (00 R14). -/
theorem store_reserved {p : Part} {a : Acc} {f : Part → Part} (h : p.carriesReserved a = true)
    (hf : (f (p.putImage a.r (p.newImage a))).ctrs = p.ctrs) : p.store a f = (f (p.putImage a.r (p.newImage a))).badAccess := by
  simp only [Part.store, Part.once, Part.ctr, h, hf, beq_self_eq_true, Bool.and_self, if_true]

/-- Settles O1: the write is a store, and without a reserved encoding and W1C fields its new image is the RW fields written. -/
theorem registerWriteStoresItsFields : Obligations.RegisterWriteStoresItsFields := by
  intro s port off h v r hs hr hc
  rw [exec_regWrite, writeReg_storing hs hr, store_clean hc, newImage_clean_no_w1c hc (w1c_of_storing _ hr)]
  rfl

/-- Settles O3: the store of a storing register, where nothing but the reserved encoding counts a bad access. -/
theorem reservedEncodingKeepsItsField : Obligations.ReservedEncodingKeepsItsField := by
  intro s port off h v r hs hl a ha hc
  have ranged_storing : ∀ n ∈ [RegName.thermCtl, .schedCtl, .watchCtl, .benchPwrCtl, .gangFeedCtl, .streamCtl, .benchCtl, .stallCtl, .hbmCtl,
      .chestCtl, .framePwrCtl], n ∈ storingRegs := by decide
  have hr := ranged_storing _ hl
  subst ha
  rw [exec_regWrite, writeReg_storing hs hr, store_reserved hc (putImage_ctrs _ _ _), newImage_no_w1c _ (w1c_of_storing _ hr)]
  rfl

/-! ### Staged halves -/

@[simp] theorem stage_regs (p : Part) (port off v : Nat) : (p.stage port off v).regs = p.regs := rfl

/-- The half staged last at a port is the one found there. -/
theorem stagedHalf_stage (p : Part) (port off v : Nat) : (p.stage port off v).stagedHalf port off = some (v % 2 ^ 32) := by
  have gone : (p.hif.staged.filter fun e => !(e.1 == port && e.2.1 == off)).find? (fun e => e.1 == port && e.2.1 == off) = none := by
    rw [List.find?_eq_none]
    intro e he
    simpa only [Bool.not_eq_true', Bool.not_eq_true] using (List.mem_filter.mp he).2
  simp only [Part.stagedHalf, Part.stage, Part.unstage, List.find?_append, gone, Option.none_or, List.find?_cons, beq_self_eq_true,
    Bool.and_self, Option.map_some]

/-- The low half of a paired register through the port is staged. -/
theorem writeReg_lo_paired {p : Part} {port off : Nat} {r : RegId} (h : Served p port off r) (hp : paired r.name = true) (v : Reg) :
    p.writeReg port off .lo v = p.stage port off v.toNat := by
  rw [writeReg_served h, writeNow_lo h hp]

/-- The high half of a paired register through the port is the write of the whole register with the half staged before. -/
theorem writeReg_hi_paired {p : Part} {port off lo : Nat} {r : RegId} (h : Served p port off r) (hp : paired r.name = true)
    (hl : lo < 2 ^ 32) (hs : p.stagedHalf port off = some lo) (v : Reg) :
    p.writeReg port off .hi v = p.writeReg port off .full (BitVec.ofNat 64 (lo + v.toNat % 2 ^ 32 * 2 ^ 32)) := by
  have whole : (BitVec.ofNat 64 (lo + v.toNat % 2 ^ 32 * 2 ^ 32)).toNat = lo + v.toNat % 2 ^ 32 * 2 ^ 32 := by
    rw [BitVec.toNat_ofNat]
    omega
  rw [writeReg_served h, writeNow_hi h hp hs, writeReg_paired h hp, whole]

/-- Settles O2: the low half is staged and read back; the high half with it is one whole write. -/
theorem stagedHalvesCommitTogether : Obligations.StagedHalvesCommitTogether := by
  intro s port off v r hs hp
  refine ⟨?_, stagedHalf_stage _ _ _ _, stage_regs _ _ _ _, fun lo hl hst => ?_⟩
  · rw [exec_stagedHalfWrite, writeReg_lo_paired hs hp]
    rfl
  · rw [exec_regWrite, exec_regWrite, writeReg_hi_paired hs hp hl hst]

/-! ### Accesses that reach no register -/

/-- An access of a size or alignment that R12 does not name is counted, and a read of it answered with all bits set. -/
theorem badSize_other {p : Part} {port off size : Nat} (hu : p.portUp port = true) (h4 : ¬(size = 4 ∧ off % 4 = 0))
    (h8 : ¬(size = 8 ∧ off % 8 = 0)) (write : Bool) :
    p.badSize port off size write = if write then p.badAccess else p.badAccess.respond (some (256 ^ size - 1)) := by
  unfold Part.badSize
  rw [if_neg]
  simp only [hu, Bool.not_true, Bool.false_or, Bool.or_eq_true, Bool.and_eq_true, beq_iff_eq]
  exact not_or.mpr ⟨h4, h8⟩

/-- A write at an offset that no table lists, and that no LEAVE holds, is a bad access. -/
theorem writeAcc_unlisted {p : Part} {port off : Nat} (hu : p.portUp port = true) (hf : p.heldOff off = false) (hn : regAt off = none)
    (h : Half) (v ev : Nat) (cw : List CwRead) (fails : List Nat) : p.writeAcc port off h v ev cw fails = p.badAccess := by
  have here : p.regHere off = none := by rw [Part.regHere, hn, Option.map_none]
  simp only [Part.writeAcc, Part.writeNow, here, hu, hf, Bool.not_true, Bool.false_eq_true, if_false]

/-- A read at an offset outside the counter windows that no table lists, and that no LEAVE holds, is a bad access that reads 0. -/
theorem readAcc_unlisted {p : Part} {port off : Nat} (hu : p.portUp port = true) (hf : p.heldOff off = false) (hn : regAt off = none)
    (hw : inCounterWindow off = false) (h : Half) : p.readAcc port off h = p.badAccess.respond (some 0) := by
  simp only [Part.readAcc, Part.readNow, hn, hw, hu, hf, Bool.not_true, Bool.false_eq_true, if_false]

/-- Within BAR0 of a physical function an offset that no table lists takes the access as a write or a read of it. -/
theorem unmapped_unlisted {p : Part} {port off : Nat} (hu : p.portUp port = true) (hb : off < 0x4000000) (hn : regAt off = none)
    (h : Half) (write : Bool) :
    p.unmapped port off h write = if write then p.writeAcc port off h 0 0 [] [] else p.readAcc port off h := by
  simp only [Part.unmapped, hu, hn, Nat.not_le.mpr hb, Option.isSome_none, Bool.false_and, Bool.not_true, Bool.false_eq_true, if_false]

/-- A bad access leaves the host interface, so that the answer put on it is the one field beside the counters that changes. -/
theorem badAccess_respond (p : Part) (v : Option Nat) :
    p.badAccess.respond v = { p.bump (pkgCtr 0 0 0) 1 with hif := { p.hif with resp := v } } := by
  simp only [Part.respond, Part.badAccess, Part.bump_hif]

/-- Settles O4: each of these accesses comes down to one bad access, and a read to its answer. The bad-size clause holds in held windows too
(log entry 19). -/
theorem badAccessesAreDiscardedAndCounted : Obligations.BadAccessesAreDiscardedAndCounted := by
  intro s port off hu
  refine ⟨fun size h4 h8 => ⟨?_, ?_⟩, fun h hf hb hn => ⟨fun hw => ⟨?_, ?_⟩, fun hw v => ?_⟩⟩
  · rw [exec_badSizeAccess, badSize_other hu h4 h8]
    rfl
  · rw [exec_badSizeAccess, badSize_other hu h4 h8, if_neg Bool.false_ne_true, badAccess_respond]
    rfl
  · rw [exec_unmappedAccess, unmapped_unlisted hu hb hn, if_pos rfl, writeAcc_unlisted hu hf hn]
    rfl
  · rw [exec_unmappedAccess, unmapped_unlisted hu hb hn, if_neg Bool.false_ne_true, readAcc_unlisted hu hf hn hw, badAccess_respond]
    rfl
  · rw [exec_counterWindowWrite, if_pos hw, Part.writeReg, writeAcc_unlisted hu hf hn]
    rfl

end Sys2Proof.Safety
end

section
/-!
Dowel ports, the fault interrupt's timer and the pilot clock (01 R18 to R20, 18 R418, 16 R382): what a flit error, the end of a retrain, the
timer and a tick do to the part.
-/

namespace Sys2Proof.Safety
open Sys2Proof Sys2Proof.Machine

/-! ### Dowel ports (01 R20) -/

theorem exec_dowelFlitCrcErr (s : State) (d : Nat) (again : Bool) :
    exec (.dowelFlitCrcErr d again) s = becomes s (s.part.dowelErr d again) := rfl

theorem exec_dowelRetrainDone (s : State) (d : Nat) (ok : Bool) :
    exec (.dowelRetrainDone d ok) s = settlesTo s (s.part.dowelDone d ok) := rfl

/-- The replays of a flit that have failed in a row once one more check of it fails. -/
def failsAfter (p : Part) (d : Nat) (again : Bool) : Nat := if again then (p.dowel d).fails + 1 else 0

@[simp] theorem failsAfter_first (p : Part) (d : Nat) : failsAfter p d false = 0 := rfl

@[simp] theorem failsAfter_again (p : Part) (d : Nat) : failsAfter p d true = (p.dowel d).fails + 1 := rfl

/-- A failed check below the 16th failed replay is counted, and the flit is replayed. -/
theorem dowelErr_replays {p : Part} {d : Nat} {again : Bool} (hd : d < 26) (ht : (p.dowel d).training = false)
    (hn : failsAfter p d again < 16) :
    p.dowelErr d again = ((p.bump (pkgCtr 1 d 0) 1).setDowel d { p.dowel d with fails := failsAfter p d again }).bump (pkgCtr 1 d 1) 1 := by
  unfold failsAfter at hn ⊢
  simp only [Part.dowelErr, ht, Nat.not_le.mpr hd, Nat.not_le.mpr hn, Bool.false_eq_true, or_self, if_false]

/-- The 16th failed replay in a row retrains the port and is recorded, without a replay (log entry 62). -/
theorem dowelErr_retrains {p : Part} {d : Nat} {again : Bool} (hd : d < 26) (ht : (p.dowel d).training = false)
    (hn : 16 ≤ failsAfter p d again) :
    p.dowelErr d again =
      (((p.bump (pkgCtr 1 d 0) 1).setDowel d { fails := failsAfter p d again, training := true }).bump (pkgCtr 1 d 2) 1).recordFault
        ⟨0x0140, .dowel, d, none, 0⟩ := by
  unfold failsAfter at hn ⊢
  simp only [Part.dowelErr, ht, Nat.not_le.mpr hd, hn, Bool.false_eq_true, or_self, if_false, if_true]

theorem svcState_setDowel (p : Part) (d : Nat) (x : Dowel) (k : Nat) : (p.setDowel d x).svcState k = p.svcState k := rfl

/-- A port that has retrained starts afresh. -/
theorem dowelDone_trained {p : Part} {d : Nat} (ht : (p.dowel d).training = true) : p.dowelDone d true = p.setDowel d {} := by
  simp only [Part.dowelDone, ht, Bool.not_true, Bool.false_eq_true, if_false, Bool.true_or, if_true]

/-- A port that fails to retrain takes its bench die out of service, unless that die has left already. -/
theorem dowelDone_failed {p : Part} {d : Nat} (ht : (p.dowel d).training = true) (hs : p.svcState (dowelDie d) ≠ 6) :
    p.dowelDone d false = (p.setDowel d {}).benchDieFatal (dowelDie d) 0x0870 := by
  simp only [Part.dowelDone, ht, svcState_setDowel, beq_false_of_ne hs, Bool.not_true, Bool.or_self, Bool.false_eq_true, if_false]

/-! ### The fault interrupt's timer (18 R418) -/

theorem exec_faultIrqTimer (s : State) : exec .faultIrqTimer s = becomes s s.part.faultTimer := rfl

/-- A message that is owed is sent, and the spacing begins again (log entry 63). -/
theorem faultTimer_owed {p : Part} (hs : p.flog.spacing = true) (ho : p.flog.owed = true) (he : p.rb .faultCtl 0 0 12 = true) :
    p.faultTimer = ({ p with flog := { p.flog with owed := false } } : Part).signal (if p.rb .faultCtl 0 0 11 then 256 else 0)
      (p.rf .faultCtl 0 0 0 11) := by
  simp only [Part.faultTimer, hs, ho, he, Bool.not_true, Bool.and_self, Bool.false_eq_true, if_false, if_true]

/-- Where no message is owed the spacing ends. -/
theorem faultTimer_idle {p : Part} (hs : p.flog.spacing = true) (ho : p.flog.owed = false) :
    p.faultTimer = { p with flog := { p.flog with owed := false, spacing := false } } := by
  simp only [Part.faultTimer, hs, ho, Bool.not_true, Bool.false_and, Bool.false_eq_true, if_false]

/-! ### Device time (16 R382, 15 R363) -/

theorem exec_pilotTick (s : State) : exec .pilotTick s = becomes s s.part.pilotTick := rfl

theorem tickNs_half {j : Join} (h : j.half = true) : (Part.tickNs j).1 = 20 := by
  unfold Part.tickNs
  rw [if_pos h]
  dsimp only
  split <;> rfl

theorem tickNs_steady {j : Join} (h : j.half = false) (hs : j.slew = 0) : (Part.tickNs j).1 = 40 := by
  simp only [Part.tickNs, h, hs, Bool.false_eq_true, if_false, if_true]

/-- Slewing at 20 ppm moves a tick by 1 ns at most. -/
theorem tickNs_slewed {j : Join} (h : j.half = false) : (Part.tickNs j).1 = 39 ∨ (Part.tickNs j).1 = 40 ∨ (Part.tickNs j).1 = 41 := by
  unfold Part.tickNs
  rw [if_neg (ne_true_of_eq_false h)]
  split
  · exact .inr (.inl rfl)
  · split
    · exact .inr (.inl rfl)
    · split
      · exact .inr (.inr rfl)
      · exact .inl rfl

/-! ### What a tick charges and counts -/

/-- What a tick's charges and counts leave alone: device time and the join that slews it, registers, memory, host interface, streams. -/
def uncharged (p : Part) : Nat × Join × Tab Reg × Memory × Hif × Tab Strm := (p.time, p.join, p.regs, p.mem, p.hif, p.strms)

section
variable (p : Part)

@[simp] theorem uncharged_bump (a n : Nat) : uncharged (p.bump a n) = uncharged p := by
  simp only [uncharged, Part.bump_time, Part.bump_join, Part.bump_regs, Part.bump_mem, Part.bump_hif, Part.bump_strms]

@[simp] theorem uncharged_free : uncharged p.free.2 = uncharged p := rfl

@[simp] theorem uncharged_setCtx (c : Nat) (x : Ctx) : uncharged (p.setCtx c x) = uncharged p := rfl

/-- A fold leaves alone what its every step leaves alone. -/
theorem uncharged_foldl {α : Type} {f : Part → α → Part} (hf : ∀ q a, uncharged (f q a) = uncharged q) (l : List α) :
    uncharged (l.foldl f p) = uncharged p := by
  induction l generalizing p with
  | nil => rfl
  | cons a l ih => rw [List.foldl_cons, ih, hf]

@[simp] theorem uncharged_charge (c : Nat) (cls : Cls) (n : Nat) (work : Bool) : uncharged (p.charge c cls n work) = uncharged p := by
  simp only [Part.charge, uncharged_bump, uncharged_setCtx]

@[simp] theorem uncharged_chargeEngines : uncharged p.chargeEngines = uncharged p :=
  uncharged_foldl _ (fun _ _ => uncharged_charge _ _ _ _ _) _

@[simp] theorem uncharged_chargeGangs : uncharged p.chargeGangs = uncharged p := by
  refine uncharged_foldl _ (fun q g => ?_) _
  dsimp only
  split
  · rw [uncharged_charge]
  · split
    · rw [uncharged_bump, uncharged_bump, uncharged_charge]
    · rfl

@[simp] theorem uncharged_chargeCarriers : uncharged p.chargeCarriers = uncharged p := by
  refine uncharged_foldl _ (fun q e => ?_) _
  dsimp only
  split
  · rfl
  · rw [uncharged_charge]

@[simp] theorem uncharged_chargeMoves : uncharged p.chargeMoves = uncharged p := by
  have chargeFree : ∀ (q : Part) (c n : Nat), uncharged (q.free.2.charge c .carrier n false) = uncharged q := fun q c n => by
    rw [uncharged_charge, uncharged_free]
  unfold Part.chargeMoves
  rw [uncharged_foldl _ fun q e => chargeFree q _ _, uncharged_foldl _ fun q e => chargeFree q _ _]

@[simp] theorem uncharged_tickSeen (before : Part) : uncharged (Part.tickSeen before p) = uncharged p := rfl

@[simp] theorem uncharged_tickAway : uncharged p.tickAway = uncharged p := rfl

@[simp] theorem uncharged_tickThrottle : uncharged p.tickThrottle = uncharged p := by
  have bumpIf : ∀ (c : Bool) (q : Part) (a n : Nat), uncharged (if c then q.bump a n else q) = uncharged q := fun c q a n => by
    cases c
    · rfl
    · exact uncharged_bump q a n
  unfold Part.tickThrottle
  rw [uncharged_foldl _ fun q s => uncharged_bump q _ _, uncharged_foldl _ fun q m => bumpIf _ q _ _,
    uncharged_foldl _ fun q k => bumpIf _ q _ _]

@[simp] theorem uncharged_tickGates : uncharged p.tickGates = uncharged p :=
  uncharged_foldl _ (fun q _ => uncharged_bump q _ _) _

@[simp] theorem uncharged_tickFetch : uncharged p.tickFetch = uncharged p := by
  refine uncharged_foldl _ (fun q n => ?_) _
  split
  · split
    · rw [Part.bumpJig, uncharged_bump, uncharged_bump]
    · rfl
  · rfl

@[simp] theorem uncharged_tickParked : uncharged p.tickParked = uncharged p := by
  refine uncharged_foldl _ (fun q e => ?_) _
  dsimp only
  split
  · split
    · rw [uncharged_bump, uncharged_bump]
    · rfl
  · rfl

@[simp] theorem uncharged_tickAbsent : uncharged p.tickAbsent = uncharged p := by
  refine uncharged_foldl _ (fun q e => ?_) _
  rw [Part.bumpStream, uncharged_bump, uncharged_bump]

@[simp] theorem uncharged_tickHeld : uncharged p.tickHeld = uncharged p := by
  unfold Part.tickHeld
  split
  · rw [uncharged_bump]
  · rfl

@[simp] theorem uncharged_railStep (u : Nat) : uncharged (p.railStep u) = uncharged p := rfl

@[simp] theorem uncharged_tickRails : uncharged p.tickRails = uncharged p := by
  refine uncharged_foldl _ (fun q u => ?_) _
  dsimp only
  split
  · rw [uncharged_railStep, uncharged_free]
  · rw [uncharged_free]

end

/-- The part once a tick has charged and counted, before it moves device time. -/
def charged (p : Part) : Part :=
  let q := (Part.tickSeen p p.chargeEngines.chargeGangs.chargeCarriers.chargeMoves).tickAway
  q.tickThrottle.tickGates.tickFetch.tickParked.tickAbsent.tickHeld.tickRails

/-- A tick of a part that runs charges and counts, and then moves device time. -/
theorem pilotTick_running {p : Part} (hh : p.power.held = false) (hs : p.power.started = true) (hr : p.power.rails = true) :
    p.pilotTick = (charged p).tickTime := by
  simp only [Part.pilotTick, charged, hh, hs, hr, Bool.not_true, Bool.or_self, Bool.false_eq_true, if_false]

theorem uncharged_charged (p : Part) : uncharged (charged p) = uncharged p := by
  simp [charged]

/-- Moving device time adds the ns that the join allows, and leaves registers, memory, host interface and streams. -/
theorem tickTime_of_uncharged {p r : Part} (h : uncharged r = uncharged p) :
    r.tickTime.time = (p.time + (Part.tickNs p.join).1) % 2 ^ 64 ∧
      r.tickTime.regs = p.regs ∧ r.tickTime.mem = p.mem ∧ r.tickTime.hif = p.hif ∧ r.tickTime.strms = p.strms := by
  simp only [uncharged, Prod.mk.injEq] at h
  obtain ⟨htime, hjoin, hregs, hmem, hhif, hstrms⟩ := h
  rw [← htime, ← hjoin]
  exact ⟨rfl, hregs, hmem, hhif, hstrms⟩

/-- Settles O54: the Dowel and timer clauses are the cases of their commands; a tick adds what its join says. That the 16th failed replay
counts no replay and that a message sent keeps the spacing is the model's choice (log entries 62 and 63). -/
theorem timersAndPortsAdvance : Obligations.TimersAndPortsAdvance := by
  intro s
  refine ⟨fun d hd ht => ⟨?_, fun hn => ?_, fun hn => ?_⟩, fun d ht => ⟨?_, fun hs => ?_⟩,
    fun hs => ⟨fun ho he => ?_, fun ho => ?_⟩, fun hh hst hr => ?_⟩
  · rw [exec_dowelFlitCrcErr, dowelErr_replays (again := false) hd ht (Nat.zero_lt_succ _), failsAfter_first]
  · rw [exec_dowelFlitCrcErr, dowelErr_replays (again := true) hd ht (Nat.succ_lt_succ hn), failsAfter_again]
  · rw [exec_dowelFlitCrcErr, dowelErr_retrains (again := true) hd ht (Nat.succ_le_succ hn), failsAfter_again]
  · rw [exec_dowelRetrainDone, dowelDone_trained ht]
  · rw [exec_dowelRetrainDone, dowelDone_failed ht hs]
  · rw [exec_faultIrqTimer, faultTimer_owed hs ho he]
  · rw [exec_faultIrqTimer, faultTimer_idle hs ho]
  · obtain ⟨htime, hkept⟩ := tickTime_of_uncharged (uncharged_charged s.part)
    refine ⟨(charged s.part).tickTime, by rw [exec_pilotTick, pilotTick_running hh hst hr], fun hf h0 => ?_, fun hf => ?_, fun hf => ?_, hkept⟩
    · rw [htime, tickNs_steady hf h0]
    · rw [htime, tickNs_half hf]
    · rw [htime]
      obtain h | h | h := tickNs_slewed hf
      · exact .inl (by rw [h])
      · exact .inr (.inl (by rw [h]))
      · exact .inr (.inr (by rw [h]))

end Sys2Proof.Safety
end

section
/-!
The random probe (03 R70): what a write of 1 to GO latches, and what the end of an evaluation stores.
-/

namespace Sys2Proof.Safety
open Sys2Proof Sys2Proof.Machine

theorem exec_randProbeGo (s : State) (port : Nat) :
    exec (.randProbeGo port) s = becomes s (s.part.writeReg port (regOff .probeCtl 0 0) .full 1) := rfl

theorem exec_randProbeDone (s : State) : exec .randProbeDone s = becomes s s.part.probeDone := rfl

/-- A write of RAND_PROBE_CTL stores nothing, and starts an evaluation where GO is written 1. -/
theorem applyWrite_probeCtl (p : Part) {a : Acc} (h : a.r.name = .probeCtl) : p.applyWrite a = if a.one 0 then p.probeGo else p := by
  simp only [Part.applyWrite, h]

/-- A whole write of RAND_PROBE_CTL through the port starts an evaluation where its bit 0 is 1. -/
theorem writeReg_probeCtl {p : Part} {port off d i : Nat} (h : Served p port off ⟨.probeCtl, d, i⟩) (v : Reg) :
    p.writeReg port off .full v = if v.toNat.testBit 0 then p.probeGo else p := by
  rw [writeReg_single h rfl, applyWrite_probeCtl p rfl, one_full _ _ 0 (by decide)]

/-- An evaluation in progress ends with G of what was latched in the output registers, and DONE set. -/
theorem probeDone_busy {p : Part} (h : p.probe.busy = true) :
    p.probeDone = { ((p.setReg .probeOutLo 0 0 (bits (Rand.G p.probe.key p.probe.ctr) 0 64)).setReg .probeOutHi 0 0
        (bits (Rand.G p.probe.key p.probe.ctr) 64 64)).setRb .probeCtl 0 0 1 true with probe := { p.probe with busy := false } } := by
  unfold Part.probeDone
  rw [if_neg (by rw [h]; decide)]
  rfl

/-- Settles O7: the write has bit 0 set, so it starts an evaluation; one in progress ends with G of R58 (03 R70). -/
theorem randomProbeStoresG : Obligations.RandomProbeStoresG := by
  intro s port
  refine ⟨fun hs => ?_, fun hb => ?_⟩
  · have go : (1 : Reg).toNat.testBit 0 = true := by decide
    rw [exec_randProbeGo, writeReg_probeCtl hs, if_pos go]
    rfl
  · rw [exec_randProbeDone, probeDone_busy hb]
    rfl

end Sys2Proof.Safety
end

section
/-!
What a context-fatal fault does to Gangs (04 R95, 11 R261, 18 R412): the log, the rings, the streams and the ranges leave every Gang as it
is; a teardown drops steps in flight, so that a Gang between steps stays between steps.
-/

namespace Sys2Proof.Machine.Part
open Sys2Proof

section
variable (p : Part)

/-- A fold leaves the Gangs alone where its every step does. -/
theorem foldl_gangs {α : Type} {f : Part → α → Part} (hf : ∀ q a, (f q a).gangs = q.gangs) (l : List α) :
    (l.foldl f p).gangs = p.gangs := by
  induction l generalizing p with
  | nil => rfl
  | cons a l ih => rw [List.foldl_cons, ih, hf]

theorem ite_gangs {c : Prop} [Decidable c] {q r : Part} (hq : q.gangs = p.gangs) (hr : r.gangs = p.gangs) :
    (if c then q else r).gangs = p.gangs := by
  split
  · exact hq
  · exact hr

/-! ### Counters, messages and the fault log -/

@[simp] theorem bumpFn_gangs (fn ev : Nat) : (p.bumpFn fn ev).gangs = p.gangs := ite_gangs p (bump_gangs _ _ _) (bump_gangs _ _ _)

@[simp] theorem bumpHif_gangs (c ev n : Nat) : (p.bumpHif c ev n).gangs = p.gangs := by rw [bumpHif, bump_gangs, bump_gangs]

@[simp] theorem bumpJig_gangs (die c ev n : Nat) : (p.bumpJig die c ev n).gangs = p.gangs := by rw [bumpJig, bump_gangs, bump_gangs]

@[simp] theorem bumpGang_gangs (g c ev n : Nat) : (p.bumpGang g c ev n).gangs = p.gangs := by rw [bumpGang, bump_gangs, bump_gangs]

@[simp] theorem request_gangs (fn : Nat) : (p.request fn).gangs = p.gangs := ite_gangs p rfl (bumpFn_gangs _ _ _)

@[simp] theorem sendMsi_gangs (fn v : Nat) : (p.sendMsi fn v).gangs = p.gangs := ite_gangs p rfl (bumpFn_gangs _ _ _)

@[simp] theorem signal_gangs (fn v : Nat) : (p.signal fn v).gangs = p.gangs := ite_gangs p rfl (sendMsi_gangs _ _ _)

@[simp] theorem faultIrq_gangs (code : Nat) : (p.faultIrq code).gangs = p.gangs :=
  ite_gangs p (ite_gangs p rfl (signal_gangs p _ _)) rfl

@[simp] theorem logFault_gangs (f : FaultRec) : (p.logFault f).gangs = p.gangs :=
  ite_gangs p (bump_gangs _ _ _) (faultIrq_gangs _ _)

@[simp] theorem recordFault_gangs (f : FaultRec) : (p.recordFault f).gangs = p.gangs := ite_gangs p rfl (logFault_gangs _ _)

/-! ### Completion rings and jobs -/

@[simp] theorem hostPost_gangs (fn a : Nat) (bs : List Byte) : (p.hostPost fn a bs).gangs = p.gangs :=
  ite_gangs p rfl (bumpFn_gangs _ _ _)

@[simp] theorem cqSignal_gangs (q : Nat) : (p.cqSignal q).gangs = p.gangs := by
  simp only [cqSignal, signal_gangs, bumpHif_gangs, setCq_gangs]

@[simp] theorem cqModerate_gangs (q : Nat) : (p.cqModerate q).gangs = p.gangs :=
  ite_gangs p (ite_gangs p (cqSignal_gangs _ _) rfl) rfl

@[simp] theorem cqPost_gangs (q : Nat) (e : CqEntry) : (p.cqPost q e).gangs = p.gangs := by
  simp only [cqPost, cqModerate_gangs, bumpHif_gangs, setCq_gangs, hostPost_gangs]

@[simp] theorem readReturn_gangs (q : Nat) : (p.readReturn q).gangs = p.gangs :=
  ite_gangs p rfl (ite_gangs p rfl (request_gangs _ _))

@[simp] theorem post_gangs (q : Nat) (e : CqEntry) : (p.post q e).gangs = p.gangs :=
  ite_gangs p (cqPost_gangs _ _ _) (ite_gangs p (by rw [readReturn_gangs, bumpHif_gangs, setCq_gangs]) rfl)

@[simp] theorem endJob_gangs (j status : Nat) : (p.endJob j status).gangs = p.gangs := by
  unfold endJob; split
  · rfl
  · dsimp only
    rw [bumpJig_gangs, bump_gangs, bump_gangs, setRf_gangs, post_gangs]
    exact ite_gangs p rfl rfl

@[simp] theorem faultRec_gangs (x : Job) (r : Nat) (y : Rec) (code : Nat) : (p.faultRec x r y code).gangs = p.gangs :=
  ite_gangs p (post_gangs _ _ _) (post_gangs _ _ _)

@[simp] theorem faultJobs_gangs (c code : Nat) : (p.faultJobs c code).gangs = p.gangs := by
  refine foldl_gangs _ (fun q e => ?_) _
  dsimp only
  rw [endJob_gangs, foldl_gangs _ fun q r => ite_gangs q (faultRec_gangs _ _ _ _ _) rfl]

/-! ### Streams -/

@[simp] theorem ctlBad_gangs (c a : Nat) : (p.ctlBad c a).gangs = p.gangs := rfl

@[simp] theorem translate_gangs (c a : Nat) (write : Bool) : (p.translate c a write).2.gangs = p.gangs := by
  have drawn : ∀ b : Bool, (if b then p.free.2 else p).gangs = p.gangs := fun _ => ite_gangs p rfl rfl
  have cached : ∀ (b : Bool) (q : Part) (x : Ctx), (if b then q else q.setCtx c x).gangs = q.gangs := fun _ q _ => ite_gangs q rfl rfl
  unfold translate; dsimp only; split
  · rfl
  · split
    · rw [drawn]
    · split
      · rw [drawn]
      · split <;> rw [cached, drawn]

@[simp] theorem ctlWrite_gangs (c a : Nat) (bs : List Byte) : (p.ctlWrite c a bs).gangs = p.gangs := by
  unfold ctlWrite; dsimp only; split
  · split
    · rw [hostPost_gangs, translate_gangs]
    · rw [ctlBad_gangs, translate_gangs]
  · split
    · rfl
    · split <;> rfl

@[simp] theorem ctlRead_gangs (c a n : Nat) : (p.ctlRead c a n).2.gangs = p.gangs := by
  unfold ctlRead; dsimp only; split
  · split
    · split
      · rw [translate_gangs]
      · rw [bumpFn_gangs, translate_gangs]
    · rw [ctlBad_gangs, translate_gangs]
  · split <;> rfl

@[simp] theorem strmBack_gangs (c n : Nat) : (p.strmBack c n).gangs = p.gangs := by
  unfold strmBack; split
  · rfl
  · dsimp only; split
    · rw [ctlRead_gangs]
    · rw [ctlWrite_gangs, setStrm_gangs]
      split
      · rw [ctlRead_gangs]
      · rw [free_gangs, ctlRead_gangs]

@[simp] theorem strmState_gangs (c n st : Nat) : (p.strmState c n st).gangs = p.gangs := by
  unfold strmState; split
  · rfl
  · rw [strmBack_gangs, setStrm_gangs]

@[simp] theorem aesEnded_gangs (c n : Nat) : (p.aesEnded c n).gangs = p.gangs := by
  refine foldl_gangs _ (fun q x => ?_) _
  rfl

@[simp] theorem aesFade_gangs (c : Nat) : (p.aesFade c).gangs = p.gangs := rfl

@[simp] theorem strmEnd_gangs (c n : Nat) (code : Option Nat) : (p.strmEnd c n code).gangs = p.gangs := by
  unfold strmEnd; split
  · rfl
  · dsimp only
    rw [aesEnded_gangs]
    dsimp only
    split
    · rw [freeSlot_gangs, strmState_gangs, setStrm_gangs]
    · rw [strmState_gangs, setStrm_gangs]

@[simp] theorem noteChunks_gangs (c n : Nat) : (p.noteChunks c n).gangs = p.gangs := by
  unfold noteChunks; split
  · rfl
  · rw [foldl_gangs _ fun q o => ?_, foldl_gangs _ fun q h => ?_]
    · split <;> rfl
    · split
      · split <;> rfl
      · rfl

/-! ### Ranges and partial work -/

@[simp] theorem arrive_gangs (d : Nat) (k : Option Nat) : (p.arrive d k).gangs = p.gangs := by cases k <;> rfl

@[simp] theorem releaseRange_gangs (s : SbRange) : (p.releaseRange s).gangs = p.gangs := by
  have owed := foldl_gangs p (fun q (o : Nat × Nat) => arrive_gangs q s.range.die (some o.2)) s.owed
  unfold releaseRange; dsimp only; split
  · rw [setRegion_gangs, owed]
  · rw [owed]

@[simp] theorem releaseRanges_gangs (ids : List Nat) : (p.releaseRanges ids).gangs = p.gangs :=
  foldl_gangs _ releaseRange_gangs _

@[simp] theorem releaseSaved_gangs (c : Nat) : (p.releaseSaved c).gangs = p.gangs := foldl_gangs _ releaseRange_gangs _

@[simp] theorem drainCtx_gangs (c : Nat) : (p.drainCtx c).gangs = p.gangs := rfl

@[simp] theorem dropSlot_gangs (k : Nat) : (p.dropSlot k).gangs = p.gangs := by
  unfold dropSlot; split
  · rfl
  · dsimp only; split
    · rfl
    · split
      · rfl
      · rw [setStrm_gangs, setSlot_gangs]

end

/-! ### Gangs between steps -/

section
variable {p : Part} {g : Nat}

theorem gang_eq_of_gangs {q : Part} (h : q.gangs = p.gangs) (g : Nat) : q.gang g = p.gang g := by rw [gang, h, gang]

@[simp] theorem gang_setGang (p : Part) (g : Nat) (x : Gang) : (p.setGang g x).gang g = x := Tab.getD_put_same _ _ _ _

/-- A Gang after a dropped step of Gang `h`. -/
theorem dropStep_stepping (p : Part) (h g : Nat) :
    ((p.dropStep h).gang g).stepping = if g = h then false else (p.gang g).stepping := by
  unfold dropStep gang Tab.getD
  dsimp only
  rw [Tab.find_upd, foldl_gangs _ dropSlot_gangs]
  split
  · cases Tab.find g p.gangs <;> rfl
  · rfl

theorem dropStep_idle (p : Part) (g : Nat) : ((p.dropStep g).gang g).stepping = false := by
  rw [dropStep_stepping, if_pos rfl]

theorem dropStep_keeps_idle (hi : (p.gang g).stepping = false) (h : Nat) : ((p.dropStep h).gang g).stepping = false := by
  rw [dropStep_stepping, hi, ite_self]

theorem stopCtx_keeps_idle (hi : (p.gang g).stepping = false) (c : Nat) : ((p.stopCtx c).gang g).stepping = false := by
  refine List.foldlRecOn (motive := fun q : Part => (q.gang g).stepping = false) _ dropStep hi fun q hq h _ => ?_
  exact dropStep_keeps_idle hq h

/-- A teardown starts no step. -/
theorem teardown_keeps_idle (hi : (p.gang g).stepping = false) (c code : Nat) : ((p.teardown c code).gang g).stepping = false := by
  unfold teardown; split
  · exact hi
  · split
    · exact hi
    · split
      · rwa [gang_eq_of_gangs (bump_gangs _ _ _)]
      · have started : (((p.setCtx c { p.ctx c with state := 4, code := code }).setRf .ctxStatus 0 c 16 16 code).gang g).stepping = false := hi
        dsimp only
        rw [gang_eq_of_gangs (faultJobs_gangs _ _ _), gang_eq_of_gangs (aesFade_gangs _ _),
          gang_eq_of_gangs (foldl_gangs _ (fun q n => by rw [strmEnd_gangs, noteChunks_gangs]) _),
          gang_eq_of_gangs (releaseSaved_gangs _ _), gang_eq_of_gangs (releaseRanges_gangs _ _), gang_eq_of_gangs (drainCtx_gangs _ _)]
        exact stopCtx_keeps_idle started c

theorem ctxFault_keeps_idle (hi : (p.gang g).stepping = false) (c : Nat) (f : FaultRec) :
    ((p.ctxFault c f).gang g).stepping = false :=
  teardown_keeps_idle (by rwa [gang_eq_of_gangs (recordFault_gangs _ _)]) _ _

end

end Sys2Proof.Machine.Part
end

section
/-!
A Gang's step (04 R81 to R92, 05 R116): its start, the rows of its Feed, records read ahead, initial vectors, the Punch and its end.
-/

namespace Sys2Proof.Safety
open Sys2Proof Sys2Proof.Machine

/-! ### The commands -/

theorem exec_gangStepStart (s : State) (g : Nat) : exec (.gangStepStart g) s = settlesTo s (s.part.gangStepStart g) := rfl

theorem exec_feedRowArrive (s : State) (g : Nat) (ecc : Ecc) (late : Nat) :
    exec (.feedRowArrive g ecc late) s = settlesTo s (s.part.feedRow g ecc late) := rfl

theorem exec_condRecordArrive (s : State) (k : Nat) (st : RdStat) (ecc : Ecc) (hw : Cells) :
    exec (.condRecordArrive k st ecc hw) s = settlesTo s ((s.part.hostSees hw).condArrive k ecc) := rfl

theorem exec_initVectorLoaded (s : State) (k : Nat) (st : RdStat) (ecc : Ecc) (hw : Cells) :
    exec (.initVectorLoaded k st ecc hw) s = settlesTo s (s.part.initLoaded k st ecc hw) := rfl

theorem exec_punchStart (s : State) (g : Nat) : exec (.punchStart g) s = becomes s (s.part.punchStart g) := rfl

theorem exec_stepComplete (s : State) (k : Nat) : exec (.stepComplete k) s = settlesTo s (s.part.stepComplete k) := rfl

/-! ### The start of a step (R74, R91) -/

/-- The slots of a Gang that may be armed, their conditioning apart, once the operations that waited for the boundary have taken effect. -/
def readySlots (p : Part) (g : Nat) : List Nat := (p.stepOps g).stepReady ((p.gangSlots g).map Prod.fst)

/-- The part once those operations have taken effect and the banks that hold conditioning of ready slots are woken. -/
def readied (p : Part) (g : Nat) : Part := (p.stepOps g).stepWakes (readySlots p g)

/-- The ready slots whose conditioning is at hand: those that a step arms. -/
def runSlots (p : Part) (g : Nat) : List Nat := (readied p g).stepRun (readySlots p g)

/-- A Gang between steps whose context runs, with a slot to arm. -/
structure Startable (p : Part) (g : Nat) : Prop where
  loaded : (p.gang g).loaded = true
  idle : (p.gang g).stepping = false
  runs : p.ctxRuns (p.gang g).ctx = true
  resident : p.residentOn (p.gang g).ctx (p.gang g).cab = true
  stillRuns : (p.stepOps g).ctxRuns (p.gang g).ctx = true
  anyRun : runSlots p g ≠ []

section
variable {p : Part} {g : Nat}

/-- A Gang whose clock is off asks for it (R86). -/
theorem gangStepStart_unclocked (h : Startable p g) (hc : (p.gang g).clock = false) :
    p.gangStepStart g = (readied p g).setGang g { p.gang g with waking := true } := by
  have run := List.isEmpty_eq_false_iff.mpr h.anyRun
  unfold runSlots readied readySlots at run
  simp only [Part.gangStepStart, h.loaded, h.idle, h.runs, h.resident, h.stillRuns, hc, run, Bool.not_true, Bool.not_false, Bool.or_self,
    Bool.false_eq_true, if_false, if_true]
  rfl

/-- With its clock on, the slots to run are armed; the step begins, or poisoned data poisons it (R104, R116). -/
theorem gangStepStart_clocked (h : Startable p g) (hc : (p.gang g).clock = true) :
    p.gangStepStart g =
      let r := (readied p g).armAll (runSlots p g)
      r.1.elim (r.2.stepBegins g) (r.2.poisonStep g (p.gang g).ctx) := by
  have run := List.isEmpty_eq_false_iff.mpr h.anyRun
  unfold runSlots readied readySlots at run
  simp only [Part.gangStepStart, runSlots, readied, readySlots, h.loaded, h.idle, h.runs, h.resident, h.stillRuns, hc, run, Bool.not_true,
    Bool.or_self, Bool.false_eq_true, if_false]
  split <;> (rename_i hr; rw [hr]; rfl)

/-- The Gang of a step that begins. -/
theorem stepBegins_gang (p : Part) (g : Nat) :
    (p.stepBegins g).gang g = { p.gang g with stepping := true, layer := 0, taken := 0, armedAt := p.time } := by
  unfold Part.stepBegins
  dsimp only
  rw [Part.gang_setGang, Part.gang_eq_of_gangs (Part.bumpGang_gangs _ _ _ _ _), Part.bumpGang, Part.bump_time, Part.bump_time]

end

/-! ### The Lathes take a row (R74, R75, R82, R85) -/

theorem poisonMark_idle (p : Part) (g c : Nat) : ((p.poisonMark g c).gang g).stepping = false := by
  unfold Part.poisonMark
  rw [Part.gang_eq_of_gangs (Part.bumpGang_gangs _ _ _ _ _), Part.gang_eq_of_gangs (Part.setRb_gangs _ _ _ _ _ _), Part.dropStep_idle]

theorem poisonStep_idle (p : Part) (g c detail : Nat) : ((p.poisonStep g c detail).gang g).stepping = false :=
  Part.ctxFault_keeps_idle (poisonMark_idle p g c) _ _

/-- What answers has not taken the branch of an error. -/
theorem ok_of_ite_error {ε α : Type} {c : Prop} [Decidable c] {e : ε} {m : Except ε α} {a : α}
    (h : (if c then .error e else m) = .ok a) : m = .ok a := by
  split at h
  · cases h
  · exact h

/-- The weights of a code row leave the FIFO alone. -/
theorem rowWeights_fifo {x : Gang} {c n : Nat} {last : Bool} {codes : List Nat} {ws : List Num.WVal} {f : Feed}
    (h : Part.rowWeights x c n last codes = .ok (ws, f)) : f.fifo = x.feed.fifo := by
  unfold Part.rowWeights at h
  dsimp only at h
  split at h
  · cases ok_of_ite_error h
    rfl
  · split at h
    · cases ok_of_ite_error (ok_of_ite_error h)
      rfl
    · cases h
      rfl

/-- A code row runs and leaves the rest of the FIFO, or its data's fault drops the step. -/
theorem runRow_stops (p : Part) (g : Nat) (x : Gang) (l : Layer) (bs : List Byte) :
    ((p.runRow g x l bs).gang g).stepping = false ∨ ((p.runRow g x l bs).gang g).feed.fifo = x.feed.fifo := by
  unfold Part.runRow
  dsimp only
  split
  · exact .inl (Part.ctxFault_keeps_idle (Part.dropStep_idle _ _) _ _)
  · rename_i hw
    refine .inr ?_
    split
    · rw [Part.gang_setGang, ← rowWeights_fifo hw]
    · split <;> rw [Part.gang_setGang, ← rowWeights_fifo hw]

/-- The Gang with its oldest row taken from the FIFO, `rest` being left. -/
def rowTaken (x : Gang) (rest : List FeedRow) : Gang :=
  { x with feed := { x.feed with fifo := rest }, fifoMin := min x.fifoMin rest.length }

section
variable {p : Part} {g : Nat} {l : Layer} {r : FeedRow} {rest : List FeedRow}

/-- A poisoned row poisons the step. -/
theorem feedTake_poisoned (hf : (p.gang g).feed.fifo = r :: rest) (hl : (p.gang g).layers[(p.gang g).layer]? = some l)
    (hp : r.poison = true) : p.feedTake g = p.poisonStep g (p.gang g).ctx (p.stepDetail g) := by
  simp only [Part.feedTake, hf, hl, hp, if_true]

/-- A sound row runs where it holds codes; another is kept for the codes that use it. -/
theorem feedTake_sound (hf : (p.gang g).feed.fifo = r :: rest) (hl : (p.gang g).layers[(p.gang g).layer]? = some l)
    (hp : r.poison = false) :
    p.feedTake g =
      let y := rowTaken (p.gang g) rest
      if r.kind = 0 then p.runRow g y l r.data
      else if r.kind = 1 then p.setGang g { y with feed := { y.feed with dirs := r.data } }
      else if r.kind = 2 then p.setGang g { y with feed := { y.feed with side := y.feed.side ++ r.data } }
      else p.setGang g { y with feed := { y.feed with exps := r.data } } := by
  simp only [Part.feedTake, rowTaken, hf, hl, hp, Bool.false_eq_true, if_false]

/-- A row taken leaves the rest of the FIFO, or the Gang between steps. -/
theorem feedTake_stops (hf : (p.gang g).feed.fifo = r :: rest) (hl : (p.gang g).layers[(p.gang g).layer]? = some l) :
    ((p.feedTake g).gang g).stepping = false ∨ ((p.feedTake g).gang g).feed.fifo = rest := by
  cases hp : r.poison
  case true => rw [feedTake_poisoned hf hl hp]; exact .inl (poisonStep_idle _ _ _ _)
  case false =>
    rw [feedTake_sound hf hl hp]
    dsimp only
    split
    · exact runRow_stops p g _ l r.data
    · split
      · rw [Part.gang_setGang]; exact .inr rfl
      · split <;> (rw [Part.gang_setGang]; exact .inr rfl)

/-- Without a layer no row is taken. -/
theorem feedTake_without_layer (hl : (p.gang g).layers[(p.gang g).layer]? = none) : p.feedTake g = p := by
  simp only [Part.feedTake, hl]
  cases (p.gang g).feed.fifo <;> rfl

end

/-! ### How far behind the Feed the Lathes stay (R82; log entry 39) -/

section
variable {p : Part} {g ahead : Nat}

theorem feedGo_idle (hi : (p.gang g).stepping = false) (fuel : Nat) : Part.feedGo g ahead fuel p = p := by
  cases fuel with
  | zero => rfl
  | succ n => simp only [Part.feedGo, hi, Bool.false_and, Bool.false_eq_true, if_false]

theorem feedGo_short (h : (p.gang g).feed.fifo.length ≤ ahead) (fuel : Nat) : Part.feedGo g ahead fuel p = p := by
  cases fuel with
  | zero => rfl
  | succ n =>
    simp only [Part.feedGo, Nat.not_lt.mpr h, decide_false, Bool.and_false, Bool.false_and, Bool.false_eq_true, if_false]

theorem feedGo_fixed (h : p.feedTake g = p) (fuel : Nat) : Part.feedGo g ahead fuel p = p := by
  induction fuel with
  | zero => rfl
  | succ n ih => rw [Part.feedGo, h, ih, ite_self]

/-- With one row more than `ahead` in the FIFO the Lathes take the oldest, and no more. -/
theorem feedGo_takes_one (hs : (p.gang g).stepping = true) (hn : (p.gang g).feed.fifo.length = ahead + 1)
    (hb : p.feedBlocked g = false) (fuel : Nat) : Part.feedGo g ahead (fuel + 1) p = p.feedTake g := by
  have once : Part.feedGo g ahead (fuel + 1) p = Part.feedGo g ahead fuel (p.feedTake g) := by
    simp only [Part.feedGo, hs, hn, hb, Nat.lt_succ_self, decide_true, Bool.not_false, Bool.and_self, if_true]
  rw [once]
  cases hl : (p.gang g).layers[(p.gang g).layer]? with
  | none => rw [feedTake_without_layer hl, feedGo_fixed (feedTake_without_layer hl)]
  | some l =>
    obtain ⟨r, rest, hf⟩ := List.exists_cons_of_length_eq_add_one hn
    rw [hf, List.length_cons] at hn
    obtain hi | hr := feedTake_stops hf hl
    · exact feedGo_idle hi fuel
    · exact feedGo_short (by rw [hr]; omega) fuel

end

/-! ### A row of the Feed arrives (R82, R83) -/

/-- A row joins the FIFO at its end and uses no slack, whichever row the Feed names next. -/
theorem feedPush_fifo_debt (x : Gang) (kind : Nat) (bs : List Byte) (poison : Bool) :
    (Part.feedPush x kind bs poison).fifo = x.feed.fifo ++ [⟨kind, bs, poison⟩] ∧
      (Part.feedPush x kind bs poison).debt = x.feed.debt := by
  unfold Part.feedPush
  dsimp only
  split
  · exact ⟨rfl, rfl⟩
  · split
    · exact ⟨rfl, rfl⟩
    · split
      · exact ⟨rfl, rfl⟩
      · split <;> exact ⟨rfl, rfl⟩

/-- The part once Gang `g`'s Feed has read row `row` of its weight section, without an error, into its FIFO. -/
def rowArrived (p : Part) (g kind row : Nat) : Part :=
  let x := p.gang g
  let d := p.rowRead (p.phys (g / 4)) (x.row + row) .clean
  d.2.setGang g { x with feed := Part.feedPush x kind d.1.1 d.1.2 }

section
variable {p : Part} {g kind row : Nat}

theorem gang_rowArrived (p : Part) (g kind row : Nat) : ∃ bs poison,
    (rowArrived p g kind row).gang g = { p.gang g with feed := Part.feedPush (p.gang g) kind bs poison } :=
  ⟨_, _, Part.gang_setGang _ _ _⟩

theorem stepping_rowArrived : ((rowArrived p g kind row).gang g).stepping = (p.gang g).stepping := by
  obtain ⟨bs, poison, h⟩ := gang_rowArrived p g kind row
  rw [h]

theorem fifo_rowArrived : ((rowArrived p g kind row).gang g).feed.fifo.length = (p.gang g).feed.fifo.length + 1 := by
  obtain ⟨bs, poison, h⟩ := gang_rowArrived p g kind row
  rw [h, (feedPush_fifo_debt _ _ _ _).1, List.length_append, List.length_singleton]

/-- Gang `g` is in a step and its Feed may read row `row` of its weight section next, no more than LEAD rows standing in the FIFO and no slack
being due. -/
structure RowDue (p : Part) (g kind row : Nat) : Prop where
  next : Part.feedNext (p.gang g) = some (kind, row)
  stepping : (p.gang g).stepping = true
  runs : p.ctxRuns (p.gang g).ctx = true
  resident : p.residentOn (p.gang g).ctx (p.gang g).cab = true
  up : p.benchUp (p.phys (g / 4)) = true
  room : (p.gang g).feed.fifo.length < 256
  slack : (p.gang g).feed.debt < 16
  stored : (p.gang g).row + row < 262144
  granted : p.rowInGrant (p.gang g).ctx (p.gang g).cab (g / 4) ((p.gang g).row + row) = true
  free : p.rowBusy (p.phys (g / 4)) ((p.gang g).row + row) (engKey .lathe (8 * g)) = false
  behind : (p.gang g).feed.fifo.length ≤ (p.gang g).lead

/-- A row of the store that lies in the grant is read into the FIFO. -/
theorem feedFetch_clean (h : RowDue p g kind row) : p.feedFetch g kind row .clean = rowArrived p g kind row := by
  simp only [Part.feedFetch, Nat.not_le.mpr h.stored, h.granted, reduceCtorEq, decide_false, Bool.not_true, Bool.or_self, Bool.false_and,
    Bool.false_eq_true, if_false]
  rfl

/-- A row that comes in time and without an error joins the FIFO; then the Lathes take what stands beyond LEAD. -/
theorem feedRow_clean (h : RowDue p g kind row) :
    p.feedRow g .clean 0 = Part.feedGo g (p.gang g).lead 256 (rowArrived p g kind row) := by
  obtain ⟨bs, poison, hx⟩ := gang_rowArrived p g kind row
  have debt : ((rowArrived p g kind row).gang g).feed.debt < 16 := by rw [hx, (feedPush_fifo_debt _ _ _ _).2]; exact h.slack
  have lead : ((rowArrived p g kind row).gang g).lead = (p.gang g).lead := by rw [hx]
  unfold Part.feedRow
  simp only [h.stepping, h.runs, h.resident, h.up, if_true, feedGo_short h.behind, h.next, h.free, Nat.not_le.mpr h.room, Nat.lt_irrefl,
    decide_false, Bool.not_true, Bool.or_self, Bool.false_and, Bool.false_eq_true, if_false, feedFetch_clean h, debt, lead]

/-- Below LEAD the row joins the FIFO and nothing more. -/
theorem feedRow_joins (h : RowDue p g kind row) (hl : (p.gang g).feed.fifo.length < (p.gang g).lead) :
    p.feedRow g .clean 0 = rowArrived p g kind row := by
  rw [feedRow_clean h, feedGo_short (by rw [fifo_rowArrived]; exact hl)]

/-- Once LEAD rows stand behind it the Lathes take the oldest row. -/
theorem feedRow_takes (h : RowDue p g kind row) (hl : (p.gang g).feed.fifo.length = (p.gang g).lead)
    (hb : (rowArrived p g kind row).feedBlocked g = false) : p.feedRow g .clean 0 = (rowArrived p g kind row).feedTake g := by
  rw [feedRow_clean h, feedGo_takes_one (stepping_rowArrived.trans h.stepping) (by rw [fifo_rowArrived, hl]) hb]

end

/-! ### Read-ahead and initial vectors (R116, R96, R104) -/

section
variable {p : Part} {k : Nat} {sl : Slot} {x : Strm}

/-- The slot may read its next record ahead: its rows are released, its banks powered and the way to it is open. -/
structure RecordDue (p : Part) (k : Nat) (sl : Slot) (x : Strm) (n : Nat) : Prop where
  slot : p.slot k = some sl
  strm : p.strm sl.ctx sl.strm = some x
  runs : p.ctxRuns sl.ctx = true
  bound : Ent.state x.ent = 1
  room : sl.cond.length < 16
  next : sl.next x + sl.cond.length = n
  queued : n < Ent.queued x.ent
  up : p.benchUp (p.phys (Ent.inDie x.ent)) = true
  released : p.condReleased x n = true
  powered : p.condGated x n = []
  way : p.fabricHeld (.bench (p.phys (k / 512))) (.bench (p.phys (Ent.inDie x.ent))) (benchAt (Ent.inDie x.ent) 0) = false

theorem condArrive_reads {n : Nat} (h : RecordDue p k sl x n) (ecc : Ecc) :
    p.condArrive k ecc =
      let r := p.condRead x n ecc
      r.2.setSlot k { sl with cond := sl.cond ++ [r.1] } := by
  simp only [Part.condArrive, h.slot, h.strm, h.runs, h.bound, h.next, h.up, h.released, h.powered, h.way, Nat.not_le.mpr h.room,
    Nat.not_le.mpr h.queued, not_true_eq_false, Bool.not_true, Bool.false_eq_true, ne_eq, or_self, if_false]

/-- The initial vector for the reset of the slot's next step. -/
theorem initLoaded_loads (hs : p.slot k = some sl) (hx : p.strm sl.ctx sl.strm = some x) (hc : p.ctxRuns sl.ctx = true)
    (he : Ent.state x.ent = 1) (hi : sl.init = none) (hr : x.resets (sl.next x) = true) {st : RdStat} {ecc : Ecc} {hw : Cells}
    {v : List Nat × Bool} {t : RS}
    (ha : Answers (Part.initVec (Ent.initPtr x.ent) (Hdr.state (p.gang (k / 128)).hdr))
      ⟨sl.ctx, Ent.cab x.ent, some (.lathe, k / 16), earlyStrm sl.ctx sl.strm, 0x7FFF, 0⟩ ⟨p.hostSees hw, ecc, st⟩ v t) :
    p.initLoaded k st ecc hw =
      (t.p.mapSlot k fun sl => { sl with init := some v.1, initBad := v.2 }).forget (earlyStrm sl.ctx sl.strm) := by
  simp only [Part.initLoaded, hs, hx, hc, he, hi, hr, not_true_eq_false, Bool.not_true, Option.isSome_none, Bool.false_eq_true, ne_eq,
    or_self, if_false]
  rw [Answers.engage (ha.bind (Answers.onPart _ _ _))]

end

/-! ### The Punch (R87) -/

theorem punchStart_draws {p : Part} {g : Nat} (hc : p.ctxRuns (p.gang g).ctx = true)
    (hr : p.residentOn (p.gang g).ctx (p.gang g).cab = true) :
    p.punchStart g = (p.gangSlots g).foldl (Part.punchSlot g (p.gang g)) p := by
  simp only [Part.punchStart, hc, hr, Bool.not_true, Bool.or_self, Bool.false_eq_true, if_false]

/-- A slot whose step's logits stand holds what the Punch drew. -/
theorem slot_punchSlot {p : Part} {sl : Slot} {q : Pend} {y : Strm} (g k : Nat) (x : Gang) (hp : sl.pend = some q) (hd : q.drawn = false)
    (hy : p.strm sl.ctx sl.strm = some y) :
    (Part.punchSlot g x p (k, sl)).slot k =
      let o := Punch.slot x.hdr q.ent sl.strm q.step (Part.stepSeed y q.step) q.logits
      some { sl with pend := some { q with drawn := true, outs := o.1, f := o.2 } } := by
  simp only [Part.punchSlot, hp, hd, hy, Option.map_some, Option.getD_some, Bool.false_eq_true, if_false, Part.slot, Part.bumpEng,
    Part.bumpGang, Part.bump_slots, Part.setSlot, Tab.find_put_same]

/-! ### The end of a step (R90, R92) -/

theorem step_stepEntry (e n : Nat) (late : Bool) (h : n + 1 < 2 ^ 64) : Ent.step (Part.stepEntry e n late) = n + 1 := by
  have stored : Ent.step (setBits e 64 64 (n + 1)) = n + 1 := by rw [Ent.step, bits_setBits_same, Nat.mod_eq_of_lt h]
  unfold Part.stepEntry Ent.step at *
  dsimp only
  split
  · rw [bits_setBits_other _ _ _ _ _ _ (by omega), bits_setBits_other _ _ _ _ _ _ (by omega), stored]
  · exact stored

/-- LATE_STEP once a step has completed. -/
theorem lateBit_stepEntry (e n : Nat) (late : Bool) : bit (Part.stepEntry e n late) 5 = (bit e 5 || late) := by
  unfold Part.stepEntry bit
  dsimp only
  cases late
  · rw [if_neg Bool.false_ne_true, testBit_setBits, if_pos (by decide), Bool.or_false]
  · rw [if_pos rfl, testBit_setBits, if_pos (by decide), testBit_setBits, if_neg (by decide), if_pos (by decide), Bool.or_true]
    rfl

section
variable {p : Part} {k : Nat} {sl0 sl : Slot} {q : Pend} {x : Strm}

/-- A slot whose values the Punch has drawn, in a context that runs, with room for them in its row buffer. -/
structure Completable (p : Part) (k : Nat) (sl : Slot) (q : Pend) (x : Strm) : Prop where
  slot : p.slot k = some sl
  pend : sl.pend = some q
  strm : p.strm sl.ctx sl.strm = some x
  drawn : q.drawn = true
  runs : p.ctxRuns sl.ctx = true
  resident : p.residentOn sl.ctx (Ent.cab x.ent) = true
  room : sl.out.length + Hdr.bands (p.gang (k / 128)).hdr ≤ 256

/-- The step's end is the slot's own; where it is not armed for the step after, operations that waited for the boundary take effect. -/
theorem stepComplete_ends (h0 : p.slot k = some sl0) (hc : p.ctxRuns sl0.ctx = true) (h : Completable (p.flush k) k sl q x) :
    p.stepComplete k =
      let u := (p.flush k).stepEnds k sl q x
      if sl.armed = true then u
      else (u.strm sl.ctx sl.strm).elim u fun y => Part.runOps sl.ctx sl.strm ((p.flush k).stepLate q) (y.ops.length + 1) u := by
  simp only [Part.stepComplete, h0, hc, h.slot, h.pend, h.strm, h.drawn, h.runs, h.resident, Nat.not_lt.mpr h.room, decide_false,
    Bool.not_true, Bool.or_self, Bool.false_eq_true, if_false, if_true]
  cases ((p.flush k).stepEnds k sl q x).strm sl.ctx sl.strm <;> rfl

end

/-- Settles O52: each command comes down to the lemma on it above. That the Lathes take a row once LEAD rows stand behind it, and that a row's
poison takes effect when they reach it, is the model's choice (log entry 39), as is that poisoned records and initial vectors mark the Gang's
status as poisoned rows do (log entry 47). -/
theorem gangsStepTogether : Obligations.GangsStepTogether := by
  intro s g k
  refine ⟨fun hc hr => ⟨fun hl hi hops hrun => ?_, fun kind row hn hs hu hf hd hw hg hb => ⟨fun hlt => ?_, fun heq hfree => ?_⟩, ?_,
      fun p sl q y hp hd hy => slot_punchSlot g k _ hp hd hy⟩,
    fun p x l r rest hx hf hl => ?_,
    fun sl x hw hs hx hc he => ⟨fun st ecc h16 hq hu hrel hgate hfab => ?_, fun st ecc v t hi hr ha => ?_⟩,
    fun sl0 h0 hc sl q x hs hp hx hd hcs hr hroom => ⟨?_, step_stepEntry _ _ _, lateBit_stepEntry _ _ _⟩⟩
  · have start : Startable s.part g := ⟨hl, hi, hc, hr, hops, hrun⟩
    refine ⟨fun hk q ha => ⟨?_, stepBegins_gang _ _⟩, fun hk q detail ha => ?_, fun hk => ?_⟩
    · have armed : (readied s.part g).armAll (runSlots s.part g) = (none, q) := ha
      rw [exec_gangStepStart, gangStepStart_clocked start hk, armed]
      rfl
    · have armed : (readied s.part g).armAll (runSlots s.part g) = (some detail, q) := ha
      rw [exec_gangStepStart, gangStepStart_clocked start hk, armed]
      rfl
    · rw [exec_gangStepStart, gangStepStart_unclocked start hk]
      rfl
  · rw [exec_feedRowArrive, feedRow_joins ⟨hn, hs, hc, hr, hu, hf, hd, hw, hg, hb, Nat.le_of_lt hlt⟩ hlt]
    rfl
  · rw [exec_feedRowArrive, feedRow_takes ⟨hn, hs, hc, hr, hu, hf, hd, hw, hg, hb, Nat.le_of_eq heq⟩ heq hfree]
    rfl
  · rw [exec_punchStart, punchStart_draws hc hr]
  · subst hx
    refine ⟨feedTake_poisoned hf hl, fun hp => ?_⟩
    rw [feedTake_sound hf hl hp]
    refine ⟨fun h => if_pos h, fun h => ?_, fun h => ?_, fun h => ?_⟩ <;> (simp only [h]; rfl)
  · have due : RecordDue (s.part.hostSees hw) k sl x (sl.next x + sl.cond.length) := ⟨hs, hx, hc, he, h16, rfl, hq, hu, hrel, hgate, hfab⟩
    rw [exec_condRecordArrive, condArrive_reads due]
  · rw [exec_initVectorLoaded, initLoaded_loads hs hx hc he hi hr ha]
  · rw [exec_stepComplete, stepComplete_ends h0 hc ⟨hs, hp, hx, hd, hcs, hr, hroom⟩]
    dsimp only
    cases ((s.part.flush k).stepEnds k sl q x).strm sl.ctx sl.strm <;> rfl

end Sys2Proof.Safety
end

section
/-!
What leaves the live streams as they are (05 R98, R101): counters, entries of completion rings, the end of a record or a job, accesses to
control structures. A write-back changes no more of a stream than what it last wrote.
-/

namespace Sys2Proof.Machine.Part
open Sys2Proof

section
variable (p : Part)

/-! ### Counters, messages and completion rings -/

@[simp] theorem bumpFn_strms (fn ev : Nat) : (p.bumpFn fn ev).strms = p.strms := by
  simp only [bumpFn, apply_ite Part.strms, bump_strms, ite_self]

@[simp] theorem bumpHif_strms (c ev n : Nat) : (p.bumpHif c ev n).strms = p.strms := by rw [bumpHif, bump_strms, bump_strms]

@[simp] theorem bumpJig_strms (die c ev n : Nat) : (p.bumpJig die c ev n).strms = p.strms := by rw [bumpJig, bump_strms, bump_strms]

@[simp] theorem request_strms (fn : Nat) : (p.request fn).strms = p.strms := by
  simp only [request, apply_ite Part.strms, bumpFn_strms, ite_self]

@[simp] theorem signal_strms (fn v : Nat) : (p.signal fn v).strms = p.strms := by
  simp only [signal, sendMsi, apply_ite Part.strms, setVec_strms, bumpFn_strms, ite_self]

@[simp] theorem hostPost_strms (fn a : Nat) (bs : List Byte) : (p.hostPost fn a bs).strms = p.strms := by
  simp only [hostPost, apply_ite Part.strms, onMem_strms, bumpFn_strms, ite_self]

@[simp] theorem cqModerate_strms (q : Nat) : (p.cqModerate q).strms = p.strms := by
  simp only [cqModerate, cqSignal, apply_ite Part.strms, signal_strms, bumpHif_strms, setCq_strms, ite_self]

@[simp] theorem cqPost_strms (q : Nat) (e : CqEntry) : (p.cqPost q e).strms = p.strms := by
  simp only [cqPost, cqModerate_strms, bumpHif_strms, setCq_strms, hostPost_strms]

@[simp] theorem readReturn_strms (q : Nat) : (p.readReturn q).strms = p.strms := by
  simp only [readReturn, apply_ite Part.strms, setCq_strms, request_strms, ite_self]

@[simp] theorem post_strms (q : Nat) (e : CqEntry) : (p.post q e).strms = p.strms := by
  simp only [post, apply_ite Part.strms, cqPost_strms, readReturn_strms, bumpHif_strms, setCq_strms, ite_self]

/-! ### Jobs and records -/

@[simp] theorem endJob_strms (j status : Nat) : (p.endJob j status).strms = p.strms := by
  unfold endJob
  cases p.job j with
  | none => rfl
  | some x =>
    simp only [bumpJig_strms, bump_strms, setRf_strms, post_strms, apply_ite Part.strms, free_strms, ite_self]

@[simp] theorem completeRec_strms (j r status : Nat) (zero late : Bool) (result : Nat) :
    (p.completeRec j r status zero late result).strms = p.strms := by
  unfold completeRec
  split
  · simp only [apply_ite Part.strms, endJob_strms, post_strms, setCtx_strms, bumpJig_strms, setRec_strms, ite_self]
  · rfl

@[simp] theorem opDone_strms (n : Nat) (o : StrOp) : (p.opDone n o).strms = p.strms := completeRec_strms ..

@[simp] theorem issueRec_strms (j r home die c : Nat) (y : Rec) : (p.issueRec j r home die c y).strms = p.strms := by
  simp only [issueRec, apply_ite Part.strms, bumpJig_strms, setRec_strms, ite_self]

@[simp] theorem issueRec_regs (j r home die c : Nat) (y : Rec) : (p.issueRec j r home die c y).regs = p.regs := by
  simp only [issueRec, bumpJig, apply_ite Part.regs, bump_regs, setRec_regs, ite_self]

/-! ### Control structures -/

@[simp] theorem translate_strms (c a : Nat) (write : Bool) : (p.translate c a write).2.strms = p.strms := by
  unfold translate
  dsimp only
  repeat' split
  all_goals simp only [setCtx_strms, free_strms]

@[simp] theorem ctlBad_strms (c a : Nat) : (p.ctlBad c a).strms = p.strms := rfl

@[simp] theorem ctlWrite_strms (c a : Nat) (bs : List Byte) : (p.ctlWrite c a bs).strms = p.strms := by
  unfold ctlWrite
  dsimp only
  repeat' split
  all_goals simp [hbmPut]

@[simp] theorem ctlRead_strms (c a n : Nat) : (p.ctlRead c a n).2.strms = p.strms := by
  unfold ctlRead
  dsimp only
  repeat' split
  all_goals simp

/-! ### Streams -/

variable {p} {c n : Nat} {x : Strm}

theorem strm_eq_of_strms {q : Part} (h : q.strms = p.strms) (c n : Nat) : q.strm c n = p.strm c n := by rw [strm, h, strm]

@[simp] theorem strm_setStrm (p : Part) (c n : Nat) (x : Strm) : (p.setStrm c n x).strm c n = some x := Tab.find_put_same _ _ _

/-- A write-back changes no more of its stream than what it last wrote. -/
theorem strm_strmBack (h : p.strm c n = some x) : ∃ m, (p.strmBack c n).strm c n = some { x with wrote := m } := by
  unfold strmBack
  rw [h]
  dsimp only
  split
  · exact ⟨x.wrote, (strm_eq_of_strms (ctlRead_strms _ _ _ _) c n).trans h⟩
  · exact ⟨_, (strm_eq_of_strms (ctlWrite_strms _ _ _ _) c n).trans (strm_setStrm _ _ _ _)⟩

end

end Sys2Proof.Machine.Part
end

section
/-!
Models and stream operations (05 R98, R99, R105, R111, 10 R234, R241, R244): the task of an operation issues, and the operation is refused,
starts its stream or joins those that wait on it; a loaded model takes its Gang.
-/

namespace Sys2Proof.Safety
open Sys2Proof Sys2Proof.Machine

/-! ### Work that answers -/

theorem Answers.ite_neg {α : Type} {c : Prop} [Decidable c] {m m' : Rd α} {w : Who} {s u : RS} {a : α} (hc : ¬c)
    (h : Answers m' w s a u) : Answers (if c then m else m') w s a u := by rwa [if_neg hc]

/-- Work that is done only under a condition, before other work. -/
theorem Answers.ite_bind {α : Type} {c : Prop} [Decidable c] {m : Rd Unit} {k : Unit → Rd α} {w : Who} {s s' u : RS} {a : α}
    (hm : Answers (if c then m else Pure.pure ()) w s () s') (hk : Answers (k ()) w s' a u) :
    Answers (if c then m >>= k else k ()) w s a u := by
  by_cases h : c
  · rw [if_pos h] at hm ⊢
    exact hm.bind hk
  · rw [if_neg h] at hm ⊢
    cases hm
    exact hk

theorem Answers.discard {α : Type} {m : Rd α} {w : Who} {s t : RS} {a : α} (h : Answers m w s a t) : Answers (discard m) w s () t :=
  h.bind (Answers.pure () w t)

theorem opIs_named {code last named : Nat} (h : named = code) (w : Who) (s : RS) : Answers (Rd.opIs code last named) w s () s := by
  rw [Rd.opIs, if_pos h]; rfl

/-! ### The commands -/

/-- The commands of record (j, r) that read a stream operation's descriptor, each with its OP (Table 5-3). -/
def opCommands (j r : Nat) (st : RdStat) (hw : Cells) : List (Instr × Nat) :=
  [(.start j r st hw, 0), (.chunk j r st hw, 1), (.set j r st hw, 2), (.pause j r st hw, 3), (.resume j r st hw, 4), (.reset j r st hw, 5),
    (.swapOut j r st hw, 6), (.swapIn j r st hw, 7), (.endOp j r st hw, 8)]

theorem exec_opCommand {s : State} {j r : Nat} {st : RdStat} {hw : Cells} {i : Instr} {code : Nat}
    (h : (i, code) ∈ opCommands j r st hw) : exec i s = settlesTo s (s.part.streamOp code j r st hw) := by
  simp only [opCommands, List.mem_cons, Prod.mk.injEq, List.not_mem_nil, or_false] at h
  rcases h with ⟨rfl, rfl⟩ | ⟨rfl, rfl⟩ | ⟨rfl, rfl⟩ | ⟨rfl, rfl⟩ | ⟨rfl, rfl⟩ | ⟨rfl, rfl⟩ | ⟨rfl, rfl⟩ | ⟨rfl, rfl⟩ | ⟨rfl, rfl⟩ <;> rfl

theorem exec_modelLoad (s : State) (j r : Nat) (st : RdStat) (hw : Cells) :
    exec (.modelLoad j r st hw) s = settlesTo s (s.part.modelLoad j r st hw) := rfl

/-! ### The task of an operation (R105, R234) -/

/-- The home Jig at work for record (j, r) of job `x`. -/
def recWho (x : Job) (j r : Nat) : Who := ⟨x.ctx, x.cab, none, earlyKey (recKey j r), r, x.ring⟩

/-- The part once the task of operation `o` on stream `n` has issued, its RESULT that of a refusal until the operation takes effect. -/
def opIssued (p : Part) (x : Job) (y : Rec) (n : Nat) (o : StrOp) : Part :=
  p.issueRec o.job o.rix (p.homeDie x.cab) (p.strmDie x.ctx n x.cab) x.ctx { y with result := Part.refusedResult n o }

/-- The part once the issued operation has been refused, has started its stream or has joined those that wait on it. -/
def opTaken (p : Part) (x : Job) (y : Rec) (n : Nat) (o : StrOp) : Part :=
  let q := opIssued p x y n o
  if q.strmCount x.ctx ≤ n then q.refuseOp x.ctx n o 0x0051
  else match q.strm x.ctx n with
    | some z => (q.setStrm x.ctx n { z with ops := z.ops ++ [o] }).ops x.ctx n
    | none => if o.op = 0 then q.startOp x.ctx n o [] else q.refuseOp x.ctx n o 0x0053

section
variable {p : Part} {x : Job} {y : Rec} {n : Nat} {o : StrOp}

@[simp] theorem strm_opIssued (c m : Nat) : (opIssued p x y n o).strm c m = p.strm c m :=
  Part.strm_eq_of_strms (Part.issueRec_strms ..) c m

@[simp] theorem strmCount_opIssued (c : Nat) : (opIssued p x y n o).strmCount c = p.strmCount c := by
  simp only [Part.strmCount, Part.rf, Part.rv, Part.reg, opIssued, Part.issueRec_regs]

theorem opTaken_beyond (h : p.strmCount x.ctx ≤ n) : opTaken p x y n o = (opIssued p x y n o).refuseOp x.ctx n o 0x0051 := by
  simp only [opTaken, strmCount_opIssued, h, if_true]

theorem opTaken_absent (h : n < p.strmCount x.ctx) (hn : p.strm x.ctx n = none) :
    opTaken p x y n o =
      if o.op = 0 then (opIssued p x y n o).startOp x.ctx n o [] else (opIssued p x y n o).refuseOp x.ctx n o 0x0053 := by
  simp only [opTaken, strmCount_opIssued, strm_opIssued, Nat.not_le.mpr h, hn, if_false]

theorem opTaken_live {z : Strm} (h : n < p.strmCount x.ctx) (hz : p.strm x.ctx n = some z) :
    opTaken p x y n o = ((opIssued p x y n o).setStrm x.ctx n { z with ops := z.ops ++ [o] }).ops x.ctx n := by
  simp only [opTaken, strmCount_opIssued, strm_opIssued, Nat.not_le.mpr h, hz, if_false]

end

/-- The seed entry of a CHUNK on a live stream, read when its task issues (log entry 45). -/
def seedAt (z? : Option Strm) (code : Nat) : Rd (Nat × Bool) :=
  match z? with
  | some z => if code = 1 then Rd.seed (Ent.seedIdx z.ent) else pure (0, false)
  | none => pure (0, false)

/-- The stream's entry, where the table has one of its number (R98, R101). -/
def entryIn (p : Part) (c n : Nat) : Rd Unit := if n < p.strmCount c then discard (Part.strmEntry c n) else pure ()

/-- A CHUNK waits unread while its stream holds four (R111). -/
def chunksFull (z? : Option Strm) (code : Nat) : Bool :=
  match z? with
  | some z => code == 1 && decide (4 ≤ z.chunks.length + (z.ops.filter fun o => o.op == 1).length)
  | none => false

section
variable {p : Part} {j r : Nat} {st : RdStat} {hw : Cells} {x : Job} {y : Rec} {d code n : Nat} {t t1 t2 : RS} {sd : Nat × Bool}

theorem chunksFull_some {z : Strm} (h : code = 1 → z.chunks.length + (z.ops.filter fun o => o.op == 1).length < 4) :
    chunksFull (some z) code = false := by
  by_cases h1 : code = 1
  · simp [chunksFull, h h1]
  · simp [chunksFull, h1]

/-- A record of a stream operation that the Jig may issue now. -/
structure OpDue (p : Part) (code j r : Nat) (x : Job) (y : Rec) (d : Nat) : Prop where
  live : p.liveRec j r = some (x, y)
  pending : y.st = .pending
  ready : p.recReady j x r y = true
  kind : kindOf y.img = 8
  sound : Part.opDescOk d = true
  op : bits d 0 4 = code

/-- An operation whose descriptor, entry and seed are read is taken. -/
theorem streamOp_takes (h : OpDue p code j r x y d)
    (hd : Answers (Rd.controlNat (bits y.img 128 64) 64) (recWho x j r) ⟨p.hostSees hw, .clean, st⟩ d t)
    (hn : bits d 16 18 = n) (hf : chunksFull (t.p.strm x.ctx n) code = false)
    (he : Answers (entryIn t.p x.ctx n) (recWho x j r) t () t1)
    (hs : Answers (seedAt (t.p.strm x.ctx n) code) (recWho x j r) t1 sd t2) :
    p.streamOp code j r st hw =
      ((opTaken t2.p x y n ⟨code, j, r, d, sd⟩).opsAll x.ctx).forget (earlyKey (recKey j r)) := by
  subst hn
  have due : ¬(kindOf y.img ≠ 8 ∨ y.st ≠ .pending ∨ !p.recReady j x r y) := by simp [h.kind, h.pending, h.ready]
  unfold Part.streamOp
  rw [h.live]
  refine (if_neg due).trans
    (Answers.engage (t := { t2 with p := (opTaken t2.p x y (bits d 16 18) ⟨code, j, r, d, sd⟩).opsAll x.ctx }) (hd.bind ?_))
  refine (opIs_named h.op _ _).bind ((Answers.need h.sound _ _).bind ((Answers.part _ _).bind
    (Answers.ite_neg (Bool.eq_false_iff.mp hf) (Answers.ite_bind he ?_))))
  revert hs
  unfold seedAt
  cases t.p.strm x.ctx (bits d 16 18) with
  | none => exact fun hs => hs.bind (Answers.onPart _ _ _)
  | some z =>
    dsimp only
    split
    · exact fun hs => hs.bind (Answers.onPart _ _ _)
    · exact fun hs => hs.bind (Answers.onPart _ _ _)

end

section
variable {p : Part} {c n : Nat} {w : Who} {s t : RS}

theorem entryIn_beyond (h : p.strmCount c ≤ n) (w : Who) (s : RS) : Answers (entryIn p c n) w s () s :=
  Answers.ite_neg (Nat.not_lt.mpr h) (Answers.pure () w s)

theorem entryIn_read {e : Nat} (h : n < p.strmCount c) (he : Answers (Part.strmEntry c n) w s e t) : Answers (entryIn p c n) w s () t := by
  rw [entryIn, if_pos h]
  exact Answers.discard he

end

/-! ### PAUSE, RESUME and RESET take effect (R111, Table 5-3) -/

/-- The operations that set a flag of their stream: OP, the flag's bit and its value. -/
def flagOps : List (Nat × Nat × Nat) := [(3, 3, 1), (4, 3, 0), (5, 4, 1)]

section
variable {p : Part} {c n code bit v : Nat} {x z : Strm} {o : StrOp}

theorem doOp_flag (hf : (code, bit, v) ∈ flagOps) (ho : o.op = code) (hr : p.strmRegionsOk c x.ent = true) (late : Bool) :
    p.doOp c n x o late = ((p.setStrm c n (x.put bit 1 v)).strmBack c n).opDone n o := by
  simp only [flagOps, List.mem_cons, Prod.mk.injEq, List.not_mem_nil, or_false] at hf
  rcases hf with ⟨rfl, rfl, rfl⟩ | ⟨rfl, rfl, rfl⟩ | ⟨rfl, rfl, rfl⟩ <;> simp [Part.doOp, ho, hr, b2n]

theorem runOps_none_waits (hx : p.strm c n = some x) (he : x.ops = []) (late : Bool) (fuel : Nat) : Part.runOps c n late fuel p = p := by
  cases fuel with
  | zero => rfl
  | succ fuel => simp only [Part.runOps, hx, he]

/-- The operation at the head takes effect, where it may; an END stands among the waiting ones until the stream ends. -/
theorem runOps_head {rest : List StrOp} (hx : p.strm c n = some x) (he : x.ops = o :: rest) (hq : p.opReady c n x o = true) (hne : o.op ≠ 8)
    (late : Bool) (fuel : Nat) : Part.runOps c n late (fuel + 1) p =
      Part.runOps c n late fuel ((p.setStrm c n { x with ops := rest }).doOp c n { x with ops := rest } o late) := by
  simp only [Part.runOps, hx, he, hq, hne, if_true, if_false]

/-- The only waiting operation sets its flag, where it may take effect. -/
theorem ops_flag (hf : (code, bit, v) ∈ flagOps) (ho : o.op = code) (hp : p.strm c n = some { z with ops := [o] }) (hz : z.ops = [])
    (hq : p.opReady c n z o = true) (hr : p.strmRegionsOk c z.ent = true) :
    ∃ m, (p.ops c n).strm c n = some { z.put bit 1 v with wrote := m } := by
  have hne : o.op ≠ 8 := by
    intro h8
    simp [flagOps, ← ho, h8] at hf
  have alone : { z with ops := [] } = z := by rw [← hz]
  obtain ⟨m, hm⟩ := Part.strm_strmBack (Part.strm_setStrm (p.setStrm c n z) c n (z.put bit 1 v))
  have done := (Part.strm_eq_of_strms (Part.opDone_strms _ n o) c n).trans hm
  have runs : p.ops c n = Part.runOps c n false 2 p := by simp only [Part.ops, hp, List.length_singleton]
  have flagged := doOp_flag (p := p.setStrm c n z) (n := n) hf ho hr false
  refine ⟨m, ?_⟩
  rw [runs, runOps_head hp rfl hq hne]
  dsimp only
  rw [alone, flagged, runOps_none_waits done hz]
  exact done

/-- The same of an operation that has just joined a stream on which nothing waited. -/
theorem ops_joined_flag (hf : (code, bit, v) ∈ flagOps) (ho : o.op = code) (hz : z.ops = []) (hq : p.opReady c n z o = true)
    (hr : p.strmRegionsOk c z.ent = true) :
    ∃ m, ((p.setStrm c n { z with ops := z.ops ++ [o] }).ops c n).strm c n = some { z.put bit 1 v with wrote := m } := by
  rw [hz]
  exact ops_flag hf ho (Part.strm_setStrm p c n { z with ops := [o] }) hz hq hr

end

/-! ### A loaded model (R241) -/

/-- A MODEL_LOAD descriptor whose reserved bits are clear, for a Gang of Cabinet `b` (R241). -/
structure LoadSound (p : Part) (b d : Nat) : Prop where
  reservedRow : bits d 82 6 = 0
  reservedGang : bits d 93 3 = 0
  reservedRest : bits d 112 400 = 0
  aligned : bits d 0 64 % 64 = 0
  granted : (p.cabGangs b).contains (bits d 88 5) = true

/-- The part once the task of a MODEL_LOAD has issued and model `m` has taken its Gang. -/
def modelTaken (p : Part) (j r : Nat) (x : Job) (y : Rec) (d : Nat) (m : Nat × List Layer × Sched) : Part :=
  let g := bits d 88 5
  let h := bits d 96 16
  let p := (p.issueRec j r (p.homeDie x.cab) (g / 4) x.ctx y).takeModel g x.ctx x.cab h (bits d 0 64) (bits d 64 18) m
  ((p.completeRec j r 0 false false (m.2.2.cur + m.2.2.bub * 2 ^ 24 + h * 2 ^ 48)).fillCab x.cab).opsAll x.ctx

theorem modelLoad_loads {p : Part} {j r : Nat} {st : RdStat} {hw : Cells} {x : Job} {y : Rec} {d : Nat} {t z : RS}
    {m : Nat × List Layer × Sched} (hl : p.liveRec j r = some (x, y)) (hy : y.st = .pending) (hr : p.recReady j x r y = true)
    (hk : kindOf y.img = 7)
    (hd : Answers (Rd.controlNat (bits y.img 128 64) 64) (recWho x j r) ⟨p.hostSees hw, .clean, st⟩ d t)
    (hs : LoadSound t.p x.cab d) (hg : t.p.gangSlots (bits d 88 5) = [])
    (hm : Answers (Rd.asGang (bits d 88 5) (Rd.image (bits d 0 64) (bits d 64 18) (bits d 88 5) x.cab)) (recWho x j r) t m z) :
    p.modelLoad j r st hw = (modelTaken z.p j r x y d m).forget (earlyKey (recKey j r)) := by
  have due : ¬(kindOf y.img ≠ 7 ∨ y.st ≠ .pending ∨ !p.recReady j x r y) := by simp [hk, hy, hr]
  unfold Part.modelLoad
  rw [hl]
  refine (if_neg due).trans (Answers.engage (t := { z with p := modelTaken z.p j r x y d m }) (hd.bind ?_))
  refine (Answers.part _ _).bind ((Answers.need ?_ _ _).bind (Answers.ite_neg ?_ (hm.bind (Answers.onPart _ _ _))))
  · simp only [hs.reservedRow, hs.reservedGang, hs.reservedRest, hs.aligned, hs.granted, beq_self_eq_true, Bool.and_self]
  · simp [hg]

/-- Settles O50: each command of an operation takes it, each case by what the stream table holds; PAUSE, RESUME and RESET set their flag at
once where nothing waits before them. That the entry and a CHUNK's seed entry are read at issue, and that operations take effect first in,
first out, is the model's choice (log entry 45). -/
theorem streamOperationsAreTaken : Obligations.StreamOperationsAreTaken := by
  intro s j r st hw x y hl hy hr d t c key w hd
  constructor
  · intro hk hsound n i code hi hop issued
    have due : OpDue s.part code j r x y d := ⟨hl, hy, hr, hk, hsound, hop⟩
    have unread : ∀ u : RS, t.p.strm c n = none →
        chunksFull (t.p.strm c n) code = false ∧ Answers (seedAt (t.p.strm c n) code) w u (0, false) u :=
      fun u hn => by rw [hn]; exact ⟨rfl, Answers.pure _ w u⟩
    refine ⟨?_, ?_, ?_⟩
    · intro hb hn
      obtain ⟨hf, hs⟩ := unread t hn
      rw [exec_opCommand hi, streamOp_takes due hd rfl hf (entryIn_beyond hb w t) hs, opTaken_beyond hb]
      rfl
    · intro e t1 hb he hb1 hn hn1
      obtain ⟨hf, hs⟩ := unread t1 hn
      rw [exec_opCommand hi, streamOp_takes due hd rfl hf (entryIn_read hb he) hs, opTaken_absent hb1 hn1]
      rfl
    · intro e z sd t1 t2 hb he hz hfull hsd hb2 hz2
      have hf : chunksFull (t.p.strm c n) code = false := by rw [hz]; exact chunksFull_some hfull
      have hs : Answers (seedAt (t.p.strm c n) code) w t1 sd t2 := by rw [hz]; exact hsd
      refine ⟨?_, fun hz0 hq hreg b v hflag => ?_⟩
      · rw [exec_opCommand hi, streamOp_takes due hd rfl hf (entryIn_read hb he) hs, opTaken_live hb2 hz2]
        rfl
      · exact ops_joined_flag hflag rfl hz0 hq hreg
  · intro g hk h82 h93 h112 hal hgr hslots m z hm
    rw [exec_modelLoad, modelLoad_loads hl hy hr hk hd ⟨h82, h93, h112, hal, hgr⟩ hslots hm]
    rfl

end Sys2Proof.Safety
end

section
/-!
Streams between table and slot (05 R104, R107, R108, R110, R113): saves, restores, exchanges and the end of a chunk.
-/

namespace Sys2Proof.Safety
open Sys2Proof Sys2Proof.Machine

/-! ### The commands -/

theorem exec_streamSaveDone (s : State) (c n : Nat) : exec (.streamSaveDone c n) s = settlesTo s (s.part.streamSaveDone c n) := rfl

theorem exec_streamRestoreDone (s : State) (c n : Nat) (st : RdStat) (hw : Cells) :
    exec (.streamRestoreDone c n st hw) s = settlesTo s (s.part.streamRestoreDone c n st hw) := rfl

theorem exec_streamExchange (s : State) (g : Nat) : exec (.streamExchange g) s = becomes s (s.part.streamExchange g) := rfl

theorem exec_chunkComplete (s : State) (c n : Nat) : exec (.chunkComplete c n) s = settlesTo s (s.part.chunkComplete c n) := rfl

/-! ### Saves and restores (R107, R108) -/

section
variable {p : Part} {c n k : Nat} {x z : Strm}

theorem streamSaveDone_saves (hc : p.ctxRuns c = true) (hx : p.strm c n = some x) (hk : p.slotOf c n = some k) (he : Ent.state x.ent = 2) :
    p.streamSaveDone c n = (((p.saveStrm c n k).ops c n).slotFreed c (Ent.cab x.ent)).opsAll c := by
  simp only [Part.streamSaveDone, hx, hk, he, hc, not_true_eq_false, Bool.not_true, Bool.false_eq_true, ne_eq, or_self, if_false]

theorem streamRestoreDone_restores (hc : p.ctxRuns c = true) (hx : p.strm c n = some x) (hk : p.slotOf c n = some k)
    (he : Ent.state x.ent = 5) (st : RdStat) (hw : Cells) : p.streamRestoreDone c n st hw = p.restoreStrm c n k st hw := by
  simp only [Part.streamRestoreDone, hx, hk, he, hc, not_true_eq_false, Bool.not_true, Bool.false_eq_true, ne_eq, or_self, if_false]

/-- What waits on a stream says whether a SWAP_OUT waits first. -/
theorem swapWaits_of_ops (h : z.ops = x.ops) : Part.swapWaits z = Part.swapWaits x := by
  unfold Part.swapWaits
  rw [h]

/-- What follows once the slot holds what was read of stream `z`: where its hold is not resident, or a SWAP_OUT that may take effect waited, it is
SWAPPING at once; else it is RESIDENT and what waited on it takes effect. -/
def restored (q : Part) (c n : Nat) (z : Strm) : Part :=
  if !q.residentOn c (Ent.cab z.ent) then q.strmState c n 2
  else if Part.swapWaits z && q.strmRegionsOk c z.ent then
    (q.strmState c n 2).mapStrm c n fun x => { x with cur := x.cur ++ x.ops.take 1, ops := x.ops.drop 1 }
  else (((q.strmState c n 1).curDone c n).ops c n).opsAll c

/-- The live stream once a restore at `time` has read its entry and its record (R101, R108). -/
def rereadStrm (x : Strm) (e : Nat × Nat) (k time : Nat) : Strm :=
  { x with ent := setBits e.1 32 20 k, wrote := e.2, armedAt := time }

/-- What a restore has read stands in slot `k` and in the live stream `z`. -/
def refilled (q : Part) (c n k : Nat) (z : Strm) (v : Slot × Nat × Bool) : Part :=
  ((q.setSlot k { v.1 with initBad := v.2.2 }).setStrm c n z).bumpStream (k / 512) c 2 1

theorem restored_away {q : Part} (h : q.residentOn c (Ent.cab z.ent) = false) : restored q c n z = q.strmState c n 2 := by
  rw [restored, h]; rfl

theorem restored_swapsOut {q : Part} (h : q.residentOn c (Ent.cab z.ent) = true) (hs : Part.swapWaits z = true)
    (hr : q.strmRegionsOk c z.ent = true) : restored q c n z =
      (q.strmState c n 2).mapStrm c n fun x => { x with cur := x.cur ++ x.ops.take 1, ops := x.ops.drop 1 } := by
  rw [restored, h, hs, hr]; rfl

theorem restored_stays {q : Part} (h : q.residentOn c (Ent.cab z.ent) = true) (hs : Part.swapWaits z = false) :
    restored q c n z = (((q.strmState c n 1).curDone c n).ops c n).opsAll c := by
  rw [restored, h, hs]; rfl

/-- A restore whose reads answer fills the slot (R101, R108). -/
theorem restoreStrm_fills {st : RdStat} {hw : Cells} {sl : Slot} {e : Nat × Nat} {v : Slot × Nat × Bool} {t1 t2 : RS}
    (hx : p.strm c n = some x) (hs : p.slot k = some sl)
    (he : Answers (Part.rereadEnt c n x.ent) ⟨c, Ent.cab x.ent, some (.lathe, k / 16), earlyStrm c n, 0x7FFF, 0⟩
      ⟨p.hostSees hw, .clean, st⟩ e t1)
    (hv : Answers (Part.restoreRead e.1 (Hdr.state (p.gang (k / 128)).hdr) (Ent.resetNext e.1 || x.marked (Ent.step e.1)) sl)
      ⟨c, Ent.cab x.ent, some (.lathe, k / 16), earlyStrm c n, 0x7FFF, 0⟩ t1 v t2) :
    p.restoreStrm c n k st hw =
      let z := rereadStrm x e v.2.1 t2.p.time
      (restored (refilled t2.p c n k z v) c n z).forget (earlyStrm c n) := by
  unfold Part.restoreStrm
  rw [hx, hs]
  let z := rereadStrm x e v.2.1 t2.p.time
  exact Answers.engage (t := { t2 with p := restored (refilled t2.p c n k z v) c n z }) (he.bind (hv.bind (Answers.onPart _ _ _)))

end

/-! ### Exchanges (R110) -/

/-- R110 prefers stream `z` to `y`: a lower rank, or the same and idle for longer. -/
def Idler (z y : Strm) : Prop :=
  Part.exchangeRank z < Part.exchangeRank y ∨ (Part.exchangeRank z = Part.exchangeRank y ∧ z.armedAt < y.armedAt)

theorem Idler.asymm {z y : Strm} (h : Idler z y) : ¬Idler y z := by
  unfold Idler at *
  omega

/-- The better of the best stream so far and `y`, as the search for an exchange keeps it. -/
def idlerOf (a : Option (Nat × Strm)) (y : Nat × Strm) : Option (Nat × Strm) :=
  match a with
  | none => some y
  | some z => if Part.exchangeRank y.2 < Part.exchangeRank z.2 ∨
      (Part.exchangeRank y.2 = Part.exchangeRank z.2 ∧ y.2.armedAt < z.2.armedAt) then some y else some z

theorem idlerOf_eq (a : Option (Nat × Strm)) (y : Nat × Strm) : idlerOf a y = a ∨ idlerOf a y = some y := by
  cases a with
  | none => exact .inr rfl
  | some z =>
    unfold idlerOf
    dsimp only
    split
    · exact .inr rfl
    · exact .inl rfl

section
variable {b : Nat × Strm} {a : Option (Nat × Strm)}

theorem idlerOf_takes_best (ha : ∀ z ∈ a, z = b ∨ Idler b.2 z.2) : idlerOf a b = some b := by
  cases a with
  | none => rfl
  | some z =>
    obtain rfl | h := ha z rfl
    · exact ite_self _
    · exact if_pos h

theorem idlerOf_keeps_best {y : Nat × Strm} (hy : y = b ∨ Idler b.2 y.2) : idlerOf (some b) y = some b := by
  obtain rfl | h := hy
  · exact ite_self _
  · exact if_neg h.asymm

/-- The search ends with the stream preferred to every other. -/
theorem foldl_idlerOf (l : List (Nat × Strm)) (hl : ∀ y ∈ l, y = b ∨ Idler b.2 y.2) (ha : ∀ z ∈ a, z = b ∨ Idler b.2 z.2)
    (hb : a = some b ∨ b ∈ l) : l.foldl idlerOf a = some b := by
  induction l generalizing a with
  | nil => exact hb.resolve_right List.not_mem_nil
  | cons y l ih =>
    obtain ⟨hy, hl⟩ := List.forall_mem_cons.mp hl
    refine ih hl (fun z hz => ?_) ?_
    · obtain h | h := idlerOf_eq a y
      · exact ha z (h ▸ hz)
      · cases h.symm.trans hz
        exact hy
    · obtain rfl | hb := hb
      · exact .inl (idlerOf_keeps_best hy)
      · obtain rfl | hb := List.mem_cons.mp hb
        · exact .inl (idlerOf_takes_best ha)
        · exact .inr hb

end

/-- The streams of Gang `g` that may leave their slots for another: resident, between steps and unarmed for IDLE_MS (R110). -/
def idleStreams (p : Part) (g : Nat) : List (Nat × Strm) :=
  let x := p.gang g
  let idle := 1000 * p.rf .streamCtl (p.phys (g / 4)) 0 0 16
  (p.gangSlots g).filterMap fun e => (p.strm x.ctx e.2.strm).bind fun z =>
    if Ent.state z.ent = 1 ∧ !e.2.armed ∧ e.2.pend.isNone ∧ z.armedAt + idle ≤ p.time then some (e.2.strm, z) else none

/-- A full Gang of a batch context for which a stream waits, exchanges being enabled. -/
structure Exchanges (p : Part) (g : Nat) : Prop where
  loaded : (p.gang g).loaded = true
  runs : p.ctxRuns (p.gang g).ctx = true
  resident : p.residentOn (p.gang g).ctx (p.gang g).cab = true
  batch : p.realTime (p.gang g).ctx = false
  enabled : p.rb .streamCtl (p.phys (g / 4)) 0 16 = true
  full : p.openSlot g = none
  wanted : p.chosen g ≠ none

theorem streamExchange_swaps {p : Part} {g n : Nat} {z : Strm} (h : Exchanges p g) (hz : (n, z) ∈ idleStreams p g)
    (hb : ∀ y ∈ idleStreams p g, y ≠ (n, z) → Idler z y.2) :
    p.streamExchange g = (p.bumpStream (g / 4) (p.gang g).ctx 3 1).strmState (p.gang g).ctx n 2 := by
  have best : (idleStreams p g).foldl idlerOf none = some (n, z) :=
    foldl_idlerOf _ (fun y hy => (Classical.em (y = (n, z))).imp_right (hb y hy)) nofun (.inr hz)
  have wanted : (p.chosen g).isNone = false := Option.isNone_eq_false_iff.mpr (Option.isSome_iff_ne_none.mpr h.wanted)
  simp only [Part.streamExchange, h.loaded, h.runs, h.resident, h.batch, h.enabled, h.full, wanted, Option.isSome_none, Bool.not_true,
    Bool.or_self, Bool.false_eq_true, if_false]
  change (match (idleStreams p g).foldl idlerOf none with | some y => _ | none => _) = _
  rw [best]

/-! ### The end of a chunk (R113) -/

/-- The part once the stream's slot, if it has one, has written its full rows. -/
def flushed (p : Part) (c n : Nat) : Part :=
  match p.slotOf c n with
  | some k => p.flush k
  | none => p

theorem chunkComplete_ends {p : Part} {c n : Nat} {x : Strm} {h : Chunk} {rest : List Chunk} {t : RS} (hc : p.ctxRuns c = true)
    (hx : (flushed p c n).strm c n = some x) (hh : x.chunks = h :: rest) (he : h.ended = true)
    (hl : ((flushed p c n).liveRec h.job h.rix).isSome = true)
    (ha : Answers (Part.assayStore h.stats) ⟨c, Ent.cab x.ent, ((flushed p c n).slotOf c n).map fun k => (Cls.lathe, k / 16),
      earlyKey (recKey h.job h.rix), h.rix, ((flushed p c n).job h.job).map Job.ring |>.getD 0⟩ ⟨flushed p c n, .clean, .ok⟩ () t) :
    p.chunkComplete c n =
      let q := (t.p.mapStrm c n fun x => { x with chunks := rest }).strmBack c n
      ((q.completeRec h.job h.rix 0 false (bit x.ent 5) (Part.chunkResult n h)).ops c n).forget (earlyKey (recKey h.job h.rix)) := by
  have due : ¬((!h.ended || ((flushed p c n).liveRec h.job h.rix).isNone) = true) := by
    rw [he, ← Option.not_isSome, hl]
    decide
  unfold Part.chunkComplete
  simp only [hc, if_true]
  -- the part in hand here is the flushed one
  change (match (flushed p c n).strm c n with | none => _ | some x => _) = _
  rw [hx]
  dsimp only
  rw [hh]
  let q := (t.p.mapStrm c n fun x => { x with chunks := rest }).strmBack c n
  let ended := (q.completeRec h.job h.rix 0 false (bit x.ent 5) (Part.chunkResult n h)).ops c n
  refine (if_neg due).trans (Answers.engage (t := { t with p := ended }) (ha.bind ?_))
  exact Answers.onPart _ _ _

/-- Settles O51: each command comes down to the lemma on it above. That a stream restored while its hold is not resident becomes SWAPPING is the
model's choice (log entry 46). -/
theorem streamsComeAndGo : Obligations.StreamsComeAndGo := by
  intro s c n hc
  refine ⟨fun x k hx hk => ⟨fun he => ?save, ?restore⟩, ?exchange, ?chunk⟩
  case save =>
    rw [exec_streamSaveDone, streamSaveDone_saves hc hx hk he]
  case restore =>
    intro he st hw sl e v t1 t2 hs key w hre hrr z q
    have fills : exec (.streamRestoreDone c n st hw) s = settlesTo s ((restored q c n z).forget key) := by
      rw [exec_streamRestoreDone, streamRestoreDone_restores hc hx hk he, restoreStrm_fills hx hs hre hrr]
      rfl
    have waits : Part.swapWaits z = Part.swapWaits x := swapWaits_of_ops rfl
    refine ⟨fun hr hf => ?_, fun hr hf hg => ?_, fun hr => ?_⟩
    · rw [fills, restored_stays hr (waits.trans hf)]
    · rw [fills, restored_swapsOut hr (waits.trans hf) hg]
    · rw [fills, restored_away hr]
  case exchange =>
    intro g y d idle l hload hctx hres hbatch hen hfull hwant z hz hb
    subst hctx
    rw [exec_streamExchange, streamExchange_swaps ⟨hload, hc, hres, hbatch, hen, hfull, hwant⟩ hz hb]
  case chunk =>
    intro x h rest t p key w hx hh he hl ha q
    rw [exec_chunkComplete]
    exact congrArg (settlesTo s) (chunkComplete_ends hc hx hh he hl ha)

end Sys2Proof.Safety
end

section
/-!
Sizes of a Planer's output (06 R122): what `PlanerPar.size` is as an integer, where the kernel, the stride and the input are nonzero, as they
are in every stored parameter block.
-/

namespace Sys2Proof.Machine.PlanerPar
open Sys2Proof

section
variable {q : PlanerPar}

/-- The clamp at 0 as R122 words it. -/
theorem max_zero_eq_ite (x : Int) : max 0 x = if 0 < x then x else 0 := by
  split <;> omega

/-- The sizes K and in enter R122 less 1; as naturals these do not truncate. -/
theorem sub_one_eq_natCast {n : Nat} (hn : 0 < n) : (n : Int) - 1 = (n - 1 : Nat) := by
  omega

/-- Of a convolution or a pooling: where the kernel does not fit into the padded input, the quotient of the rule is negative. -/
theorem size_plain (hop : q.op ≠ 1) {k s : Nat} (hk : 0 < k) (hs : 0 < s) (inp d lo hi extra : Nat) :
    (q.size inp k s d lo hi extra : Int) = max 0 (((inp : Int) + lo + hi - d * (k - 1) - 1).fdiv s + 1) := by
  have hs' : (0 : Int) < s := Int.natCast_pos.mpr hs
  rw [Int.fdiv_eq_ediv_of_nonneg _ (Int.le_of_lt hs'), sub_one_eq_natCast hk, ← Int.natCast_mul, size, if_neg hop]
  split
  next hshort =>
    have hneg : ((inp : Int) + lo + hi - (d * (k - 1) : Nat) - 1) / s < 0 := Int.ediv_neg_of_neg_of_pos (by omega) hs'
    omega
  next hfit =>
    have hroom : (inp : Int) + lo + hi - (d * (k - 1) : Nat) - 1 = (inp + lo + hi - d * (k - 1) - 1 : Nat) := by omega
    rw [hroom, ← Int.natCast_ediv, ← Int.natCast_succ, Int.max_eq_right (Int.natCast_nonneg _)]

/-- Of a transposed convolution. -/
theorem size_transposed (hop : q.op = 1) {inp k : Nat} (hin : 0 < inp) (hk : 0 < k) (s d lo hi extra : Nat) :
    (q.size inp k s d lo hi extra : Int) = max 0 (((inp : Int) - 1) * s + d * (k - 1) + 1 - lo - hi + extra) := by
  rw [sub_one_eq_natCast hin, sub_one_eq_natCast hk, ← Int.natCast_mul, ← Int.natCast_mul, size, if_pos hop]
  omega

/-- An axis of one element under a kernel, stride and dilation of 1 without padding keeps its size. -/
theorem size_one (q : PlanerPar) : q.size 1 1 1 1 0 0 0 = 1 := by
  unfold size; split <;> rfl

theorem oh_of_sized (h : q.op ≤ 3) : q.oh = q.size q.h q.kh q.sh q.dh q.padLoH q.padHiH q.extraH := by
  rw [oh, if_neg (by omega), if_neg (by omega)]

theorem ow_of_sized (h : q.op ≤ 3) : q.ow = q.size q.w q.kw q.sw q.dw q.padLoW q.padHiW q.extraW := by
  rw [ow, if_neg (by omega), if_neg (by omega)]

end

/-! ### A stored parameter block holds each of these fields less 1 (Table 10-10) -/

theorem h_pos_of (b : Nat) : 0 < (of b).h := Nat.succ_pos _
theorem w_pos_of (b : Nat) : 0 < (of b).w := Nat.succ_pos _
theorem kh_pos_of (b : Nat) : 0 < (of b).kh := Nat.succ_pos _
theorem kw_pos_of (b : Nat) : 0 < (of b).kw := Nat.succ_pos _
theorem sh_pos_of (b : Nat) : 0 < (of b).sh := Nat.succ_pos _
theorem sw_pos_of (b : Nat) : 0 < (of b).sw := Nat.succ_pos _

end Sys2Proof.Machine.PlanerPar

namespace Sys2Proof.Safety
open Sys2Proof Sys2Proof.Machine Sys2Proof.Machine.PlanerPar

/-- Settles O55: either axis has the size of its operation, by the lemma on it above; the size 1 of a 1-D task's other axis needs no case of the
operation beyond that it is no regrouping. -/
theorem planerOutputSizes : Obligations.PlanerOutputSizes := by
  intro b q plain transposed
  refine ⟨fun hop => ?plain, fun hop => ?transposed, fun hop hh hkh hsh hdh hlo hhi hex => ?oneD⟩
  case plain =>
    have hne : q.op ≠ 1 := by omega
    have hle : q.op ≤ 3 := by omega
    rw [oh_of_sized hle, ow_of_sized hle]
    exact ⟨(size_plain hne (kh_pos_of b) (sh_pos_of b) ..).trans (max_zero_eq_ite _),
      (size_plain hne (kw_pos_of b) (sw_pos_of b) ..).trans (max_zero_eq_ite _)⟩
  case transposed =>
    have hle : q.op ≤ 3 := by omega
    rw [oh_of_sized hle, ow_of_sized hle]
    exact ⟨(size_transposed hop (h_pos_of b) (kh_pos_of b) ..).trans (max_zero_eq_ite _),
      (size_transposed hop (w_pos_of b) (kw_pos_of b) ..).trans (max_zero_eq_ite _)⟩
  case oneD =>
    rw [oh_of_sized hop, hh, hkh, hsh, hdh, hlo, hhi, hex, size_one]

end Sys2Proof.Safety
end

section
/-!
Regions and arrival counters of a bench die (08 R193, R194, R198): what a whole write of a BENCH_REGION_CFG or a BENCH_ARRIVAL_CFG does.
-/

namespace Sys2Proof.Safety
open Sys2Proof Sys2Proof.Machine

theorem exec_regionCfgWrite (s : State) (port n i : Nat) (h : Half) (v : Reg) :
    exec (.regionCfgWrite port n i h v) s = settlesTo s (s.part.writeReg port (regOff .regionCfg n i) h v) := rfl

theorem exec_arrivalCfgWrite (s : State) (port n i : Nat) (h : Half) (v : Reg) :
    exec (.arrivalCfgWrite port n i h v) s = settlesTo s (s.part.writeReg port (regOff .arrivalCfg n i) h v) := rfl

section
variable {p : Part} {die i v : Nat}

theorem base_imageOf (p : Part) (die i v : Nat) : bits (imageOf p ⟨.regionCfg, die, i⟩ v) 0 18 = bits v 0 18 :=
  have hrw : bits (regRow .regionCfg).rw 0 18 = 2 ^ 18 - 1 := by decide
  bits_imageOf _ _ _ _ _ hrw

theorem rows_imageOf (p : Part) (die i v : Nat) : bits (imageOf p ⟨.regionCfg, die, i⟩ v) 24 19 = bits v 24 19 :=
  have hrw : bits (regRow .regionCfg).rw 24 19 = 2 ^ 19 - 1 := by decide
  bits_imageOf _ _ _ _ _ hrw

/-- A whole write without a reserved encoding names a region of at least one row. -/
theorem rows_of_plain (h : Plain p ⟨.regionCfg, die, i⟩ v) : bits v 24 19 ≠ 0 := by
  have written : bits (2 ^ 64 - 1) 24 19 ≠ 0 := by decide
  intro h0
  simp only [Plain, fieldRanges, List.any_cons, List.any_nil, reservedIn, rows_imageOf, h0, bne_iff_ne.mpr written, Bool.or_false,
    Bool.true_and, Bool.or_eq_false_iff, decide_eq_false_iff_not] at h
  omega

/-- A disabled region is enabled empty, where its rows lie in the store (R193, R194). -/
theorem setRegionCfg_enables (hp : Plain p ⟨.regionCfg, die, i⟩ v) (he : p.rb .regionCfg die i 63 = false) (hv : v.testBit 63 = true) :
    p.setRegionCfg ⟨⟨.regionCfg, die, i⟩, 2 ^ 64 - 1, v, 0, [], []⟩ =
      if 262144 < bits v 0 18 + bits v 24 19 then p.badAccess
      else (p.putImage ⟨.regionCfg, die, i⟩ (imageOf p ⟨.regionCfg, die, i⟩ v)).setRegion die i {} := by
  have one : (⟨⟨.regionCfg, die, i⟩, 2 ^ 64 - 1, v, 0, [], []⟩ : Acc).one 63 = true := (one_full _ _ _ (by decide) ..).trans hv
  simp only [Part.setRegionCfg, he, raw_whole, base_imageOf, rows_imageOf, one, beq_eq_false_iff_ne.mpr (rows_of_plain hp), store_clean (clean_whole hp ..),
    newImage_whole hp rfl, Bool.true_and, Bool.false_or, decide_eq_true_eq, Bool.false_eq_true, if_false, if_true]

/-- An enabled region ends: contexts of tasks that name it are faulted, the register stored, and streams that wait on it go on (R194). -/
theorem setRegionCfg_disables (hp : Plain p ⟨.regionCfg, die, i⟩ v) (he : p.rb .regionCfg die i 63 = true) (hv : v.testBit 63 = false) :
    p.setRegionCfg ⟨⟨.regionCfg, die, i⟩, 2 ^ 64 - 1, v, 0, [], []⟩ =
      ((p.regionEnd die i).putImage ⟨.regionCfg, die, i⟩ (imageOf p ⟨.regionCfg, die, i⟩ v)).regionStrms die i := by
  have zero : (⟨⟨.regionCfg, die, i⟩, 2 ^ 64 - 1, v, 0, [], []⟩ : Acc).zero 63 = true := by rw [zero_full _ _ _ (by decide), hv]; rfl
  simp only [Part.setRegionCfg, he, zero, Part.once, clean_whole hp, newImage_whole hp rfl, Bool.not_true, Bool.false_and, Bool.false_eq_true,
    if_false, if_true]

/-- A counter's register is stored; a change of EN from 0 zeroes VALUE, and either change may end armed waits (R198, log entries 7 and 23). -/
theorem setArrivalCfg_whole (p : Part) (die i v : Nat) :
    p.setArrivalCfg ⟨⟨.arrivalCfg, die, i⟩, 2 ^ 64 - 1, v, 0, [], []⟩ =
      let q := p.putImage ⟨.arrivalCfg, die, i⟩ (imageOf p ⟨.arrivalCfg, die, i⟩ v)
      let was := p.rb .arrivalCfg die i 63
      if v.testBit 63 = was then q else (if was = true then q else q.setReg .arrivalValue die i 0).loosenWaits die i := by
  have plain : Plain p ⟨.arrivalCfg, die, i⟩ v := rfl
  have hrw : (regRow .arrivalCfg).rw.testBit 63 = true := by decide
  have now : (p.putImage ⟨.arrivalCfg, die, i⟩ (imageOf p ⟨.arrivalCfg, die, i⟩ v)).rb .arrivalCfg die i 63 = v.testBit 63 :=
    rb_putImage_rw p ⟨.arrivalCfg, die, i⟩ v 63 hrw
  simp only [Part.setArrivalCfg, store_clean (clean_whole plain ..), newImage_whole plain rfl, now, beq_iff_eq]

end

/-- Settles O15: each write comes down to the lemma on its register above. That an EN left at 1 keeps VALUE, and that a free value says which
armed waits a change of EN ends, are the model's choices (log entries 23 and 7). -/
theorem regionsAndArrivalCountersAreSetUp : Obligations.RegionsAndArrivalCountersAreSetUp := by
  intro s port n die i v
  refine ⟨fun hs hp => ⟨fun he hv => ?enable, fun he hv => ?disable⟩, fun hs => ?counter⟩
  case enable =>
    rw [exec_regionCfgWrite, writeReg_paired hs rfl]
    exact congrArg (settlesTo s) (setRegionCfg_enables hp he hv)
  case disable =>
    rw [exec_regionCfgWrite, writeReg_paired hs rfl]
    exact congrArg (settlesTo s) (setRegionCfg_disables hp he hv)
  case counter =>
    rw [exec_arrivalCfgWrite, writeReg_single hs rfl]
    exact congrArg (settlesTo s) (setArrivalCfg_whole s.part die i v.toNat)

end Sys2Proof.Safety
end

section
/-!
The shared operations of the Bench stores (08 R173, R185 to R191, R200): what a row access at an awake bank does, and what the service of
reservations leaves alone.
-/

namespace Sys2Proof.Machine.Part
open Sys2Proof

section
variable (p : Part)

/-! ### Rows at their bank -/

@[simp] theorem bumpBench_regs (d ev n : Nat) : (p.bumpBench d ev n).regs = p.regs := bump_regs _ _ _
@[simp] theorem bumpBench_mem (d ev n : Nat) : (p.bumpBench d ev n).mem = p.mem := bump_mem _ _ _
@[simp] theorem bumpBench_bench (d ev n : Nat) : (p.bumpBench d ev n).bench = p.bench := bump_bench _ _ _
@[simp] theorem bumpBench_svc (d ev n : Nat) : (p.bumpBench d ev n).svc = p.svc := bump_svc _ _ _

/-- A row without a new error is read as it stands, counted, and delivered poisoned where it is poisoned (R173, R180). -/
theorem rowRead_clean (d r : Nat) :
    p.rowRead d r .clean = ((p.mem.read (benchAt d (512 * r)) 512, p.mem.poisoned (benchAt d (512 * r))), p.bumpBench d 0 1) := by
  unfold rowRead
  dsimp only
  rw [bumpBench_mem]
  cases p.mem.poisoned (benchAt d (512 * r)) <;> rfl

variable {p}

theorem onDie_up {n : Nat} (h : p.benchUp (p.phys n) = true) (f : Part → Nat → Part) : p.onDie n f = f p (p.phys n) := if_pos h

/-- An access to a row of an awake bank runs at once (R200). -/
theorem access_awake {d : Nat} (acc : QAcc) (h : (p.bank d (bankOf (accRow acc))).gated = false) : p.access d acc = p.runAcc d acc := by
  rw [access, h, if_neg Bool.false_ne_true]

/-- An access that no LEAVE holds and no registered range holds back reaches its bank (R186). -/
theorem rowRequest_free {d : Nat} (acc : QAcc) (hd : p.dieHeld d = false) (hb : p.rowBusy d (accRow acc) (p.accKey acc) = false) :
    p.rowRequest d acc = p.access d acc := by
  rw [rowRequest, hd, hb, Bool.or_self, if_neg Bool.false_ne_true]

/-- An access to a row that another engine's range holds waits at the owner (R186). -/
theorem rowRequest_busy {d : Nat} (acc : QAcc) (hb : p.rowBusy d (accRow acc) (p.accKey acc) = true) :
    p.rowRequest d acc = { p with bench := { p.bench with waits := p.bench.waits ++ [(d, acc)] } } := by
  rw [rowRequest, hb, Bool.or_true, if_pos rfl]

end

/-! ### Tasks, scoreboards and regions -/

section
variable (p : Part)

/-- What the report of an issue, which is noted in the task's record, leaves alone. -/
theorem reportIssued_frame (id : Nat) :
    (p.reportIssued id).regs = p.regs ∧ (p.reportIssued id).mem = p.mem ∧ (p.reportIssued id).bench = p.bench := by
  unfold reportIssued
  split
  · exact ⟨rfl, rfl, rfl⟩
  · split
    · exact ⟨rfl, rfl, rfl⟩
    · split <;> exact ⟨rfl, rfl, rfl⟩

@[simp] theorem reportIssued_regs (id : Nat) : (p.reportIssued id).regs = p.regs := (reportIssued_frame p id).1
@[simp] theorem reportIssued_mem (id : Nat) : (p.reportIssued id).mem = p.mem := (reportIssued_frame p id).2.1
@[simp] theorem reportIssued_bench (id : Nat) : (p.reportIssued id).bench = p.bench := (reportIssued_frame p id).2.2

@[simp] theorem region_setRegion (d i : Nat) (x : Region) : (p.setRegion d i x).region d i = x := Tab.getD_put_same _ _ _ _
@[simp] theorem sbOf_setSb (d : Nat) (l : List SbRange) : (p.setSb d l).sbOf d = l := Tab.getD_put_same _ _ _ _

theorem region_eq_of_bench {q : Part} (h : q.bench = p.bench) (d i : Nat) : q.region d i = p.region d i := by rw [region, h, region]
theorem sbOf_eq_of_bench {q : Part} (h : q.bench = p.bench) (d : Nat) : q.sbOf d = p.sbOf d := by rw [sbOf, h, sbOf]

@[simp] theorem takeRows_regs (d i owner n : Nat) : (p.takeRows d i owner n).regs = p.regs := reportIssued_regs _ _
@[simp] theorem takeRows_mem (d i owner n : Nat) : (p.takeRows d i owner n).mem = p.mem := reportIssued_mem _ _

/-- A reservation that takes its positions advances RSVD and nothing else of the region (R190). -/
@[simp] theorem region_takeRows (d i owner n : Nat) :
    (p.takeRows d i owner n).region d i = { p.region d i with rsvd := (p.region d i).rsvd + n } :=
  (region_eq_of_bench _ (reportIssued_bench _ _) d i).trans (region_setRegion _ _ _ _)

/-- A reservation that takes its positions is registered behind every other range (R185). -/
@[simp] theorem sbOf_takeRows (d i owner n : Nat) : (p.takeRows d i owner n).sbOf d =
    p.sbOf d ++ [⟨owner, p.engOf owner, ⟨d, 0, n, some i, (p.region d i).rsvd⟩, 2 ^ n - 1, []⟩] :=
  (sbOf_eq_of_bench _ (reportIssued_bench _ _) d).trans (sbOf_setSb _ _ _)

@[simp] theorem sbFull_regs (d c : Nat) : (p.sbFull d c).regs = p.regs := by rw [sbFull, bump_regs, bumpBench_regs]
@[simp] theorem sbFull_mem (d c : Nat) : (p.sbFull d c).mem = p.mem := by rw [sbFull, bump_mem, bumpBench_mem]

end

/-- The service of waiting reservations leaves registers and memory alone. -/
theorem serveRegion_frame (d i fuel : Nat) (p : Part) :
    (serveRegion d i fuel p).regs = p.regs ∧ (serveRegion d i fuel p).mem = p.mem := by
  induction fuel generalizing p with
  | zero => exact ⟨rfl, rfl⟩
  | succ fuel ih =>
    unfold serveRegion
    dsimp only
    split
    · exact ⟨rfl, rfl⟩
    · split
      · split
        · rw [(ih _).1, (ih _).2, takeRows_regs, takeRows_mem]
          exact ⟨rfl, rfl⟩
        · split
          · exact ⟨rfl, rfl⟩
          · rw [sbFull_regs, sbFull_mem]
            exact ⟨rfl, rfl⟩
      · exact ⟨rfl, rfl⟩

theorem serveDie_frame (p : Part) (d : Nat) : (p.serveDie d).regs = p.regs ∧ (p.serveDie d).mem = p.mem := by
  refine List.foldlRecOn (motive := fun q : Part => q.regs = p.regs ∧ q.mem = p.mem) _ _ ⟨rfl, rfl⟩ fun q hq e _ => ?_
  have served := serveRegion_frame d (e.1 % 256) e.2.waiting.length q
  exact ⟨served.1.trans hq.1, served.2.trans hq.2⟩

end Sys2Proof.Machine.Part
end

section
/-!
Banks and patrol scrub (08 R183, R199 to R201).
-/

namespace Sys2Proof.Safety
open Sys2Proof Sys2Proof.Machine

theorem exec_bankGate (s : State) (n b : Nat) : exec (.bankGate n b) s = becomes s (s.part.bankGate n b) := rfl

theorem exec_bankWakeDone (s : State) (n b : Nat) : exec (.bankWakeDone n b) s = settlesTo s (s.part.bankWakeDone n b) := rfl

theorem exec_patrolScrub (s : State) (n : Nat) (ecc : Ecc) : exec (.patrolScrub n ecc) s = settlesTo s (s.part.patrolScrub n ecc) := rfl

section
variable {p : Part} {n b : Nat}

/-- A bank gates where BENCH_CTL allows it, no Feed holds it and no access waits for it (R199). -/
theorem bankGate_gates (hu : p.benchUp (p.phys n) = true) (hc : p.rb .benchCtl (p.phys n) 0 0 = true)
    (hg : (p.bank (p.phys n) b).gated = false) (hf : ∀ g ∈ p.bench.feedBanks, g.1 / 4 = n → g.2.contains b = false)
    (hw : ∀ e ∈ p.bench.waits, e.1 = p.phys n → bankOf (Part.accRow e.2) ≠ b) :
    p.bankGate n b = (p.setBank (p.phys n) b { p.bank (p.phys n) b with gated := true }).bumpBench (p.phys n) 7 1 := by
  have unfed : (p.bench.feedBanks.any fun g => g.1 / 4 == n && g.2.contains b) = false := by
    rw [List.any_eq_false]
    intro g hm
    by_cases hd : g.1 / 4 = n
    · rw [hf g hm hd, Bool.and_false]
      exact Bool.false_ne_true
    · rw [beq_eq_false_iff_ne.mpr hd]
      exact Bool.false_ne_true
  have unasked : (p.bench.waits.any fun e => e.1 == p.phys n && bankOf (Part.accRow e.2) == b) = false := by
    simp only [List.any_eq_false, Bool.and_eq_true, beq_iff_eq, not_and]
    exact hw
  rw [Part.bankGate, Part.onDie_up hu, unfed, unasked, hc, hg]
  rfl

/-- The wake of a gated bank that accesses wait for runs them in order, those of the gate queue first (R200, R201). -/
theorem bankWakeDone_wakes (hu : p.benchUp (p.phys n) = true) (hg : (p.bank (p.phys n) b).gated = true)
    (hq : (p.bank (p.phys n) b).queue ≠ []) : p.bankWakeDone n b = p.wakeBank (p.phys n) b := by
  simp only [Part.bankWakeDone, Part.onDie_up hu, hg, List.isEmpty_eq_false_iff.mpr hq, Bool.not_false, Bool.and_self, if_true]

/-- A scrub of a row of an awake bank that shows no error counts a read. -/
theorem access_scrub_clean {d r : Nat} (hg : (p.bank d (bankOf r)).gated = false) : p.access d (.scrub r .clean) = p.bumpBench d 0 1 := by
  rw [Part.access_awake (.scrub r .clean) hg, Part.runAcc, Part.rowRead_clean]

/-- The patrol scrub moves on to the next row (R183). -/
theorem patrolScrub_clean (hu : p.benchUp (p.phys n) = true)
    (hg : (p.bank (p.phys n) (bankOf (Tab.getD p.bench.scrub (p.phys n) 0))).gated = false) :
    p.patrolScrub n .clean = ({ p with bench := { p.bench with
      scrub := Tab.put (p.phys n) ((Tab.getD p.bench.scrub (p.phys n) 0 + 1) % 262144) p.bench.scrub } } : Part).bumpBench (p.phys n) 0 1 := by
  rw [Part.patrolScrub, Part.onDie_up hu]
  exact access_scrub_clean hg

end

/-- Settles O31: each command comes down to the lemma on it above. -/
theorem banksGateAndWake : Obligations.BanksGateAndWake := by
  intro s n b hu d x
  refine ⟨fun hc hg hf hw => ?gate, fun hg hq => ?wake, fun hg => ?scrub⟩
  case gate => rw [exec_bankGate, bankGate_gates hu hc hg hf hw]
  case wake =>
    rw [exec_bankWakeDone, bankWakeDone_wakes hu hg hq]
    rfl
  case scrub => rw [exec_patrolScrub, patrolScrub_clean hu hg]

end Sys2Proof.Safety
end

section
/-!
The scoreboard and circular regions (08 R185, R190, R191, R194): registrations, reservations and returned positions.
-/

namespace Sys2Proof

/-- Adding a number to a list adds just it. -/
theorem mem_insNat {k x : Nat} {l : List Nat} : x ∈ insNat k l ↔ x = k ∨ x ∈ l := by
  induction l with
  | nil => simp only [insNat, List.mem_singleton, List.not_mem_nil, or_false]
  | cons j t ih =>
    unfold insNat
    split
    · rw [List.mem_cons]
    · split
      next hj => rw [List.mem_cons, ← hj, or_self_left]
      next => rw [List.mem_cons, List.mem_cons, ih, or_left_comm]

end Sys2Proof

namespace Sys2Proof.Machine.Part
open Sys2Proof

/-! ### Positions returned -/

theorem le_tailGo (w : List Nat) (fuel t : Nat) : t ≤ tailGo w fuel t := by
  induction fuel generalizing t with
  | zero => exact Nat.le_refl t
  | succ fuel ih =>
    unfold tailGo
    split
    · exact Nat.le_of_succ_le (ih (t + 1))
    · exact Nat.le_refl t

/-- The advance goes beyond a position that is listed. -/
theorem lt_tailGo {w : List Nat} {t : Nat} (h : t ∈ w) : t < tailGo w w.length t := by
  obtain ⟨fuel, hf⟩ := Nat.exists_eq_succ_of_ne_zero (Nat.ne_of_gt (List.length_pos_of_mem h))
  rw [hf, tailGo, if_pos (List.contains_iff_mem.mpr h)]
  exact le_tailGo w fuel (t + 1)

theorem head_le_regionReturned (x : Region) (ps : List Nat) : x.head ≤ (regionReturned x ps).head := le_tailGo _ _ _

/-- HEAD moves beyond its own position once that is returned (R191). -/
theorem head_lt_regionReturned (x : Region) : x.head < (regionReturned x [x.head]).head := lt_tailGo (mem_insNat.mpr (.inl rfl))

section
variable {p : Part} {d i : Nat}

/-- A released position that is not returned yet is returned, where no reservation waits for it (R191). -/
theorem returnPos_released {pos : Nat} (hh : (p.region d i).head ≤ pos) (ht : pos < (p.region d i).tail)
    (hr : (p.region d i).returned.contains pos = false) (hw : (p.region d i).waiting = []) :
    p.returnPos d i pos = p.setRegion d i (regionReturned (p.region d i) [pos]) := by
  have first : ¬(pos < (p.region d i).head ∨ (p.region d i).returned.contains pos = true ∨ (p.region d i).tail ≤ pos) := by
    simp only [hr, Bool.false_eq_true, false_or, not_or, Nat.not_lt, Nat.not_le]
    exact ⟨hh, ht⟩
  unfold returnPos
  dsimp only
  rw [if_neg first, hw]
  rfl

/-! ### Reservations -/

/-- A reservation that fits a region without waiters, while the scoreboard takes its range, takes its positions at once (R190). -/
theorem reserve_fits {n : Nat} (owner : Nat) (hw : (p.region d i).waiting = [])
    (hf : (p.region d i).rsvd + n ≤ (p.region d i).head + p.regionSize d i) (hs : (p.sbOf d).length < 8192) :
    p.reserve d i owner n = ((p.setRegion d i { p.region d i with waiting := [(owner, n)] }).setRegion d i
      { p.region d i with waiting := [], sbWait := false }).takeRows d i owner n := by
  unfold reserve
  dsimp only
  rw [hw, List.nil_append, serveRegion]
  simp only [region_setRegion]
  exact (if_pos hf).trans (if_pos hs)

/-! ### Registrations -/

theorem allTasks_mapTask (p : Part) (id : Nat) (f : Task → Task) :
    (p.mapTask id f).allTasks = p.allTasks.map fun t => if t.id = id then f t else t := by
  simp only [allTasks, mapTask, Tab.mapV, List.map_append, List.map_map, List.map_flatMap, List.flatMap_map]
  rfl

/-- The task of a number once it has been changed. -/
theorem taskOf_mapTask {id : Nat} {f : Task → Task} (hf : ∀ t, (f t).id = t.id) :
    (p.mapTask id f).taskOf id = (p.taskOf id).map f := by
  have same : ((fun t : Task => t.id == id) ∘ fun t => if t.id = id then f t else t) = fun t => t.id == id := by
    funext t
    rw [Function.comp_apply, apply_ite Task.id, hf, ite_self]
  rw [taskOf, allTasks_mapTask, List.find?_map, same, ← taskOf]
  cases ht : p.taskOf id with
  | none => rfl
  | some t =>
    have hid : t.id = id := beq_iff_eq.mp (List.find?_some (p := fun t : Task => t.id == id) ht)
    rw [Option.map_some, if_pos hid, Option.map_some]

/-- No issue is reported while a registration is outstanding (R185). -/
theorem reportIssued_early {id : Nat} (h : ∀ t, p.taskOf id = some t → t.toReg ≠ []) : p.reportIssued id = p := by
  unfold reportIssued
  split
  · rfl
  next t ht => rw [if_pos (.inl (by rw [List.isEmpty_eq_false_iff.mpr (h t ht)]; rfl))]

/-- A range that is not a task's last is registered, and the next one comes up (R185). -/
theorem registerNext_more {t : Task} {g h : Range} {rest : List Range} (eng : Nat) (hr : t.toReg = g :: h :: rest)
    (hs : (p.sbOf g.die).length < 8192) :
    p.registerNext t eng = (p.register t.id eng g).mapTask t.id fun t => { t with toReg := h :: rest, sbWait := false } := by
  have outstanding := taskOf_mapTask (p := p.register t.id eng g) (id := t.id) (f := fun t => { t with toReg := h :: rest, sbWait := false })
    fun _ => rfl
  rw [registerNext, hr]
  dsimp only
  rw [if_pos hs, reportIssued_early]
  intro u hu
  rw [outstanding] at hu
  obtain ⟨v, -, rfl⟩ := Option.map_eq_some_iff.mp hu
  exact List.cons_ne_nil _ _

end

end Sys2Proof.Machine.Part

namespace Sys2Proof.Safety
open Sys2Proof Sys2Proof.Machine

theorem exec_scoreboardRegister (s : State) (cls : Cls) (e : Nat) :
    exec (.scoreboardRegister cls e) s = becomes s (s.part.scoreboardRegister cls e) := rfl

theorem exec_regionReserve (s : State) (c n i k : Nat) :
    exec (.regionReserve c n i k) s = settlesTo s (s.part.regionReserve c n i k) := rfl

theorem exec_regionReturn (s : State) (c n i pos : Nat) :
    exec (.regionReturn c n i pos) s = settlesTo s (s.part.regionReturn c n i pos) := rfl

section
variable {p : Part} {c n i : Nat}

theorem scoreboardRegister_planer {e : Nat} {t : Task} (ht : Tab.find (engKey .planer e) p.jig.eng = some t) :
    p.scoreboardRegister .planer e = p.registerNext t (engKey .planer e) := by
  simp only [Part.scoreboardRegister, ht]

/-- A reservation of rows in a region that the context may name is made, or faults where it is larger than the region (R190). -/
theorem regionReserve_ok {k : Nat} (hu : p.benchUp (p.phys n) = true) (hc : p.ctxRuns c = true) (hk : k ≠ 0)
    (ho : p.regionOk c n i = true) : p.regionReserve c n i k =
      if p.regionSize (p.phys n) i < k then p.ctxFault c ⟨0x0401, .none, 0, none, 0x7FFF⟩
      else p.reserve (p.phys n) i (rawOwner c) k := by
  simp only [Part.regionReserve, Part.onDie_up hu, hc, hk, ho, Bool.not_true, Bool.false_eq_true, or_self, if_false]

theorem regionReturn_own {pos : Nat} (hu : p.benchUp (p.phys n) = true) (he : p.regionEn (p.phys n) i = true)
    (hc : p.regionCtx (p.phys n) i = c) : p.regionReturn c n i pos = p.returnPos (p.phys n) i pos := by
  rw [Part.regionReturn, Part.onDie_up hu, he, hc, beq_self_eq_true, Bool.and_self, if_pos rfl]

end

/-- Settles O32: a registration leaves others outstanding, so no issue is reported; a reservation that fits takes its positions at once; a
returned position moves HEAD over what is contiguous. -/
theorem regionsReserveAndReturn : Obligations.RegionsReserveAndReturn := by
  intro s
  refine ⟨fun e t g h rest ht hr hs => ?register, fun c n i k hu => ⟨fun hc hk ho hlt => ?larger, fun hc hk ho hw hle hs hf => ?fits,
    fun he hc hw pos hh ht hr => ⟨?returned, Part.head_le_regionReturned _ _, ?moved⟩⟩⟩
  case register =>
    rw [exec_scoreboardRegister, scoreboardRegister_planer ht, Part.registerNext_more _ hr hs]
    rfl
  case larger => rw [exec_regionReserve, regionReserve_ok hu hc hk ho, if_pos hlt]
  case fits =>
    refine ⟨_, exec_regionReserve .., ?_⟩
    rw [regionReserve_ok hu hc hk ho, if_neg (Nat.not_lt.mpr hle), Part.reserve_fits _ hw hf hs]
    refine ⟨?_, ?_, Part.takeRows_mem .., Part.takeRows_regs ..⟩
    · rw [Part.region_takeRows, Part.region_setRegion, ← hw]
    · rw [Part.sbOf_takeRows, Part.region_setRegion]
      rfl
  case returned => rw [exec_regionReturn, regionReturn_own hu he hc, Part.returnPos_released hh ht hr hw]
  case moved =>
    rintro rfl
    exact Part.head_lt_regionReturned _

end Sys2Proof.Safety
end

section
/-!
Rows of a Bench store read and written (08 R173, R178, R180, R186, R195, R196): memory and poison of one row, and a whole-row write at its bank.
-/

namespace Sys2Proof.Machine
open Sys2Proof

namespace Memory

/-- The unit of a Bench row is the row (08 R180). -/
theorem unitOf_row (d r : Nat) : unitOf (benchAt d (512 * r)) = benchAt d (512 * r) := by
  unfold unitOf benchAt
  rw [if_pos (by omega)]
  omega

theorem poisoned_row (m : Memory) (d r : Nat) : m.poisoned (benchAt d (512 * r)) = m.poison.contains (benchAt d (512 * r)) := by
  rw [poisoned, unitOf_row]

/-- A set poison bit names its unit and leaves every other. -/
theorem mem_setPoison (m : Memory) (u : Nat) (v : Bool) (x : Nat) :
    x ∈ (m.setPoison u v).poison ↔ if x = u then v = true else x ∈ m.poison := by
  cases v with
  | true =>
    show x ∈ insNat u m.poison ↔ _
    rw [mem_insNat]
    by_cases hx : x = u
    · simp only [hx, true_or, if_true]
    · simp only [hx, false_or, if_false]
  | false =>
    show x ∈ m.poison.filter (· != u) ↔ _
    rw [List.mem_filter, bne_iff_ne]
    by_cases hx : x = u
    · simp only [hx, ne_eq, not_true_eq_false, and_false, if_true, Bool.false_eq_true]
    · simp only [hx, ne_eq, not_false_eq_true, and_true, if_false]

@[simp] theorem get_setPoison (m : Memory) (u : Nat) (v : Bool) (a : Nat) : (m.setPoison u v).get a = m.get a := rfl

/-- A byte of device memory after a write. -/
theorem get_write (m : Memory) (a : Nat) (bs : List Byte) (x : Nat) :
    (m.write a bs).get x = if a ≤ x ∧ x < a + bs.length then bs.getD (x - a) 0 else m.get x := by
  split
  next hx =>
    have inside := get_write_in m a bs (x - a) (by omega)
    rw [Nat.add_sub_cancel' hx.1] at inside
    rw [inside, List.getD_eq_getElem?_getD, List.getElem?_eq_getElem, Option.getD_some]
  next hx => exact get_write_out m a bs x (by omega)

end Memory

namespace Part

section
variable {p q : Part}

theorem rv_eq_of_regs (h : q.regs = p.regs) : q.rv = p.rv := by
  funext r d i
  rw [rv, reg, h, rv, reg]

theorem rangeIdx_eq_of_regs (h : q.regs = p.regs) (d : Nat) (g : Range) (r : Nat) : q.rangeIdx d g r = p.rangeIdx d g r := by
  unfold rangeIdx rf
  rw [rv_eq_of_regs h]

/-- Whether an access waits for a range depends on the ranges and on the regions' registers. -/
theorem rowBusy_eq_of_sb (hs : q.bench.sb = p.bench.sb) (hr : q.regs = p.regs) (d r eng : Nat) : q.rowBusy d r eng = p.rowBusy d r eng := by
  simp only [rowBusy, sbOf, hs, rangeIdx_eq_of_regs hr]

end

section
variable (p : Part)

@[simp] theorem arrive_mem (d : Nat) (k : Option Nat) : (p.arrive d k).mem = p.mem := by cases k <;> rfl

/-- Ranges, regions and counters change once a row is written, memory does not. -/
@[simp] theorem rowDone_mem (d r owner : Nat) (full : Bool) (arr : Option Nat) : (p.rowDone d r owner full arr).mem = p.mem := by
  refine List.foldlRecOn (motive := fun q : Part => q.mem = p.mem) _ _ ?_ fun q hq k _ => (arrive_mem q d (some k)).trans hq
  exact List.foldlRecOn (motive := fun q : Part => q.mem = p.mem) _ _ rfl fun q hq e _ => hq

end

section
variable {p : Part} {d r : Nat}

theorem foldl_congr_mem {α β : Type} {f g : β → α → β} {l : List α} {z : β} (h : ∀ a, ∀ s ∈ l, f a s = g a s) :
    l.foldl f z = l.foldl g z := by
  induction l generalizing z with
  | nil => rfl
  | cons s l ih =>
    rw [List.foldl_cons, List.foldl_cons, h z s List.mem_cons_self, ih fun a t ht => h a t (List.mem_cons_of_mem _ ht)]

theorem foldl_snoc {α β : Type} (l acc : List α) (z : β) : l.foldl (fun a s => (a.1 ++ [s], a.2)) (acc, z) = (acc ++ l, z) := by
  induction l generalizing acc with
  | nil => rw [List.foldl_nil, List.append_nil]
  | cons s l ih => rw [List.foldl_cons, ih, List.append_assoc, List.singleton_append]

/-- A row that no registered range holds is readable once it is written: the write's counter advances at once (R195). -/
theorem rowDone_unheld (h : ∀ s ∈ p.sbOf d, p.rangeIdx d s.range r = none) (owner : Nat) (full : Bool) (arr : Option Nat) :
    p.rowDone d r owner full arr = (p.setSb d ((p.sbOf d).filter fun s => s.left != 0)).arrive d arr := by
  have unhit : ∀ s ∈ p.sbOf d, (if s.owner = owner then p.rangeIdx d s.range r else none) = none := fun s hs => by rw [h s hs, ite_self]
  have app : ∀ f : SbRange → Option (Nat × Nat), (∀ s ∈ p.sbOf d, f s = none) → (if full then (p.sbOf d).filterMap f else []) = [] := by
    intro f hf
    rw [List.filterMap_eq_nil_iff.mpr hf, ite_self]
  unfold rowDone
  dsimp only
  rw [foldl_congr_mem (l := p.sbOf d) (g := fun a s => (a.1 ++ [s], a.2)), foldl_snoc, List.nil_append, app]
  · cases arr <;> rfl
  · intro s hs
    rw [unhit s hs]
    split
    next hit => exact absurd hit.symm (Option.some_ne_none _)
    next => rfl
  · intro a s hs
    rw [unhit s hs]

/-- A whole row is written with its poison, counted and done (R173, R180). -/
theorem bankWrite_whole {w : RowWrite} (h : RowWrite.whole w = true) (ecc : Ecc) :
    p.bankWrite d w ecc = (((p.onMem fun m => (m.write (benchAt d (512 * w.row)) w.data).setPoison (benchAt d (512 * w.row)) w.poison).bumpBench
      d 1 1).rowDone d w.row w.eng true w.arrival).serveDie d := by
  have first : w.first = 0 := by
    rw [RowWrite.whole, Bool.and_eq_true] at h
    exact beq_iff_eq.mp h.1
  simp only [bankWrite, rowFilled, h, first, Nat.add_zero, Bool.true_or, if_true]
  cases w.poison <;> rfl

/-- A write that names no counter or one of its context, to a row of an awake bank that is not redirected, owned by no hold and free of other
engines' ranges, reaches its row (R186, R196, R202). -/
theorem rowWrite_lands {w : RowWrite} (hd : p.dieHeld d = false)
    (ha : ∀ k, w.arrival = some k → p.arrivalEn d k = true ∧ p.rf .arrivalCfg d k 0 8 = w.ctx) (hr : p.redirectOf w.ctx d w.row = none)
    (ho : p.rowOwner (p.logi d) w.row = none) (hb : p.rowBusy d w.row (p.engOf w.eng) = false)
    (hg : (p.bank d (bankOf w.row)).gated = false) (ecc : Ecc) : p.rowWrite d w ecc = p.bankWrite d w ecc := by
  have own : p.foreignRow d w = false := by simp only [foreignRow, ho]
  have reach : p.rowRequest d (.write w ecc) = p.bankWrite d w ecc := by
    rw [rowRequest_free (.write w ecc) hd hb, access_awake (.write w ecc) hg]
    simp only [runAcc, rowLand, hr, own, Bool.false_eq_true, if_false]
  unfold rowWrite
  dsimp only
  rw [hd, if_neg Bool.false_ne_true, if_neg, hr, own, Option.isSome_none, Bool.or_self, if_neg Bool.false_ne_true, reach]
  split
  next k hk =>
    obtain ⟨en, ctx⟩ := ha k hk
    simp only [en, ctx, beq_self_eq_true, Bool.and_self, Bool.not_true, Bool.false_eq_true, not_false_eq_true]
  next => exact Bool.false_ne_true

end

end Part

end Sys2Proof.Machine

namespace Sys2Proof.Safety
open Sys2Proof Sys2Proof.Machine

theorem exec_benchRead (s : State) (n r : Nat) (ecc : Ecc) : exec (.benchRead n r ecc) s = settlesTo s (s.part.benchRead n r ecc) := rfl

theorem exec_benchWrite (s : State) (c n r first : Nat) (data : List Byte) (poison : Bool) (arrival : Option Nat) (ecc : Ecc) :
    exec (.benchWrite c n r first data poison arrival ecc) s = settlesTo s (s.part.benchWrite c n r first data poison arrival ecc) := rfl

theorem exec_correctedWriteback (s : State) (n r : Nat) :
    exec (.correctedWriteback n r) s = becomes s (s.part.correctedWriteback n r) := rfl

section
variable {p : Part} {n r : Nat}

theorem benchRead_clean (hu : p.benchUp (p.phys n) = true) (hg : (p.bank (p.phys n) (bankOf r)).gated = false)
    (hd : p.dieHeld (p.phys n) = false) (hb : p.rowBusy (p.phys n) r 0xFFFE = false) :
    p.benchRead n r .clean = (p.bumpBench (p.phys n) 0 1).deliver
      (p.mem.read (benchAt (p.phys n) (512 * r)) 512, p.mem.poisoned (benchAt (p.phys n) (512 * r))) := by
  rw [Part.benchRead, Part.onDie_up hu, Part.rowRequest_free (.read r .clean) hd hb, Part.access_awake (.read r .clean) hg]
  simp only [Part.runAcc, Part.rowRead_clean]

theorem benchRead_waits (hu : p.benchUp (p.phys n) = true) (hb : p.rowBusy (p.phys n) r 0xFFFE = true) (ecc : Ecc) :
    p.benchRead n r ecc = { p with bench := { p.bench with waits := p.bench.waits ++ [(p.phys n, .read r ecc)] } } := by
  rw [Part.benchRead, Part.onDie_up hu, Part.rowRequest_busy (.read r ecc) hb]

theorem correctedWriteback_due (hu : p.benchUp (p.phys n) = true) (hw : p.bench.wback.contains (rowKey (p.phys n) r) = true) :
    p.correctedWriteback n r = ({ p with bench := { p.bench with
      wback := p.bench.wback.filter (· != rowKey (p.phys n) r) } } : Part).bumpBench (p.phys n) 1 1 := by
  rw [Part.correctedWriteback, Part.onDie_up hu, if_pos hw]

/-- What the store of a whole row leaves: memory with the row and its poison written, the counter of a row that no range holds advanced. -/
theorem bankWrite_stores {d : Nat} {w : RowWrite} (h : Part.RowWrite.whole w = true) (ecc : Ecc) :
    (p.bankWrite d w ecc).mem = (p.mem.write (benchAt d (512 * w.row)) w.data).setPoison (benchAt d (512 * w.row)) w.poison ∧
    ∀ k, w.arrival = some k → (∀ x ∈ p.sbOf d, p.rangeIdx d x.range w.row = none) →
      (p.bankWrite d w ecc).rv .arrivalValue d k = (p.rv .arrivalValue d k + 1) % 2 ^ 32 := by
  rw [Part.bankWrite_whole h]
  refine ⟨?memory, fun k hk hf => ?counter⟩
  case memory =>
    rw [(Part.serveDie_frame _ _).2, Part.rowDone_mem, Part.bumpBench_mem]
    rfl
  case counter =>
    have regs : ∀ f, ((p.onMem f).bumpBench d 1 1).regs = p.regs := fun f => Part.bumpBench_regs _ _ _ _
    have sb : ∀ f, ((p.onMem f).bumpBench d 1 1).sbOf d = p.sbOf d := fun f => Part.sbOf_eq_of_bench _ (Part.bumpBench_bench _ _ _ _) d
    have kept : ∀ f l, (((p.onMem f).bumpBench d 1 1).setSb d l).rv = p.rv := fun f l => Part.rv_eq_of_regs (regs f)
    rw [Part.rv_eq_of_regs (Part.serveDie_frame _ _).1, Part.rowDone_unheld, hk, Part.arrive, Part.rv_setReg_same]
    · rw [kept]
      omega
    · intro x hx
      rw [sb] at hx
      rw [Part.rangeIdx_eq_of_regs (regs _)]
      exact hf x hx

end

/-- Settles O29: each command comes down to the lemma on it above. That a row already poisoned counts a read and no new error is the model's
choice (log entry 66), as is whose range a BENCH_WRITE writes (log entry 72). -/
theorem benchRowsReadAndWrite : Obligations.BenchRowsReadAndWrite := by
  rintro s n r d rfl hu hr hg hd
  refine ⟨fun hb => ?read, fun hb ecc => ?waits, fun c data poison arrival hl ha hn ho hb => ?write, fun hw => ?writeback⟩
  case read => rw [exec_benchRead, benchRead_clean hu hg hd hb]
  case waits => rw [exec_benchRead, benchRead_waits hu hb]
  case writeback => rw [exec_correctedWriteback, correctedWriteback_due hu hw]
  case write =>
    let w : RowWrite := ⟨c, r, 0, data, poison, arrival, ((s.part.rangeFor c (s.part.phys n) r).map SbRange.owner).getD 0, none⟩
    have whole : Part.RowWrite.whole w = true := by rw [Part.RowWrite.whole, hl]; rfl
    have lands : s.part.benchWrite c n r 0 data poison arrival .clean = s.part.bankWrite (s.part.phys n) w .clean :=
      (Part.onDie_up hu _).trans (Part.rowWrite_lands (w := w) hd ha hn ho hb hg .clean)
    obtain ⟨mem, counter⟩ := bankWrite_stores (p := s.part) (d := s.part.phys n) whole .clean
    refine ⟨_, (exec_benchWrite ..).trans (congrArg (settlesTo s) lands), ?poison, ?bytes, counter, ?others, ?host⟩
    case poison =>
      rw [mem, Memory.poisoned_row, Bool.eq_iff_iff, List.contains_iff_mem, Memory.mem_setPoison, if_pos rfl]
    case bytes =>
      intro b
      rw [mem, Memory.get_setPoison, Memory.get_write, hl]
    case others =>
      intro u hu
      rw [mem, Memory.mem_setPoison, if_neg hu, Memory.write_poison]
    case host => rw [mem, Memory.setPoison_host, Memory.write_host]

end Sys2Proof.Safety
end

section
/-!
Transposed and strided reads (08 R175 to R177): what they gather of 16 rows, and how the 16 accesses of one collect them.
-/

namespace Sys2Proof.Machine
open Sys2Proof

/-! ### What a mode read gathers -/

section
variable {α β : Type} {l : List α} {f : α → List β} {n : Nat}

theorem length_flatMap_uniform (hf : ∀ a ∈ l, (f a).length = n) : (l.flatMap f).length = n * l.length := by
  induction l with
  | nil => rfl
  | cons a l ih =>
    rw [List.flatMap_cons, List.length_append, hf a List.mem_cons_self, ih fun b hb => hf b (List.mem_cons_of_mem _ hb),
      List.length_cons, Nat.mul_succ, Nat.add_comm]

/-- Pieces of one length stand behind one another. -/
theorem getD_flatMap_uniform (hf : ∀ a ∈ l, (f a).length = n) {i j : Nat} (hi : i < l.length) (hj : j < n) (d : β) :
    (l.flatMap f).getD (n * i + j) d = (f l[i]).getD j d := by
  induction l generalizing i with
  | nil => exact absurd hi (Nat.not_lt_zero i)
  | cons a l ih =>
    have ha := hf a List.mem_cons_self
    rw [List.flatMap_cons]
    cases i with
    | zero =>
      rw [Nat.mul_zero, Nat.zero_add, List.getElem_cons_zero, List.getD_eq_getElem?_getD, List.getElem?_append_left (by omega),
        ← List.getD_eq_getElem?_getD]
    | succ i =>
      have beyond : n * (i + 1) + j = n + (n * i + j) := by rw [Nat.mul_succ]; omega
      rw [beyond, List.getD_eq_getElem?_getD, List.getElem?_append_right (by omega), ha, Nat.add_sub_cancel_left,
        ← List.getD_eq_getElem?_getD, ih (fun b hb => hf b (List.mem_cons_of_mem _ hb)) (Nat.lt_of_succ_lt_succ hi), List.getElem_cons_succ]

end

theorem getD_take_drop {α : Type} (l : List α) {o n b : Nat} (hb : b < n) (d : α) : ((l.drop o).take n).getD b d = l.getD (o + b) d := by
  simp only [List.getD_eq_getElem?_getD, List.getElem?_take, hb, if_true, List.getElem?_drop]

@[simp] theorem Memory.length_read (m : Memory) (a n : Nat) : (m.read a n).length = n := by rw [Memory.read, List.length_map, List.length_range]

theorem Memory.getD_read (m : Memory) (a : Nat) {n b : Nat} (hb : b < n) : (m.read a n).getD b 0 = m.get (a + b) := by
  rw [List.getD_eq_getElem?_getD, List.getElem?_eq_getElem (by rw [Memory.length_read]; exact hb), Option.getD_some]
  simp only [Memory.read, List.getElem_map, List.getElem_range]

section
variable {row : Nat → List Byte}

/-- A piece of `n` bytes that lies within each of the 16 rows. -/
theorem length_slice {o n : Nat} (h : ∀ i, (row i).length = 512) (ho : o + n ≤ 512) :
    ∀ i ∈ List.range 16, (((row i).drop o).take n).length = n := by
  intro i _
  rw [List.length_take, List.length_drop, h i]
  omega

/-- A strided read's row: bytes [32 i + 31 : 32 i] are those of segment SEG of row i (R176). -/
theorem gatherSeg_rows {seg : Nat} (h : ∀ i, (row i).length = 512) (hs : seg < 16) :
    (Part.gatherSeg seg ((List.range 16).map row)).length = 512 ∧ ∀ i b, i < 16 → b < 32 →
      (Part.gatherSeg seg ((List.range 16).map row)).getD (32 * i + b) 0 = (row i).getD (32 * seg + b) 0 := by
  have piece := length_slice (o := 32 * seg) (n := 32) h (by omega)
  rw [Part.gatherSeg, List.flatMap_map]
  refine ⟨length_flatMap_uniform piece, fun i b hi hb => ?_⟩
  rw [getD_flatMap_uniform piece (by rwa [List.length_range]) hb, List.getElem_range, getD_take_drop _ hb]

/-- A transposed read's 8 KiB: the elements of column `col` of every row, one column after the other (R175). -/
theorem transpose_rows {w : Nat} (h : ∀ i, (row i).length = 512) (hw : w ∣ 512) :
    (Part.transpose w ((List.range 16).map row)).length = 8192 ∧ ∀ col i b, col < 512 / w → i < 16 → b < w →
      (Part.transpose w ((List.range 16).map row)).getD ((16 * col + i) * w + b) 0 = (row i).getD (col * w + b) 0 := by
  have within : ∀ col, col < 512 / w → col * w + w ≤ 512 := fun col hc => by
    rw [← Nat.succ_mul]
    exact Nat.le_trans (Nat.mul_le_mul_right w hc) (Nat.div_mul_le_self 512 w)
  have column : ∀ col ∈ List.range (512 / w), ((List.range 16).flatMap fun i => ((row i).drop (col * w)).take w).length = w * 16 :=
    fun col hc => length_flatMap_uniform (length_slice h (within col (List.mem_range.mp hc)))
  simp only [Part.transpose, List.flatMap_map]
  refine ⟨?_, fun col i b hc hi hb => ?_⟩
  · rw [length_flatMap_uniform column, List.length_range, Nat.mul_right_comm, Nat.mul_div_cancel' hw]
  · have inside : w * i + b < w * 16 := by
      calc w * i + b < w * (i + 1) := by rw [Nat.mul_succ]; omega
        _ ≤ w * 16 := Nat.mul_le_mul_left w hi
    have place : (16 * col + i) * w + b = w * 16 * col + (w * i + b) := by
      rw [Nat.add_mul, Nat.mul_right_comm, Nat.mul_comm 16 w, Nat.mul_comm i w, Nat.add_assoc]
    rw [place,
      getD_flatMap_uniform column (by rwa [List.length_range]) inside, List.getElem_range,
      getD_flatMap_uniform (length_slice h (within col hc)) (by rwa [List.length_range]) hb, List.getElem_range, getD_take_drop _ hb]

end

end Sys2Proof.Machine

namespace Sys2Proof.Tab

variable {α : Type}

theorem lt_next {t : Tab α} {e : Nat × α} (h : e ∈ t) : e.1 < next t := by
  have bound : ∀ (l : Tab α) (n : Nat), n ≤ l.foldl (fun n e => max n (e.1 + 1)) n ∧
      ∀ e ∈ l, e.1 < l.foldl (fun n e => max n (e.1 + 1)) n := by
    intro l
    induction l with
    | nil => exact fun n => ⟨Nat.le_refl n, fun e he => absurd he List.not_mem_nil⟩
    | cons a l ih =>
      intro n
      obtain ⟨above, listed⟩ := ih (max n (a.1 + 1))
      refine ⟨Nat.le_trans (Nat.le_max_left ..) above, fun e he => ?_⟩
      rcases List.mem_cons.mp he with rfl | he
      · exact Nat.lt_of_succ_le (Nat.le_trans (Nat.le_max_right ..) above)
      · exact listed e he
  exact (bound t 0).2 e h

theorem find_next (t : Tab α) : find (next t) t = none := find_none fun _ ha => Nat.ne_of_lt (lt_next ha)

theorem put_put (k : Nat) (v w : α) (t : Tab α) : put k v (put k w t) = put k v t := by
  induction t with
  | nil => simp only [put, Nat.lt_irrefl, if_false, if_true]
  | cons e t ih =>
    obtain ⟨j, u⟩ := e
    simp only [put]
    split
    · simp only [put, Nat.lt_irrefl, if_false, if_true]
    next hlt =>
      split
      · simp only [put, Nat.lt_irrefl, if_false, if_true]
      next hne => simp only [put, hlt, hne, if_false, ih]

/-- An entry under a new key leaves nothing behind. -/
theorem del_put {k : Nat} {t : Tab α} (h : find k t = none) (v : α) : del k (put k v t) = t := by
  induction t with
  | nil => simp only [put, del, if_true]
  | cons e t ih =>
    obtain ⟨j, u⟩ := e
    simp only [find] at h
    split at h
    · exact absurd h (Option.some_ne_none u)
    next hne =>
      simp only [put, hne, if_false]
      split
      · simp only [del, if_true]
      · simp only [del, hne, if_false, ih h]

end Sys2Proof.Tab

namespace Sys2Proof.Machine
open Sys2Proof

/-! ### The rows a mode read has collected -/

/-- What a mode read of rows `row` holds once the first `k` of the 16 have been read. -/
def collected (row : Nat → List Byte × Bool) (k : Nat) : List (Option (List Byte × Bool)) :=
  (List.range 16).map fun i => if i < k then some (row i) else none

section
variable (row : Nat → List Byte × Bool) (k : Nat)

theorem setAt_collected : setAt (collected row k) k (some (row k)) = collected row (k + 1) := by
  refine List.ext_getElem (by simp only [setAt, collected, List.length_set, List.length_map]) fun i _ _ => ?_
  simp only [setAt, collected, List.getElem_set, List.getElem_map, List.getElem_range]
  by_cases hk : k = i
  · rw [if_pos hk, if_pos (by omega), hk]
  · have below : i < k + 1 ↔ i < k := by omega
    simp only [hk, if_false, below]

/-- The collection is complete with the 16th row. -/
theorem all_collected : (collected row k).all Option.isSome = decide (16 ≤ k) := by
  rw [Bool.eq_iff_iff, List.all_eq_true, decide_eq_true_eq]
  simp only [collected, List.mem_map, List.mem_range, forall_exists_index, and_imp, forall_apply_eq_imp_iff₂]
  constructor
  · intro h
    have last := h 15 (by omega)
    split at last
    · omega
    · exact absurd last Bool.false_ne_true
  · intro h i hi
    rw [if_pos (by omega), Option.isSome_some]

theorem filterMap_collected : (collected row 16).filterMap (fun y => y) = (List.range 16).map row := rfl

end

namespace Part

/-! ### One row of a mode read -/

/-- The part with other mode reads in progress. -/
def withModes (p : Part) (t : Tab ModeRead) : Part := { p with bench := { p.bench with modes := t } }

/-- The part once `k` rows of a store have been read and counted. -/
def counted (p : Part) (d k : Nat) : Part := (List.range k).foldl (fun (p : Part) _ => p.bumpBench d 0 1) p

section
variable (p : Part) (d k : Nat) (t : Tab ModeRead)

theorem withModes_withModes (u : Tab ModeRead) : (p.withModes t).withModes u = p.withModes u := rfl

theorem modes_withModes : (p.withModes t).bench.modes = t := rfl

theorem withModes_modes : p.withModes p.bench.modes = p := rfl

theorem bumpBench_withModes (ev n : Nat) : (p.withModes t).bumpBench d ev n = (p.bumpBench d ev n).withModes t := by
  unfold bumpBench bump
  split <;> rfl

theorem counted_succ : p.counted d (k + 1) = (p.counted d k).bumpBench d 0 1 := by
  rw [counted, List.range_succ, List.foldl_append]
  rfl

/-- Counting reads changes the counters alone. -/
theorem counted_frame : (p.counted d k).regs = p.regs ∧ (p.counted d k).mem = p.mem ∧ (p.counted d k).bench = p.bench ∧
    (p.counted d k).svc = p.svc := by
  induction k with
  | zero => exact ⟨rfl, rfl, rfl, rfl⟩
  | succ k ih => rwa [counted_succ, bumpBench_regs, bumpBench_mem, bumpBench_bench, bumpBench_svc]

end

/-- A read of the row runs at once and finds it sound: no LEAVE holds the die, no registered range the row, its bank is awake and it is not
poisoned. -/
structure Readable (p : Part) (d r : Nat) : Prop where
  served : p.dieHeld d = false
  free : p.rowBusy d r 0xFFFE = false
  awake : (p.bank d (bankOf r)).gated = false
  sound : p.mem.poisoned (benchAt d (512 * r)) = false

/-- What is gathered of rows. -/
def gathered (m : ModeRead) (rows : List (List Byte)) : List Byte :=
  match m.width with
  | some w => transpose w rows
  | none => gatherSeg m.seg rows

section
variable {p : Part} {d r id k : Nat} {m : ModeRead}

/-- Whether a row is readable depends on registers, memory, ranges, banks and the LEAVE in progress. -/
theorem Readable.congr {q : Part} (h : Readable p d r) (regs : q.regs = p.regs) (mem : q.mem = p.mem) (svc : q.svc = p.svc)
    (sb : q.bench.sb = p.bench.sb) (banks : q.bench.banks = p.bench.banks) : Readable q d r where
  served := by
    rw [← h.served]
    simp only [dieHeld, phys, rf, rv_eq_of_regs regs, svc]
  free := (rowBusy_eq_of_sb sb regs d r _).trans h.free
  awake := by rw [bank, banks, ← bank, h.awake]
  sound := by rw [mem, h.sound]

/-- Reads counted and mode reads begun leave a row readable. -/
theorem Readable.counted (h : Readable p d r) (k : Nat) (t : Tab ModeRead) : Readable ((p.counted d k).withModes t) d r := by
  obtain ⟨regs, mem, bench, svc⟩ := counted_frame p d k
  exact h.congr regs mem svc (congrArg Bench.sb bench :) (congrArg Bench.banks bench :)

theorem rowRequest_mode (h : Readable p d r) : p.rowRequest d (.mode id k r .clean) = p.modeRow d id k r .clean := by
  rw [rowRequest_free (.mode id k r .clean) h.served h.free, access_awake (.mode id k r .clean) h.awake, runAcc]

/-- A row before the last is kept for the result. -/
theorem modeRow_keeps (hm : Tab.find id p.bench.modes = some m) (hp : p.mem.poisoned (benchAt d (512 * r)) = false)
    (hk : (setAt m.rows k (some (p.mem.read (benchAt d (512 * r)) 512, false))).all Option.isSome = false) :
    p.modeRow d id k r .clean = (p.bumpBench d 0 1).withModes
      (Tab.put id { m with rows := setAt m.rows k (some (p.mem.read (benchAt d (512 * r)) 512, false)) } p.bench.modes) := by
  simp only [modeRow, hm, rowRead_clean, hp, hk, Bool.false_eq_true, if_false, bumpBench_bench]
  rfl

/-- The last row completes the result, which is delivered. -/
theorem modeRow_delivers (hm : Tab.find id p.bench.modes = some m) (hp : p.mem.poisoned (benchAt d (512 * r)) = false)
    {rows : List (Option (List Byte × Bool))} (hr : setAt m.rows k (some (p.mem.read (benchAt d (512 * r)) 512, false)) = rows)
    (hk : rows.all Option.isSome = true) :
    p.modeRow d id k r .clean = ((p.bumpBench d 0 1).withModes (Tab.del id p.bench.modes)).deliver
      (gathered m ((rows.filterMap fun y => y).map Prod.fst), (rows.filterMap fun y => y).any Prod.snd) := by
  simp only [modeRow, hm, rowRead_clean, hp, hr, hk, if_true, bumpBench_bench]
  cases hw : m.width <;> simp only [gathered, hw] <;> rfl

end

/-! ### The 16 rows of a mode read -/

/-- Row `i` of a mode read as it is delivered. -/
def modeBytes (p : Part) (d r step i : Nat) : List Byte × Bool := (p.mem.read (benchAt d (512 * (r + i * step))) 512, false)

theorem length_modeBytes (p : Part) (d r step i : Nat) : (p.modeBytes d r step i).1.length = 512 := by
  rw [modeBytes, Memory.length_read]

theorem getD_modeBytes (p : Part) (d r step i : Nat) {b : Nat} (hb : b < 512) :
    (p.modeBytes d r step i).1.getD b 0 = p.mem.get (benchAt d (512 * (r + i * step)) + b) := by
  rw [modeBytes, Memory.getD_read _ _ hb]

/-- The part once the first `k` rows of mode read `m` have been read. -/
def modeAfter (p : Part) (d r step : Nat) (m : ModeRead) (k : Nat) : Part :=
  (p.counted d k).withModes
    (Tab.put (Tab.next p.bench.modes) { m with rows := collected (modeBytes p d r step) k } p.bench.modes)

section
variable {p : Part} {d r step k : Nat} {m : ModeRead}

theorem find_modeAfter : Tab.find (Tab.next p.bench.modes) (modeAfter p d r step m k).bench.modes =
    some { m with rows := collected (modeBytes p d r step) k } := Tab.find_put_same _ _ _

theorem mem_modeAfter : (modeAfter p d r step m k).mem = p.mem := (counted_frame p d k).2.1

/-- A row before the last. -/
theorem modeAfter_succ (h : Readable p d (r + k * step)) (hk : k < 15) :
    (modeAfter p d r step m k).rowRequest d (.mode (Tab.next p.bench.modes) k (r + k * step) .clean) = modeAfter p d r step m (k + 1) := by
  have ready : Readable (modeAfter p d r step m k) d (r + k * step) := h.counted k _
  have more : (collected (modeBytes p d r step) (k + 1)).all Option.isSome = false := by
    rw [all_collected, decide_eq_false_iff_not]
    omega
  rw [← setAt_collected] at more
  rw [rowRequest_mode ready, modeRow_keeps find_modeAfter ready.sound (by rw [mem_modeAfter]; exact more), mem_modeAfter]
  unfold modeAfter
  rw [bumpBench_withModes, ← counted_succ, ← setAt_collected]
  exact congrArg (p.counted d (k + 1)).withModes (Tab.put_put _ _ _ _)

/-- The last row delivers what is gathered of all 16, without poison. -/
theorem modeAfter_last (h : Readable p d (r + 15 * step)) :
    (modeAfter p d r step m 15).rowRequest d (.mode (Tab.next p.bench.modes) 15 (r + 15 * step) .clean) =
      (p.counted d 16).deliver (gathered m ((List.range 16).map fun i => (modeBytes p d r step i).1), false) := by
  have ready : Readable (modeAfter p d r step m 15) d (r + 15 * step) := h.counted 15 _
  have complete : (collected (modeBytes p d r step) 16).all Option.isSome = true := by
    rw [all_collected]
    rfl
  have gone : ((modeAfter p d r step m 15).bumpBench d 0 1).withModes
      (Tab.del (Tab.next p.bench.modes) (modeAfter p d r step m 15).bench.modes) = p.counted d 16 := by
    have bench := (counted_frame p d 16).2.2.1
    unfold modeAfter
    rw [bumpBench_withModes, ← counted_succ]
    rw [withModes_withModes, modes_withModes, Tab.del_put (Tab.find_next _), ← bench, withModes_modes]
  rw [rowRequest_mode ready, modeRow_delivers find_modeAfter ready.sound (by rw [mem_modeAfter]; exact setAt_collected _ _) complete, gone,
    filterMap_collected]
  rfl

/-- The 16 row accesses of a mode read (R175, R176). -/
theorem modeRows_deliver (h : ∀ i, i < 16 → Readable p d (r + i * step)) :
    (List.range 16).foldl (fun q i => q.rowRequest d (.mode (Tab.next p.bench.modes) i (r + i * step) .clean)) (modeAfter p d r step m 0) =
      (p.counted d 16).deliver (gathered m ((List.range 16).map fun i => (modeBytes p d r step i).1), false) := by
  have first : ∀ k, k ≤ 15 →
      (List.range k).foldl (fun q i => q.rowRequest d (.mode (Tab.next p.bench.modes) i (r + i * step) .clean)) (modeAfter p d r step m 0) =
        modeAfter p d r step m k := by
    intro k hk
    induction k with
    | zero => rfl
    | succ k ih =>
      rw [List.range_succ, List.foldl_append, ih (Nat.le_of_succ_le hk), List.foldl_cons, List.foldl_nil,
        modeAfter_succ (h k (by omega)) hk]
  conv => lhs; rw [List.range_succ]
  rw [List.foldl_append, first 15 (Nat.le_refl _), List.foldl_cons, List.foldl_nil, modeAfter_last (h 15 (by omega))]

end

end Part

end Sys2Proof.Machine

namespace Sys2Proof.Safety
open Sys2Proof Sys2Proof.Machine

theorem exec_transposedRead (s : State) (c n r step w : Nat) (ecc : Ecc) :
    exec (.transposedRead c n r step w ecc) s = settlesTo s (s.part.modeRead c n r step ecc (some w) 0) := rfl

theorem exec_stridedRead (s : State) (c n r step seg : Nat) (ecc : Ecc) :
    exec (.stridedRead c n r step seg ecc) s = settlesTo s (s.part.modeRead c n r step ecc none seg) := rfl

section
variable {p : Part} {c n r step : Nat}

/-- A mode read of 16 granted rows that can be read delivers what it gathers of them. -/
theorem modeRead_granted (hu : p.benchUp (p.phys n) = true)
    (hg : ∀ i, i < 16 → r + i * step < 262144 ∧ p.rowGranted c n (r + i * step) = true)
    (h : ∀ i, i < 16 → Part.Readable p (p.phys n) (r + i * step)) (width : Option Nat) (seg : Nat) :
    p.modeRead c n r step .clean width seg = (p.counted (p.phys n) 16).deliver
      (Part.gathered ⟨rep 16 none, width, seg⟩ ((List.range 16).map fun i => (p.modeBytes (p.phys n) r step i).1), false) := by
  have inside : ((List.range 16).map fun i => r + i * step).find? (fun x => decide (262144 ≤ x) || !p.rowGranted c n x) = none := by
    simp only [List.find?_eq_none, List.mem_map, List.mem_range, forall_exists_index, and_imp, forall_apply_eq_imp_iff₂]
    intro i hi
    obtain ⟨stored, granted⟩ := hg i hi
    rw [granted, decide_eq_false (Nat.not_le.mpr stored)]
    exact Bool.false_ne_true
  simp only [Part.modeRead, Part.onDie_up hu, inside, ite_self]
  exact Part.modeRows_deliver (m := ⟨rep 16 none, width, seg⟩) h

/-- A mode read whose first row lies outside the grant is the address fault (R177). -/
theorem modeRead_foreign (hu : p.benchUp (p.phys n) = true) (hg : p.rowGranted c n r = false) (ecc : Ecc) (width : Option Nat) (seg : Nat) :
    p.modeRead c n r step ecc width seg = p.ctxFault c ⟨0x0402, .none, 0, none, benchAt n (512 * r)⟩ := by
  have first : ((List.range 16).map fun i => r + i * step).find? (fun x => decide (262144 ≤ x) || !p.rowGranted c n x) = some r := by
    rw [List.range_succ_eq_map, List.map_cons, Nat.zero_mul, Nat.add_zero, List.find?_cons, hg, Bool.not_false, Bool.or_true]
  simp only [Part.modeRead, Part.onDie_up hu, first]

end

/-- Settles O30: the 16 accesses deliver what is gathered of the rows, and the two ways to gather are spelled out by `transpose_rows` and
`gatherSeg_rows`. What UNIT and DETAIL say of the address fault is the model's choice (log entry 18). -/
theorem modeReadsGatherSixteenRows : Obligations.ModeReadsGatherSixteenRows := by
  intro s c n r step hu hd d byteAt
  refine ⟨fun h => ?gathers, fun hg width => ?foreign⟩
  case foreign => rw [exec_transposedRead, modeRead_foreign hu hg]
  case gathers =>
    intro p
    have reads := modeRead_granted hu (fun i hi => let ⟨stored, granted, _⟩ := h i hi; ⟨stored, granted⟩) fun i hi => by
      obtain ⟨-, -, awake, free, sound⟩ := h i hi
      exact ⟨hd, free, awake, sound⟩
    have whole := s.part.length_modeBytes d r step
    have byte := fun i b (hb : b < 512) => s.part.getD_modeBytes d r step i hb
    refine ⟨fun w hw => ?transposed, fun seg hs => ?strided⟩
    case transposed =>
      have divides : w ∣ 512 := by rcases hw with rfl | rfl | rfl <;> decide
      obtain ⟨length, bytes⟩ := transpose_rows whole divides
      refine ⟨_, (exec_transposedRead ..).trans (congrArg (settlesTo s) (reads (some w) 0)), length,
        fun col i b hc hi hb => (bytes col i b hc hi hb).trans (byte i _ ?_)⟩
      calc col * w + b < (col + 1) * w := by rw [Nat.succ_mul]; omega
        _ ≤ 512 := Nat.le_trans (Nat.mul_le_mul_right w hc) (Nat.div_mul_le_self 512 w)
    case strided =>
      obtain ⟨length, bytes⟩ := gatherSeg_rows whole hs
      exact ⟨_, (exec_stridedRead ..).trans (congrArg (settlesTo s) (reads none seg)), length,
        fun i b hi hb => (bytes i b hi hb).trans (byte i _ (by omega))⟩

end Sys2Proof.Safety
end

section
/-!
Cupboards (09 R219): a flush and a disable through CUPBOARD_CTL, and the fill of a line that was asked for.
-/

namespace Sys2Proof.Machine.Part
open Sys2Proof

/-- A sound sector that its controller reads without a finding comes as memory holds it, and the read changes nothing (R297). -/
theorem sectorRead_sound {p : Part} {a : Nat} (ha : a % 32 = 0) (hp : p.mem.poisoned a = false) :
    p.sectorRead a .clean = ((p.mem.read a 32, false), p) := by
  have aligned : a / 32 * 32 = a := Nat.div_mul_cancel (Nat.dvd_of_mod_eq_zero ha)
  simp only [sectorRead, aligned, hp, Bool.false_eq_true, if_false]

@[simp] theorem cup_setCup (p : Part) (m : Nat) (x : Cupboard) : (p.setCup m x).cup m = x := by
  rw [cup, setCup, Tab.getD, Tab.find_put_same, Option.getD_some]

@[simp] theorem cupEn_setCup (p : Part) (m k : Nat) (x : Cupboard) : (p.setCup m x).cupEn k = p.cupEn k := rfl

/-- The fill of a line that was asked for, its two sectors sound and its Cupboard on. -/
theorem cupboardFillDone_fills {p : Part} {m line : Nat} (hf : (p.cup m).fills.contains line = true) (he : p.cupEn m = true)
    (hlo : p.mem.poisoned (line * 64) = false) (hhi : p.mem.poisoned (line * 64 + 32) = false) :
    p.cupboardFillDone m line .clean =
      let x : Cupboard := { p.cup m with fills := (p.cup m).fills.filter (· != line) }
      ((p.setCup m x).setCup m (cupTouch x line)).deliver (p.mem.read (line * 64) 32 ++ p.mem.read (line * 64 + 32) 32, false) := by
  have lower := fun x => sectorRead_sound (p := p.setCup m x) (a := line * 64) (by omega) hlo
  have upper := fun x => sectorRead_sound (p := p.setCup m x) (a := line * 64 + 32) (by omega) hhi
  simp only [cupboardFillDone, hf, if_true, lower, upper, cupEn_setCup, he, cup_setCup, Bool.or_self, Bool.not_false, Bool.and_self,
    setCup_mem]
  rfl

/-- The part once Cupboard `m` has begun to drop every line. -/
def cupDropped (p : Part) (m : Nat) : Part := (p.setCup m { p.cup m with lines := [] }).setRb .cupboardStatus m 0 2 true

end Sys2Proof.Machine.Part

namespace Sys2Proof.Safety
open Sys2Proof Sys2Proof.Machine

theorem exec_cupboardFlush (s : State) (port m : Nat) :
    exec (.cupboardFlush port m) s =
      becomes s (s.part.writeReg port (regOff .cupboardCtl m 0) .full (BitVec.ofNat 64 (b2n (s.part.cupEn m) + 2))) := rfl

theorem exec_cupboardDisable (s : State) (port m : Nat) :
    exec (.cupboardDisable port m) s = becomes s (s.part.writeReg port (regOff .cupboardCtl m 0) .full 0) := rfl

theorem exec_cupboardFlushDone (s : State) (m : Nat) :
    exec (.cupboardFlushDone m) s = becomes s (s.part.setRb .cupboardStatus m 0 2 false) := rfl

theorem exec_cupboardFillDone (s : State) (m line : Nat) (ecc : Ecc) :
    exec (.cupboardFillDone m line ecc) s = becomes s (s.part.cupboardFillDone m line ecc) := rfl

/-- A whole write of CUPBOARD_CTL with EN = 0 or FLUSH = 1 stores EN and begins to drop every line. -/
theorem writeReg_cupboardCtl {p : Part} {port m : Nat} (hs : Served p port (regOff .cupboardCtl m 0) ⟨.cupboardCtl, m, 0⟩) {v : Reg}
    (hv : v.toNat.testBit 0 = false ∨ v.toNat.testBit 1 = true) :
    p.writeReg port (regOff .cupboardCtl m 0) .full v =
      (written p port (regOff .cupboardCtl m 0) ⟨.cupboardCtl, m, 0⟩ v.toNat).cupDropped m := by
  have plain : Plain p ⟨.cupboardCtl, m, 0⟩ v.toNat := rfl
  have drops : (!v.toNat.testBit 0 || v.toNat.testBit 1) = true := by
    rcases hv with h | h <;> rw [h] <;> simp only [Bool.not_false, Bool.true_or, Bool.or_true]
  rw [writeReg_single hs rfl]
  show p.setCupboard _ = _
  rw [Part.setCupboard, store_clean (clean_whole plain ..), newImage_whole plain rfl, zero_full _ _ 0 (by decide),
    one_full _ _ 1 (by decide), if_pos drops]
  rfl

/-- Settles O20: the two commands are writes of CUPBOARD_CTL, and a fill reads two sound sectors. That each writes one bit and leaves the other
fields as they are, and that fills in flight outlast a flush, is the model's choice (log entries 19 and 24). -/
theorem cupboardsFillAndFlush : Obligations.CupboardsFillAndFlush := by
  intro s port m
  refine ⟨fun hs => ⟨?flush, ?disable⟩, exec_cupboardFlushDone s m, fun line hf he hlo hhi => ?fill⟩
  case flush =>
    have value : (BitVec.ofNat 64 (b2n (s.part.cupEn m) + 2)).toNat = b2n (s.part.cupEn m) + 2 := by cases s.part.cupEn m <;> rfl
    have flushes : (b2n (s.part.cupEn m) + 2).testBit 1 = true := by cases s.part.cupEn m <;> rfl
    rw [exec_cupboardFlush, writeReg_cupboardCtl hs (Or.inr (by rw [value]; exact flushes)), value]
    rfl
  case disable =>
    rw [exec_cupboardDisable, writeReg_cupboardCtl hs (Or.inl rfl)]
    rfl
  case fill => rw [exec_cupboardFillDone, Part.cupboardFillDone_fills hf he hlo hhi]

end Sys2Proof.Safety
end

section
/-!
Units of work on engines and Carriers (09 R205 to R208, R220, 06 R137): a unit of a compute engine's task, a step of a transfer, and the
Carrier record that is taken up.
-/

namespace Sys2Proof.Safety
open Sys2Proof Sys2Proof.Machine

/-- A last step that is made only under a condition. -/
theorem Answers.onPart_if {c : Prop} [Decidable c] (f : Part → Part) (w : Who) (s : RS) :
    Answers (if c then Rd.onPart f else Pure.pure ()) w s () { s with p := if c then f s.p else s.p } := by
  split <;> rfl

theorem exec_carrier (s : State) (j r : Nat) (st : RdStat) (hw : Cells) :
    exec (.carrier j r st hw) s = settlesTo s (s.part.carrierIssue j r st hw) := rfl

theorem exec_carrierDataArrive (s : State) (e : Nat) (st : RdStat) (ecc : Ecc) (cause : StallCause) (n : Nat) (hw : Cells) :
    exec (.carrierDataArrive e st ecc cause n hw) s = settlesTo s (s.part.carrierDataArrive e st ecc cause n hw) := rfl

/-- The compute classes, each with what a unit of its task does. -/
def computeUnits : List (Cls × (Ecc → Task → Rd Task)) :=
  [(.planer, Part.planerUnit), (.joiner, Part.joinerUnit), (.burnisher, Part.burnisherUnit)]

theorem exec_operandDataArrive {cls : Cls} {unit : Ecc → Task → Rd Task} (h : (cls, unit) ∈ computeUnits) (s : State) (e : Nat) (st : RdStat)
    (ecc buf : Ecc) (cause : StallCause) (n : Nat) (hw : Cells) :
    exec (.operandDataArrive cls e st ecc buf cause n hw) s = settlesTo s (s.part.runUnit cls e st ecc cause n hw (unit buf)) := by
  simp only [computeUnits, List.mem_cons, Prod.mk.injEq, List.not_mem_nil, or_false] at h
  rcases h with ⟨rfl, rfl⟩ | ⟨rfl, rfl⟩ | ⟨rfl, rfl⟩ <;> rfl

/-! ### A unit of a task (R220) -/

section
variable {p : Part} {e : Nat} {st : RdStat} {ecc : Ecc} {cause : StallCause} {n : Nat} {hw : Cells} {t : Task} {x : Job}

/-- Task `t` of job `x` is of a context and a hold that let its engine work. -/
structure MayWork (p : Part) (t : Task) (x : Job) : Prop where
  job : p.job t.job = some x
  runs : p.ctxRuns t.ctx = true
  resident : p.residentOn t.ctx t.cab = true

/-- The part once its unit has left the task as `u`: what the part itself keeps of the task stays, and after the last unit the rows that it
wrote in part are released. -/
def unitDone (p : Part) (id : Nat) (u : Task) : Part :=
  let q := p.mapTask id fun v => { u with waitPos := v.waitPos, dst := v.dst, filled := v.filled, got := [] }
  if u.units ≤ u.next then q.releaseFills id else q

/-- A unit of a task whose gate is open. -/
theorem runUnit_works {cls : Cls} {f : Task → Rd Task} {u : Task} {z : RS} (ht : Tab.find (engKey cls e) p.jig.eng = some t)
    (hm : MayWork p t x) (hn : t.next < t.units) (hg : ((p.hostSees hw).stall cls e t cause n).taskGate (engKey cls e) t = none)
    (ha : Answers (f t) ⟨t.ctx, t.cab, some (cls, e), t.id, t.rix, x.ring⟩ ⟨(p.hostSees hw).stall cls e t cause n, ecc, st⟩ u z) :
    p.runUnit cls e st ecc cause n hw f = (unitDone z.p t.id u).forget t.id := by
  have due : ¬(!(p.ctxRuns t.ctx && p.residentOn t.ctx t.cab) || decide (t.units ≤ t.next)) = true := by
    simp [hm.runs, hm.resident, hn]
  unfold Part.runUnit
  rw [ht]
  dsimp only
  rw [hm.job]
  refine (if_neg due).trans (Answers.engage (t := { z with p := unitDone z.p t.id u }) ((Answers.part _ _).bind ?_))
  dsimp only
  rw [hg]
  exact ha.bind ((Answers.onPart _ _ _).bind (Answers.onPart_if _ _ _))

/-- A step of the transfer that a Carrier works on. -/
theorem carrierDataArrive_moves {z : RS} (ht : p.working e = some t) (hm : MayWork p t x)
    (ha : Answers (Part.carrierStep t (engKey .carrier (p.homeCarrier t.id)))
      ⟨t.ctx, t.cab, some (.carrier, p.homeCarrier t.id), t.id, t.rix, x.ring⟩ ⟨(p.hostSees hw).stall .carrier e t cause n, ecc, st⟩ () z) :
    p.carrierDataArrive e st ecc cause n hw = z.p.forget t.id := by
  have due : ¬(!(p.ctxRuns t.ctx && p.residentOn t.ctx t.cab)) = true := by simp [hm.runs, hm.resident]
  unfold Part.carrierDataArrive
  rw [ht]
  dsimp only
  rw [hm.job]
  exact (if_neg due).trans (Answers.engage ha)

end

/-! ### A Carrier record is taken up (R205, R208, R212, R217) -/

/-- Carrier `e` at work for record (j, r) of job `x`. -/
def carrierWho (x : Job) (j r e : Nat) : Who := ⟨x.ctx, x.cab, some (.carrier, e), earlyKey (recKey j r), r, x.ring⟩

/-- The block list of a record that was parked with its list, or as it is read. -/
def listOf (p : Part) (y : Rec) (j r : Nat) : Rd (List Nat) := ((p.parkedList j r).map Pure.pure).getD (Rd.blockList (bits y.img 128 64))

/-- The task of record (j, r) before its block list and its Carriers are told. -/
def newTransfer (x : Job) (y : Rec) (j r : Nat) (wt : Option (Nat × Nat × Nat)) : Task :=
  { id := 0, job := j, rix := r, ctx := x.ctx, cab := x.cab, img := y.img, wait := wt }

/-- What becomes of a Carrier record whose block list is read and checked: it waits for Carriers, resumes on them or starts on them. -/
def carrierPlace (x : Job) (y : Rec) (j r : Nat) (old : Option Task) (desc : List Nat) : Rd Unit := do
  let p ← Rd.part
  match p.carriersNow x.cab j r y.img desc, old with
  | none, _ => Rd.onPart fun p => p.park (recKey j r) desc
  | some es, some t => Rd.onPart fun p => p.resumeCarrier x es t desc
  | some es, none =>
    Rd.regionsOk desc
    let rs := p.sharedRanges desc (← Rd.writeList y.img)
    let wt ← Rd.armWait y.img
    Rd.onPart fun p => p.startCarrier x es (newTransfer x y j r wt) desc rs

section
variable {p : Part} {j r : Nat} {st : RdStat} {hw : Cells} {x : Job} {y : Rec} {e : Nat} {old : Option Task} {w : Who} {desc : List Nat}
  {s t1 t2 t3 t4 t5 z : RS}

/-- A record whose list is had and checked is placed. -/
theorem carrierTake_places (hl : Answers (listOf s.p y j r) w s desc t1) (hs : Answers (Rd.sharedOk desc) w t1 () t2)
    (hr : listRanges y.img desc ≤ 64) (hp : Answers (carrierPlace x y j r old desc) w t2 () z) :
    Answers (Part.carrierTake x y j r old) w s () z := by
  have placed : Answers (do Rd.sharedOk desc; Rd.need (decide (listRanges y.img desc ≤ 64)); carrierPlace x y j r old desc) w t1 () z :=
    hs.bind ((Answers.need (decide_eq_true hr) w t2).bind hp)
  refine (Answers.part w s).bind ?_
  revert hl
  unfold listOf
  cases s.p.parkedList j r <;> exact fun hl => hl.bind placed

/-- Without Carriers the record waits in order of arrival. -/
theorem carrierPlace_parks (hc : t2.p.carriersNow x.cab j r y.img desc = none) :
    Answers (carrierPlace x y j r old desc) w t2 () { t2 with p := t2.p.park (recKey j r) desc } := by
  refine (Answers.part w t2).bind ?_
  rw [hc]
  exact Answers.onPart _ _ _

/-- A stopped transfer resumes on its Carriers. -/
theorem carrierPlace_resumes {t : Task} {es : List Nat} (hc : t2.p.carriersNow x.cab j r y.img desc = some es) :
    Answers (carrierPlace x y j r (some t) desc) w t2 () { t2 with p := t2.p.resumeCarrier x es t desc } := by
  refine (Answers.part w t2).bind ?_
  rw [hc]
  exact Answers.onPart _ _ _

/-- A new transfer starts on its Carriers, its regions, write list and wait read and checked. -/
theorem carrierPlace_starts {es : List Nat} {rs : List Range} {wt : Option (Nat × Nat × Nat)}
    (hc : t2.p.carriersNow x.cab j r y.img desc = some es) (hg : Answers (Rd.regionsOk desc) w t2 () t3)
    (hw : Answers (Rd.writeList y.img) w t3 rs t4) (ha : Answers (Rd.armWait y.img) w t4 wt t5) :
    Answers (carrierPlace x y j r none desc) w t2 ()
      { t5 with p := t5.p.startCarrier x es (newTransfer x y j r wt) desc (t2.p.sharedRanges desc rs) } := by
  refine (Answers.part w t2).bind ?_
  rw [hc]
  exact hg.bind (hw.bind (ha.bind (Answers.onPart _ _ _)))

/-- The record that the Jig picks is taken up by its Carrier. -/
theorem carrierIssue_takes (hl : p.liveRec j r = some (x, y)) (hp : p.pick x.ctx x.cab .carrier = some (j, r, e))
    (ht : Answers (Part.carrierTake x y j r (p.stoppedTask j r)) (carrierWho x j r e) ⟨p.hostSees hw, .clean, st⟩ () z) :
    p.carrierIssue j r st hw = z.p.forget (earlyKey (recKey j r)) := by
  have picked : ¬(j ≠ j ∨ r ≠ r) := by simp
  unfold Part.carrierIssue
  rw [hl]
  dsimp only
  rw [hp]
  exact (if_neg picked).trans (Answers.engage ht)

end

/-- Settles O49: a unit of a task, a step of a transfer, and the three ways in which a Carrier record is placed. What a unit is, that a record
without Carriers is parked with its list read and that later Carrier tasks go on before it are the model's choices (log entries 17, 29
and 37). -/
theorem workIsDoneInUnits : Obligations.WorkIsDoneInUnits := by
  intro s e st ecc cause n hw
  refine ⟨?unit, ?step, ?record⟩
  case unit =>
    intro cls unit buf t u x z hu ht hj hc hr hn p hg ha q
    rw [exec_operandDataArrive hu, runUnit_works ht ⟨hj, hc, hr⟩ hn hg ha]
    rfl
  case step =>
    intro t x z ht hj hc hr h p ha
    rw [exec_carrierDataArrive, carrierDataArrive_moves ht ⟨hj, hc, hr⟩ ha]
  case record =>
    intro j r x y hl hp key w p0 desc t1 t2 hd hs hr
    have takes : ∀ {z : RS} {q : Part}, Answers (carrierPlace x y j r (s.part.stoppedTask j r) desc) w t2 () { z with p := q } →
        exec (.carrier j r st hw) s = settlesTo s (q.forget key) := fun place => by
      rw [exec_carrier, carrierIssue_takes hl hp (carrierTake_places hd hs hr place)]
    refine ⟨fun hc => takes (carrierPlace_parks hc), fun t es ht hc => takes (ht ▸ carrierPlace_resumes hc), ?starts⟩
    intro t3 t4 t5 e0 es rs wt ht hc hg hwl ha id wait t p
    exact takes (ht ▸ carrierPlace_starts hc hg hwl ha)

end Sys2Proof.Safety
end

section
/-!
Issue on the compute engines (10 R231 to R234, R238, 06 R127, 07 R149, R159): the record that the Jig picks resumes its stopped task, or the
task that its descriptor, its write list and its wait spell is placed.
-/

namespace Sys2Proof.Safety
open Sys2Proof Sys2Proof.Machine

/-- Engine `e` of class `cls` at work for record (j, r) of job `x`. -/
def engineWho (x : Job) (cls : Cls) (j r e : Nat) : Who := ⟨x.ctx, x.cab, some (cls, e), earlyKey (recKey j r), r, x.ring⟩

/-- Task `t` as the part keeps it for record (j, r): the next to be issued, with its number, its image, its wait and its declared ranges. -/
def issuedTask (p : Part) (id j r : Nat) (x : Job) (y : Rec) (t : Task) (rs : List Range) (wt : Option (Nat × Nat × Nat)) : Task :=
  { t with
    id := id, job := j, rix := r, ctx := x.ctx, cab := x.cab, img := y.img, wait := wt, toReg := rs ++ t.toReg, order := p.jig.nextIssue }

/-- The part once task `t` has taken its number, and its place in the order of issue, on engine `e`. -/
def taskPlaced (p : Part) (cls : Cls) (e : Nat) (x : Job) (t : Task) : Part :=
  ({ p with jig := { p.jig with nextTask := t.id, nextIssue := p.jig.nextIssue + 1 } } : Part).install x cls e t

/-- The Jig picks record `y`, (j, r) of job `x`, for engine `e` of class `cls`. -/
structure Picked (p : Part) (cls : Cls) (j r e : Nat) (x : Job) (y : Rec) : Prop where
  live : p.liveRec j r = some (x, y)
  pick : p.pick x.ctx x.cab cls = some (j, r, e)

section
variable {p : Part} {cls : Cls} {j r e : Nat} {x : Job} {y : Rec} {st : RdStat} {hw : Cells} {f : Nat → Job → Nat → Rd Task}

/-- A stopped task of the picked record resumes (R238). -/
theorem issue_resumes {t : Task} (h : Picked p cls j r e x y) (ht : p.stoppedTask j r = some t) :
    p.issue cls j r st hw f = p.resumeTask x cls e t := by
  simp [Part.issue, h.live, h.pick, ht]

/-- The task that the picked record's descriptor, write list and wait spell is placed. -/
theorem issue_places {t : Task} {rs : List Range} {wt : Option (Nat × Nat × Nat)} {t1 t2 t3 : RS} (h : Picked p cls j r e x y)
    (hn : p.stoppedTask j r = none) (hf : Answers (f e x y.img) (engineWho x cls j r e) ⟨p.hostSees hw, .clean, st⟩ t t1)
    (hl : Answers (Rd.writeList y.img) (engineWho x cls j r e) t1 rs t2)
    (ha : Answers (Rd.armWait y.img) (engineWho x cls j r e) t2 wt t3) :
    p.issue cls j r st hw f =
      (taskPlaced t3.p cls e x (issuedTask t3.p (p.jig.nextTask + 1) j r x y t rs wt)).forget (earlyKey (recKey j r)) := by
  have mine : ¬(j ≠ j ∨ r ≠ r) := by simp
  unfold Part.issue
  rw [h.live]
  dsimp only
  rw [h.pick]
  refine (if_neg mine).trans ?_
  rw [hn]
  refine Answers.engage (t := { t3 with p := taskPlaced t3.p cls e x (issuedTask t3.p (p.jig.nextTask + 1) j r x y t rs wt) }) (hf.bind ?_)
  exact hl.bind (ha.bind (Answers.onPart _ _ _))

end

section
variable {s : State} {j r op : Nat} {st : RdStat} {hw : Cells} {i : Instr}

/-- A command that is an issue takes its record's task. -/
theorem takesTask_of_issue {cls : Cls} {read : Nat → Nat → Rd Task}
    (hi : exec i s = settlesTo s (s.part.issue cls j r st hw fun e _ img => read e img)) : TakesTask s j r st hw cls read i := by
  intro x y e hl hp id key w
  refine ⟨fun t ht => ?resumes, ?places⟩
  case resumes => rw [hi, issue_resumes ⟨hl, hp⟩ ht]
  case places =>
    intro t rs wt t1 t2 t3 hn hr hwl ha p
    rw [hi, issue_places ⟨hl, hp⟩ hn hr hwl ha]
    rfl

theorem takesTask_planer (h : exec i s = settlesTo s (s.part.planerIssue op j r st hw)) :
    TakesTask s j r st hw .planer (fun _ => Part.planerTask op j r) i := takesTask_of_issue h

theorem takesTask_joiner (h : exec i s = settlesTo s (s.part.joinerIssue op j r st hw)) :
    TakesTask s j r st hw .joiner (Part.joinerTask op j r) i := takesTask_of_issue h

theorem takesTask_burnisher (h : exec i s = settlesTo s (s.part.burnIssue op j r st hw)) :
    TakesTask s j r st hw .burnisher (fun _ => Part.burnTask op j r) i := takesTask_of_issue h

end

/-- Settles O48: each command is its class's issue with its operation's code, and an issue takes the task of the record that the Jig picks. -/
theorem tasksIssueOnEngines : Obligations.TasksIssueOnEngines := by
  intro s j r st hw
  refine ⟨?conv, ?tconv, ?maxpool, ?avgpool, ?s2c, ?c2s, ?gemm, ?aa, ?attn, ?add, ?mul, ?max, ?min, ?convert, ?lut, ?rmsnorm, ?layernorm,
    ?softmax, ?gather, ?dropout, ?fillUniform, ?fillNormal⟩
  case conv | tconv | maxpool | avgpool | s2c | c2s => exact takesTask_planer rfl
  case gemm | aa | attn => exact takesTask_joiner rfl
  case add | mul | max | min | convert | lut | rmsnorm | layernorm | softmax | gather | dropout | fillUniform | fillNormal =>
    exact takesTask_burnisher rfl

end Sys2Proof.Safety
end

section
/-!
Records of a job (09 R209, R221, 10 R225 to R236): the fetch, the records that run on nothing, the completion of tasks and transfers, and
the switch of a batch engine.
-/

namespace Sys2Proof.Safety
open Sys2Proof Sys2Proof.Machine

/-! ### The commands -/

theorem exec_recordFetch (s : State) (j : Nat) (st : RdStat) (hw : Cells) :
    exec (.recordFetch j st hw) s = settlesTo s (s.part.recordFetch j st hw) := rfl

theorem exec_nop (s : State) (j r : Nat) : exec (.nop j r) s = settlesTo s (s.part.nop j r) := rfl

theorem exec_fence (s : State) (j r : Nat) : exec (.fence j r) s = settlesTo s (s.part.fence j r) := rfl

theorem exec_computeTaskComplete (s : State) (cls : Cls) (e : Nat) :
    exec (.computeTaskComplete cls e) s = settlesTo s (s.part.computeTaskComplete cls e) := rfl

theorem exec_batchSwitch (s : State) (cls : Cls) (e : Nat) : exec (.batchSwitch cls e) s = settlesTo s (s.part.batchSwitch cls e) := rfl

theorem exec_transferComplete (s : State) (e : Nat) : exec (.transferComplete e) s = settlesTo s (s.part.transferComplete e) := rfl

/-! ### Fetch (R225, R226, R230) -/

/-- Job `j` had its Jig's last turn to fetch (R230). -/
def turnTaken (p : Part) (j : Nat) (x : Job) : Part :=
  { p with jig := { p.jig with turn := Tab.put (p.homeDie x.cab) j p.jig.turn } }

section
variable {p : Part} {j fuel img : Nat} {x : Job} {st : RdStat} {hw : Cells} {t : RS}

/-- The job whose turn it is fetches one group of up to eight records. -/
theorem recordFetch_turn (hj : p.job j = some x) (ht : p.fetchTurn (p.homeDie x.cab) = some j) :
    p.recordFetch j st hw = Part.fetchGo j st 8 ((turnTaken p j x).hostSees hw) := by
  simp [Part.recordFetch, hj, ht, turnTaken]

/-- A group ends where the job may fetch no further. -/
theorem fetchGo_stops (hj : p.job j = some x) (hc : p.canFetch x = false) : Part.fetchGo j st (fuel + 1) p = p := by
  simp [Part.fetchGo, hj, hc]

/-- A record that is read is checked, and enters the Jig before the group goes on; one that fails its check faults the context (R226). -/
theorem fetchGo_reads (hj : p.job j = some x) (hc : p.canFetch x = true)
    (hr : Answers (Rd.controlNat (x.graph + 64 * x.next) 64) (recWho x j x.next) ⟨p, .clean, st⟩ img t) :
    Part.fetchGo j st (fuel + 1) p =
      if p.recOk x.cab x.next img = true then Part.fetchGo j .ok fuel ((t.p.forget (earlyKey (recKey j x.next))).addRec j x img)
      else t.p.ctxFault x.ctx ⟨0x0401, .none, 0, some x.ctx, recDetail x.next x.ring⟩ := by
  have due : ¬(!p.canFetch x) = true := by simp [hc]
  rw [Part.fetchGo, hj]
  refine (if_neg due).trans ?_
  dsimp only
  unfold Answers recWho at hr
  rw [hr]
  rfl

end

/-! ### Records that run on nothing (R228, R229) -/

section
variable {p : Part} {j r : Nat} {x : Job} {y : Rec}

/-- A ready NOP completes. -/
theorem nop_completes (hl : p.liveRec j r = some (x, y)) (hp : y.st = .pending) (hk : kindOf y.img = 1) (hr : p.recReady j x r y = true) :
    p.nop j r = p.completeRec j r 0 false false 0 := by
  simp [Part.nop, hl, hp, hk, hr]

/-- A fence that is passed completes. -/
theorem fence_completes (hl : p.liveRec j r = some (x, y)) (hp : y.st = .pending) (hk : kindOf y.img = 2)
    (hf : p.fencePasses j r y.img = true) : p.fence j r = p.completeRec j r 0 false false 0 := by
  simp [Part.fence, hl, hp, hk, hf]

end

/-! ### Tasks and transfers end (R235, 09 R209) -/

/-- The part once compute task `t` has left engine `e` and is counted, and its record is complete. -/
def taskEnded (p : Part) (cls : Cls) (e : Nat) (t : Task) : Part :=
  let p := ({ p with jig := { p.jig with eng := Tab.del (engKey cls e) p.jig.eng } } : Part).bumpEng cls e t.ctx 8 1
  let p := if (t.zeroOut && cls == .planer) = true then p.bumpEng cls e t.ctx 12 1 else p
  p.completeRec t.job t.rix 0 t.zeroOut false 0

/-- The part once transfer `t` has left its Carriers and is counted on them, its source rows are returned and its record is complete. -/
def transferEnded (p : Part) (e : Nat) (t : Task) : Part :=
  let es := (p.jig.xfer.filter fun x => x.2.any fun u => u.id == t.id).map Prod.fst
  let low := (p.cabDies t.cab).head?.getD 0
  let per := if t.mcast then t.dies.length else 1
  let p := es.foldl (fun (p : Part) k =>
    (p.bumpCarrier k low t.ctx 9 (listTotal t.desc * per)).bumpCarrier k low t.ctx 10 (listBilled t.desc)) p
  let p := p.bumpCarrier (es.head?.getD e) low t.ctx 8 1
  let p := if t.mcast then p.bumpCarrier (es.head?.getD e) low t.ctx 12 1 else p
  let p : Part := { p with jig := { p.jig with xfer := Tab.mapV (fun _ (l : List Task) => l.filter fun u => u.id != t.id) p.jig.xfer } }
  (p.returnRows t).completeRec t.job t.rix 0 false false 0

/-- A transfer that has moved its data and owes neither ranges nor region positions. -/
def transferOver (t : Task) : Bool := decide (t.units ≤ t.next) && t.buf.isEmpty && t.toReg.isEmpty && t.waitPos.isEmpty

/-- Task `t` may end: its context and hold let the Jig work, and what it wrote has reached its owners. -/
structure MayEnd (p : Part) (t : Task) : Prop where
  runs : p.ctxRuns t.ctx = true
  resident : p.residentOn t.ctx t.cab = true
  landed : p.writesOpen t.id = false

section
variable {p : Part} {cls : Cls} {e : Nat} {t : Task}

/-- A compute task with no unit left, no range to register and no region position owed ends. -/
theorem computeTaskComplete_ends (ht : Tab.find (engKey cls e) p.jig.eng = some t) (hm : MayEnd p t) (hr : t.toReg = [])
    (hn : t.units ≤ t.next) (hp : t.waitPos = []) : p.computeTaskComplete cls e = taskEnded p cls e t := by
  have done : ¬(t.next < t.units ∨ (!t.toReg.isEmpty) = true ∨ (!t.waitPos.isEmpty) = true ∨ p.writesOpen t.id = true ∨
      (!(p.ctxRuns t.ctx && p.residentOn t.ctx t.cab)) = true) := by
    simp [hr, hp, hm.landed, hm.runs, hm.resident, hn]
  unfold Part.computeTaskComplete
  rw [ht]
  exact if_neg done

/-- The first transfer of a Carrier that is over ends on every Carrier that ran it. -/
theorem transferComplete_ends (ht : (Tab.getD p.jig.xfer e []).find? transferOver = some t) (hm : MayEnd p t) :
    p.transferComplete e = transferEnded p e t := by
  have done : ¬(!(p.ctxRuns t.ctx && p.residentOn t.ctx t.cab) || p.writesOpen t.id) = true := by
    simp [hm.landed, hm.runs, hm.resident]
  unfold transferOver at ht
  unfold Part.transferComplete
  rw [ht]
  exact if_neg done

/-! ### A batch engine switches (09 R221) -/

/-- A waiting task of a batch context is set aside for a ready one. -/
theorem batchSwitch_stops {on : Await} (ht : p.workOf cls e = some t) (hw : p.waitsFor cls e t = some on) (hb : p.realTime t.ctx = false)
    (hr : p.residentOn t.ctx t.cab = true) (ho : p.otherReady t cls e = true) :
    p.batchSwitch cls e = ((p.bumpEng cls e t.ctx 24 1).drainTask t.id).stopTask t (some on) := by
  simp [Part.batchSwitch, ht, hw, hb, hr, ho]

end

/-- Settles O47: the fetch of a group and of each of its records, the records that run on nothing, the ends of tasks and transfers, and the
switch of a batch engine. Which records let a fence pass, and what a batch task waits for and how it is set aside, are the model's choices
(log entries 30 and 87). -/
theorem recordsAreFetchedAndCompleted : Obligations.RecordsAreFetchedAndCompleted := by
  intro s
  refine ⟨?turn, ?group, ?none, ?compute, ?switch, ?transfer⟩
  case turn =>
    intro j x st hw hj ht p
    rw [exec_recordFetch, recordFetch_turn hj ht]
    rfl
  case group =>
    intro p j x st fuel img t hj
    refine ⟨fetchGo_stops hj, fun hc => ?reads⟩
    intro key hr
    exact fetchGo_reads hj hc hr
  case none =>
    intro j r x y hl hp
    refine ⟨fun hk hr => ?nop, fun hk hf => ?fence⟩
    case nop => rw [exec_nop, nop_completes hl hp hk hr]
    case fence => rw [exec_fence, fence_completes hl hp hk hf]
  case compute =>
    intro cls e t ht hc hr hg hn hp ho
    rw [exec_computeTaskComplete, computeTaskComplete_ends ht ⟨hc, hr, ho⟩ hg hn hp]
    rfl
  case switch =>
    intro cls e t on ht hw hb hr ho
    rw [exec_batchSwitch, batchSwitch_stops ht hw hb hr ho]
  case transfer =>
    intro e t ht hc hr ho
    rw [exec_transferComplete, transferComplete_ends ht ⟨hc, hr, ho⟩]
    rfl

end Sys2Proof.Safety
end

section
/-!
Cabinets (11 R246, R252, R255, 17 R397): writes of CAB_CTL and CAB_CMD, and that the start of a save leaves every register alone.
-/

namespace Sys2Proof.Machine.Part
open Sys2Proof

/-! ### What the start of a save leaves alone -/

/-- What each step of a fold leaves alone, the fold leaves alone. -/
theorem foldl_leaves {α β : Type} (field : Part → β) {f : Part → α → Part} (hf : ∀ q a, field (f q a) = field q) (l : List α) (p : Part) :
    field (l.foldl f p) = field p :=
  List.foldlRecOn (motive := fun q => field q = field p) l f rfl fun q hq a _ => (hf q a).trans hq

section
variable (p : Part)

@[simp] theorem bumpFn_regs (fn ev : Nat) : (p.bumpFn fn ev).regs = p.regs := by
  simp only [bumpFn, apply_ite Part.regs, bump_regs, ite_self]

@[simp] theorem hostPost_regs (fn a : Nat) (bs : List Byte) : (p.hostPost fn a bs).regs = p.regs := by
  simp only [hostPost, apply_ite Part.regs, onMem_regs, bumpFn_regs, ite_self]

@[simp] theorem ctlBad_regs (c a : Nat) : (p.ctlBad c a).regs = p.regs := rfl

@[simp] theorem translate_regs (c a : Nat) (write : Bool) : (p.translate c a write).2.regs = p.regs := by
  unfold translate
  dsimp only
  repeat' split
  all_goals simp only [setCtx_regs, free_regs]

@[simp] theorem ctlWrite_regs (c a : Nat) (bs : List Byte) : (p.ctlWrite c a bs).regs = p.regs := by
  unfold ctlWrite
  dsimp only
  repeat' split
  all_goals simp only [hbmPut, onMem_regs, hostPost_regs, ctlBad_regs, translate_regs]

@[simp] theorem ctlRead_regs (c a n : Nat) : (p.ctlRead c a n).2.regs = p.regs := by
  unfold ctlRead
  dsimp only
  repeat' split
  all_goals simp only [bumpFn_regs, ctlBad_regs, translate_regs]

@[simp] theorem strmBack_regs (c n : Nat) : (p.strmBack c n).regs = p.regs := by
  unfold strmBack
  split
  · rfl
  · dsimp only
    split
    · rw [ctlRead_regs]
    · simp only [ctlWrite_regs, setStrm_regs, apply_ite Part.regs, free_regs, ctlRead_regs, ite_self]

@[simp] theorem strmState_regs (c n st : Nat) : (p.strmState c n st).regs = p.regs := by
  unfold strmState
  split
  · rfl
  · rw [strmBack_regs, setStrm_regs]

@[simp] theorem dropSlot_regs (k : Nat) : (p.dropSlot k).regs = p.regs := by
  unfold dropSlot
  dsimp only
  repeat' split
  all_goals simp only [setStrm_regs, setSlot_regs]

@[simp] theorem dropStep_regs (g : Nat) : (p.dropStep g).regs = p.regs := foldl_leaves Part.regs dropSlot_regs _ p

@[simp] theorem swapHold_regs (c b : Nat) : (p.swapHold c b).regs = p.regs := by
  refine foldl_leaves Part.regs (fun q n => ?_) _ p
  split
  · simp only [apply_ite Part.regs, strmState_regs, ite_self]
  · rfl

@[simp] theorem drainReads_regs (c b : Nat) : (p.drainReads c b).regs = p.regs := rfl

/-- A save begins without a change of any register. -/
@[simp] theorem startSave_regs (c b : Nat) (next : Option Nat) : (p.startSave c b next).regs = p.regs := by
  unfold startSave
  split
  · rfl
  · dsimp only
    split
    · rfl
    · rw [drainReads_regs, swapHold_regs, foldl_leaves Part.regs dropStep_regs, setHold_regs]

end

end Sys2Proof.Machine.Part

namespace Sys2Proof.Safety
open Sys2Proof Sys2Proof.Machine

theorem exec_cabEnWrite (s : State) (port b : Nat) (h : Half) (v : Reg) :
    exec (.cabEnWrite port b h v) s = settlesTo s (s.part.writeReg port (regOff .cabCtl 0 b) h v) := rfl

theorem exec_save (s : State) (port b : Nat) :
    exec (.save port b) s =
      settlesTo s (s.part.writeReg port (regOff .cabCmd 0 b) .full (BitVec.ofNat 64 (1 + 2 * b2n (s.part.rb .cabCmd 0 b 1)))) := rfl

theorem exec_quiesce (s : State) (port b : Nat) (q : Bool) :
    exec (.quiesce port b q) s = settlesTo s (s.part.writeReg port (regOff .cabCmd 0 b) .full (BitVec.ofNat 64 (2 * b2n q))) := rfl

section
variable {p : Part} {b v : Nat}

/-- EN set for a disabled Cabinet of a ready part: a sound composition is stored and a decision taken, another is refused (R246). -/
theorem setCabCtl_opens (he : p.cabEn b = false) (hv : v.testBit 63 = true) (hr : p.ready = true) :
    p.setCabCtl ⟨⟨.cabCtl, 0, b⟩, 2 ^ 64 - 1, v, 0, [], []⟩ =
      if p.cabRefused b (bits (imageOf p ⟨.cabCtl, 0, b⟩ v) 32 12) = true then p.badAccess
      else (p.putImage ⟨.cabCtl, 0, b⟩ (imageOf p ⟨.cabCtl, 0, b⟩ v)).decideCab b := by
  have plain : Plain p ⟨.cabCtl, 0, b⟩ v := rfl
  have one : (⟨⟨.cabCtl, 0, b⟩, 2 ^ 64 - 1, v, 0, [], []⟩ : Acc).one 63 = true := (one_full _ _ _ (by decide) ..).trans hv
  simp only [Part.setCabCtl, he, hr, one, store_clean (clean_whole plain ..), newImage_whole plain rfl, Bool.not_true, Bool.false_or,
    Bool.true_and, Bool.false_eq_true, if_false, if_true]

/-- EN cleared for a Cabinet that no hold occupies clears EN alone. -/
theorem setCabCtl_closes (he : p.cabEn b = true) (hv : v.testBit 63 = false) (ho : p.occupant b = none) :
    p.setCabCtl ⟨⟨.cabCtl, 0, b⟩, 2 ^ 64 - 1, v, 0, [], []⟩ = p.setRb .cabCtl 0 b 63 false := by
  have zero : (⟨⟨.cabCtl, 0, b⟩, 2 ^ 64 - 1, v, 0, [], []⟩ : Acc).zero 63 = true := by rw [zero_full _ _ _ (by decide), hv]; rfl
  simp only [Part.setCabCtl, he, zero, ho, Option.isSome_none, Bool.not_true, Bool.or_self, Bool.false_eq_true, if_false, if_true]

/-- A whole write of CAB_CMD: QUIESCE is stored, SAVE saves the resident hold, and a QUIESCE that clears ends. -/
theorem setCabCmd_whole (p : Part) (b v : Nat) :
    p.setCabCmd ⟨⟨.cabCmd, 0, b⟩, 2 ^ 64 - 1, v, 0, [], []⟩ =
      let w := p.putImage ⟨.cabCmd, 0, b⟩ (imageOf p ⟨.cabCmd, 0, b⟩ v)
      let w := if v.testBit 0 = true then w.cabSave b else w
      if (p.rb .cabCmd 0 b 1 && !w.rb .cabCmd 0 b 1) = true then w.quiesceEnd b else w := by
  have plain : Plain p ⟨.cabCmd, 0, b⟩ v := rfl
  simp only [Part.setCabCmd, store_clean (clean_whole plain ..), newImage_whole plain rfl, one_full _ _ 0 (by decide)]

/-- QUIESCE of CAB_CMD as a whole write of it leaves it. -/
theorem quiesce_putImage (p : Part) (b v : Nat) :
    (p.putImage ⟨.cabCmd, 0, b⟩ (imageOf p ⟨.cabCmd, 0, b⟩ v)).rb .cabCmd 0 b 1 = v.testBit 1 :=
  have hrw : (regRow .cabCmd).rw.testBit 1 = true := by decide
  rb_putImage_rw p ⟨.cabCmd, 0, b⟩ v 1 hrw

/-- A write of CAB_CMD that carries QUIESCE as it stands changes nothing stored. -/
theorem putImage_same_quiesce (h : v.testBit 1 = p.rb .cabCmd 0 b 1) :
    p.putImage ⟨.cabCmd, 0, b⟩ (imageOf p ⟨.cabCmd, 0, b⟩ v) = p := by
  have same : imageOf p ⟨.cabCmd, 0, b⟩ v = p.old ⟨.cabCmd, 0, b⟩ := by
    refine Nat.eq_of_testBit_eq fun i => ?_
    rw [testBit_imageOf]
    split
    next hi =>
      obtain rfl : 1 = i := by
        have one : (regRow .cabCmd).rw = 2 ^ 1 := by decide
        rwa [one, Nat.testBit_two_pow, decide_eq_true_eq] at hi
      exact h
    next => rfl
  rw [Part.putImage, if_pos same]

/-- SAVE written with QUIESCE as it stands starts the save of the resident hold (R255). -/
theorem setCabCmd_saves {c : Nat} (hs : v.testBit 0 = true) (hq : v.testBit 1 = p.rb .cabCmd 0 b 1) (hc : p.residentCtx b = some c) :
    p.setCabCmd ⟨⟨.cabCmd, 0, b⟩, 2 ^ 64 - 1, v, 0, [], []⟩ = p.startSave c b none := by
  have saved : p.cabSave b = p.startSave c b none := by rw [Part.cabSave, hc]
  have kept : (p.startSave c b none).rb .cabCmd 0 b 1 = p.rb .cabCmd 0 b 1 := by
    rw [Part.rb, Part.rv_eq_of_regs (Part.startSave_regs ..), ← Part.rb]
  simp only [setCabCmd_whole, putImage_same_quiesce hq, hs, saved, kept, Bool.and_not_self, Bool.false_eq_true, if_false, if_true]

/-- A write of QUIESCE alone stores it, and where it clears, its end places what waits (17 R397). -/
theorem setCabCmd_quiesces (p : Part) (b : Nat) (q : Bool) :
    p.setCabCmd ⟨⟨.cabCmd, 0, b⟩, 2 ^ 64 - 1, 2 * b2n q, 0, [], []⟩ =
      let w := p.putImage ⟨.cabCmd, 0, b⟩ (imageOf p ⟨.cabCmd, 0, b⟩ (2 * b2n q))
      if p.rb .cabCmd 0 b 1 = true ∧ q = false then w.quiesceEnd b else w := by
  have idle : (2 * b2n q).testBit 0 = false := by cases q <;> rfl
  have now : (2 * b2n q).testBit 1 = q := by cases q <;> rfl
  simp only [setCabCmd_whole, idle, quiesce_putImage, now, Bool.false_eq_true, if_false, Bool.and_eq_true, Bool.not_eq_true']

end

/-- Settles O12: each write comes down to the lemma on its register above. That decisions fall due when EN is set and when QUIESCE clears is
the model's choice (log entry 22). -/
theorem cabinetsOpenSaveAndQuiesce : Obligations.CabinetsOpenSaveAndQuiesce := by
  intro s port b
  refine ⟨fun v hs => ⟨fun he hv hr => ?opens, fun he hv ho => ?closes⟩, fun hs => ⟨fun c hc => ?saves, fun q => ?quiesces⟩⟩
  case opens =>
    rw [exec_cabEnWrite, writeReg_paired hs rfl]
    exact congrArg (settlesTo s) (setCabCtl_opens he hv hr)
  case closes =>
    rw [exec_cabEnWrite, writeReg_paired hs rfl]
    exact congrArg (settlesTo s) (setCabCtl_closes he hv ho)
  case saves =>
    rw [exec_save, writeReg_single hs rfl]
    refine congrArg (settlesTo s) (setCabCmd_saves ?_ ?_ hc)
    · cases s.part.rb .cabCmd 0 b 1 <;> rfl
    · cases s.part.rb .cabCmd 0 b 1 <;> rfl
  case quiesces =>
    have value : (BitVec.ofNat 64 (2 * b2n q)).toNat = 2 * b2n q := by cases q <;> rfl
    rw [exec_quiesce, writeReg_single hs rfl, value]
    exact congrArg (settlesTo s) (setCabCmd_quiesces s.part b q)

end Sys2Proof.Safety
end

section
/-!
Contexts (11 R249 to R251, R261, R262): writes of CTX_CTL that set and clear EN, the end of a teardown, and invalidations.
-/

namespace Sys2Proof.Safety
open Sys2Proof Sys2Proof.Machine

theorem exec_ctxEnSet (s : State) (port c : Nat) (h : Half) (v : Reg) :
    exec (.ctxEnSet port c h v) s = settlesTo s (s.part.writeReg port (regOff .ctxCtl 0 c) h (forceBit h v 63 true)) := rfl

theorem exec_ctxEnClear (s : State) (port c : Nat) (h : Half) (v : Reg) :
    exec (.ctxEnClear port c h v) s = settlesTo s (s.part.writeReg port (regOff .ctxCtl 0 c) h (forceBit h v 63 false)) := rfl

theorem exec_teardownDone (s : State) (c : Nat) : exec (.teardownDone c) s = settlesTo s (s.part.teardownDone c) := rfl

theorem exec_transInval (s : State) (port c : Nat) :
    exec (.transInval port c) s = becomes s (s.part.writeReg port (regOff .ctxTransInval 0 c) .full 1) := rfl

theorem exec_transInvalDone (s : State) (c : Nat) : exec (.transInvalDone c) s = becomes s (s.part.transInvalDone c) := rfl

section
variable {p : Part} {c v : Nat}

/-- EN set for a disabled context: where R249 allows it the register is stored and the context created, else the write is refused. -/
theorem setCtxCtl_creates (hp : Plain p ⟨.ctxCtl, 0, c⟩ v) (he : p.ctxEn c = false) (hv : v.testBit 63 = true) :
    p.setCtxCtl ⟨⟨.ctxCtl, 0, c⟩, 2 ^ 64 - 1, v, 0, [], []⟩ =
      if p.ctxRefused c (imageOf p ⟨.ctxCtl, 0, c⟩ v) = true then p.badAccess
      else (p.putImage ⟨.ctxCtl, 0, c⟩ (imageOf p ⟨.ctxCtl, 0, c⟩ v)).ctxCreate c := by
  have one : (⟨⟨.ctxCtl, 0, c⟩, 2 ^ 64 - 1, v, 0, [], []⟩ : Acc).one 63 = true := (one_full _ _ _ (by decide) ..).trans hv
  simp only [Part.setCtxCtl, he, one, store_clean (clean_whole hp ..), newImage_whole hp rfl, Bool.true_and, Bool.false_eq_true, if_false,
    if_true]

/-- EN of a running context ends in its teardown with 0x0415, after which EN clears (R261). -/
theorem ctxEnd_tears (hr : (p.ctx c).state = 0) :
    p.ctxEnd c =
      (p.ctxFault c ⟨0x0415, .none, 0, none, 0⟩).setCtx c { (p.ctxFault c ⟨0x0415, .none, 0, none, 0⟩).ctx c with clearEn := true } := by
  have alive : ¬(p.ctx c).state = 5 := by rw [hr]; decide
  rw [Part.ctxEnd, if_neg alive]

/-- EN cleared for a running context, CLASS and FUNC as they stand: SHARE is stored and the context ends. -/
theorem setCtxCtl_ends (hp : Plain p ⟨.ctxCtl, 0, c⟩ v) (he : p.ctxEn c = true) (hv : v.testBit 63 = false)
    (hclass : bit (imageOf p ⟨.ctxCtl, 0, c⟩ v) 0 = p.rb .ctxCtl 0 c 0)
    (hfunc : bits (imageOf p ⟨.ctxCtl, 0, c⟩ v) 16 8 = p.rf .ctxCtl 0 c 16 8) :
    p.setCtxCtl ⟨⟨.ctxCtl, 0, c⟩, 2 ^ 64 - 1, v, 0, [], []⟩ =
      (p.setRf .ctxCtl 0 c 8 8 (bits (imageOf p ⟨.ctxCtl, 0, c⟩ v) 8 8)).ctxEnd c := by
  have zero : (⟨⟨.ctxCtl, 0, c⟩, 2 ^ 64 - 1, v, 0, [], []⟩ : Acc).zero 63 = true := by rw [zero_full _ _ _ (by decide), hv]; rfl
  have sameClass : bit (imageOf p ⟨.ctxCtl, 0, c⟩ v) 0 = bit (p.old ⟨.ctxCtl, 0, c⟩) 0 := hclass
  have sameFunc : bits (imageOf p ⟨.ctxCtl, 0, c⟩ v) 16 8 = bits (p.old ⟨.ctxCtl, 0, c⟩) 16 8 := hfunc
  simp only [Part.setCtxCtl, Part.once, he, zero, clean_whole hp, newImage_whole hp rfl, sameClass, sameFunc, bne_self_eq_false, Bool.or_self,
    Bool.false_and, Bool.false_eq_true, if_false, if_true]

/-- INVAL written 1 starts an invalidation. -/
theorem writeReg_ctxTransInval {port : Nat} (hs : Served p port (regOff .ctxTransInval 0 c) ⟨.ctxTransInval, 0, c⟩) :
    p.writeReg port (regOff .ctxTransInval 0 c) .full 1 = p.transInval c := by
  have one : (⟨⟨.ctxTransInval, 0, c⟩, 2 ^ 64 - 1, (1 : Reg).toNat, 0, [], []⟩ : Acc).one 0 = true := one_full _ _ _ (by decide) ..
  rw [writeReg_single hs rfl]
  exact if_pos one

end

/-- Settles O13: EN set and cleared are writes of CTX_CTL, and the other commands are the operations above. That the end of a teardown clears EN
of Cabinets on a failed die is Table 18-2 (18 R413; log entry 64). -/
theorem contextsBeginAndEnd : Obligations.ContextsBeginAndEnd := by
  intro s port c
  refine ⟨fun v hs => ⟨fun he hp => ?begins, fun he hr hp hclass hfunc => ?ends⟩, fun ht hd => ?torn, fun hs => ?inval,
    exec_transInvalDone s c⟩
  case begins =>
    rw [exec_ctxEnSet, writeReg_paired hs rfl]
    exact congrArg (settlesTo s) (setCtxCtl_creates hp he (force_bit v 63 true (by decide)))
  case ends =>
    have stored := setCtxCtl_ends (p := s.part.unstage port (regOff .ctxCtl 0 c)) hp he (force_bit v 63 false (by decide)) hclass hfunc
    rw [exec_ctxEnClear, writeReg_paired hs rfl]
    exact congrArg (settlesTo s) (stored.trans (ctxEnd_tears hr))
  case torn =>
    have drained : ¬((s.part.ctx c).state ≠ 4 ∨ (s.part.join.reads.any fun r => r.2.drain && r.2.msg.ctx == c) = true) := by
      rw [ht, hd]
      decide
    rw [exec_teardownDone, Part.teardownDone]
    exact congrArg (settlesTo s) (if_neg drained)
  case inval =>
    rw [exec_transInval, writeReg_ctxTransInval hs]
    rfl

end Sys2Proof.Safety
end

section
/-!
Holds (11 R252 to R260): quanta, grace evictions, drained reads, and the ends of saves and restores.
-/

namespace Sys2Proof.Machine.Part
open Sys2Proof

/-! ### The least progress of a set of holds (R253) -/

section
variable {p : Part} {e : Nat × Nat} {l : List (Nat × Nat)}

/-- The hold of lesser progress of one chosen so far and another, ties to the lower context. -/
def lesserOf (p : Part) (a : Option (Nat × Nat)) (e : Nat × Nat) : Option (Nat × Nat) :=
  match a with
  | none => some e
  | some m =>
    if (p.ctx e.1).progress < (p.ctx m.1).progress ∨ ((p.ctx e.1).progress = (p.ctx m.1).progress ∧ e.1 < m.1) then some e else some m

theorem leastProgress_eq_foldl (p : Part) (l : List (Nat × Nat)) : p.leastProgress l = l.foldl p.lesserOf none := rfl

theorem lesserOf_eq (p : Part) (a : Option (Nat × Nat)) (e : Nat × Nat) : p.lesserOf a e = a ∨ p.lesserOf a e = some e := by
  cases a with
  | none => exact Or.inr rfl
  | some m =>
    unfold lesserOf
    dsimp only
    split
    · exact Or.inr rfl
    · exact Or.inl rfl

/-- A hold whose context has made less progress than any other's is the one of least progress. -/
theorem leastProgress_of_lt (he : e ∈ l) (hl : ∀ m ∈ l, m ≠ e → (p.ctx e.1).progress < (p.ctx m.1).progress) :
    p.leastProgress l = some e := by
  obtain ⟨before, rest, rfl⟩ := List.append_of_mem he
  have chosen : ∀ m ∈ before.foldl p.lesserOf none, m ∈ before := by
    refine List.foldlRecOn (motive := fun a : Option (Nat × Nat) => ∀ m ∈ a, m ∈ before) _ _ (fun m hm => absurd hm (Option.not_mem_none m))
      fun a ha k hk m hm => ?_
    rcases lesserOf_eq p a k with h | h
    · exact ha m (h ▸ hm)
    · rw [h, Option.mem_some_iff] at hm
      exact hm ▸ hk
  have takes : p.lesserOf (before.foldl p.lesserOf none) e = some e := by
    cases ha : before.foldl p.lesserOf none with
    | none => rfl
    | some m =>
      by_cases hm : m = e
      · rw [hm]; exact ite_self _
      · exact if_pos (Or.inl (hl m (List.mem_append_left _ (chosen m ha)) hm))
  have keeps : ∀ m ∈ rest, p.lesserOf (some e) m = some e := by
    intro m hr
    by_cases hm : m = e
    · rw [hm]; exact ite_self _
    · have more := hl m (List.mem_append_right _ (List.mem_cons_of_mem _ hr)) hm
      exact if_neg (by omega)
  rw [leastProgress_eq_foldl, List.foldl_append, List.foldl_cons, takes]
  refine List.foldlRecOn (motive := fun a => a = some e) _ _ rfl fun a ha m hm => ?_
  rw [ha, keeps m hm]

end

/-! ### What a save that sets no stream aside counts -/

section
variable (p : Part)

@[simp] theorem ctr_bump (a : Nat) : (p.bump a 1).ctr a = min (p.ctr a + 1) (2 ^ 64 - 1) := Tab.getD_put_same _ _ _ _

theorem ctr_bump_other {a k : Nat} (h : k ≠ a) : (p.bump a 1).ctr k = p.ctr k := Tab.getD_put_other h _ _ _

theorem ctr_eq_of_ctrs {p q : Part} (h : q.ctrs = p.ctrs) (a : Nat) : q.ctr a = p.ctr a := by rw [ctr, h, ctr]

@[simp] theorem stopTask_ctrs (t : Task) (on : Option Await) : (p.stopTask t on).ctrs = p.ctrs := by
  unfold stopTask
  dsimp only
  split
  · rw [setRec_ctrs]
  · rfl

@[simp] theorem saveTasks_ctrs (c b : Nat) (h : Hold) : (p.saveTasks c b h).ctrs = p.ctrs :=
  foldl_leaves Part.ctrs (fun q t => stopTask_ctrs q t none) _ p

@[simp] theorem unbind_ctrs (g : Nat) : (p.unbind g).ctrs = p.ctrs := rfl

@[simp] theorem hbmStore_ctrs (a : Nat) (bs : List Byte) (poison : Bool) : (p.hbmStore a bs poison).ctrs = p.ctrs := by
  cases poison <;> rfl

@[simp] theorem copyShare_ctrs (c b base : Nat) : (p.copyShare c b base).ctrs = p.ctrs := by
  refine List.foldlRecOn (motive := fun a : Part × Nat => a.1.ctrs = p.ctrs) _ _ rfl fun a ha n _ => ?_
  dsimp only
  split
  · exact ha
  · exact (foldl_leaves Part.ctrs (fun q i => hbmStore_ctrs q _ _ _) _ a.1).trans ha

end

/-! ### A save (R255 to R258) -/

/-- The slots of a context on the Gangs of a Cabinet. -/
def holdSlots (p : Part) (c b : Nat) : Tab Slot := p.slots.filter fun e => e.2.ctx == c && (p.cabGangs b).contains (e.1 / 128)

/-- The part once the tasks and streams of a hold are set aside (Table 11-9, steps 4 and 5). -/
def setAside (p : Part) (c b : Nat) (h : Hold) : Part :=
  (p.holdSlots c b).foldl (fun p e => p.saveStrm c e.2.strm e.1) (p.saveTasks c b h)

/-- The hold as it stands then. -/
def heldAside (p : Part) (c b : Nat) (h : Hold) : Hold := ((p.setAside c b h).hold c b).getD h

/-- The part once its models are unbound too (Table 11-9, step 6). -/
def vacated (p : Part) (c b : Nat) (h : Hold) : Part :=
  (p.heldAside c b h).gangs.foldl (fun p r => p.unbind r.gang) (p.setAside c b h)

/-- The part once the share and the sections of a hold's image stand at `base` (Table 11-9, step 7). -/
def imageWritten (p : Part) (c b base : Nat) : Part :=
  let n := p.imageShare b
  let p := p.copyShare c b (base + n)
  let p := p.onMem fun m => m.openRange (base + 4096) (n - 4096) p.fresh p.hbmMode
  { p with fresh := p.fresh + 1 }

/-- The header of that image of hold `h` (Table 11-13). -/
def imageHeader (p : Part) (c b base : Nat) (h : Hold) : Nat :=
  let q := p.imageWritten c b base
  q.imageHead c b h (crc32 (leBytes 4096 (q.imageHead c b h 0) ++ q.mem.read (base + 4096) (p.imageShare b - 4096)))

/-- The part once the whole image stands, header included (Table 11-9, step 8). -/
def imaged (p : Part) (c b base : Nat) (h : Hold) : Part :=
  (p.imageWritten c b base).hbmStore base (leBytes 4096 (p.imageHeader c b base h)) false

/-- The rows of a Cabinet's share on each die where it has any. -/
def shareList (p : Part) (b : Nat) : List (Nat × Nat × Nat) :=
  (List.range 8).filterMap fun n => if (p.share b n).2 == 0 then none else some (n, (p.share b n).1, (p.share b n).2)

/-- Hold `h` once its image stands at `base`. -/
def savedHold (p : Part) (c b base : Nat) (h : Hold) : Hold :=
  { h with st := .saved, next := none, image := base, hdr := p.imageHeader c b base h, share := (p.imaged c b base h).shareList b }

/-- The part once a hold is saved with its image at `base`, and counted. -/
def savedWith (p : Part) (c b base : Nat) (h : Hold) : Part :=
  (((p.imaged c b base h).setHold c b (p.savedHold c b base h)).bump (pkgCtr 4 b 0) 1).bump (pkgCtr 3 c 16) 1

/-- Nothing holds a save up: it runs, no stream of it is still being restored, and its remote reads have drained (R256). -/
structure Savable (p : Part) (c b : Nat) (h : Hold) : Prop where
  occupant : p.occupant b = some (c, h)
  saving : h.st = .saving
  runs : p.ctxRuns c = true
  settled : ∀ e ∈ p.slots, e.2.ctx = c → (p.cabGangs b).contains (e.1 / 128) = true → ∀ x, p.strm c e.2.strm = some x → Ent.state x.ent ≠ 5
  drained : (p.join.reads.any fun r => r.2.drain && r.2.cab == b && r.2.msg.ctx == c) = false

section
variable {p : Part} {c b : Nat} {h : Hold}

/-- A save that nothing holds up, and whose image lies in stacks that serve, leaves the hold saved. -/
theorem saveComplete_saves (hs : p.Savable c b h)
    (hg : (p.vacated c b h).imageGap (p.imageAt c b) ((p.vacated c b h).imageBytes b) = none) :
    p.saveComplete b = ((p.vacated c b h).savedWith c b (p.imageAt c b) (p.heldAside c b h)).clearDeadCabs.afterSave b
      (p.heldAside c b h).next := by
  unfold saveComplete
  rw [hs.occupant]
  dsimp only
  split
  next held =>
    exfalso
    rcases held with hst | hrun | hset | hdr
    · exact hst hs.saving
    · rw [hs.runs] at hrun
      exact Bool.false_ne_true hrun
    · obtain ⟨e, he, hx⟩ := List.any_eq_true.mp hset
      obtain ⟨hm, hc⟩ := List.mem_filter.mp he
      rw [Bool.and_eq_true, beq_iff_eq] at hc
      split at hx
      next x hn => exact hs.settled e hm hc.1 hc.2 x hn (beq_iff_eq.mp hx)
      next => exact Bool.false_ne_true hx
    · exact Bool.false_ne_true (hs.drained.symm.trans hdr)
  next =>
    split
    next a ha => exact absurd (hg.symm.trans ha) (Option.some_ne_none a).symm
    next => rfl

/-- The hold of a save stands saved once it ends. -/
theorem hold_savedWith (p : Part) (c b base : Nat) (h : Hold) : (p.savedWith c b base h).hold c b = some (p.savedHold c b base h) := by
  rw [hold, savedWith, bump_holds, bump_holds]
  exact Tab.find_put_same _ _ _

@[simp] theorem imaged_ctrs (p : Part) (c b base : Nat) (h : Hold) : (p.imaged c b base h).ctrs = p.ctrs :=
  (hbmStore_ctrs _ _ _ _).trans (copyShare_ctrs _ _ _ _)

/-- Where no stream is set aside, nothing is counted before the save ends. -/
theorem vacated_ctrs (hs : p.slots = []) : (p.vacated c b h).ctrs = p.ctrs := by
  have aside : (p.setAside c b h).ctrs = p.ctrs := by
    rw [setAside, holdSlots, hs, List.filter_nil, List.foldl_nil, saveTasks_ctrs]
  exact (foldl_leaves Part.ctrs (fun q (r : GangRec) => unbind_ctrs q r.gang) _ _).trans aside

/-- The end of a save adds one to the save counters of its Cabinet and its context. -/
theorem ctr_savedWith (p : Part) (c b base : Nat) (h : Hold) :
    (p.savedWith c b base h).ctr (pkgCtr 4 b 0) = min (p.ctr (pkgCtr 4 b 0) + 1) (2 ^ 64 - 1) ∧
      (p.savedWith c b base h).ctr (pkgCtr 3 c 16) = min (p.ctr (pkgCtr 3 c 16) + 1) (2 ^ 64 - 1) := by
  have distinct : pkgCtr 4 b 0 ≠ pkgCtr 3 c 16 := by
    unfold pkgCtr
    omega
  have before : ∀ a, ((p.imaged c b base h).setHold c b (p.savedHold c b base h)).ctr a = p.ctr a :=
    ctr_eq_of_ctrs (imaged_ctrs p c b base h)
  constructor
  · rw [savedWith, ctr_bump_other _ distinct, ctr_bump, before]
  · rw [savedWith, ctr_bump, ctr_bump_other _ distinct.symm, before]

end

/-! ### A restore (R259, R260) -/

section
variable {p : Part} {c b : Nat} {h : Hold}

/-- A restore whose checks find a fault faults the context with it (R260). -/
theorem restoreHold_faults {f : Nat × Nat} (hst : h.st = .restoring) (hr : p.ctxRuns c = true) (hf : p.restoreCheck c b h = some f) :
    p.restoreHold b c h = p.restoreFault c f := by
  simp only [restoreHold, hst, hr, hf, ne_eq, not_true_eq_false, Bool.not_true, Bool.false_eq_true, or_self, if_false]

/-- A restore whose checks find nothing, and whose context runs on, brings the hold back and lets it run (R259). -/
theorem restoreHold_restores (hst : h.st = .restoring) (hr : p.ctxRuns c = true) (hf : p.restoreCheck c b h = none)
    (hb : (p.bringBack c b h).ctxRuns c = true)
    (hp : ((p.bringBack c b h).placeSaved c b (h.gangs.flatMap GangRec.streams)).ctxRuns c = true) :
    p.restoreHold b c h = ((p.bringBack c b h).placeSaved c b (h.gangs.flatMap GangRec.streams)).runAgain c b := by
  simp only [restoreHold, hst, hr, hf, hb, hp, ne_eq, not_true_eq_false, Bool.not_true, Bool.false_eq_true, or_self, if_false]

theorem restoreComplete_occupied (ho : p.occupant b = some (c, h)) (hw : Cells) :
    p.restoreComplete b hw = (p.hostSees hw).restoreHold b c h := by
  have seen : (p.hostSees hw).occupant b = some (c, h) := ho
  rw [restoreComplete, seen]

end

/-! ### Quanta, grace evictions and drained reads (R252, R253, R256) -/

section
variable {p : Part} {c b : Nat}

theorem quantumExpire_decides {h : Hold} (ho : p.occupant b = some (c, h)) (hst : h.st = .resident) :
    p.quantumExpire b = (p.setHold c b { h with quantum := true }).decideCab b := by
  rw [quantumExpire, ho]
  exact if_pos hst

/-- A grace eviction starts the save of the blocked hold whose context has made the least progress (R253). -/
theorem graceEvict_evicts (hen : p.rb .schedCtl 0 0 32 = true) (hm : (c, b) ∈ p.blockedSet) (hw : ∃ e ∈ p.blockedSet, p.wset e.2 ≠ [])
    (hl : ∀ e ∈ p.blockedSet, e ≠ (c, b) → (p.ctx c).progress < (p.ctx e.1).progress) :
    p.graceEvict = ((p.bump (pkgCtr 4 b 1) 1).bump (pkgCtr 3 c 17) 1).startSave c b (p.leastVt (p.wset b)) := by
  have awaited : ¬(p.blockedSet.all fun e => (p.wset e.2).isEmpty) = true := by
    obtain ⟨e, he, hne⟩ := hw
    exact fun hall => hne (List.isEmpty_iff.mp (List.all_eq_true.mp hall e he))
  simp only [graceEvict, hen, awaited, leastProgress_of_lt hm hl, Bool.not_true, Bool.false_eq_true, if_false]

theorem drainResponse_discards {r : Nat × RdReq} (hr : p.join.reads.find? (fun r => r.2.drain && r.2.cab == b) = some r) :
    p.drainResponse b = { p with join := { p.join with reads := Tab.del r.1 p.join.reads } } := by
  rw [drainResponse, hr]

end

end Sys2Proof.Machine.Part

namespace Sys2Proof.Safety
open Sys2Proof Sys2Proof.Machine

theorem exec_quantumExpire (s : State) (b : Nat) : exec (.quantumExpire b) s = becomes s (s.part.quantumExpire b) := rfl

theorem exec_graceEvict (s : State) : exec .graceEvict s = becomes s s.part.graceEvict := rfl

theorem exec_drainResponse (s : State) (b : Nat) : exec (.drainResponse b) s = becomes s (s.part.drainResponse b) := rfl

theorem exec_saveComplete (s : State) (b : Nat) : exec (.saveComplete b) s = settlesTo s (s.part.saveComplete b) := rfl

theorem exec_restoreComplete (s : State) (b : Nat) (hw : Cells) :
    exec (.restoreComplete b hw) s = settlesTo s (s.part.restoreComplete b hw) := rfl

/-- Settles O53: each command comes down to the lemma on it above. That a grace eviction chooses from every blocked hold, and what of an image
the part can check, are the model's choices (log entries 84 and 26). -/
theorem holdsAreSavedAndRestored : Obligations.HoldsAreSavedAndRestored := by
  intro s b c h ho
  refine ⟨fun hst => ?quantum, fun hen hm hw hl => ?grace, fun r hr => ?drained, fun hst hr _ hset hd hg => ?saved,
    fun hst hr hw hf hb hp => ?restored, fun hw f hst hr hf => ?faulted⟩
  case quantum => rw [exec_quantumExpire, Part.quantumExpire_decides ho hst]
  case grace => rw [exec_graceEvict, Part.graceEvict_evicts hen hm hw hl]
  case drained => rw [exec_drainResponse, Part.drainResponse_discards hr]
  case saved =>
    have ends := Part.saveComplete_saves ⟨ho, hst, hr, hset, hd⟩ hg
    refine ⟨_, (exec_saveComplete s b).trans (congrArg (settlesTo s) ends), ⟨_, Part.hold_savedWith .., rfl, rfl, rfl⟩, fun hempty => ?_⟩
    rw [← Part.ctr_eq_of_ctrs (Part.vacated_ctrs hempty), ← Part.ctr_eq_of_ctrs (Part.vacated_ctrs hempty)]
    exact Part.ctr_savedWith ..
  case restored =>
    rw [exec_restoreComplete, Part.restoreComplete_occupied ho, Part.restoreHold_restores (p := s.part.hostSees hw) hst hr hf hb hp]
    rfl
  case faulted =>
    rw [exec_restoreComplete, Part.restoreComplete_occupied ho, Part.restoreHold_faults (p := s.part.hostSees hw) hst hr hf]
    rfl

end Sys2Proof.Safety
end

section
/-!
Writes of SQ_CFG and CQ_CFG (12 R270, R272, R284, R285): what setting and clearing EN does to a submission ring and to a completion ring.
-/

namespace Sys2Proof.Safety
open Sys2Proof Sys2Proof.Machine

theorem exec_sqEnSet (s : State) (port r : Nat) (h : Half) (v : Reg) :
    exec (.sqEnSet port r h v) s = settlesTo s (s.part.writeReg port (regOff .sqCfg 0 r) h (forceBit h v 63 true)) := rfl

theorem exec_sqEnClear (s : State) (port r : Nat) (h : Half) (v : Reg) :
    exec (.sqEnClear port r h v) s = settlesTo s (s.part.writeReg port (regOff .sqCfg 0 r) h (forceBit h v 63 false)) := rfl

theorem exec_cqEnSet (s : State) (port q : Nat) (h : Half) (v : Reg) :
    exec (.cqEnSet port q h v) s = settlesTo s (s.part.writeReg port (regOff .cqCfg 0 q) h (forceBit h v 63 true)) := rfl

theorem exec_cqEnClear (s : State) (port q : Nat) (h : Half) (v : Reg) :
    exec (.cqEnClear port q h v) s = settlesTo s (s.part.writeReg port (regOff .cqCfg 0 q) h (forceBit h v 63 false)) := rfl

@[simp] theorem putImage_hif (p : Part) (r : RegId) (v : Nat) : (p.putImage r v).hif = p.hif := by
  simp only [Part.putImage, apply_ite Part.hif, Part.setReg_hif, ite_self]

/-- The start of a function's watch loop leaves the state of every submission ring alone. -/
theorem sq_watchStarted (p : Part) (fn r : Nat) (x : Watch) (c : Prop) [Decidable c] : (if c then p.setWatch fn x else p).sq r = p.sq r := by
  split <;> rfl

/-- A register written leaves the state of every submission ring alone. -/
theorem sq_putImage (p : Part) (i : RegId) (v r : Nat) : (p.putImage i v).sq r = p.sq r := by rw [Part.sq, putImage_hif, ← Part.sq]

section
variable {p : Part} {r v : Nat}

/-- EN set for a disabled submission ring: where R285 allows it the register is stored and the ring starts, with the watch loop of its function
where it is the first, else the write is refused. -/
theorem setSqCfg_starts (hp : Plain p ⟨.sqCfg, 0, r⟩ v) (he : p.sqEn r = false) (hv : v.testBit 63 = true) :
    p.setSqCfg ⟨⟨.sqCfg, 0, r⟩, 2 ^ 64 - 1, v, 0, [], []⟩ =
      if p.sqRefused r (imageOf p ⟨.sqCfg, 0, r⟩ v) = true then p.badAccess else
        let w := p.putImage ⟨.sqCfg, 0, r⟩ (imageOf p ⟨.sqCfg, 0, r⟩ v)
        let fn := w.fnOf (w.sqCtx r)
        (if w.ringsOf fn = [r] then w.setWatch fn { interval := w.rf .watchCtl 0 0 0 24 } else w).setSq r { prevJob := (p.sq r).prevJob } := by
  have one : (⟨⟨.sqCfg, 0, r⟩, 2 ^ 64 - 1, v, 0, [], []⟩ : Acc).one 63 = true := (one_full _ _ _ (by decide) ..).trans hv
  simp only [Part.setSqCfg, he, one, raw_whole, store_clean (clean_whole hp ..), newImage_whole hp rfl, sq_watchStarted, sq_putImage,
    Bool.true_and, Bool.false_eq_true, if_false, if_true]

/-- EN cleared for an enabled submission ring: its shadow line is written (log entry 85), and the round in progress goes on without it. -/
theorem setSqCfg_stops (he : p.sqEn r = true) (hv : v.testBit 63 = false) :
    p.setSqCfg ⟨⟨.sqCfg, 0, r⟩, 2 ^ 64 - 1, v, 0, [], []⟩ =
      (((p.shadow r).setRb .sqCfg 0 r 63 false).setSq r { (p.shadow r).sq r with dbRead := false, active := false }).endRound
        (p.fnOf (p.sqCtx r)) := by
  have zero : (⟨⟨.sqCfg, 0, r⟩, 2 ^ 64 - 1, v, 0, [], []⟩ : Acc).zero 63 = true := by rw [zero_full _ _ _ (by decide), hv]; rfl
  simp only [Part.setSqCfg, he, zero, Bool.not_true, Bool.false_eq_true, if_false, if_true]

/-- EN set for a disabled completion ring: where R285 allows it the register is stored and the ring starts empty, else the write is refused. -/
theorem setCqCfg_starts (hp : Plain p ⟨.cqCfg, 0, r⟩ v) (he : p.rb .cqCfg 0 r 63 = false) (hv : v.testBit 63 = true) :
    p.setCqCfg ⟨⟨.cqCfg, 0, r⟩, 2 ^ 64 - 1, v, 0, [], []⟩ =
      if p.cqRefused (imageOf p ⟨.cqCfg, 0, r⟩ v) = true then p.badAccess
      else (p.putImage ⟨.cqCfg, 0, r⟩ (imageOf p ⟨.cqCfg, 0, r⟩ v)).setCq r {} := by
  have one : (⟨⟨.cqCfg, 0, r⟩, 2 ^ 64 - 1, v, 0, [], []⟩ : Acc).one 63 = true := (one_full _ _ _ (by decide) ..).trans hv
  simp only [Part.setCqCfg, he, one, raw_whole, store_clean (clean_whole hp ..), newImage_whole hp rfl, Bool.true_and, Bool.false_eq_true,
    if_false, if_true]

/-- EN cleared for an enabled completion ring: refused while the ring is in use. -/
theorem setCqCfg_stops (he : p.rb .cqCfg 0 r 63 = true) (hv : v.testBit 63 = false) :
    p.setCqCfg ⟨⟨.cqCfg, 0, r⟩, 2 ^ 64 - 1, v, 0, [], []⟩ =
      if p.cqInUse r = true then p.badAccess else p.setRb .cqCfg 0 r 63 false := by
  have zero : (⟨⟨.cqCfg, 0, r⟩, 2 ^ 64 - 1, v, 0, [], []⟩ : Acc).zero 63 = true := by rw [zero_full _ _ _ (by decide), hv]; rfl
  simp only [Part.setCqCfg, he, zero, Bool.not_true, Bool.false_or, if_true]

end

/-- Settles O14: each command is a write of its ring's register, which comes down to the lemma on it above. That the shadow line of a ring is
written with its disabling is the model's choice (log entry 85). -/
theorem ringsStartEmptyAndStop : Obligations.RingsStartEmptyAndStop := by
  intro s port r v
  refine ⟨fun hs => ⟨fun he hp => ?sqStarts, fun he => ?sqStops⟩, fun hs => ⟨fun he hp => ?cqStarts, fun he => ?cqStops⟩⟩
  case sqStarts =>
    rw [exec_sqEnSet, writeReg_paired hs rfl]
    exact congrArg (settlesTo s) (setSqCfg_starts hp he (force_bit v 63 true (by decide)))
  case sqStops =>
    rw [exec_sqEnClear, writeReg_paired hs rfl]
    exact congrArg (settlesTo s) (setSqCfg_stops he (force_bit v 63 false (by decide)))
  case cqStarts =>
    rw [exec_cqEnSet, writeReg_paired hs rfl]
    exact congrArg (settlesTo s) (setCqCfg_starts hp he (force_bit v 63 true (by decide)))
  case cqStops =>
    rw [exec_cqEnClear, writeReg_paired hs rfl]
    exact congrArg (settlesTo s) (setCqCfg_stops he (force_bit v 63 false (by decide)))

end Sys2Proof.Safety
end

section
/-!
PCIe ports and functions (12 R277, R281, R286, 16 R387): resets and link events, configuration writes, and vectors that are unmasked.
-/

namespace Sys2Proof

theorem contains_insNat (l : List Nat) (k n : Nat) : (insNat k l).contains n = (n == k || l.contains n) := by
  rw [Bool.eq_iff_iff, List.contains_iff_mem, mem_insNat, Bool.or_eq_true, beq_iff_eq, List.contains_iff_mem]

theorem contains_filter_ne (l : List Nat) (k n : Nat) : (l.filter (· != k)).contains n = (l.contains n && n != k) := by
  rw [Bool.eq_iff_iff, List.contains_iff_mem, List.mem_filter, Bool.and_eq_true, List.contains_iff_mem]

end Sys2Proof

namespace Sys2Proof.Machine.Part
open Sys2Proof

/-! ### Resets and link events (12 R286, 16 R387) -/

section
variable {p : Part} {port v n : Nat}

theorem perstAssert_resets (hp : port < 2) (h : p.hif.perst.contains port = false) :
    p.perstAssert port = { (p.linkLost port false).portReset port with hif := { ((p.linkLost port false).portReset port).hif with
      perst := insNat port ((p.linkLost port false).portReset port).hif.perst } } := by
  have asserts : ¬(2 ≤ port ∨ p.hif.perst.contains port = true) := not_or.mpr ⟨by omega, by rw [h]; decide⟩
  rw [perstAssert, if_neg asserts]

theorem hotReset_up (h : p.hif.linkUp.contains port = true) : p.hotReset port = (p.linkLost port true).portReset port := if_pos h

theorem linkDownEvent_up (h : p.hif.linkUp.contains port = true) : p.linkDownEvent port = (p.linkLost port true).portReset port := if_pos h

theorem pfFlr_up (h : p.hif.linkUp.contains port = true) : p.pfFlr port = p.pfReset port := if_pos h

theorem pfReset_zero (p : Part) : p.pfReset 0 = ((p.configReset fun n => n != 256).vfsOff).portEvent 0 fun q c => q.fnOf c != 256 := if_pos rfl

theorem pfReset_one (p : Part) : p.pfReset 1 = (p.configReset fun n => n == 256).portEvent 1 fun q c => q.fnOf c == 256 := if_neg (by decide)

theorem vfFlr_enabled (hv : 1 ≤ v) (hl : p.hif.linkUp.contains 0 = true) (he : p.fnEnabled v = true) : p.vfFlr v = p.vfReset v := by
  simp only [vfFlr, hv, hl, he, decide_true, Bool.and_self, if_true]

/-- A virtual function that enters D3hot is reset. -/
theorem d3Entry_vf (hv : 1 ≤ v) (hv' : v < 256) (hl : p.hif.linkUp.contains 0 = true) (he : p.fnEnabled v = true)
    (hd : p.hif.d3.contains v = false) :
    p.d3Entry 0 v = { p.vfReset v with hif := { (p.vfReset v).hif with d3 := insNat v (p.vfReset v).hif.d3 } } := by
  have key : fnKey 0 v = v := Nat.mod_eq_of_lt hv'
  have home : portOfFn v = 0 := if_neg (by omega)
  have virtual : ¬(v = 0 ∨ v = 256) := by omega
  have enters : ¬(p.hif.d3.contains v || !p.hif.linkUp.contains 0 || !p.fnEnabled v) = true := by rw [hd, hl, he]; decide
  unfold d3Entry
  dsimp only
  rw [key, home, if_neg enters, if_neg virtual]

/-- NumVFs lowered below the functions in use resets those that go. -/
theorem vfEnableClear_lowers (hv : p.hif.vfEn = true) (hn : n < p.hif.numVfs) :
    p.vfEnableClear n true =
      (({ p with hif := { p.hif with numVfs := n } } : Part).configReset
        fun v => decide (1 ≤ v) && decide (v ≤ 255) && decide (n < v)).portEvent 0
          fun q c => decide (1 ≤ q.fnOf c) && decide (q.fnOf c ≤ 255) && decide (n < q.fnOf c) := by
  have lowers : ¬(!p.hif.vfEn || (true && decide (p.hif.numVfs ≤ n))) = true := by
    rw [hv, decide_eq_false (by omega : ¬p.hif.numVfs ≤ n)]
    decide
  have enabled : ({ p.hif with numVfs := n } : Hif) = { p.hif with vfEn := true, numVfs := n } := by rw [← hv]
  unfold vfEnableClear
  rw [if_neg lowers, enabled]
  rfl

theorem perstDeassert_trains (hp : port < 2) (hf : p.frameUp (2 * port) = true) (hl : p.hif.linkUp.contains port = false) :
    p.perstDeassert port = { p with hif := { p.hif with
      perst := p.hif.perst.filter (· != port), training := insNat port p.hif.training } } := by
  refine if_pos ⟨hp, hf, ?_⟩
  simp only [hl, Bool.not_false]

theorem linkUpEvent_trained (ht : p.hif.training.contains port = true) (hf : p.frameUp (2 * port) = true)
    (hp : p.hif.perst.contains port = false) :
    p.linkUpEvent port = { p with hif := { p.hif with
      training := p.hif.training.filter (· != port), linkUp := insNat port p.hif.linkUp } } := by
  simp only [linkUpEvent, ht, hf, hp, Bool.not_false, Bool.and_self, if_true]

end

/-! ### Configuration writes (12 R281) -/

theorem contains_fnSet (l : List Nat) (k n : Nat) (on : Bool) : (fnSet l k on).contains n = if n = k then on else l.contains n := by
  have rest : (fnSet l k on).contains n = (on && n == k || l.contains n && n != k) := by
    cases on
    · exact contains_filter_ne l k n
    · exact (contains_insNat ..).trans (congrArg (n == k || ·) (contains_filter_ne l k n))
  rw [rest]
  by_cases hn : n = k
  · simp only [hn, beq_self_eq_true, bne_self_eq_false, Bool.and_true, Bool.and_false, Bool.or_false, if_true]
  · simp only [beq_eq_false_iff_ne.mpr hn, bne_iff_ne.mpr hn, if_neg hn, Bool.and_true, Bool.and_false, Bool.false_or]

/-- What the sending of messages leaves alone: registers, memory, and the settings of functions. -/
def settings (p : Part) : Tab Reg × Memory × List Nat × List Nat × List Nat × Bool :=
  (p.regs, p.mem, p.hif.bme, p.hif.msix, p.hif.fmask, p.hif.vfEn)

theorem settings_bumpFn (p : Part) (fn ev : Nat) : (p.bumpFn fn ev).settings = p.settings := by
  simp only [settings, bumpFn, apply_ite Part.regs, apply_ite Part.mem, apply_ite Part.hif, bump_regs, bump_mem, bump_hif, ite_self]

theorem settings_sendMsi (p : Part) (fn v : Nat) : (p.sendMsi fn v).settings = p.settings := by
  unfold sendMsi
  split
  · rfl
  · exact settings_bumpFn p fn 1

theorem settings_sendPending (fn : Nat) (p : Part) (v : Nat) : (sendPending fn p v).settings = p.settings := by
  unfold sendPending
  split
  · exact settings_sendMsi ..
  · rfl

/-- Function `k` in D0 with the settings that a configuration write gives it. -/
def functionSet (p : Part) (k : Nat) (ctl : FnCtl) : Part :=
  { p with hif := { p.hif with
    d3 := p.hif.d3.filter (· != k)
    bme := fnSet p.hif.bme k ctl.bme
    msix := fnSet p.hif.msix k ctl.msix
    fmask := fnSet p.hif.fmask k ctl.mask } }

/-- A configuration write of a function other than port 0's physical function sets it, then sends what nothing masks any more. -/
theorem configWrite_sets {p : Part} {port fn : Nat} (ctl : FnCtl) (hk : fnKey port fn ≠ 0)
    (hl : p.hif.linkUp.contains (portOfFn (fnKey port fn)) = true) (he : p.fnEnabled (fnKey port fn) = true) :
    p.configWrite port fn ctl false 0 = ((p.hif.vecs.map Prod.fst).filter fun v => v / 2048 == fnKey port fn).foldl
      (fun q v => sendPending (fnKey port fn) q (v % 2048)) (p.functionSet (fnKey port fn) ctl) := by
  simp only [configWrite, hl, he, Bool.not_true, Bool.or_self, Bool.false_eq_true, if_false, if_pos hk]
  rfl

theorem settings_configWrite {p : Part} {port fn : Nat} (ctl : FnCtl) (hk : fnKey port fn ≠ 0)
    (hl : p.hif.linkUp.contains (portOfFn (fnKey port fn)) = true) (he : p.fnEnabled (fnKey port fn) = true) :
    (p.configWrite port fn ctl false 0).settings = (p.functionSet (fnKey port fn) ctl).settings := by
  rw [configWrite_sets ctl hk hl he]
  exact foldl_leaves settings (fun q v => settings_sendPending _ q _) _ _

/-! ### Vectors (12 R277) -/

theorem vec_setVec (p : Part) (fn v : Nat) (x : Vec) : (p.setVec fn v x).vec fn v = x := Tab.getD_put_same ..

theorem setVec_setVec (p : Part) (fn v : Nat) (x y : Vec) : (p.setVec fn v x).setVec fn v y = p.setVec fn v y := by
  simp only [setVec, Tab.put_put]

/-- A vector written with its pending bit set sends its message once nothing masks it, and is pending no more. -/
theorem sendPending_setVec (p : Part) (k v : Nat) (x : Vec) :
    sendPending k (p.setVec k v x) v =
      if x.pending = true ∧ x.masked = false ∧ p.hif.fmask.contains k = false ∧ p.hif.msix.contains k = true then
        (if p.masters k = true then { p.setVec k v { x with pending := false } with
            hif := { (p.setVec k v { x with pending := false }).hif with sent := p.hif.sent ++ [(k, x.addr, x.data)] } }
          else (p.setVec k v { x with pending := false }).bumpFn k 1)
      else p.setVec k v x := by
  have sends : ((x.pending && !(p.setVec k v x).vecShut k v) = true) =
      (x.pending = true ∧ x.masked = false ∧ p.hif.fmask.contains k = false ∧ p.hif.msix.contains k = true) := by
    have shut : (p.setVec k v x).vecShut k v = (x.masked || p.hif.fmask.contains k || !p.hif.msix.contains k) := by
      rw [vecShut, vec_setVec]; rfl
    simp only [shut, Bool.and_eq_true, Bool.not_eq_true', Bool.or_eq_false_iff, Bool.not_eq_false', and_assoc]
  simp only [sendPending, vec_setVec, setVec_setVec, sends, sendMsi]
  rfl

theorem unmask_writes {p : Part} {port fn : Nat} {w : VecWrite} (hv : w.vec < vecCount (fnKey port fn))
    (hl : p.hif.linkUp.contains (portOfFn (fnKey port fn)) = true) (he : p.fnEnabled (fnKey port fn) = true) :
    p.unmask port fn w = sendPending (fnKey port fn) (p.setVec (fnKey port fn) w.vec
      { addr := w.addr % 2 ^ 64 / 4 * 4, data := w.data % 2 ^ 32, masked := w.mask, pending := (p.vec (fnKey port fn) w.vec).pending }) w.vec := by
  have listed : decide (vecCount (fnKey port fn) ≤ w.vec) = false := decide_eq_false (by omega)
  simp only [unmask, listed, hl, he, Bool.not_true, Bool.or_self, Bool.false_eq_true, if_false]

end Sys2Proof.Machine.Part

namespace Sys2Proof.Safety
open Sys2Proof Sys2Proof.Machine

theorem exec_perstAssert (s : State) (port : Nat) : exec (.perstAssert port) s = settlesTo s (s.part.perstAssert port) := rfl

theorem exec_hotReset (s : State) (port : Nat) : exec (.hotReset port) s = settlesTo s (s.part.hotReset port) := rfl

theorem exec_pcieLinkDown (s : State) (port : Nat) : exec (.pcieLinkDown port) s = settlesTo s (s.part.linkDownEvent port) := rfl

theorem exec_pfFlr (s : State) (port : Nat) : exec (.pfFlr port) s = settlesTo s (s.part.pfFlr port) := rfl

theorem exec_vfFlr (s : State) (v : Nat) : exec (.vfFlr v) s = settlesTo s (s.part.vfFlr v) := rfl

theorem exec_vfEnableClear (s : State) (n : Nat) (en : Bool) : exec (.vfEnableClear n en) s = settlesTo s (s.part.vfEnableClear n en) := rfl

theorem exec_d3hotEntry (s : State) (port fn : Nat) : exec (.d3hotEntry port fn) s = settlesTo s (s.part.d3Entry port fn) := rfl

theorem exec_perstDeassert (s : State) (port : Nat) : exec (.perstDeassert port) s = becomes s (s.part.perstDeassert port) := rfl

theorem exec_pcieLinkUp (s : State) (port : Nat) : exec (.pcieLinkUp port) s = becomes s (s.part.linkUpEvent port) := rfl

theorem exec_configWrite (s : State) (port fn : Nat) (ctl : FnCtl) (vfEn : Bool) (numVfs : Nat) :
    exec (.configWrite port fn ctl vfEn numVfs) s = becomes s (s.part.configWrite port fn ctl vfEn numVfs) := rfl

theorem exec_msixVectorUnmask (s : State) (port fn : Nat) (w : VecWrite) :
    exec (.msixVectorUnmask port fn w) s = becomes s (s.part.unmask port fn w) := rfl

/-- Settles O44: each command comes down to the lemma on it above. What a reset clears in configuration space is the model's choice (log entry
15), as are the training of a port whose link is lost and that the functions are reset before the contexts are torn down (log entry 61). -/
theorem portsAndFunctionsReset : Obligations.PortsAndFunctionsReset := by
  intro s port hp h cleared noVfs lost
  have lost_eq : ∀ trains, lost trains = (s.part.linkLost port trains).portReset port := fun _ => rfl
  refine ⟨fun hr => ?perst, fun hl => ⟨?hot, ?down⟩, fun hl => ?pf0, fun hl => ?pf1, ?vf, ?vfs, fun hf hl => ?trains, fun ht hf hr => ?up,
    ?config, ?vector⟩
  case perst => rw [exec_perstAssert, Part.perstAssert_resets hp hr, ← lost_eq]
  case hot => rw [exec_hotReset, Part.hotReset_up hl, ← lost_eq]
  case down => rw [exec_pcieLinkDown, Part.linkDownEvent_up hl, ← lost_eq]
  case pf0 =>
    rw [exec_pfFlr, Part.pfFlr_up hl, Part.pfReset_zero]
    rfl
  case pf1 =>
    rw [exec_pfFlr, Part.pfFlr_up hl, Part.pfReset_one]
    rfl
  case vf =>
    intro v hv hv' hl he r
    have reset : r = s.part.vfReset v := rfl
    refine ⟨?_, fun hd => ?_⟩
    · rw [exec_vfFlr, Part.vfFlr_enabled hv hl he, reset]
    · rw [exec_d3hotEntry, Part.d3Entry_vf hv hv' hl he hd, reset]
  case vfs =>
    intro hv n hn
    rw [exec_vfEnableClear, Part.vfEnableClear_lowers hv hn]
    rfl
  case trains => rw [exec_perstDeassert, Part.perstDeassert_trains hp hf hl]
  case up => rw [exec_pcieLinkUp, Part.linkUpEvent_trained ht hf hr]
  case config =>
    intro fn ctl k hk hl he
    have kept := Part.settings_configWrite ctl hk hl he
    simp only [Part.settings, Prod.mk.injEq] at kept
    obtain ⟨regs, mem, bme, msix, fmask, vfEn⟩ := kept
    have masters : ∀ n, (s.part.configWrite port fn ctl false 0).masters n = if n = k then ctl.bme else s.part.masters n := fun n => by
      rw [Part.masters, bme]
      exact Part.contains_fnSet ..
    refine ⟨_, exec_configWrite .., (masters k).trans (if_pos rfl), ?_, ?_, fun n hn => (masters n).trans (if_neg hn), vfEn, regs, mem⟩
    · rw [msix]
      exact (Part.contains_fnSet ..).trans (if_pos rfl)
    · rw [fmask]
      exact (Part.contains_fnSet ..).trans (if_pos rfl)
  case vector =>
    intro fn w k hw hl he
    rw [exec_msixVectorUnmask, Part.unmask_writes hw hl he, Part.sendPending_setVec]

end Sys2Proof.Safety
end

section
/-!
Submission rings (12 R267 to R273, 10 R223 to R225): the rounds of the watch loop, the reads of doorbells and entries, and graph headers.
-/

namespace Sys2Proof.Machine.Part
open Sys2Proof

/-! ### Rounds (R271, R272) -/

/-- The doorbell of a ring is read in the round, its sweep with it (R272). -/
def askDoorbell (p : Part) (r : Nat) : Part := (p.setSq r { p.sq r with dbRead := true, sweep := false }).bumpHif (p.sqCtx r) 0 1

/-- The rings of a function whose doorbells a round reads: those of running contexts that the bitmap flags or whose sweep is due. -/
def roundRings (p : Part) (fn bitmap : Nat) : List Nat :=
  (p.ringsOf fn).filter fun r => p.ctxRuns (p.sqCtx r) && (bit bitmap (p.rf .sqCfg 0 r 32 10) || (p.sq r).sweep)

/-- The bitmap of a function as host memory holds it. -/
def bitmapNow (p : Part) (fn : Nat) : Nat :=
  leNat (p.mem.hostRead (p.rv .funcSummary 0 fn / 64 * 64) (if p.rb .funcSummary 0 fn 1 then 128 else 64))

section
variable {p : Part} {fn r : Nat} {st : RdStat} {hw : Cells}

theorem watchRound_idle (hs : p.rb .funcSummary 0 fn 0 = true) (hr : (p.ringsOf fn).isEmpty = false) (hi : (p.watch fn).reading = false)
    (ho : (p.watch fn).round = false) :
    p.watchRound fn = ((p.setWatch fn { p.watch fn with reading := true }).bumpFn fn 0).request fn := by
  have starts : (p.rb .funcSummary 0 fn 0 && !(p.ringsOf fn).isEmpty && !(p.watch fn).reading && !(p.watch fn).round) = true := by
    rw [hs, hr, hi, ho]; rfl
  exact if_pos starts

theorem sweepDue_enabled (he : p.sqEn r = true) : p.sweepDue r = p.setSq r { p.sq r with sweep := true } := if_pos he

/-- A bitmap that is read starts the round: the doorbells of flagged and swept rings are read. -/
theorem bitmapReadDone_ok (hr : (p.watch fn).reading = true) (hm : p.masters fn = true) :
    p.bitmapReadDone fn .ok hw =
      let q := (p.hostSees hw).setWatch fn { p.watch fn with reading := false, round := true, found := false }
      ((q.roundRings fn ((p.hostSees hw).bitmapNow fn)).foldl askDoorbell q).endRound fn := by
  have read : ¬(!(p.watch fn).reading || !p.masters fn) = true := by rw [hr, hm]; decide
  exact (if_neg read).trans (if_neg (not_not_intro rfl))

/-- A bitmap read that fails is counted, and the interval doubles up to WATCH_MAX_NS (R273). -/
theorem bitmapReadDone_failed (hr : (p.watch fn).reading = true) (hm : p.masters fn = true) (hs : st ≠ .ok) :
    p.bitmapReadDone fn st hw = ((p.hostSees hw).setWatch fn { p.watch fn with
      reading := false, interval := min (2 * (p.watch fn).interval) ((p.hostSees hw).rf .watchCtl 0 0 0 24) }).watchErr fn st := by
  have read : ¬(!(p.watch fn).reading || !p.masters fn) = true := by rw [hr, hm]; decide
  exact (if_neg read).trans (if_pos hs)

/-! ### Doorbells (R268) -/

/-- The doorbell of a ring as host memory holds it. -/
def doorbellNow (p : Part) (r : Nat) : Nat := leNat (p.mem.hostRead (p.rv .sqDb 0 r / 64 * 64) 8)

/-- A doorbell beyond CONSUMED by no more than the ring's size becomes PRODUCER, and the round goes on to the ring's entries. -/
theorem doorbellReadDone_brings {v : Nat} (hv : (p.hostSees hw).doorbellNow r = v) (hd : (p.sq r).dbRead = true)
    (hm : p.masters (p.fnOf (p.sqCtx r)) = true) (he : p.sqEn r = true) (hc : p.ctxRuns (p.sqCtx r) = true) (hlo : (p.sq r).consumed < v)
    (hhi : v ≤ (p.sq r).consumed + p.sqSize r) :
    p.doorbellReadDone r .ok hw =
      let q := (p.hostSees hw).setSq r { p.sq r with dbRead := false, producer := v, active := true }
      (q.setWatch (p.fnOf (p.sqCtx r)) { q.watch (p.fnOf (p.sqCtx r)) with found := true }).endRound (p.fnOf (p.sqCtx r)) := by
  have read : ¬(!(p.sq r).dbRead || !p.masters (p.fnOf (p.sqCtx r))) = true := by rw [hd, hm]; decide
  have good : (decide ((p.sq r).consumed ≤ v) && decide (v ≤ (p.sq r).consumed + (p.hostSees hw).sqSize r)) = true := by
    rw [decide_eq_true (Nat.le_of_lt hlo)]
    exact decide_eq_true hhi
  have work : (decide ((p.sq r).consumed < v) && (p.hostSees hw).sqEn r && (p.hostSees hw).ctxRuns (p.sqCtx r)) = true := by
    rw [decide_eq_true hlo]
    exact Bool.and_eq_true_iff.mpr ⟨he, hc⟩
  unfold doorbellNow at hv
  refine (if_neg read).trans ((if_neg (not_not_intro rfl)).trans ?_)
  simp only [hv, good, work, if_true]

/-! ### Entries (R223, R224, R267) -/

/-- The next entry of ring `r` may be read: its context runs, an entry waits whose doorbell is known, its Jig has room for a job, and its
function may master the bus. -/
structure EntryDue (p : Part) (r : Nat) : Prop where
  enabled : p.sqEn r = true
  runs : p.ctxRuns (p.sqCtx r) = true
  known : (p.sq r).dbRead = false
  waits : (p.sq r).consumed < (p.sq r).producer
  room : (p.jigJobs (p.homeDie (p.sqCab r))).length < 256
  masters : p.masters (p.fnOf (p.sqCtx r)) = true

/-- Entry `e` of ring `r` is accepted (R223, R267): it names its ring, its reserved bits are 0, its SEQ rises, its graph is aligned. -/
structure EntryGood (p : Part) (r e : Nat) : Prop where
  ring : bits e 128 10 = r
  reserved : bits e 138 118 = 0
  rises : (p.sq r).lastSeq < bits e 0 64
  aligned : bits e 64 64 % 64 = 0

/-- The next entry of a ring as host memory holds it. -/
def entryNow (p : Part) (r : Nat) : Nat :=
  leNat (p.mem.hostRead (p.rv .sqBase 0 r / 64 * 64 + ((p.sq r).consumed % p.sqSize r) * 32) 32)

/-- CONSUMED moves past the entry that is read. -/
def entryTaken (p : Part) (r : Nat) : Part :=
  (p.setSq r { p.sq r with
    consumed := (p.sq r).consumed + 1, moved := true, active := decide ((p.sq r).consumed + 1 < (p.sq r).producer) }).bumpHif (p.sqCtx r) 1 1

theorem submissionEntry_accepts {e : Nat} (hd : EntryDue p r) (he : (p.hostSees hw).entryNow r = e) (hg : EntryGood p r e) :
    p.submissionEntry r .ok hw =
      (((p.hostSees hw).entryTaken r).acceptJob r (bits e 0 64) (bits e 64 64)).endRound (p.fnOf (p.sqCtx r)) := by
  have due : ¬((!(p.sqEn r && p.ctxRuns (p.sqCtx r)) || (p.sq r).dbRead || decide ((p.sq r).producer ≤ (p.sq r).consumed)) = true) := by
    rw [hd.enabled, hd.runs, hd.known, decide_eq_false (Nat.not_le_of_lt hd.waits)]; decide
  have masters : ¬(!p.masters (p.fnOf (p.sqCtx r))) = true := by rw [hd.masters]; decide
  have named : ¬(bits e 128 10 ≠ r ∨ bits e 138 118 ≠ 0) := not_or.mpr ⟨not_not_intro hg.ring, not_not_intro hg.reserved⟩
  have aligned : ¬bits e 64 64 % 64 ≠ 0 := not_not_intro hg.aligned
  unfold entryNow at he
  refine (if_neg due).trans ((if_neg (Nat.not_le_of_lt hd.room)).trans ((if_neg masters).trans ((if_neg (not_not_intro rfl)).trans ?_)))
  subst he
  refine congrArg (endRound · _) ((if_neg named).trans ((if_neg (Nat.not_le_of_lt hg.rises)).trans (if_neg aligned)))

theorem wakeJig_jig (p : Part) (n : Nat) : (p.wakeJig n).jig = p.jig := by
  unfold wakeJig
  dsimp only
  repeat' split
  all_goals simp only [bump_jig]

/-- The job that an accepted entry starts. -/
theorem job_acceptJob (p : Part) (r seq graph : Nat) :
    (p.acceptJob r seq graph).job p.jig.nextJob = some {
      ring := r, seq := seq, ctx := p.sqCtx r, cab := p.sqCab r
      cq := p.rf .sqCfg 0 r 22 10, graph := graph, tag := p.free.1.toNat % 2 ^ 32, after := (p.sq r).prevJob, accepted := p.time } := by
  have kept : ∀ (c : Prop) [Decidable c] (q : Part) (ctx b : Nat) (h : Hold), (if c then q.setHold ctx b h else q).jig = q.jig := by
    intro c _ q ctx b h
    split <;> rfl
  simp only [acceptJob, job, kept, wakeJig_jig]
  exact Tab.find_put_same ..

@[simp] theorem bumpHif_regs (p : Part) (c ev n : Nat) : (p.bumpHif c ev n).regs = p.regs := by rw [bumpHif, bump_regs, bump_regs]

@[simp] theorem bumpHif_jig (p : Part) (c ev n : Nat) : (p.bumpHif c ev n).jig = p.jig := by rw [bumpHif, bump_jig, bump_jig]

/-- The job that starts once an entry of ring `r` is taken. -/
theorem job_entryTaken (p : Part) (r seq graph : Nat) :
    ∃ j : Job, ((p.entryTaken r).acceptJob r seq graph).job p.jig.nextJob = some j ∧ j.seq = seq ∧ j.graph = graph ∧ j.ring = r ∧
      j.ctx = p.sqCtx r ∧ j.cab = p.sqCab r ∧ j.header = false := by
  have next : (p.entryTaken r).jig.nextJob = p.jig.nextJob := congrArg Jig.nextJob (bumpHif_jig ..)
  have regs : (p.entryTaken r).rv = p.rv := rv_eq_of_regs (bumpHif_regs ..)
  have started := job_acceptJob (p.entryTaken r) r seq graph
  rw [next] at started
  refine ⟨_, started, rfl, rfl, rfl, ?_, ?_, rfl⟩
  · rw [sqCtx, rf, regs]; rfl
  · rw [sqCab, rf, regs]; rfl

end

end Sys2Proof.Machine.Part

namespace Sys2Proof.Safety
open Sys2Proof Sys2Proof.Machine

/-- A graph header that is read and sound gives its job the tag and the tasks, and says whether it waits for the job before (10 R225). -/
theorem graphHeaderRead_reads {p : Part} {j h : Nat} {x : Job} {st : RdStat} {hw : Cells} {t : RS} (hj : p.job j = some x)
    (hh : x.header = false) (hc : p.ctxRuns x.ctx = true)
    (hr : Answers (Rd.controlNat x.graph 64) (recWho x j 0) ⟨p.hostSees hw, .clean, st⟩ h t) (ho : t.p.headerOk x h = true) :
    p.graphHeaderRead j st hw = (t.p.setJob j { x with
      header := true, tag := bits h 32 32, tasks := bits h 16 15
      after := if bits h 4 2 = 1 then x.after else none }).forget (earlyKey (recKey j 0)) := by
  have reads : ¬(x.header || !p.ctxRuns x.ctx) = true := by rw [hh, hc]; decide
  unfold Part.graphHeaderRead
  rw [hj]
  refine (if_neg reads).trans (Answers.engage (t := { t with p := t.p.setJob j _ }) ?_)
  exact hr.bind ((Answers.part _ t).bind ((Answers.need ho _ t).bind (Answers.onPart _ _ t)))

theorem exec_watchRound (s : State) (fn : Nat) : exec (.watchRound fn) s = becomes s (s.part.watchRound fn) := rfl

theorem exec_sweepDue (s : State) (r : Nat) : exec (.sweepDue r) s = becomes s (s.part.sweepDue r) := rfl

theorem exec_bitmapReadDone (s : State) (fn : Nat) (st : RdStat) (hw : Cells) :
    exec (.bitmapReadDone fn st hw) s = becomes s (s.part.bitmapReadDone fn st hw) := rfl

theorem exec_doorbellReadDone (s : State) (r : Nat) (st : RdStat) (hw : Cells) :
    exec (.doorbellReadDone r st hw) s = becomes s (s.part.doorbellReadDone r st hw) := rfl

theorem exec_submissionEntry (s : State) (r : Nat) (st : RdStat) (hw : Cells) :
    exec (.submissionEntry r st hw) s = settlesTo s (s.part.submissionEntry r st hw) := rfl

theorem exec_graphHeaderRead (s : State) (j : Nat) (st : RdStat) (hw : Cells) :
    exec (.graphHeaderRead j st hw) s = settlesTo s (s.part.graphHeaderRead j st hw) := rfl

/-- Settles O45: each command comes down to the lemma on it above. That a bitmap read stays outstanding while Bus Master Enable is 0, and that a
failed read is counted for the watch loop and for its port, are the model's choices (log entries 85 and 28). -/
theorem ringsBringJobs : Obligations.RingsBringJobs := by
  intro s hw p
  refine ⟨fun fn hs hr hi ho => ?round, fun r he => ?sweep, fun fn hr hm => ⟨?bitmap, fun st hs => ?failed⟩, ?doorbell, ?entry, ?header⟩
  case round => rw [exec_watchRound, Part.watchRound_idle hs hr hi ho]
  case sweep => rw [exec_sweepDue, Part.sweepDue_enabled he]
  case bitmap =>
    rw [exec_bitmapReadDone, Part.bitmapReadDone_ok hr hm]
    rfl
  case failed => rw [exec_bitmapReadDone, Part.bitmapReadDone_failed hr hm hs]
  case doorbell =>
    intro r x fn v hd hm he hc hlo hhi q
    rw [exec_doorbellReadDone, Part.doorbellReadDone_brings rfl hd hm he hc hlo hhi]
    rfl
  case entry =>
    intro r x c b e he hc hd hwait hroom hm hring hres hseq hal q
    refine ⟨?_, Part.job_entryTaken p r _ _⟩
    have accepted := Part.submissionEntry_accepts (hw := hw) ⟨he, hc, hd, hwait, hroom, hm⟩ rfl ⟨hring, hres, hseq, hal⟩
    rw [exec_submissionEntry, accepted]
    rfl
  case header =>
    intro j x st h t hj hh hc hr ho
    rw [exec_graphHeaderRead, graphHeaderRead_reads hj hh hc hr ho]

end Sys2Proof.Safety
end

section
/-!
Completion rings and failed reads (12 R273, R275, R277, R287): return lines, the moderation timer, and reads that get no completion.
-/

namespace Sys2Proof.Machine.Part
open Sys2Proof

section
variable {p : Part} {q fn j : Nat} {st : RdStat} {hw : Cells}

/-- The return line of a ring is read while an entry waits, or the request is discarded at Bus Master Enable 0 (R275, R281). -/
theorem returnLinePoll_waiting (hp : (p.cq q).pend ≠ []) (hr : (p.cq q).reading = false) :
    p.returnLinePoll q = if p.masters (p.fnOf (p.rf .cqCfg 0 q 8 8)) = true then p.setCq q { p.cq q with reading := true }
      else p.bumpFn (p.fnOf (p.rf .cqCfg 0 q 8 8)) 1 := by
  have issued : ¬(p.cq q).reading = true := by rw [hr]; decide
  refine (if_neg hp).trans ((if_neg issued).trans ?_)
  split
  next => rfl
  next hm => exact if_neg hm

/-- The return line of a ring as host memory holds it. -/
def returnNow (p : Part) (q : Nat) : Nat := leNat (p.mem.hostRead (p.rv .cqReturn 0 q / 64 * 64) 8)

/-- The part once the outstanding read of a ring's return line has ended. -/
def returnRead (p : Part) (q : Nat) : Part := p.setCq q { p.cq q with reading := false }

/-- A read of a return line outstanding for a function that may master the bus, so that it can complete. -/
structure ReturnDue (p : Part) (q : Nat) : Prop where
  reading : (p.cq q).reading = true
  masters : p.masters (p.fnOf (p.rf .cqCfg 0 q 8 8)) = true

theorem ReturnDue.completes (h : ReturnDue p q) : ¬(!(p.cq q).reading || !p.masters (p.fnOf (p.rf .cqCfg 0 q 8 8))) = true := by
  rw [h.reading, h.masters]; decide

/-- A value from CONSUMED to CQ_POSTED becomes CONSUMED, and entries that wait are posted while room lasts. -/
theorem returnLineReadDone_drains {v : Nat} (h : ReturnDue p q) (hv : ((p.hostSees hw).returnRead q).returnNow q = v)
    (hlo : (p.cq q).consumed ≤ v) (hhi : v ≤ (p.cq q).posted) :
    p.returnLineReadDone q .ok hw = cqDrain q ((p.cq q).pend.length + (p.cq q).ovr.length)
      (((p.hostSees hw).returnRead q).setCq q { p.cq q with reading := false, consumed := v }) := by
  subst hv
  exact (if_neg h.completes).trans ((if_neg (not_not_intro rfl)).trans
    (if_neg (not_or.mpr ⟨Nat.not_lt_of_le hlo, Nat.not_lt_of_le hhi⟩)))

/-- Any other value is counted and changes nothing. -/
theorem returnLineReadDone_outside {v : Nat} (h : ReturnDue p q) (hv : ((p.hostSees hw).returnRead q).returnNow q = v)
    (ho : v < (p.cq q).consumed ∨ (p.cq q).posted < v) :
    p.returnLineReadDone q .ok hw = ((p.hostSees hw).returnRead q).bumpHif (p.rf .cqCfg 0 q 8 8) 5 1 := by
  subst hv
  exact (if_neg h.completes).trans ((if_neg (not_not_intro rfl)).trans (if_pos ho))

/-- A read of a return line that fails faults the ring's context (R287). -/
theorem returnLineReadDone_failed (h : ReturnDue p q) (hs : st ≠ .ok) :
    p.returnLineReadDone q st hw = ((p.hostSees hw).returnRead q).ringReadFault (p.rf .cqCfg 0 q 8 8) q st :=
  (if_neg h.completes).trans (if_pos hs)

/-- The moderation timer signals a ring that has entries not yet signalled (R277). -/
theorem msixModTimer_signals (hm : p.rb .cqCfg 0 q 27 = true) (hu : 0 < (p.cq q).u) (ht : p.rf .cqCfg 0 q 40 16 ≠ 0) :
    p.msixModTimer q = p.cqSignal q := by
  have due : (p.rb .cqCfg 0 q 27 && decide (0 < (p.cq q).u) && decide (p.rf .cqCfg 0 q 40 16 ≠ 0)) = true := by
    rw [hm, decide_eq_true hu, decide_eq_true ht]; rfl
  exact if_pos due

/-! ### Reads without completion (R273, R287) -/

theorem completionTimeout_bitmap (hr : (p.watch fn).reading = true) :
    p.completionTimeout 0 fn = (p.setWatch fn { p.watch fn with
      reading := false, interval := min (2 * (p.watch fn).interval) (p.rf .watchCtl 0 0 0 24) }).watchErr fn .timeout :=
  (if_pos rfl).trans (if_pos hr)

theorem completionTimeout_returnLine (hr : (p.cq q).reading = true) :
    p.completionTimeout 3 q = (p.returnRead q).ringReadFault (p.rf .cqCfg 0 q 8 8) q .timeout :=
  (if_neg (by decide)).trans ((if_neg (by decide)).trans ((if_neg (by decide)).trans ((if_pos rfl).trans (if_pos hr))))

theorem completionTimeout_job {x : Job} (hj : p.job j = some x) : p.completionTimeout 4 j = p.ringReadFault x.ctx x.ring .timeout := by
  unfold completionTimeout
  rw [hj]
  rfl

end

end Sys2Proof.Machine.Part

namespace Sys2Proof.Safety
open Sys2Proof Sys2Proof.Machine

theorem exec_returnLinePoll (s : State) (q : Nat) : exec (.returnLinePoll q) s = becomes s (s.part.returnLinePoll q) := rfl

theorem exec_returnLineReadDone (s : State) (q : Nat) (st : RdStat) (hw : Cells) :
    exec (.returnLineReadDone q st hw) s = settlesTo s (s.part.returnLineReadDone q st hw) := rfl

theorem exec_msixModTimer (s : State) (q : Nat) : exec (.msixModTimer q) s = becomes s (s.part.msixModTimer q) := rfl

theorem exec_completionTimeout (s : State) (kind idx : Nat) :
    exec (.completionTimeout kind idx) s = settlesTo s (s.part.completionTimeout kind idx) := rfl

/-- Settles O46: each command comes down to the lemma on it above. That a return line read discarded at Bus Master Enable 0 is not outstanding
is the model's choice (log entry 85), as is that the command of a job's read needs no read outstanding in the state (log entry 1). -/
theorem completionRingsDrain : Obligations.CompletionRingsDrain := by
  intro s q x c
  refine ⟨fun hp hr => ?poll, fun hw hr hm => ?read, fun hm hu ht => ?timer, fun fn hr => ?bitmap, fun hr => ?returnLine, fun j y hj => ?job⟩
  case poll => rw [exec_returnLinePoll, Part.returnLinePoll_waiting hp hr]
  case read =>
    have due : Part.ReturnDue s.part q := ⟨hr, hm⟩
    refine ⟨fun hlo hhi => ?drains, fun ho => ?outside, fun st hs => ?failed⟩
    case drains => rw [exec_returnLineReadDone, Part.returnLineReadDone_drains due rfl hlo hhi]; rfl
    case outside => rw [exec_returnLineReadDone, Part.returnLineReadDone_outside due rfl ho]; rfl
    case failed => rw [exec_returnLineReadDone, Part.returnLineReadDone_failed due hs]; rfl
  case timer => rw [exec_msixModTimer, Part.msixModTimer_signals hm hu ht]
  case bitmap => rw [exec_completionTimeout, Part.completionTimeout_bitmap hr]
  case returnLine => rw [exec_completionTimeout, Part.completionTimeout_returnLine hr]; rfl
  case job => rw [exec_completionTimeout, Part.completionTimeout_job hj]

end Sys2Proof.Safety
end
section
/-!
Steps (95, 18 R416, R420, 16 R367): what a command makes of the machine, and what every step keeps of the part.
-/

namespace Sys2Proof.Safety
open Sys2Proof Sys2Proof.Machine

/-- Settles O58: these are the two cases of a step. That the block idles on an empty queue is the model's choice (log entry 2). -/
theorem stepRunsTheFrontCommand : Obligations.StepRunsTheFrontCommand := by
  intro s c rest
  exact ⟨fun h => by rw [step, h], fun h => by rw [step, h]⟩

/-! ### What every command keeps -/

/-- The answer is a next state with the queue as it was, and with a good part where the part was good before. -/
def KeepsGood (s : State) (o : Host.Outcome State Fault Refusal) : Prop := ∃ q : Part, o = becomes s q ∧ (Good s.part → Good q)

theorem keeps_onPart {s : State} {f : Part → Part} (hf : ∀ {p}, Good p → Good (f p)) : KeepsGood s (onPart s f) := ⟨_, rfl, hf⟩

theorem good_after {p q : Part} (h : Good q) : Good (after p q) := keep_react (keep_settle (keep_proceed h))

theorem keeps_onWork {s : State} {f : Part → Part} (hf : ∀ {p}, Good p → Good (f p)) : KeepsGood s (onWork s f) :=
  ⟨_, rfl, fun h => good_after (hf h)⟩

/-- A command that is carried out only where a guard holds, and elsewhere leaves the part as it is. -/
theorem good_guarded {c : Prop} [Decidable c] {p q : Part} (hp : Good p) (hq : Good q) : Good (if c then q else p) :=
  Good.ite (fun _ => hq) (fun _ => hp)

/-- POWER_ON_RESET and OVER_VOLTAGE within the ratings have their effect on the part (16 R367). -/
theorem keeps_rated {s : State} {f : Part → Part} {mv : Nat} (hm : mv ≤ 66000) (hf : ∀ {p}, Good p → Good (f p)) :
    KeepsGood s (if 66000 < mv then .fault .absoluteMaximum else onPart s f) := by
  rw [if_neg (Nat.not_lt.mpr hm)]
  exact keeps_onPart hf

/-- Every command within the ratings answers a next state, and keeps the part good: its meaning is an operation that does. -/
theorem exec_keeps (s : State) (i : Instr) (hi : WithinRatings i) : KeepsGood s (exec i s) := by
  unfold exec
  cases i with
  | regWrite | stagedHalfWrite | cabEnWrite | save | quiesce | ctxEnSet | ctxEnClear | sqEnSet | sqEnClear | cqEnSet | cqEnClear
  | regionCfgWrite | arrivalCfgWrite | stackOffline | stackOnline | dtLinkEnable | dtLinkDisable | dtRetrainForce => exact keeps_onWork keep_writeReg
  | badSizeAccess => exact keeps_onPart keep_badSize
  | unmappedAccess => exact keeps_onPart keep_unmapped
  | w1cClear => exact keeps_onWork keep_writeAcc
  | pwrMeasRead | gangFeedStatusRead | lowHalfRead => exact keeps_onPart keep_readAcc
  | randProbeGo | transInval | cupboardFlush | cupboardDisable | hbmMapWrite | repair | delete | list | channelOffline | channelOnline
  | aesPortEnable | aesPortDisable | aesRefEnable | joinEnable | joinDisable | bootHostGo | leave | test | update | rejoin | fwSlotGo
  | hallmarkCommit | hallmarkLock => exact keeps_onPart keep_writeReg
  | randProbeDone => exact keeps_onPart keep_probeDone
  | teardownDone => exact keeps_onWork keep_teardownDone
  | transInvalDone => exact keeps_onPart keep_transInvalDone
  | cupboardFlushDone => exact keeps_onPart keep_cupboardFlushDone
  | repairDone => exact keeps_onPart keep_repairDone
  | chestLoad | chestWrite => exact keeps_onPart keep_writeAcc
  | chestCmdDone => exact keeps_onPart keep_chestCmdDone
  | retentionScrub => exact keeps_onPart keep_retentionScrub
  | channelOfflineDone => exact keeps_onPart keep_channelOfflineDone
  | channelRetrainDone => exact keeps_onPart keep_channelRetrainDone
  | dtDisableDrainEnd => exact keeps_onWork keep_drainEnd
  | bootHostLoadDone => exact keeps_onPart keep_bootHostDone
  | svcCmdDone => exact keeps_onWork keep_svcCmdDone
  | fwSlotDone => exact keeps_onPart keep_fwSlotDone
  | hallmarkCommitDone => exact keeps_onPart keep_markDone
  | smbReadPkgIdent | smbReadBootStatus | smbReadBringupStatus | smbReadPwrMeas | smbReadPwrEnergy | smbReadThermStatus | smbReadDieTemps
  | smbReadStackTemps => exact keeps_onPart keep_smbRead
  | smbNack => exact keeps_onPart keep_smbNack
  | rstNAssert => exact keeps_onPart keep_rstAssert
  | rstNRelease => exact keeps_onPart keep_rstRelease
  | brownOut => exact keeps_onPart keep_brownOut
  | ovRecovery => exact keeps_onPart keep_ovRecovery
  | regulatorFault => exact keeps_onWork keep_regulatorFault
  | sensorPoll => exact keeps_onPart keep_sensorPoll
  | pwrMeasUpdate => exact keeps_onPart keep_pwrUpdate
  | blockClockOff => exact keeps_onPart keep_blockOff
  | pllOff => exact keeps_onPart keep_pllOff
  | chestClockOff => exact keeps_onPart keep_chestClockOff
  | gangClockRelease => exact keeps_onPart keep_gangClockRelease
  | blockClockStart => exact keeps_onWork keep_blockStart
  | perstAssert => exact keeps_onWork keep_perstAssert
  | hotReset => exact keeps_onWork keep_hotReset
  | pcieLinkDown => exact keeps_onWork keep_linkDownEvent
  | pfFlr => exact keeps_onWork keep_pfFlr
  | vfEnableClear => exact keeps_onWork keep_vfEnableClear
  | vfFlr => exact keeps_onWork keep_vfFlr
  | d3hotEntry => exact keeps_onWork keep_d3Entry
  | watchRound => exact keeps_onPart keep_watchRound
  | sweepDue => exact keeps_onPart keep_sweepDue
  | bitmapReadDone => exact keeps_onPart keep_bitmapReadDone
  | doorbellReadDone => exact keeps_onPart keep_doorbellReadDone
  | submissionEntry => exact keeps_onWork keep_submissionEntry
  | graphHeaderRead => exact keeps_onWork keep_graphHeaderRead
  | recordFetch => exact keeps_onWork keep_recordFetch
  | nop => exact keeps_onWork keep_nop
  | fence => exact keeps_onWork keep_fence
  | computeTaskComplete => exact keeps_onWork keep_computeTaskComplete
  | msixModTimer => exact keeps_onPart keep_msixModTimer
  | returnLinePoll => exact keeps_onPart keep_returnLinePoll
  | returnLineReadDone => exact keeps_onWork keep_returnLineReadDone
  | modelLoad => exact keeps_onWork keep_modelLoad
  | start | chunk | set | pause | resume | reset | swapOut | swapIn | endOp => exact keeps_onWork keep_streamOp
  | streamSaveDone => exact keeps_onWork keep_streamSaveDone
  | streamRestoreDone => exact keeps_onWork keep_streamRestoreDone
  | streamExchange => exact keeps_onPart keep_streamExchange
  | chunkComplete => exact keeps_onWork keep_chunkComplete
  | gangStepStart => exact keeps_onWork keep_gangStepStart
  | feedRowArrive => exact keeps_onWork keep_feedRow
  | initVectorLoaded => exact keeps_onWork keep_initLoaded
  | punchStart => exact keeps_onPart keep_punchStart
  | stepComplete => exact keeps_onWork keep_stepComplete
  | conv | tconv | maxpool | avgpool | s2c | c2s => exact keeps_onWork keep_planerIssue
  | gemm | aa | attn => exact keeps_onWork keep_joinerIssue
  | add | mul | max | min | convert | lut | rmsnorm | layernorm | softmax | gather | dropout | fillUniform | fillNormal => exact keeps_onWork keep_burnIssue
  | operandDataArrive => exact keeps_onWork keep_operandArrive
  | benchRead => exact keeps_onWork keep_benchRead
  | correctedWriteback => exact keeps_onPart keep_correctedWriteback
  | benchWrite => exact keeps_onWork keep_benchWrite
  | transposedRead | stridedRead => exact keeps_onWork keep_modeRead
  | patrolScrub => exact keeps_onWork keep_patrolScrub
  | scoreboardRegister => exact keeps_onPart keep_scoreboardRegister
  | regionReserve => exact keeps_onWork keep_regionReserve
  | regionReturn => exact keeps_onWork keep_regionReturn
  | bankGate => exact keeps_onPart keep_bankGate
  | bankWakeDone => exact keeps_onWork keep_bankWakeDone
  | carrier => exact keeps_onWork keep_carrierIssue
  | carrierDataArrive => exact keeps_onWork keep_carrierDataArrive
  | transferComplete => exact keeps_onWork keep_transferComplete
  | cupboardFillDone => exact keeps_onPart keep_cupboardFillDone
  | batchSwitch => exact keeps_onWork keep_batchSwitch
  | quantumExpire => exact keeps_onPart keep_quantumExpire
  | graceEvict => exact keeps_onPart keep_graceEvict
  | drainResponse => exact keeps_onPart keep_drainResponse
  | saveComplete => exact keeps_onWork keep_saveComplete
  | restoreComplete => exact keeps_onWork keep_restoreComplete
  | hbmRead => exact keeps_onPart keep_hbmRead
  | hbmWrite => exact keeps_onPart keep_hbmWrite
  | hbmRefresh => exact keeps_onPart keep_hbmRefresh
  | selfRefreshEnter => exact keeps_onPart keep_selfRefreshEnter
  | stackWakeDone => exact keeps_onPart keep_stackWakeDone
  | odeccPoll => exact keeps_onPart keep_odeccPoll
  | hbmPatrolScrub => exact keeps_onPart keep_hbmPatrolScrub
  | aesFrame => exact keeps_onPart keep_aesFrame
  | aesSideArrive => exact keeps_onWork keep_aesSideArrive
  | aesFeedArrive => exact keeps_onWork keep_aesFeedArrive
  | aesRampEnd => exact keeps_onPart keep_aesRampEnd
  | aesTaperEnd => exact keeps_onPart keep_aesTaperEnd
  | refWindow => exact keeps_onPart keep_refWindow
  | refAbsentTimeout => exact keeps_onPart keep_refAbsentTimeout
  | refRateBroadcast => exact keeps_onPart keep_refRateBroadcast
  | dowelFlitCrcErr => exact keeps_onPart keep_dowelErr
  | dowelRetrainDone => exact keeps_onWork keep_dowelDone
  | dtFlitReceive => exact keeps_onWork keep_flitReceive
  | dtRetrain => exact keeps_onPart keep_retrain
  | dtRetrainDone => exact keeps_onWork keep_retrainDone
  | dtTrainDone => exact keeps_onWork keep_trainDone
  | dtHelloTimer => exact keeps_onPart keep_helloTimer
  | dtNarrow => exact keeps_onPart keep_narrow
  | dtWidenDone => exact keeps_onPart keep_widenDone
  | read => exact keeps_onWork keep_msgRead
  | data => exact keeps_onPart keep_msgData
  | fenced => exact keeps_onPart keep_msgFenced
  | refusedMsg => exact keeps_onWork keep_msgRefused
  | write => exact keeps_onWork keep_msgWrite
  | hello => exact keeps_onWork keep_msgHello
  | prepare => exact keeps_onPart keep_msgPrepare
  | ack => exact keeps_onWork keep_msgAck
  | commit => exact keeps_onWork keep_msgCommit
  | timeReq => exact keeps_onPart keep_msgTimeReq
  | timeResp => exact keeps_onPart keep_msgTimeResp
  | notice => exact keeps_onWork keep_msgNotice
  | remoteReadTimeout => exact keeps_onWork keep_readTimeout
  | joinQuietExpire => exact keeps_onWork keep_quietExpire
  | joinAckTimeout => exact keeps_onWork keep_commitNow
  | joinCommitTimeout => exact keeps_onPart keep_commitTimeout
  | joinHelloLoss => exact keeps_onWork keep_helloLoss
  | timeMeasureTimer => exact keeps_onPart keep_timeTimer
  | faultIrqTimer => exact keeps_onPart keep_faultTimer
  | pilotTick => exact keeps_onPart keep_pilotTick
  | bringupStageEnd => exact keeps_onWork keep_stageEnd
  | perstDeassert => exact keeps_onPart keep_perstDeassert
  | pcieLinkUp => exact keeps_onPart keep_linkUpEvent
  | completionTimeout => exact keeps_onWork keep_completionTimeout
  | configWrite => exact keeps_onPart keep_configWrite
  | msixVectorUnmask => exact keeps_onPart keep_unmask
  | refEdgesPresent => exact keeps_onPart keep_refEdgesPresent
  | counterWindowWrite => exact keeps_onPart fun h => good_guarded h (keep_writeReg h)
  | hallmarkShadowWrite => exact keeps_onPart fun h => good_guarded h (keep_writeReg h)
  | condRecordArrive => exact keeps_onWork fun h => keep_condArrive (keep_hostSees h)
  | powerOnReset => exact keeps_rated hi keep_powerOn
  | overVoltage => exact keeps_rated hi keep_overVoltage

/-- A command above the absolute maximum stops by name (16 R367, log entry 14). -/
theorem exec_overrated {i : Instr} (hi : ¬WithinRatings i) (s : State) : exec i s = .fault .absoluteMaximum := by
  cases i
  case powerOnReset mv aonLost straps => exact if_pos (Nat.not_le.mp hi)
  case overVoltage mv => exact if_pos (Nat.not_le.mp hi)
  all_goals exact absurd trivial hi

/-- A step within the ratings answers the queue's rest, and keeps the part good. -/
theorem step_keeps {s : State} (h : ∀ c ∈ s.pending.head?, WithinRatings c) :
    ∃ q : Part, step s = .next ⟨s.pending.drop 1, q⟩ ∧ (Good s.part → Good q) := by
  obtain ⟨_ | ⟨c, rest⟩, p⟩ := s
  · exact ⟨p, rfl, id⟩
  · exact exec_keeps ⟨rest, p⟩ c (h c rfl)

/-- A step that answers a next state ran a command within the ratings, or none. -/
theorem withinRatings_of_step {s t : State} (h : step s = .next t) : ∀ c ∈ s.pending.head?, WithinRatings c := by
  obtain ⟨_ | ⟨c, rest⟩, p⟩ := s
  · exact fun _ h => nomatch h
  · rintro _ ⟨rfl⟩
    by_contra hc
    have faults : step ⟨c :: rest, p⟩ = .fault .absoluteMaximum := exec_overrated hc _
    rw [faults] at h
    nomatch h

/-- Settles O59: a command within the ratings keeps the part good, and one above them stops the machine, as log entry 14 reads R4 and R367. -/
theorem everyStepKeepsThePartGood : Obligations.EveryStepKeepsThePartGood := by
  intro s
  refine ⟨fun hg t ht => ?_, fun h => ?_, fun mv hm => ⟨fun aonLost straps => ?_, ?_⟩⟩
  · obtain ⟨q, hq, keeps⟩ := step_keeps (withinRatings_of_step ht)
    obtain rfl : State.mk (s.pending.drop 1) q = t := Host.Outcome.next.inj (hq.symm.trans ht)
    exact ⟨keeps hg, rfl⟩
  · obtain ⟨q, hq, -⟩ := step_keeps h
    exact ⟨_, hq⟩
  · exact exec_overrated (i := .powerOnReset mv aonLost straps) (Nat.not_le.mpr hm) s
  · exact exec_overrated (i := .overVoltage mv) (Nat.not_le.mpr hm) s

/-! ### Reset -/

/-- A register of which nothing is stored reads its table's value. -/
theorem rv_unstored {p : Part} (h : p.regs = []) (r : RegName) (d i : Nat) : p.rv r d i = (regRow r).reset % 2 ^ 64 := by
  rw [Part.rv, Part.reg, h]
  rfl

/-- Settles O60: nothing is stored yet, so that every register reads its row's value; what a row without one reads is the model's choice (log
entry 5). -/
theorem resetIsGood : Obligations.ResetIsGood :=
  ⟨good_initial, rfl, rfl, fun _ => rfl, rv_unstored rfl, rfl⟩

end Sys2Proof.Safety
end
section
/-!
The map of the set-up registers (19 R422, Tables 19-1 to 19-4): which offset of a window each register stands at, that no two registers
share one, and where the windows lie.
-/

namespace Sys2Proof.Machine
open Sys2Proof

/-! ### Instances of one register -/

/-- A numbered register stands at an offset of its window exactly where the table's spacing puts it. -/
theorem instAt_eq_some {r : RegName} {o i : Nat} : instAt r o = some i ↔ o = instOff r i ∧ i < (regRow r).count := by
  have spaced {b s n : Nat} (hs : 0 < s) :
      (if b ≤ o ∧ (o - b) % s = 0 ∧ (o - b) / s < n then some ((o - b) / s) else none) = some i ↔ o = b + i * s ∧ i < n := by
    rw [Option.ite_none_right_eq_some, Option.some_inj]
    constructor
    · rintro ⟨⟨hb, hm, hn⟩, rfl⟩
      have whole := Nat.div_add_mod' (o - b) s
      exact ⟨by omega, hn⟩
    · rintro ⟨rfl, hn⟩
      rw [Nat.add_sub_cancel_left, Nat.mul_mod_left, Nat.mul_div_cancel _ hs]
      exact ⟨⟨Nat.le_add_right _ _, rfl, hn⟩, rfl⟩
  have strides : ∀ r : RegName, 0 < (regRow r).stride := by intro r; cases r <;> decide
  unfold instAt instOff
  split
  case h_1 =>
    rw [Option.ite_none_right_eq_some, Option.some_inj]
    have count : (regRow .cabShare).count = 256 := rfl
    omega
  case h_2 =>
    have count : (regRow .funcSummary).count = 257 := rfl
    split_ifs <;> simp_all <;> omega
  case h_3 => exact spaced (strides r)

/-! ### No two registers share an offset -/

/-- The runs of evenly spaced offsets at which a register's instances stand: first offset, spacing, length. -/
def runs (r : RegName) : List (Nat × Nat × Nat) :=
  match r with
  | .cabShare => (List.range 8).map fun j => (0x60080 + j * 8, 0x100, 32)
  | _ => [((regRow r).base, (regRow r).stride, (regRow r).count)]

/-- Two runs that share no offset: one ends before the other begins, or their offsets differ modulo a common divisor of the spacings. -/
def apart (x y : Nat × Nat × Nat) : Bool :=
  decide (x.1 + (x.2.2 - 1) * x.2.1 < y.1) || decide (y.1 + (y.2.2 - 1) * y.2.1 < x.1) ||
    x.1 % Nat.gcd x.2.1 y.2.1 != y.1 % Nat.gcd x.2.1 y.2.1

theorem ne_of_apart {x y : Nat × Nat × Nat} (h : apart x y = true) {i j : Nat} (hi : i < x.2.2) (hj : j < y.2.2) :
    x.1 + i * x.2.1 ≠ y.1 + j * y.2.1 := by
  intro e
  simp only [apart, Bool.or_eq_true, decide_eq_true_eq, bne_iff_ne, ne_eq] at h
  have iMax := Nat.mul_le_mul_right x.2.1 (Nat.le_sub_one_of_lt hi)
  have jMax := Nat.mul_le_mul_right y.2.1 (Nat.le_sub_one_of_lt hj)
  rcases h with (h | h) | h
  · omega
  · omega
  · have hx := (Nat.gcd_dvd_left x.2.1 y.2.1).mul_left i
    have hy := (Nat.gcd_dvd_right x.2.1 y.2.1).mul_left j
    have e := congrArg (· % Nat.gcd x.2.1 y.2.1) e
    simp only [Nat.add_mod, Nat.mod_eq_zero_of_dvd hx, Nat.mod_eq_zero_of_dvd hy, Nat.add_zero, Nat.mod_mod] at e
    exact h e

/-- Each numbered register stands in one of the runs of its name. -/
theorem instOff_mem_runs {r : RegName} {i : Nat} (hi : i < (regRow r).count) :
    ∃ x ∈ runs r, ∃ k < x.2.2, instOff r i = x.1 + k * x.2.1 := by
  by_cases h : r = .cabShare
  · subst h
    change i < 256 at hi
    refine ⟨_, List.mem_map_of_mem (List.mem_range.mpr (Nat.mod_lt i (by omega : 0 < 8))), i / 8, by dsimp only; omega, ?_⟩
    simp only [instOff]
    omega
  · have runs_eq : runs r = [((regRow r).base, (regRow r).stride, (regRow r).count)] := by
      unfold runs
      split
      · contradiction
      · rfl
    refine ⟨_, by rw [runs_eq]; exact List.mem_singleton_self _, i, hi, ?_⟩
    unfold instOff
    split
    · contradiction
    · split
      · subst i; rfl
      · rfl
    · rfl

theorem mem_allRegs (r : RegName) : r ∈ allRegs := by
  cases r <;> decide

/-- The tables put no two registers of a window at one offset. -/
theorem runs_apart : (allRegs.all fun r => allRegs.all fun q => r == q || (regRow r).win != (regRow q).win ||
    (runs r).all fun x => (runs q).all fun y => apart x y) = true := by
  decide +kernel

/-- An offset of a window belongs to one register. -/
theorem eq_of_instOff_eq {r q : RegName} {i j : Nat} (hw : (regRow r).win = (regRow q).win) (hi : i < (regRow r).count)
    (hj : j < (regRow q).count) (h : instOff r i = instOff q j) : r = q := by
  obtain ⟨x, hx, k, hk, ex⟩ := instOff_mem_runs hi
  obtain ⟨y, hy, m, hm, ey⟩ := instOff_mem_runs hj
  by_contra hne
  have table := List.all_eq_true.mp (List.all_eq_true.mp runs_apart r (mem_allRegs r)) q (mem_allRegs q)
  simp only [hw, beq_false_of_ne hne, bne_self_eq_false, Bool.false_or, List.all_eq_true] at table
  exact ne_of_apart (table x hx y hy) hk hm (ex.symm.trans (h.trans ey))

/-! ### Windows -/

/-- The dies that a kind of window has (19), and the bytes of one window. -/
def winDies (w : Win) : Nat :=
  match w with
  | .glob => 1
  | .bench => 8
  | .frame => 4

def winSize (w : Win) : Nat :=
  match w with
  | .glob => 0x200000
  | .bench => 0x200000
  | .frame => 0x400000

/-- An offset of BAR0 lies in the window of the die that begins below it. -/
theorem winOf_eq_some {off d o : Nat} {w : Win} : winOf off = some (w, d, o) ↔ off = winBase w d + o ∧ o < winSize w ∧ d < winDies w := by
  unfold winOf
  cases w <;> simp only [winBase, winSize, winDies] <;> split_ifs <;>
    simp only [Option.some.injEq, Prod.mk.injEq, reduceCtorEq, false_and, true_and, false_iff] <;> omega

/-- Every register stands within its window. -/
theorem runs_within : (allRegs.all fun r => (runs r).all fun x => decide (x.1 + (x.2.2 - 1) * x.2.1 < winSize (regRow r).win)) = true := by
  decide +kernel

theorem instOff_lt_winSize {r : RegName} {i : Nat} (hi : i < (regRow r).count) : instOff r i < winSize (regRow r).win := by
  obtain ⟨x, hx, k, hk, ex⟩ := instOff_mem_runs hi
  have within := decide_eq_true_eq.mp (List.all_eq_true.mp (List.all_eq_true.mp runs_within r (mem_allRegs r)) x hx)
  have last := Nat.mul_le_mul_right x.2.1 (Nat.le_sub_one_of_lt hk)
  omega

/-! ### The register at an offset -/

/-- Whether register `r` number `i` stands in the window of die `d`. -/
def Stands (r : RegName) (d i : Nat) : Prop :=
  i < (regRow r).count ∧ d < winDies (regRow r).win ∧ ((regRow r).win = .frame → onFrame r d = true)

/-- What the search of the tables for offset `o` of the window of die `d` makes of a register. -/
theorem standing_eq_some {r : RegName} {w : Win} {d o : Nat} {x : RegId} :
    (if (regRow r).win = w ∧ (w ≠ .frame ∨ onFrame r d) then (instAt r o).map fun i => (⟨r, d, i⟩ : RegId) else none) = some x ↔
      (regRow r).win = w ∧ (w = .frame → onFrame r d = true) ∧ o = instOff r x.idx ∧ x.idx < (regRow r).count ∧ x.name = r ∧ x.die = d := by
  obtain ⟨n, e, i⟩ := x
  rw [Option.ite_none_right_eq_some, Option.map_eq_some_iff]
  constructor
  · rintro ⟨⟨hw, hf⟩, j, hj, hx⟩
    obtain ⟨rfl, rfl, rfl⟩ := RegId.mk.inj hx
    exact ⟨hw, fun h => hf.resolve_left (not_not.mpr h), (instAt_eq_some.mp hj).1, (instAt_eq_some.mp hj).2, rfl, rfl⟩
  · rintro ⟨hw, hf, ho, hi, rfl, rfl⟩
    exact ⟨⟨hw, or_iff_not_imp_left.mpr fun h => hf (not_not.mp h)⟩, i, instAt_eq_some.mpr ⟨ho, hi⟩, rfl⟩

/-- A search finds what one element gives, where no other gives anything. -/
theorem findSome?_of_unique {α β : Type} {l : List α} {f : α → Option β} {a : α} {b : β} (ha : a ∈ l) (h : f a = some b)
    (unique : ∀ c, (f c).isSome → c = a) : l.findSome? f = some b := by
  have found : (f a).isSome := Option.isSome_of_eq_some h
  obtain ⟨c, hc⟩ := Option.isSome_iff_exists.mp (List.findSome?_isSome_iff.mpr ⟨a, ha, found⟩)
  obtain ⟨e, -, he⟩ := List.exists_of_findSome?_eq_some hc
  rw [hc, ← he, unique e (Option.isSome_of_eq_some he), h]

/-- An offset holds a register exactly where the tables put it. -/
theorem regAt_eq_some {off d i : Nat} {r : RegName} : regAt off = some ⟨r, d, i⟩ ↔ off = regOff r d i ∧ Stands r d i := by
  unfold regAt
  constructor
  · intro h
    split at h
    · cases h
    next w e o hwin =>
      obtain ⟨q, -, hq⟩ := List.exists_of_findSome?_eq_some h
      obtain ⟨rfl, hf, rfl, hi, rfl, rfl⟩ := standing_eq_some.mp hq
      obtain ⟨hoff, -, hd⟩ := winOf_eq_some.mp hwin
      exact ⟨hoff, hi, hd, hf⟩
  · rintro ⟨rfl, hi, hd, hf⟩
    have hwin : winOf (regOff r d i) = some ((regRow r).win, d, instOff r i) := winOf_eq_some.mpr ⟨rfl, instOff_lt_winSize hi, hd⟩
    rw [hwin]
    refine findSome?_of_unique (mem_allRegs r) (standing_eq_some.mpr ⟨rfl, hf, rfl, hi, rfl, rfl⟩) fun q hq => ?_
    obtain ⟨⟨n, e, j⟩, hx⟩ := Option.isSome_iff_exists.mp hq
    obtain ⟨hw, -, ho, hj, -, -⟩ := standing_eq_some.mp hx
    exact (eq_of_instOff_eq hw.symm hi hj ho).symm

/-- Registers that stand at one offset are one. -/
theorem regOff_inj {r q : RegName} {d e i j : Nat} (hr : Stands r d i) (hq : Stands q e j) (h : regOff r d i = regOff q e j) :
    r = q ∧ d = e ∧ i = j := by
  have same := (regAt_eq_some.mpr ⟨rfl, hr⟩).symm.trans (regAt_eq_some.mpr ⟨h, hq⟩)
  exact RegId.mk.inj (Option.some.inj same)

end Sys2Proof.Machine

namespace Sys2Proof.Safety
open Sys2Proof Sys2Proof.Machine

/-- Settles O56: `Stands` spells what each kind of window asks of the die. -/
theorem registersStandAtTheirOffsets : Obligations.RegistersStandAtTheirOffsets := by
  intro off d i r
  rw [regAt_eq_some, Stands]
  cases hw : (regRow r).win <;> simp [winDies]

end Sys2Proof.Safety
end
section
/-!
Commands that only answer, time or clock (95, 16 R391): none of them stores, posts, or touches the part's work.
-/

namespace Sys2Proof.Machine.Part
open Sys2Proof

/-- What a part stores and runs: memory with its poison and host memory, the tasks and jobs of the Jigs, contexts, streams, Gangs, slots. -/
def work (p : Part) : Memory × Jig × Tab Ctx × Tab Strm × Tab Gang × Tab Slot := (p.mem, p.jig, p.ctxs, p.strms, p.gangs, p.slots)

section
variable (p : Part)

@[simp] theorem work_setReg (r : RegName) (d i v : Nat) : (p.setReg r d i v).work = p.work := rfl

@[simp] theorem work_setRf (r : RegName) (d i lo w v : Nat) : (p.setRf r d i lo w v).work = p.work := rfl

@[simp] theorem work_setRb (r : RegName) (d i b : Nat) (v : Bool) : (p.setRb r d i b v).work = p.work := rfl

@[simp] theorem work_setLink (l : Nat) (x : Link) : (p.setLink l x).work = p.work := rfl

@[simp] theorem work_bump (a n : Nat) : (p.bump a n).work = p.work := by
  unfold bump
  split <;> rfl

@[simp] theorem work_badAccess : p.badAccess.work = p.work := work_bump ..

@[simp] theorem work_bumpLink (l ev n : Nat) : (p.bumpLink l ev n).work = p.work := work_bump ..

@[simp] theorem work_bumpHif (c ev n : Nat) : (p.bumpHif c ev n).work = p.work := by simp only [bumpHif, work_bump]

@[simp] theorem work_bumpFn (fn ev : Nat) : (p.bumpFn fn ev).work = p.work := by simp only [bumpFn, apply_ite work, work_bump, ite_self]

@[simp] theorem work_respond (v : Option Nat) : (p.respond v).work = p.work := rfl

/-! ### Accesses -/

@[simp] theorem work_hold426 (x : Nat × Nat × Half × Option (Nat × Nat)) : (p.hold426 x).work = p.work := rfl

@[simp] theorem work_lowHalfRead (port off : Nat) : (p.lowHalfRead port off).work = p.work := by
  simp only [lowHalfRead]
  split <;> rfl

@[simp] theorem work_badSize (port off size : Nat) (write : Bool) : (p.badSize port off size write).work = p.work := by
  simp only [badSize, apply_ite work, work_badAccess, work_respond, ite_self]

/-- A read of PWR_MEAS restarts PEAK and leaves the work. -/
theorem work_readAcc_pwrMeas (port : Nat) (h : Half) : (p.readAcc port (regOff .pwrMeas 0 0) h).work = p.work := by
  have here : p.readNow port (regOff .pwrMeas 0 0) h = p.pwrMeasRead port h := rfl
  simp only [readAcc, here, pwrMeasRead, apply_ite work, work_hold426, work_setRf, work_respond, ite_self]

/-- No table lists an offset of the counter windows (19 R423). -/
theorem regAt_counterWindow {off : Nat} (h : inCounterWindow off = true) : regAt off = none := by
  rw [Option.eq_none_iff_forall_ne_some]
  rintro ⟨r, d, i⟩ hr
  obtain ⟨rfl, hi, hd, -⟩ := regAt_eq_some.mp hr
  have within := instOff_lt_winSize hi
  simp only [inCounterWindow, Bool.and_eq_true, decide_eq_true_eq] at h
  revert h within hd
  unfold regOff
  cases (regRow r).win <;> simp only [winBase, winSize, winDies] <;> omega

/-- A write of a counter window is discarded and counted, now or once the window is no longer held. -/
theorem work_writeReg_counterWindow {off : Nat} (port : Nat) (h : Half) (v : Reg) (hw : inCounterWindow off = true) :
    (p.writeReg port off h v).work = p.work := by
  have here : p.regHere off = none := by rw [regHere, regAt_counterWindow hw]; rfl
  have now : p.writeNow port off h v.toNat 0 [] [] = p.badAccess := by simp only [writeNow, here]
  simp only [writeReg, writeAcc, now, apply_ite work, work_hold426, work_badAccess, ite_self]

@[simp] theorem work_probeGo : p.probeGo.work = p.work := rfl

/-- The write that starts the random number probe leaves the work. -/
theorem work_writeReg_probeCtl (port : Nat) : (p.writeReg port (regOff .probeCtl 0 0) .full 1).work = p.work := by
  have here : p.regHere (regOff .probeCtl 0 0) = some ⟨.probeCtl, 0, 0⟩ := by
    rw [regHere, regAt_eq_some.mpr ⟨rfl, by decide, by decide, fun h => absurd h (by decide)⟩]
    rfl
  have now : p.writeNow port (regOff .probeCtl 0 0) .full (1 : Reg).toNat 0 [] [] =
      if !p.offUp (regOff .probeCtl 0 0) then p.badAccess else p.probeGo := by
    simp only [writeNow, here]
    rfl
  simp only [writeReg, writeAcc, now, apply_ite work, work_hold426, work_badAccess, work_probeGo, ite_self]

@[simp] theorem work_smbRead (f : Part → Nat) : (p.smbRead f).work = p.work := rfl

@[simp] theorem work_smbNack (code : Nat) (write : Bool) : (p.smbNack code write).work = p.work := by
  simp only [smbNack, apply_ite work, work_respond, ite_self]

/-! ### The probe and the Hallmark area -/

@[simp] theorem work_probeDone : p.probeDone.work = p.work := by
  simp only [probeDone, apply_ite work]
  exact ite_self _

@[simp] theorem work_markDone : p.markDone.work = p.work := by
  unfold markDone
  split
  case h_1 => rfl
  case h_2 =>
    simp only [work_bump, apply_ite work, work_setRb, ite_self]
    rfl

/-! ### Interrupts and host reads -/

@[simp] theorem work_sendMsi (fn v : Nat) : (p.sendMsi fn v).work = p.work := by
  unfold sendMsi
  split
  · rfl
  · exact work_bumpFn ..

@[simp] theorem work_signal (fn v : Nat) : (p.signal fn v).work = p.work := by
  unfold signal
  split
  · rfl
  · exact work_sendMsi ..

theorem work_sendPending (fn v : Nat) : (sendPending fn p v).work = p.work := by
  unfold sendPending
  split
  · exact work_sendMsi ..
  · rfl

@[simp] theorem work_request (fn : Nat) : (p.request fn).work = p.work := by
  unfold request
  split
  · rfl
  · exact work_bumpFn ..

@[simp] theorem work_sweepDue (r : Nat) : (p.sweepDue r).work = p.work := by
  unfold sweepDue
  split <;> rfl

@[simp] theorem work_watchRound (fn : Nat) : (p.watchRound fn).work = p.work := by
  simp only [watchRound, apply_ite work, work_request, work_bumpFn]
  exact ite_self _

@[simp] theorem work_returnLinePoll (q : Nat) : (p.returnLinePoll q).work = p.work := by
  simp only [returnLinePoll, readReturn, apply_ite work, work_request]
  split_ifs <;> rfl

@[simp] theorem work_msixModTimer (q : Nat) : (p.msixModTimer q).work = p.work := by
  simp only [msixModTimer, cqSignal, apply_ite work, work_signal, work_bumpHif]
  exact ite_self _

@[simp] theorem work_unmask (port fn : Nat) (w : VecWrite) : (p.unmask port fn w).work = p.work := by
  simp only [unmask, apply_ite work, work_sendPending]
  exact ite_self _

@[simp] theorem work_perstDeassert (port : Nat) : (p.perstDeassert port).work = p.work := by
  simp only [perstDeassert, apply_ite work]
  exact ite_self _

@[simp] theorem work_linkUpEvent (port : Nat) : (p.linkUpEvent port).work = p.work := by
  unfold linkUpEvent
  split <;> rfl

@[simp] theorem work_configWrite (port fn : Nat) (ctl : FnCtl) (vfEn : Bool) (numVfs : Nat) :
    (p.configWrite port fn ctl vfEn numVfs).work = p.work := by
  have sent (l : List Nat) (k : Nat) (q : Part) : (l.foldl (fun q v => sendPending k q (v % 2048)) q).work = q.work :=
    foldl_leaves work (fun q v => work_sendPending q k _) l q
  simp only [configWrite]
  split_ifs
  case pos => rfl
  all_goals exact sent _ _ _

/-! ### Faults -/

@[simp] theorem work_faultIrq (code : Nat) : (p.faultIrq code).work = p.work := by
  have spaced (q : Part) (b : Bool) : work { q with flog := { q.flog with spacing := b } } = q.work := rfl
  simp only [faultIrq, apply_ite work, spaced, work_signal]
  exact (ite_congr rfl (fun _ => ite_self _) fun _ => rfl).trans (ite_self _)

@[simp] theorem work_logFault (f : FaultRec) : (p.logFault f).work = p.work := by
  have logged (q : Part) (l : FaultLog) : work { q with flog := l } = q.work := rfl
  simp only [logFault, apply_ite work, work_bump, work_faultIrq, work_setRf, logged, ite_self]

@[simp] theorem work_recordFault (f : FaultRec) : (p.recordFault f).work = p.work := by
  simp only [recordFault, apply_ite work, work_logFault, work_setRb, ite_self]

@[simp] theorem work_faultTimer : p.faultTimer.work = p.work := by
  simp only [faultTimer, apply_ite work, work_signal]
  split_ifs <;> rfl

@[simp] theorem work_dowelErr (d : Nat) (again : Bool) : (p.dowelErr d again).work = p.work := by
  have port (q : Part) (y : Dowel) : (q.setDowel d y).work = q.work := rfl
  simp only [dowelErr, apply_ite work, work_recordFault, work_bump, port, ite_self]

@[simp] theorem work_drainResponse (b : Nat) : (p.drainResponse b).work = p.work := by
  unfold drainResponse
  split <;> rfl

/-! ### Links -/

@[simp] theorem work_putFlits (l : Nat) (m : DtMsg) : (p.putFlits l m).work = p.work := work_bumpLink ..

@[simp] theorem work_pump (l : Nat) : (p.pump l).work = p.work := by
  unfold pump
  refine List.foldlRecOn (motive := fun a : Part × List Nat => a.1.work = p.work) _ _ rfl fun a ha m _ => ?_
  dsimp only
  split
  · rw [work_putFlits]; exact ha
  · exact ha

@[simp] theorem work_sendOn (l : Nat) (m : DtMsg) : (p.sendOn l m).work = p.work := work_pump ..

@[simp] theorem work_helloTimer (l : Nat) : (p.helloTimer l).work = p.work := by
  simp only [helloTimer, sendHello, apply_ite work, work_sendOn, ite_self]

@[simp] theorem work_narrow (l : Nat) : (p.narrow l).work = p.work := by
  simp only [narrow, setLinkWidth, apply_ite work, work_bumpLink, work_setRf, ite_self]

@[simp] theorem work_widenDone (l : Nat) : (p.widenDone l).work = p.work := by
  simp only [widenDone, apply_ite work]
  exact ite_self _

/-! ### Meters and clocks -/

@[simp] theorem work_pwrUpdate (power vin iin : Nat) : (p.pwrUpdate power vin iin).work = p.work := by
  simp only [pwrUpdate, apply_ite work]
  exact ite_self _

@[simp] theorem work_jigOffNow (n : Nat) : (p.jigOffNow n).work = p.work := by
  unfold jigOffNow
  split <;> rfl

@[simp] theorem work_blockOff (cls : Cls) (e : Nat) : (p.blockOff cls e).work = p.work := by
  simp only [blockOff, apply_ite work, work_jigOffNow]
  split_ifs <;> rfl

@[simp] theorem work_pllOff (n : Nat) : (p.pllOff n).work = p.work := by
  unfold pllOff
  split <;> rfl

@[simp] theorem work_chestClockOff (ch : Nat) : (p.chestClockOff ch).work = p.work := by
  simp only [chestClockOff, apply_ite work]
  exact ite_self _

end

end Sys2Proof.Machine.Part

namespace Sys2Proof.Safety
open Sys2Proof Sys2Proof.Machine

/-- A command that is the part's own operation leaves what the operation leaves. -/
theorem work_of_onPart {s t : State} {f : Part → Part} (hf : ∀ p : Part, (f p).work = p.work) (h : onPart s f = .next t) :
    t.part.work = s.part.work := by
  cases h
  exact hf s.part

/-- A quiet command leaves the part's work, by the lemma about its own operation. -/
theorem work_of_quiet {s t : State} {i : Instr} (hi : Quiet i) (h : exec i s = .next t) : t.part.work = s.part.work := by
  cases i
  case badSizeAccess port off size write => exact work_of_onPart (fun p => p.work_badSize ..) h
  case counterWindowWrite port off half v =>
    refine work_of_onPart (f := fun p => if inCounterWindow off then p.writeReg port off half v else p) (fun p => ?_) h
    split
    case isTrue hw => exact p.work_writeReg_counterWindow port half v hw
    case isFalse => rfl
  case pwrMeasRead port half => exact work_of_onPart (fun p => p.work_readAcc_pwrMeas ..) h
  case randProbeGo port => exact work_of_onPart (fun p => p.work_writeReg_probeCtl ..) h
  case randProbeDone => exact work_of_onPart (fun p => p.work_probeDone) h
  case hallmarkCommitDone => exact work_of_onPart (fun p => p.work_markDone) h
  case smbReadPkgIdent => exact work_of_onPart (fun p => p.work_smbRead _) h
  case smbReadBootStatus => exact work_of_onPart (fun p => p.work_smbRead _) h
  case smbReadBringupStatus => exact work_of_onPart (fun p => p.work_smbRead _) h
  case smbReadPwrMeas => exact work_of_onPart (fun p => p.work_smbRead _) h
  case smbReadPwrEnergy => exact work_of_onPart (fun p => p.work_smbRead _) h
  case smbReadThermStatus => exact work_of_onPart (fun p => p.work_smbRead _) h
  case smbReadDieTemps => exact work_of_onPart (fun p => p.work_smbRead _) h
  case smbReadStackTemps => exact work_of_onPart (fun p => p.work_smbRead _) h
  case smbNack code write => exact work_of_onPart (fun p => p.work_smbNack ..) h
  case sweepDue r => exact work_of_onPart (fun p => p.work_sweepDue r) h
  case watchRound fn => exact work_of_onPart (fun p => p.work_watchRound fn) h
  case returnLinePoll q => exact work_of_onPart (fun p => p.work_returnLinePoll q) h
  case msixModTimer q => exact work_of_onPart (fun p => p.work_msixModTimer q) h
  case msixVectorUnmask port fn w => exact work_of_onPart (fun p => p.work_unmask ..) h
  case perstDeassert port => exact work_of_onPart (fun p => p.work_perstDeassert port) h
  case pcieLinkUp port => exact work_of_onPart (fun p => p.work_linkUpEvent port) h
  case configWrite port fn ctl vfEn numVfs => exact work_of_onPart (fun p => p.work_configWrite ..) h
  case faultIrqTimer => exact work_of_onPart (fun p => p.work_faultTimer) h
  case dowelFlitCrcErr d again => exact work_of_onPart (fun p => p.work_dowelErr ..) h
  case drainResponse b => exact work_of_onPart (fun p => p.work_drainResponse b) h
  case dtHelloTimer l => exact work_of_onPart (fun p => p.work_helloTimer l) h
  case dtNarrow l => exact work_of_onPart (fun p => p.work_narrow l) h
  case dtWidenDone l => exact work_of_onPart (fun p => p.work_widenDone l) h
  case pwrMeasUpdate power vin iin => exact work_of_onPart (fun p => p.work_pwrUpdate ..) h
  case blockClockOff cls e => exact work_of_onPart (fun p => p.work_blockOff ..) h
  case pllOff n => exact work_of_onPart (fun p => p.work_pllOff n) h
  case chestClockOff ch => exact work_of_onPart (fun p => p.work_chestClockOff ch) h
  all_goals exact hi.elim

/-- Settles O57: memory, poison, host memory and the state of work are one tuple of fields, and each quiet command keeps it. -/
theorem quietCommandsKeepMemory : Obligations.QuietCommandsKeepMemory := by
  intro s t i hi h
  have same := work_of_quiet hi h
  simp only [Part.work, Prod.mk.injEq] at same
  obtain ⟨hmem, hjig, hctxs, hstrms, hgangs, hslots⟩ := same
  exact ⟨fun a => by rw [hmem], by rw [hmem], by rw [hmem], hjig, hctxs, hstrms, hgangs, hslots⟩

end Sys2Proof.Safety
end
section
/-!
Reads and what they restart (16 R379, R391, 19 R424), and the straps that a release samples (16 R384).
-/

namespace Sys2Proof.Machine
open Sys2Proof

/-- A field, by division. -/
theorem bits_eq (x lo w : Nat) : bits x lo w = x / 2 ^ lo % 2 ^ w := by rw [bits, Nat.shiftRight_eq_div_pow]

/-- A bit is a field of one bit. -/
theorem bit_eq (x i : Nat) : bit x i = (bits x i 1 == 1) := by
  rw [bit, Nat.testBit_eq_decide_div_mod_eq, bits_eq]
  rfl

end Sys2Proof.Machine

namespace Sys2Proof.Machine.Part
open Sys2Proof

/-- No LEAVE holds a global window. -/
theorem heldOff_glob (p : Part) {off : Nat} (h : off < 0x1000000) : p.heldOff off = false := by
  unfold heldOff
  split
  next hw =>
    obtain ⟨rfl, -, -⟩ := winOf_eq_some.mp hw
    simp only [winBase] at h
    omega
  · rfl

theorem readAcc_now {p : Part} {port off : Nat} (h : Half) (hp : p.portUp port = true) (hh : p.heldOff off = false) :
    p.readAcc port off h = p.readNow port off h := by
  simp only [readAcc, hp, hh, Bool.not_true, Bool.false_eq_true, if_false]

theorem readNow_pwrMeas (p : Part) (port : Nat) (h : Half) : p.readNow port (regOff .pwrMeas 0 0) h = p.pwrMeasRead port h := rfl

theorem stands_gangFeedStatus {g : Nat} (hg : g < 32) : Stands .gangFeedStatus (g / 4) (g % 4) :=
  ⟨Nat.mod_lt _ (by decide), show g / 4 < 8 by omega, fun h => absurd h (by decide)⟩

theorem readNow_gangFeedStatus (p : Part) (port : Nat) {g : Nat} (h : Half) (hg : g < 32) :
    p.readNow port (feedStatusOff g) h = p.feedRead port g h := by
  have here : regAt (feedStatusOff g) = some ⟨.gangFeedStatus, g / 4, g % 4⟩ := regAt_eq_some.mpr ⟨rfl, stands_gangFeedStatus hg⟩
  have window : inCounterWindow (feedStatusOff g) = false := by
    by_contra hw
    rw [regAt_counterWindow (Bool.eq_true_of_not_eq_false hw)] at here
    cases here
  simp only [readNow, window, here, Bool.false_eq_true, if_false, Nat.div_add_mod]

theorem readNow_lowHalf (p : Part) (port : Nat) {off : Nat} (h : inCounterWindow off = true ∨ off = regOff .devTime 0 0) :
    p.readNow port off .lo = p.lowHalfRead port off := by
  rcases h with hw | rfl
  · simp only [readNow, hw, if_true]
  · rfl

theorem lowHalfRead_latches (p : Part) (port : Nat) {off : Nat} (h : inCounterWindow off = true ∨ off = regOff .devTime 0 0) :
    p.lowHalfRead port off = { p with hif := { p.hif with
      resp := some (p.bar0Value port off % 2 ^ 32)
      latch := Tab.put port (off, p.bar0Value port off / 2 ^ 32) p.hif.latch } } := by
  have l : latches off = true := by
    rcases h with hw | rfl
    · rw [latches, hw, Bool.true_or]
    · rfl
  simp only [lowHalfRead, l, if_true]
  rfl

theorem smbRead_on {p : Part} (f : Part → Nat) (h : p.power.pwrOk = true) : p.smbRead f = p.respond (some (f p)) := by
  simp only [smbRead, h, if_true]

theorem smbRead_off {p : Part} (f : Part → Nat) (h : p.power.pwrOk = false) : p.smbRead f = p.respond none := by
  simp only [smbRead, h, Bool.false_eq_true, if_false]

end Sys2Proof.Machine.Part

namespace Sys2Proof.Safety
open Sys2Proof Sys2Proof.Machine

/-- Settles O6: each read is its own operation, which no LEAVE holds here; the latches are R424, PEAK and FIFO_MIN restart with R379. -/
theorem readsAnswerAndSomeRestart : Obligations.ReadsAnswerAndSomeRestart := by
  intro s
  refine ⟨fun port h hp => ⟨?pwrMeas, fun g hg hh hu => ?feedStatus, fun off hh ho => ?lowHalf⟩, fun hon => ?answers, fun hoff => ?silent,
    fun code write hc => ?nack⟩
  case pwrMeas =>
    change Host.Outcome.next { s with part := s.part.readAcc port (regOff .pwrMeas 0 0) h } = _
    rw [Part.readAcc_now h hp (Part.heldOff_glob _ (by decide)), Part.readNow_pwrMeas]
    rfl
  case feedStatus =>
    change Host.Outcome.next { s with part := s.part.readAcc port (Part.feedStatusOff g) h } = _
    rw [Part.readAcc_now h hp hh, Part.readNow_gangFeedStatus _ _ _ hg]
    exact congrArg (fun p => Host.Outcome.next { s with part := p }) (if_pos hu)
  case lowHalf =>
    change Host.Outcome.next { s with part := s.part.readAcc port off .lo } = _
    rw [Part.readAcc_now .lo hp hh, Part.readNow_lowHalf _ _ ho, Part.lowHalfRead_latches _ _ ho]
  case answers =>
    have reads (f : Part → Nat) : onPart s (fun p => p.smbRead f) = becomes s (s.part.respond (some (f s.part))) := by
      rw [onPart, Part.smbRead_on f hon]; rfl
    exact ⟨reads _, reads _, reads _, reads _, reads _, reads _, reads _, reads _⟩
  case silent =>
    have quiet (f : Part → Nat) : onPart s (fun p => p.smbRead f) = becomes s (s.part.respond none) := by
      rw [onPart, Part.smbRead_off f hoff]; rfl
    simp only [List.forall_mem_cons]
    exact ⟨quiet _, quiet _, quiet _, quiet _, quiet _, quiet _, quiet _, quiet _, nofun⟩
  case nack =>
    change Host.Outcome.next { s with part := s.part.smbNack code write } = _
    rw [Part.smbNack, if_pos hc]
    rfl

/-- Settles O40. The clock selection that a release shows where the straps changed since power-on, or are reserved, is the model's choice (log
entry 54). -/
theorem releaseSamplesTheStraps : Obligations.ReleaseSamplesTheStraps := by
  intro p straps hcause clk
  have hsel : bits straps 0 2 < 4 := bits_lt ..
  have value : (p.release straps).rv .bootStatus 0 0 = (bits straps 0 2 + clk * 4 +
      b2n (decide (2 ≤ bits straps 0 2) || clk != bits straps 2 2 || clk == 3) * 16 + p.power.cause * 256) % 2 ^ 64 := Part.rv_setReg_same ..
  generalize (decide (2 ≤ bits straps 0 2) || clk != bits straps 2 2 || clk == 3) = bad at value ⊢
  have flag : b2n bad < 2 := by cases bad <;> decide
  refine ⟨?_, fun hclk => ⟨?_, ?_, ?_⟩, rfl, rfl⟩
  · rw [Part.rf, value, bits_eq]; omega
  · rw [Part.rf, value, bits_eq]; omega
  · have shown : bits ((bits straps 0 2 + clk * 4 + b2n bad * 16 + p.power.cause * 256) % 2 ^ 64) 4 1 = b2n bad := by
      rw [bits_eq]; omega
    rw [Part.rb, value, bit_eq, shown]
    cases bad <;> rfl
  · rw [Part.rf, value, bits_eq]; omega

end Sys2Proof.Safety
end
section
/-!
Subframes (14 R336, Table 14-4): a sum of fields, and the parity bit that makes their number of ones even.
-/

namespace Sys2Proof.Machine
open Sys2Proof

/-- The ones of one more bit. -/
theorem popCount_succ (w x : Nat) : popCount (w + 1) x = popCount w x + b2n (x.testBit w) := by
  rw [popCount, List.range_succ, List.filter_append, List.length_append, popCount]
  cases h : x.testBit w <;> simp [b2n, h]

/-- The ones of the low bits depend on those bits. -/
theorem popCount_congr {w x y : Nat} (h : x % 2 ^ w = y % 2 ^ w) : popCount w x = popCount w y := by
  unfold popCount
  refine congrArg List.length (List.filter_congr fun i hi => ?_)
  have hi := List.mem_range.mp hi
  have low (z : Nat) : (z % 2 ^ w).testBit i = z.testBit i := by rw [Nat.testBit_mod_two_pow, decide_eq_true hi, Bool.true_and]
  rw [← low x, h, low y]

/-- A number with its own parity above `w` bits has an even number of ones. -/
theorem popCount_parity_even (w x : Nat) (hx : x < 2 ^ w) : popCount (w + 1) (x + popCount w x % 2 * 2 ^ w) % 2 = 0 := by
  have low : (x + popCount w x % 2 * 2 ^ w) % 2 ^ w = x % 2 ^ w := by rw [Nat.add_mul_mod_self_right]
  have top : (x + popCount w x % 2 * 2 ^ w) / 2 ^ w = popCount w x % 2 := by
    rw [Nat.add_mul_div_right _ _ (Nat.two_pow_pos w), Nat.div_eq_of_lt hx, Nat.zero_add]
  rw [popCount_succ, popCount_congr low, Nat.testBit_eq_decide_div_mod_eq, top, Nat.mod_mod]
  rcases Nat.mod_two_eq_zero_or_one (popCount w x) with even | odd
  · simp [b2n, even]
  · simp [b2n, odd]
    omega

end Sys2Proof.Machine

namespace Sys2Proof.Safety
open Sys2Proof Sys2Proof.Machine

/-- Settles O27: slots 4 to 30 of a subframe are the number `x / 16`, and slot 31 is its parity. -/
theorem subframesHaveEvenParity : Obligations.SubframesHaveEvenParity := by
  intro pre word v u c hpre f
  obtain ⟨x, hx⟩ : ∃ x, x = pre + word % 2 ^ 24 * 2 ^ 4 + b2n v * 2 ^ 28 + b2n u * 2 ^ 29 + b2n c * 2 ^ 30 := ⟨_, rfl⟩
  have hf : f = x + popCount 27 (x / 16) % 2 * 2 ^ 31 := by rw [hx]; rfl
  have flag (b : Bool) : b2n b < 2 ∧ (b2n b == 1) = b := by cases b <;> decide
  have hword := Nat.mod_lt word (Nat.two_pow_pos 24)
  obtain ⟨hv, ev⟩ := flag v
  obtain ⟨hu, eu⟩ := flag u
  obtain ⟨hc, ec⟩ := flag c
  have above : f / 16 = x / 16 + popCount 27 (x / 16) % 2 * 2 ^ 27 := by omega
  have vbit : bits f 28 1 = b2n v := by rw [bits_eq]; omega
  have ubit : bits f 29 1 = b2n u := by rw [bits_eq]; omega
  have cbit : bits f 30 1 = b2n c := by rw [bits_eq]; omega
  refine ⟨by omega, ?_, ?_, ?_, ?_, ?_, ?_⟩
  · rw [bits_eq]; omega
  · rw [bits_eq]; omega
  · rw [bit_eq, vbit, ev]
  · rw [bit_eq, ubit, eu]
  · rw [bit_eq, cbit, ec]
  · rw [above]
    exact popCount_parity_even 27 (x / 16) (by omega)

end Sys2Proof.Safety
end
section
/-!
AES3 ports and channels as state (14 R321): what a port and a channel read after either is set.
-/

namespace Sys2Proof.Machine.Part
open Sys2Proof

@[simp] theorem aesPort_setPort_same (p : Part) (a : Nat) (x : AesPort) : (p.setPort a x).aesPort a = x := Tab.getD_put_same ..

theorem aesPort_setPort_other (p : Part) {a b : Nat} (x : AesPort) (h : b ≠ a) : (p.setPort a x).aesPort b = p.aesPort b :=
  Tab.getD_put_other h _ _ _

@[simp] theorem aesPort_setReg (p : Part) (r : RegName) (d i v a : Nat) : (p.setReg r d i v).aesPort a = p.aesPort a := rfl

@[simp] theorem aesPort_aesFlag (p : Part) (a bit b : Nat) (v : Bool) : (p.aesFlag a bit v).aesPort b = p.aesPort b := rfl

@[simp] theorem aesPort_bump (p : Part) (c n a : Nat) : (p.bump c n).aesPort a = p.aesPort a := by rw [aesPort, bump_audio, aesPort]

@[simp] theorem aesPort_bumpPortAes (p : Part) (a ev b : Nat) : (p.bumpPortAes a ev).aesPort b = p.aesPort b := aesPort_bump ..

theorem aesCh_zero (p : Part) (a : Nat) : p.aesCh a 0 = (p.aesPort a).a := rfl

theorem aesCh_one (p : Part) (a : Nat) : p.aesCh a 1 = (p.aesPort a).b := rfl

/-- Channel 0 is A; every other number names B. -/
theorem aesCh_eq (p : Part) (a ch : Nat) : p.aesCh a ch = (p.aesPort a).a ∨ p.aesCh a ch = (p.aesPort a).b := by
  simp only [aesCh]
  split
  · exact Or.inl rfl
  · exact Or.inr rfl

/-! ### A SILENT channel in a frame (14 R331) -/

theorem rampIn_waits {p : Part} {a ch : Nat} (h : (p.aesCh a ch).fifo.length < p.aesCtl a 32 14) : p.rampIn a ch = p := by
  unfold rampIn
  exact if_neg fun hc => absurd h (Nat.not_lt.mpr hc.2.2.2)

theorem aesRampEnd_silent {p : Part} {a ch : Nat} (h : (p.aesCh a ch).st = 0) : p.aesRampEnd a ch = p := by
  unfold aesRampEnd
  exact if_neg fun hc => absurd (h.symm.trans hc.1) (by decide)

theorem aesTaperEnd_silent {p : Part} {a ch : Nat} (h : (p.aesCh a ch).st = 0) : p.aesTaperEnd a ch = p := by
  unfold aesTaperEnd
  exact if_pos (Or.inl (by rw [h]; decide))

theorem playChecks_silent {p : Part} {a ch : Nat} (h : (p.aesCh a ch).st = 0) : p.playChecks a ch = p := by
  unfold playChecks
  exact if_pos (by rw [h]; decide)

theorem aesWord_silent {p : Part} {a ch : Nat} (h : (p.aesCh a ch).st = 0) : p.aesWord a ch = (0, p) := by
  unfold aesWord
  exact if_pos h

theorem aesPull_alone {p : Part} {a : Nat} (h : p.aesCtl a 2 2 = 0) : p.aesPull a = p := by
  unfold aesPull
  exact if_pos h

/-- A frame inside a block of two SILENT channels that wait for more values: two words of zero, and the next frame of the block. -/
theorem aesFrame_silent {p : Part} {a : Nat} (hr : p.aesRunning a = true) (hu : p.frameUp (a / 8) = true) (href : p.aesCtl a 2 2 = 0)
    (hsrc : p.aesSrc a 1 ≠ 2) (hA : (p.aesCh a 0).st = 0) (hB : (p.aesCh a 1).st = 0)
    (fA : (p.aesCh a 0).fifo.length < p.aesCtl a 32 14) (fB : (p.aesCh a 1).fifo.length < p.aesCtl a 32 14) (hf : (p.aesPort a).frame ≠ 0) :
    let x := p.aesPort a
    let mute := p.aesCtl a 4 1 == 1
    let sa := subframe 0 0 mute (blockBit (sideBlock x.side 48) x.frame) (blockBit (statusBlock x.side 0) x.frame)
    let sb := subframe 1 0 mute (blockBit (sideBlock x.side 72) x.frame) (blockBit (statusBlock x.side 24) x.frame)
    p.aesFrame a = (p.setPort a { x with sent := some (sa, sb), frame := (x.frame + 1) % 192 }).bumpPortAes a 0 := by
  intro x mute sa sb
  have begins : ([0, 1].foldl (fun p ch => ((p.rampIn a ch).aesRampEnd a ch).aesTaperEnd a ch) p) = p := by
    simp only [List.foldl_cons, List.foldl_nil, rampIn_waits fA, aesRampEnd_silent hA, aesTaperEnd_silent hA, rampIn_waits fB,
      aesRampEnd_silent hB, aesTaperEnd_silent hB]
  have ends {q : Part} (qA : (q.aesCh a 0).st = 0) (qB : (q.aesCh a 1).st = 0) :
      [0, 1].foldl (fun p ch => ((p.aesRampEnd a ch).aesTaperEnd a ch).playChecks a ch) q = q := by
    simp only [List.foldl_cons, List.foldl_nil, aesRampEnd_silent qA, aesTaperEnd_silent qA, playChecks_silent qA, aesRampEnd_silent qB,
      aesTaperEnd_silent qB, playChecks_silent qB]
  have sole : (p.aesSrc a 1 == 2) = false := beq_false_of_ne hsrc
  simp only [aesFrame, begins, hr, hu, aesPull_alone href, hf, aesWord_silent hA, aesWord_silent hB, hA, hB, sole, Bool.not_true, Bool.or_self,
    Bool.false_eq_true, if_false, BEq.rfl, Bool.true_and]
  exact ends (by rw [aesCh_zero, aesPort_bumpPortAes, aesPort_setPort_same]; exact hA)
    (by rw [aesCh_one, aesPort_bumpPortAes, aesPort_setPort_same]; exact hB)

/-! ### References (14 R324, R325) -/

theorem refEdgesPresent_measures {p : Part} {ref : Nat} (he : p.refEn ref = true) (hs : p.refState ref = 0) :
    p.refEdgesPresent ref = p.setRefState ref 1 := by
  simp only [refEdgesPresent, he, hs, BEq.rfl, Bool.and_self, if_true]

theorem refAbsentTimeout_absent {p : Part} {ref : Nat} (he : p.refEn ref = true) (hs : p.refState ref ≠ 0) :
    p.refAbsentTimeout ref = (p.setRefState ref 0).allHear := by
  simp only [refAbsentTimeout, he, bne_iff_ne.mpr hs, Bool.and_self, if_true]

theorem refWindow_measures {p : Part} {ref : Nat} (ppm16 : Int) (he : p.refEn ref = true) (hs : p.refState ref ≠ 0) :
    p.refWindow ref ppm16 =
      ((p.setRf .aesRefStatus (refDie ref) 0 16 16 (unsigned 16 (clampI (-32768) 32767 ppm16))).setRefState ref
        (if -3200 ≤ ppm16 ∧ ppm16 ≤ 3200 then 2 else 3)).allHear := by
  simp only [refWindow, he, beq_false_of_ne hs, Bool.not_true, Bool.or_self, Bool.false_eq_true, if_false]

end Sys2Proof.Machine.Part

namespace Sys2Proof.Machine
open Sys2Proof

/-- What frame die `m` is told of a reference's rate `o`: the rate of a LOCKED one, else that there is none. -/
def tell (o : Int) (locked : Bool) (k : Nat) (t : Tab Int) (m : Nat) : Tab Int :=
  if locked then Tab.put (k + m) o t else Tab.del (k + m) t

theorem wf_tell (o : Int) (locked : Bool) (k m : Nat) {t : Tab Int} (h : Tab.wf t = true) : Tab.wf (tell o locked k t m) = true := by
  unfold tell
  split
  · exact Tab.wf_put _ _ _ h
  · exact Tab.wf_del _ _ h

theorem find_tell (o : Int) (locked : Bool) (k m n : Nat) {t : Tab Int} (h : Tab.wf t = true) :
    Tab.find (k + n) (tell o locked k t m) = if n = m then (if locked then some o else none) else Tab.find (k + n) t := by
  unfold tell
  by_cases hn : n = m
  · subst hn
    split
    · rw [Tab.find_put_same, if_pos rfl]
    · rw [Tab.find_del_same h, if_pos rfl]
  · have ne : k + n ≠ k + m := by omega
    rw [if_neg hn]
    split
    · exact Tab.find_put_other ne ..
    · exact Tab.find_del_other ne _

/-- A broadcast leaves with each frame die what it was told, and with every other what it knew. -/
theorem find_broadcast (o : Int) (locked : Bool) (k n : Nat) (ds : List Nat) (t : Tab Int) (h : Tab.wf t = true) :
    Tab.find (k + n) (ds.foldl (tell o locked k) t) = if n ∈ ds then (if locked then some o else none) else Tab.find (k + n) t := by
  induction ds generalizing t with
  | nil => rfl
  | cons m ds ih =>
    rw [List.foldl_cons, ih _ (wf_tell o locked k m h), find_tell o locked k m n h]
    by_cases hn : n = m <;> by_cases hd : n ∈ ds <;> simp [hn, hd]

end Sys2Proof.Machine

namespace Sys2Proof.Safety
open Sys2Proof Sys2Proof.Machine

/-- Settles O26: a silent channel below START_FILL sends zero words and stays as it is, so the frame is what its two channels give. -/
theorem silentFramesCarryZeroWords : Obligations.SilentFramesCarryZeroWords := by
  intro s a hr hu href hsrc x hA hB fA fB hf mute sa sb
  exact congrArg (becomes s) (Part.aesFrame_silent hr hu href hsrc hA hB fA fB hf)

/-- Settles O25. That only the offset of a LOCKED reference is broadcast and heard is the model's choice (log entry 53). -/
theorem referencesLockAndAreHeard : Obligations.ReferencesLockAndAreHeard := by
  intro s ref he
  refine ⟨fun hs => ?edges, fun hs => ⟨?absent, fun ppm16 => ?window⟩, fun hw => ⟨_, rfl, fun m hm hne hu => ?broadcast⟩⟩
  case edges => exact congrArg (becomes s) (Part.refEdgesPresent_measures he hs)
  case absent => exact congrArg (becomes s) (Part.refAbsentTimeout_absent he hs)
  case window => exact congrArg (becomes s) (Part.refWindow_measures ppm16 he hs)
  case broadcast =>
    have told : m ∈ (List.range 4).filter fun m => m != refDie ref && s.part.frameUp m :=
      List.mem_filter.mpr ⟨List.mem_range.mpr hm, by rw [hu, bne_iff_ne.mpr hne]; rfl⟩
    refine (find_broadcast _ (s.part.refState ref = 2 && s.part.refEn ref) (ref * 4) m _ _ hw).trans ?_
    rw [if_pos told, he, Bool.and_true]
    simp only [decide_eq_true_eq]

end Sys2Proof.Safety
end
section
/-!
One-bit fields of registers read back.
-/

namespace Sys2Proof.Machine.Part
open Sys2Proof

theorem rb_eq_rf (p : Part) (r : RegName) (d i b : Nat) : p.rb r d i b = (p.rf r d i b 1 == 1) := bit_eq ..

theorem rb_setRb_same (p : Part) (r : RegName) (d i : Nat) {b : Nat} (v : Bool) (h : b < 64) : (p.setRb r d i b v).rb r d i b = v := by
  have field : (p.setRb r d i b v).rf r d i b 1 = b2n v := rf_setRf_same _ _ _ _ _ _ _ (by omega) (by cases v <;> decide)
  rw [rb_eq_rf, field]
  cases v <;> rfl

/-- A bit outside the field set keeps its value. -/
theorem rb_setRf_field (p : Part) (r : RegName) (d i : Nat) {lo w b : Nat} (v : Nat) (h : lo + w ≤ 64) (hb : b < lo ∨ lo + w ≤ b) :
    (p.setRf r d i lo w v).rb r d i b = p.rb r d i b := by
  rw [rb_eq_rf, rf_setRf_field _ _ _ _ _ _ _ _ _ h (by omega), ← rb_eq_rf]

theorem rb_setRb_bit (p : Part) (r : RegName) (d i : Nat) {b c : Nat} (v : Bool) (h : c < 64) (hb : b ≠ c) :
    (p.setRb r d i c v).rb r d i b = p.rb r d i b :=
  rb_setRf_field _ _ _ _ _ (by omega) (by omega)

theorem rv_setRb_other (p : Part) (r r' : RegName) (d d' i i' b : Nat) (v : Bool) (h : regOff r' d' i' ≠ regOff r d i) :
    (p.setRb r d i b v).rv r' d' i' = p.rv r' d' i' := rv_setReg_other _ _ _ _ _ _ _ _ h

theorem rb_setRb_other (p : Part) (r r' : RegName) (d d' i i' b c : Nat) (v : Bool) (h : regOff r' d' i' ≠ regOff r d i) :
    (p.setRb r d i b v).rb r' d' i' c = p.rb r' d' i' c := by
  rw [rb, rv_setRb_other _ _ _ _ _ _ _ _ _ h, rb]

theorem rv_bump (p : Part) (a n : Nat) : (p.bump a n).rv = p.rv := rv_eq_of_regs (bump_regs ..)

end Sys2Proof.Machine.Part
end

section
/-!
AES3 ports start and stop, and references are enabled (14 R325, R339).
-/

namespace Sys2Proof.Machine.Part
open Sys2Proof

/-- AES_PORT_CTL and AES_PORT_STATUS are two registers. -/
theorem aesPortCtl_ne_status (d i : Nat) : regOff .aesPortCtl d i ≠ regOff .aesPortStatus d i := by
  simp only [regOff, instOff, regRow, winBase]
  omega

theorem aesRunning_aesFlag_same (p : Part) (a : Nat) (v : Bool) : (p.aesFlag a 0 v).aesRunning a = v := rb_setRb_same _ _ _ _ _ (by decide)

theorem aesRunning_aesFlag_other (p : Part) (a : Nat) {b : Nat} (v : Bool) (hb : b ≠ 0) (h : b < 64) :
    (p.aesFlag a b v).aesRunning a = p.aesRunning a := rb_setRb_bit _ _ _ _ _ h hb.symm

theorem aesCtl_aesFlag (p : Part) (a b : Nat) (v : Bool) : (p.aesFlag a b v).rv .aesPortCtl (a / 8) (a % 8) = p.rv .aesPortCtl (a / 8) (a % 8) :=
  rv_setRb_other _ _ _ _ _ _ _ _ _ (aesPortCtl_ne_status _ _)

/-- What the start of a port makes of the part before the port meets its reference. -/
def aesBegun (p : Part) (a v : Nat) : Part :=
  let p := p.setReg .aesPortCtl (a / 8) (a % 8) v
  (((p.setPort a { a := p.keptBind a 0, b := p.keptBind a 1 }).aesFlag a 0 true).aesFlag a 1 false).aesFlag a 2 false

/-- How a started port meets its reference: none, one that it hears, or one that is not LOCKED (14 R325, R326). -/
theorem aesEnable_cases {p : Part} {a v : Nat} (h : p.aesRefused a v = false) :
    let q := p.aesBegun a v
    p.aesEnable a v = q ∨ (∃ o, p.aesEnable a v = (q.setPort a { q.aesPort a with off16 := o }).aesFlag a 1 true) ∨
      p.aesEnable a v = (q.aesFlag a 2 true).bumpPortAes a 3 := by
  intro q
  have starts : p.aesEnable a v = if q.aesCtl a 2 2 = 0 then q else
      match q.heardBy a with
      | some o => (q.setPort a { q.aesPort a with off16 := o }).aesFlag a 1 true
      | none => (q.aesFlag a 2 true).bumpPortAes a 3 := by
    rw [aesEnable, if_neg (by rw [h]; exact Bool.false_ne_true)]
    rfl
  rw [starts]
  split
  · exact Or.inl rfl
  · split
    next o _ => exact Or.inr (Or.inl ⟨o, rfl⟩)
    · exact Or.inr (Or.inr rfl)

/-- A binding that outlives the port leaves the channel SILENT with an empty FIFO. -/
theorem keptBind_silent (p : Part) (a ch : Nat) : (p.keptBind a ch).st = 0 ∧ (p.keptBind a ch).fifo = [] := by
  simp only [keptBind]
  split_ifs <;> exact ⟨rfl, rfl⟩

/-- Port `a` runs with AES_PORT_CTL `v` and both channels SILENT and empty, every other port and memory as in `p`. -/
structure AesStarted (p : Part) (a v : Nat) (q : Part) : Prop where
  ctl : q.rv .aesPortCtl (a / 8) (a % 8) = v % 2 ^ 64
  running : q.aesRunning a = true
  silent : ∀ ch, (q.aesCh a ch).st = 0 ∧ (q.aesCh a ch).fifo = []
  others : ∀ b, b ≠ a → q.aesPort b = p.aesPort b
  mem : q.mem = p.mem

theorem aesBegun_started (p : Part) (a v : Nat) : AesStarted p a v (p.aesBegun a v) where
  ctl := by
    simp only [aesBegun, aesCtl_aesFlag]
    exact rv_setReg_same ..
  running := by
    rw [aesBegun, aesRunning_aesFlag_other _ _ _ (by decide) (by decide), aesRunning_aesFlag_other _ _ _ (by decide) (by decide),
      aesRunning_aesFlag_same]
  silent ch := by
    rw [aesCh]
    simp only [aesBegun, aesPort_aesFlag, aesPort_setPort_same]
    split <;> exact keptBind_silent ..
  others b hb := by simp only [aesBegun, aesPort_aesFlag, aesPort_setPort_other _ _ hb, aesPort_setReg]
  mem := rfl

/-- A change of a running port's reference state leaves it started. -/
theorem AesStarted.congr {p q r : Part} {a v : Nat} (h : AesStarted p a v q) (hctl : r.rv .aesPortCtl (a / 8) (a % 8) = q.rv .aesPortCtl (a / 8) (a % 8))
    (hrun : r.aesRunning a = q.aesRunning a) (hA : (r.aesPort a).a = (q.aesPort a).a) (hB : (r.aesPort a).b = (q.aesPort a).b)
    (hothers : ∀ b, b ≠ a → r.aesPort b = q.aesPort b) (hmem : r.mem = q.mem) : AesStarted p a v r where
  ctl := hctl.trans h.ctl
  running := hrun.trans h.running
  silent ch := by
    have same : r.aesCh a ch = q.aesCh a ch := by simp only [aesCh, hA, hB]
    rw [same]
    exact h.silent ch
  others b hb := (hothers b hb).trans (h.others b hb)
  mem := hmem.trans h.mem

/-- A port that R339 does not refuse starts. -/
theorem aesEnable_started {p : Part} {a v : Nat} (h : p.aesRefused a v = false) : AesStarted p a v (p.aesEnable a v) := by
  have begun := aesBegun_started p a v
  rcases aesEnable_cases h with e | ⟨o, e⟩ | e
  · rw [e]; exact begun
  · rw [e]
    refine begun.congr (aesCtl_aesFlag ..) (aesRunning_aesFlag_other _ _ _ (by decide) (by decide)) ?_ ?_ (fun b hb => ?_) rfl
    · rw [aesPort_aesFlag, aesPort_setPort_same]
    · rw [aesPort_aesFlag, aesPort_setPort_same]
    · rw [aesPort_aesFlag, aesPort_setPort_other _ _ hb]
  · rw [e]
    refine begun.congr ?_ ?_ ?_ ?_ (fun b _ => ?_) ?_
    · rw [bumpPortAes, rv_bump, aesCtl_aesFlag]
    · rw [aesRunning, rb, bumpPortAes, rv_bump]
      exact aesRunning_aesFlag_other _ _ _ (by decide) (by decide)
    · rw [aesPort_bumpPortAes, aesPort_aesFlag]
    · rw [aesPort_bumpPortAes, aesPort_aesFlag]
    · rw [aesPort_bumpPortAes, aesPort_aesFlag]
    · rw [bumpPortAes, bump_mem]; rfl

/-! ### A port stops -/

/-- What clearing EN makes of the part before the port stops. -/
def aesFading (p : Part) (a : Nat) : Part :=
  (p.setRb .aesPortCtl (a / 8) (a % 8) 63 false).setPort a
    { p.aesPort a with a := aesFadeCh (p.aesPort a).a, b := aesFadeCh (p.aesPort a).b, stopping := true }

theorem aesDisable_eq (p : Part) (a : Nat) : p.aesDisable a = (p.aesFading a).aesStop a := rfl

theorem aesFadeCh_st (y : AesCh) : (aesFadeCh y).st = if y.st = 0 then 0 else 3 := by
  unfold aesFadeCh
  split_ifs with h0 h3
  · exact h0
  · exact h3
  · rfl

theorem aesEn_eq (p : Part) (a : Nat) : p.aesEn a = p.rb .aesPortCtl (a / 8) (a % 8) 63 := (rb_eq_rf ..).symm

/-- Whether a port that stops has both channels SILENT. -/
def AesAtRest (p : Part) (a : Nat) : Prop := (p.aesPort a).stopping = true ∧ (p.aesPort a).a.st = 0 ∧ (p.aesPort a).b.st = 0

/-- A stop with both channels SILENT clears the port's state; any other leaves the part. -/
theorem aesStop_cases (p : Part) (a : Nat) : (¬p.AesAtRest a ∧ p.aesStop a = p) ∨ (p.AesAtRest a ∧
    p.aesStop a = (((p.setPort a { a := p.keptBind a 0, b := p.keptBind a 1 }).aesFlag a 0 false).aesFlag a 1 false).aesFlag a 2 false) := by
  have rests : ((p.aesPort a).stopping && (p.aesPort a).a.st == 0 && (p.aesPort a).b.st == 0) = true ↔ p.AesAtRest a := by
    simp only [AesAtRest, Bool.and_eq_true, beq_iff_eq, and_assoc]
  by_cases h : p.AesAtRest a
  · exact Or.inr ⟨h, if_pos (rests.mpr h)⟩
  · exact Or.inl ⟨h, if_neg (mt rests.mp h)⟩

theorem aesStop_ctl (p : Part) (a : Nat) : (p.aesStop a).rv .aesPortCtl (a / 8) (a % 8) = p.rv .aesPortCtl (a / 8) (a % 8) := by
  rcases aesStop_cases p a with ⟨-, e⟩ | ⟨-, e⟩
  · rw [e]
  · rw [e]
    simp only [aesCtl_aesFlag]
    rfl

theorem aesStop_others (p : Part) {a b : Nat} (hb : b ≠ a) : (p.aesStop a).aesPort b = p.aesPort b := by
  rcases aesStop_cases p a with ⟨-, e⟩ | ⟨-, e⟩
  · rw [e]
  · rw [e]
    simp only [aesPort_aesFlag, aesPort_setPort_other _ _ hb]

theorem aesStop_mem (p : Part) (a : Nat) : (p.aesStop a).mem = p.mem := by
  rcases aesStop_cases p a with ⟨-, e⟩ | ⟨-, e⟩ <;> rw [e]
  rfl

/-- EN cleared: EN reads 0, channels that ramp or play taper, and a port of two SILENT channels stops. -/
theorem aesDisable_en (p : Part) (a : Nat) : (p.aesDisable a).aesEn a = false := by
  rw [aesDisable_eq, aesEn_eq, rb, aesStop_ctl]
  exact rb_setRb_same _ _ _ _ _ (by decide)

theorem aesPort_aesFading (p : Part) (a : Nat) : (p.aesFading a).aesPort a =
    { p.aesPort a with a := aesFadeCh (p.aesPort a).a, b := aesFadeCh (p.aesPort a).b, stopping := true } := aesPort_setPort_same ..

theorem aesDisable_tapers {p : Part} {a ch : Nat} (h : (p.aesCh a ch).st = 1 ∨ (p.aesCh a ch).st = 2) : ((p.aesDisable a).aesCh a ch).st = 3 := by
  have fades : (p.aesFading a).aesCh a ch = aesFadeCh (p.aesCh a ch) := by
    simp only [aesCh, aesPort_aesFading]
    split <;> rfl
  have faded : ((p.aesFading a).aesCh a ch).st = 3 := by rw [fades, aesFadeCh_st, if_neg (by omega)]
  rcases aesStop_cases (p.aesFading a) a with ⟨-, e⟩ | ⟨⟨-, hA, hB⟩, -⟩
  · rw [aesDisable_eq, e, faded]
  · rcases aesCh_eq (p.aesFading a) a ch with e | e <;> rw [e] at faded <;> omega

theorem aesDisable_stops {p : Part} {a : Nat} (hA : (p.aesCh a 0).st = 0) (hB : (p.aesCh a 1).st = 0) : (p.aesDisable a).aesRunning a = false := by
  have rest : (p.aesFading a).AesAtRest a := by
    simp only [AesAtRest, aesPort_aesFading, aesFadeCh_st]
    exact ⟨trivial, if_pos hA, if_pos hB⟩
  rcases aesStop_cases (p.aesFading a) a with ⟨h, -⟩ | ⟨-, e⟩
  · exact absurd rest h
  · rw [aesDisable_eq, e, aesRunning_aesFlag_other _ _ _ (by decide) (by decide), aesRunning_aesFlag_other _ _ _ (by decide) (by decide),
      aesRunning_aesFlag_same]

theorem aesDisable_others (p : Part) {a b : Nat} (hb : b ≠ a) : (p.aesDisable a).aesPort b = p.aesPort b := by
  rw [aesDisable_eq, aesStop_others _ hb]
  exact aesPort_setPort_other _ _ hb

theorem aesDisable_mem (p : Part) (a : Nat) : (p.aesDisable a).mem = p.mem := aesStop_mem ..

/-! ### Writes of AES_PORT_CTL and AES_REF_CTL -/

section
variable {p : Part} {a v : Nat} (cw : List CwRead) (fails : List Nat)

theorem aes_number (a : Nat) : 8 * (a / 8) + a % 8 = a := Nat.div_add_mod a 8

/-- A whole write that sets EN of a disabled port is refused, or enables it with the image written. -/
theorem setAesPort_enables (he : p.aesEn a = false) (hv : v.testBit 63 = true) (hp : Safety.Plain p ⟨.aesPortCtl, a / 8, a % 8⟩ v) :
    p.setAesPort ⟨⟨.aesPortCtl, a / 8, a % 8⟩, 2 ^ 64 - 1, v, 0, cw, fails⟩ =
      p.aesEnable a (Safety.imageOf p ⟨.aesPortCtl, a / 8, a % 8⟩ v) := by
  have clean := Safety.clean_whole hp 0 cw fails
  simp only [setAesPort, aes_number, he, Bool.false_eq_true, if_false, Safety.one_full _ _ 63 (by decide : 63 < 64), hv, Bool.not_true,
    Safety.raw_whole]
  split
  next short =>
    have refused : p.aesRefused a (Safety.imageOf p ⟨.aesPortCtl, a / 8, a % 8⟩ v) = true := by
      simp only [aesRefused, short, BEq.rfl, Bool.or_true]
    rw [aesEnable, if_pos refused]
  · simp only [act, once, clean, Bool.false_and, Bool.false_eq_true, if_false, Safety.newImage_whole hp rfl]

/-- A whole write that clears EN of an enabled port disables it. -/
theorem setAesPort_disables (he : p.aesEn a = true) (hv : v.testBit 63 = false) :
    p.setAesPort ⟨⟨.aesPortCtl, a / 8, a % 8⟩, 2 ^ 64 - 1, v, 0, cw, fails⟩ = p.aesDisable a := by
  simp only [setAesPort, aes_number, he, if_true, Safety.zero_full _ _ 63 (by decide : 63 < 64), hv, Bool.not_false]

/-- A whole write that sets EN of a reference input stores the image written. -/
theorem setAesRef_enables {ref : Nat} (hv : v.testBit 0 = true) :
    p.setAesRef ⟨⟨.aesRefCtl, refDie ref, 0⟩, 2 ^ 64 - 1, v, 0, cw, fails⟩ =
      p.setReg .aesRefCtl (refDie ref) 0 (Safety.imageOf p ⟨.aesRefCtl, refDie ref, 0⟩ v) := by
  have plain : Safety.Plain p ⟨.aesRefCtl, refDie ref, 0⟩ v := rfl
  have number : refDie ref / 2 = ref := Nat.mul_div_cancel_left ref (by decide)
  have en : bit (Safety.imageOf p ⟨.aesRefCtl, refDie ref, 0⟩ v) 0 = true := by
    have rw : (regRow .aesRefCtl).rw.testBit 0 = true := by decide
    rw [bit, Safety.testBit_imageOf, if_pos rw, hv]
  rw [setAesRef, Safety.newImage_whole plain rfl, number]
  simp only [aesRefWrite, en, Bool.true_eq_false, Bool.false_and, decide_false, Bool.false_eq_true, if_false, if_true]

end

end Sys2Proof.Machine.Part

namespace Sys2Proof.Safety
open Sys2Proof Sys2Proof.Machine

theorem exec_aesPortEnable (s : State) (port a : Nat) (h : Half) (v : Reg) : exec (.aesPortEnable port a h v) s =
    becomes s (s.part.writeReg port (regOff .aesPortCtl (a / 8) (a % 8)) h (forceBit h v 63 true)) := rfl

theorem exec_aesPortDisable (s : State) (port a : Nat) (h : Half) (v : Reg) : exec (.aesPortDisable port a h v) s =
    becomes s (s.part.writeReg port (regOff .aesPortCtl (a / 8) (a % 8)) h (forceBit h v 63 false)) := rfl

theorem exec_aesRefEnable (s : State) (port ref : Nat) (h : Half) (v : Reg) : exec (.aesRefEnable port ref h v) s =
    becomes s (s.part.writeReg port (regOff .aesRefCtl (refDie ref) 0) h (forceBit h v 0 true)) := rfl

/-- Settles O24: the writes reach R339's enable and disable, and each is taken apart by how the port meets its reference. -/
theorem audioPortsStartAndStop : Obligations.AudioPortsStartAndStop := by
  intro s port a v
  refine ⟨fun hs => ⟨fun he hp => ?enable, fun he => ?disable⟩, fun ref hs => ?reference⟩
  case enable =>
    have write : exec (.aesPortEnable port a .full v) s = becomes s ((s.part.unstage port (regOff .aesPortCtl (a / 8) (a % 8))).aesEnable a
        (imageOf (s.part.unstage port (regOff .aesPortCtl (a / 8) (a % 8))) ⟨.aesPortCtl, a / 8, a % 8⟩ (forceBit .full v 63 true).toNat)) := by
      rw [exec_aesPortEnable, writeReg_paired hs rfl]
      exact congrArg (becomes s) (Part.setAesPort_enables _ _ he (force_bit _ _ _ (by decide)) hp)
    refine ⟨fun refused => ?_, fun accepted => ?_⟩
    · rw [write, Part.aesEnable, if_pos refused]
    · have started := Part.aesEnable_started accepted
      have value := started.ctl.trans (Nat.mod_eq_of_lt (imageOf_lt ..))
      refine ⟨_, write, ?_, value, started.running, started.silent, started.others, started.mem⟩
      have rw : (regRow .aesPortCtl).rw.testBit 63 = true := by decide
      rw [Part.aesEn_eq, Part.rb, value, bit, testBit_imageOf, if_pos rw, force_bit _ _ _ (by decide)]
  case disable =>
    have write : exec (.aesPortDisable port a .full v) s =
        becomes s ((s.part.unstage port (regOff .aesPortCtl (a / 8) (a % 8))).aesDisable a) := by
      rw [exec_aesPortDisable, writeReg_paired hs rfl]
      exact congrArg (becomes s) (Part.setAesPort_disables _ _ he (force_bit _ _ _ (by decide)))
    exact ⟨_, write, Part.aesDisable_en _ a, fun ch h => Part.aesDisable_tapers h, fun hA hB => Part.aesDisable_stops hA hB,
      fun b hb => Part.aesDisable_others _ hb, Part.aesDisable_mem _ a⟩
  case reference =>
    rw [exec_aesRefEnable, writeReg_single hs rfl]
    exact congrArg (becomes s) (Part.setAesRef_enables _ _ (force_bit _ _ _ (by decide)))

end Sys2Proof.Safety
end
section
/-!
Reads of HBM that find nothing (09 R219, 13 R297): sound sectors with the Cupboards off come as memory holds them, and change nothing.
-/

namespace Sys2Proof.Machine
open Sys2Proof

theorem Memory.read_add (m : Memory) (a n k : Nat) : m.read a (n + k) = m.read a n ++ m.read (a + n) k := by
  simp only [Memory.read, List.range_add, List.map_append, List.map_map]
  congr 1
  exact List.map_congr_left fun i _ => by rw [Function.comp_apply, Nat.add_assoc]

theorem span_succ (a n : Nat) : span a (n + 1) = span a n ++ [a + n] := by
  rw [span, List.range_succ, List.map_append, List.map_singleton, span]

/-- Every byte of HBM lies on one of the 12 stacks, whatever the interleave. -/
theorem stackAt_lt {a : Nat} (mode : Nat) (h : a < hbmEnd) : stackAt mode a < 12 := by
  unfold hbmEnd at h
  unfold stackAt
  split_ifs <;> omega

end Sys2Proof.Machine

namespace Sys2Proof.Machine.Part
open Sys2Proof

/-- Bytes without poison. -/
def sound (l : List Byte) : List (Byte × Bool) := l.map fun b => (b, false)

theorem sound_append (l k : List Byte) : sound l ++ sound k = sound (l ++ k) := (List.map_append ..).symm

theorem sound_fst (l : List Byte) : (sound l).map Prod.fst = l := by
  rw [sound, List.map_map]
  exact List.map_id l

theorem sound_any (l : List Byte) : (sound l).any Prod.snd = false := by
  rw [sound, List.any_map]
  exact List.any_eq_false.mpr fun _ _ => Bool.false_ne_true

section
variable {p : Part} (hp : p.mem.poison = [])
include hp

theorem poisoned_none (a : Nat) : p.mem.poisoned a = false := by rw [Memory.poisoned, hp]; rfl

/-- A line past a Cupboard that is off: its two sectors. -/
theorem lineRead_off {line : Nat} (hc : p.cupEn (stackAt p.hbmMode (line * 64) / 3) = false) (alloc : Bool) :
    p.lineRead line [2 * line, 2 * line + 1] alloc .clean = (sound (p.mem.read (64 * line) 64), p) := by
  have sector (u : Nat) : p.sectorRead (u * 32) .clean = ((p.mem.read (u * 32) 32, false), p) :=
    sectorRead_sound (Nat.mul_mod_left ..) (poisoned_none hp _)
  have halves : p.mem.read (64 * line) 64 = p.mem.read (2 * line * 32) 32 ++ p.mem.read ((2 * line + 1) * 32) 32 := by
    rw [show 64 * line = 2 * line * 32 by omega, show (2 * line + 1) * 32 = 2 * line * 32 + 32 by omega, ← Memory.read_add]
  simp only [lineRead, hc, Bool.not_false, if_true, sectorsRead, List.foldl_cons, List.foldl_nil, ite_self, sector, List.nil_append]
  rw [halves, ← sound_append]
  rfl

/-- A run of whole lines with the Cupboards off comes as memory holds it. -/
theorem hbmFetch_lines {a k : Nat} (ha : a % 64 = 0) (hk : 0 < k) (hend : a + 64 * k ≤ hbmEnd) (hc : ∀ m, m < 4 → p.cupEn m = false)
    (alloc : Bool) : p.hbmFetch a (64 * k) alloc .clean = (sound (p.mem.read a (64 * k)), p) := by
  have lines : (a + 64 * k - 1) / 64 - a / 64 + 1 = k := by omega
  have folds (n : Nat) (hn : n ≤ k) : (span (a / 64) n).foldl (fun (x : List (Byte × Bool) × Part) line =>
      let us := [2 * line, 2 * line + 1].filter fun u => decide (a / 32 ≤ u) && decide (u ≤ (a + 64 * k - 1) / 32)
      let y := x.2.lineRead line us alloc (if line = a / 64 then .clean else .clean)
      (x.1 ++ y.1, y.2)) ([], p) = (sound (p.mem.read a (64 * n)), p) := by
    induction n with
    | zero => rfl
    | succ n ih =>
      have whole : ([2 * (a / 64 + n), 2 * (a / 64 + n) + 1].filter fun u => decide (a / 32 ≤ u) && decide (u ≤ (a + 64 * k - 1) / 32)) =
          [2 * (a / 64 + n), 2 * (a / 64 + n) + 1] := by
        refine List.filter_eq_self.mpr fun u hu => ?_
        simp only [List.mem_cons, List.not_mem_nil, or_false] at hu
        simp only [Bool.and_eq_true, decide_eq_true_eq]
        omega
      have off : p.cupEn (stackAt p.hbmMode ((a / 64 + n) * 64) / 3) = false := by
        have stack := stackAt_lt (a := (a / 64 + n) * 64) p.hbmMode (by omega)
        exact hc _ (by omega)
      rw [span_succ, List.foldl_append, ih (by omega), List.foldl_cons, List.foldl_nil]
      simp only [ite_self, whole, lineRead_off hp off, sound_append]
      rw [show 64 * (n + 1) = 64 * n + 64 by omega, Memory.read_add, show 64 * (a / 64 + n) = a + 64 * n by omega]
  have aligned : a % 32 = 0 := by omega
  have all : (sound (p.mem.read a (64 * k))).take (64 * k) = sound (p.mem.read a (64 * k)) :=
    List.take_of_length_le (by rw [sound, List.length_map, Memory.length_read])
  have fetched := folds k (Nat.le_refl k)
  simp only [hbmFetch, lines, aligned, if_neg (show ¬64 * k = 0 by omega), List.drop_zero]
  rw [fetched, all]

end

/-! ### Side areas (14 R337) -/

/-- A side area of sound lines of HBM on stacks that are on, with the Cupboards off. -/
theorem sideRead_lines {p : Part} {at' k : Nat} (a : Nat) (hp : p.mem.poison = []) (ha : at' % 64 = 0) (hk : 0 < k) (hend : at' + 64 * k ≤ hbmEnd)
    (hc : ∀ m, m < 4 → p.cupEn m = false) (hs : ∀ s, s < 12 → p.stackOn s = true) :
    p.sideRead a at' (64 * k) .clean = (some (p.mem.read at' (64 * k)), p) := by
  have inside : at' < hbmEnd := by omega
  have inHbm : bit at' 63 = false := Nat.testBit_lt_two_pow (Nat.lt_trans inside (by decide))
  have on := hs _ (stackAt_lt p.hbmMode inside)
  simp only [sideRead, inHbm, inside, on, hbmFetch_lines hp ha hk hend hc, sound_any, sound_fst, Bool.not_true, Bool.false_eq_true, if_false,
    if_true]

/-- The side record with the higher GEN arrives. -/
theorem aesSideArrive_arrives {p : Part} {a : Nat} (hr : (p.aesPort a).reading = true) (hb : bit (p.sidePtr a) 63 = false)
    (hend : p.sidePtr a + 320 ≤ hbmEnd) (hp : p.mem.poison = []) (hs : ∀ s, s < 12 → p.stackOn s = true) (hc : ∀ m, m < 4 → p.cupEn m = false) :
    p.aesSideArrive a .ok .clean [] = p.setPort a { p.aesPort a with
      reading := false, failed := false
      next := some (p.mem.read (p.sidePtr a + (if leNat (p.mem.read (p.sidePtr a) 8) < leNat (p.mem.read (p.sidePtr a + 8) 8) then 192 else 64)) 128) } := by
  have aligned : p.sidePtr a % 64 = 0 := Nat.mul_mod_left ..
  have same : p.hostSees [] = p := rfl
  have header := sideRead_lines (k := 1) a hp aligned (by decide) (by omega) hc hs
  have low : (p.mem.read (p.sidePtr a) 64).take 8 = p.mem.read (p.sidePtr a) 8 := by
    rw [show (64 : Nat) = 8 + 56 by rfl, Memory.read_add, List.take_left' (Memory.length_read ..)]
  have high : ((p.mem.read (p.sidePtr a) 64).drop 8).take 8 = p.mem.read (p.sidePtr a + 8) 8 := by
    rw [show (64 : Nat) = 8 + (8 + 48) by rfl, Memory.read_add, List.drop_left' (Memory.length_read ..), Memory.read_add,
      List.take_left' (Memory.length_read ..)]
  have record (o : Nat) (ho : o = 192 ∨ o = 64) := sideRead_lines (at' := p.sidePtr a + o) (k := 2) a hp (by omega) (by decide) (by omega) hc hs
  have chosen := record (if leNat (p.mem.read (p.sidePtr a) 8) < leNat (p.mem.read (p.sidePtr a + 8) 8) then 192 else 64) (by split_ifs <;> simp)
  simp only [Nat.reduceMul] at header chosen
  simp only [aesSideArrive, hr, hb, same, header, low, high, chosen, Bool.not_true, Bool.false_and, Bool.or_self, Bool.false_eq_true, if_false]

/-! ### The feed and fades (14 R323, R331, R332, R339) -/

theorem aesRampEnd_plays {p : Part} {a ch : Nat} (hs : (p.aesCh a ch).st = 1) (hn : p.aesN a ≤ (p.aesCh a ch).n) :
    p.aesRampEnd a ch = (p.setAesCh a ch { p.aesCh a ch with st := 2, n := 0 }).playChecks a ch := by
  unfold aesRampEnd
  exact if_pos ⟨hs, hn⟩

/-- A channel whose taper has ended. -/
def aesTapered (p : Part) (a ch : Nat) : Part := p.setAesCh a ch { p.aesCh a ch with st := 0, n := 0, fifo := [], acc := 0, ovr := false }

theorem stopping_aesTapered (p : Part) (a ch : Nat) : ((p.aesTapered a ch).aesPort a).stopping = (p.aesPort a).stopping := by
  rw [aesTapered, setAesCh, aesPort_setPort_same]
  split <;> rfl

section
variable {p : Part} {a ch : Nat} (hs : (p.aesCh a ch).st = 3) (hn : p.aesN a ≤ (p.aesCh a ch).n)
include hs hn

theorem aesTaperEnd_stops (h : (p.aesPort a).stopping = true) : p.aesTaperEnd a ch = (p.aesTapered a ch).aesStop a := by
  have due : ¬((p.aesCh a ch).st ≠ 3 ∨ (p.aesCh a ch).n < p.aesN a) := by omega
  simp only [aesTaperEnd, if_neg due]
  exact if_pos ((stopping_aesTapered p a ch).trans h)

theorem aesTaperEnd_fades (h : (p.aesPort a).stopping = false) (hf : (p.aesCh a ch).fade = true) : p.aesTaperEnd a ch = p.aesTapered a ch := by
  have due : ¬((p.aesCh a ch).st ≠ 3 ∨ (p.aesCh a ch).n < p.aesN a) := by omega
  have runs := (stopping_aesTapered p a ch).trans h
  simp only [aesTaperEnd, if_neg due]
  refine (if_neg ?_).trans (if_pos hf)
  change ¬((p.aesTapered a ch).aesPort a).stopping = true
  rw [runs]
  exact Bool.false_ne_true

end

/-- A released row of the bound region is taken by its channel. -/
theorem aesFeedArrive_takes {p : Part} {a ch c n die i : Nat} (hb : (p.aesCh a ch).bind = some (c, n, die, i)) (he : p.aesEn a = true)
    (hr : p.aesRunning a = true) (hu : p.benchUp (p.phys die) = true) (hen : p.regionEn (p.phys die) i = true)
    (hctx : p.regionCtx (p.phys die) i = c) (hl : rowLeft (p.aesCh a ch) ≠ 0) (ht : (p.aesCh a ch).pos < (p.region (p.phys die) i).tail)
    (hh : (p.region (p.phys die) i).head ≤ (p.aesCh a ch).pos) (hc : p.crowded (p.phys die) i = false) (hf : (p.aesCh a ch).fifo.length + 256 ≤ 8192)
    (hg : (p.bank (p.phys die) (bankOf (p.regionRow (p.phys die) i (p.aesCh a ch).pos))).gated = false)
    (hp : p.mem.poisoned (benchAt (p.phys die) (512 * p.regionRow (p.phys die) i (p.aesCh a ch).pos)) = false) :
    let d := p.phys die
    let y := p.aesCh a ch
    let r := p.rowRead d (p.regionRow d i y.pos) .clean
    let vs := (span y.skip (rowLeft y)).map fun j => leNat ((r.1.1.drop (2 * j)).take 2)
    let z := passRow y (rowLeft y)
    let q := r.2.setAesCh a ch { z.1 with fifo := y.fifo ++ vs }
    p.aesFeedArrive a ch .clean = ((if z.2 = true then q.returnPos d i y.pos else q).rampIn a ch).playChecks a ch := by
  intro d y r vs z q
  have defined : (r.1.2 || decide (y.pos < (p.region d i).head) || p.crowded d i) = false := by
    have hpos : decide (y.pos < (p.region d i).head) = false := decide_eq_false (Nat.not_lt.mpr hh)
    have hrow : r.1.2 = false := by rw [show r = _ from rowRead_clean p d _]; exact hp
    rw [hpos, hrow, hc]
    rfl
  have admitted : (!p.aesEn a || !p.aesRunning a || !p.benchUp d || !p.regionEn d i || p.regionCtx d i != c || rowLeft y == 0 ||
      decide ((p.region d i).tail ≤ y.pos) || decide (8192 < y.fifo.length + 256)) = false := by
    have ne : (p.regionCtx d i != c) = false := by rw [hctx]; exact bne_self_eq_false c
    rw [he, hr, hu, hen, ne, beq_false_of_ne hl, decide_eq_false (Nat.not_le.mpr ht), decide_eq_false (Nat.not_lt.mpr hf)]
    rfl
  simp only [aesFeedArrive, hb]
  rw [if_neg (by rw [admitted]; exact Bool.false_ne_true), if_neg (by rw [hg]; exact Bool.false_ne_true)]
  have values : (if (r.1.2 || decide (y.pos < (p.region d i).head) || p.crowded d i) = true then (r.2.frees (rowLeft y) 16).1 else vs) = vs :=
    if_neg (by rw [defined]; exact Bool.false_ne_true)
  have stays : (if (r.1.2 || decide (y.pos < (p.region d i).head) || p.crowded d i) = true then (r.2.frees (rowLeft y) 16).2 else r.2) = r.2 :=
    if_neg (by rw [defined]; exact Bool.false_ne_true)
  rw [values, stays]

end Sys2Proof.Machine.Part

namespace Sys2Proof.Safety
open Sys2Proof Sys2Proof.Machine

/-- Settles O28. A channel is checked at each arrival, what a fade discards is not counted as DROPPED, and the record that arrives applies from the
next block (14 R338, R339): the first two are the model's choice (log entry 51). -/
theorem audioChannelsFeedRampAndTaper : Obligations.AudioChannelsFeedRampAndTaper := by
  intro s a ch y
  refine ⟨?feed, fun hs hn => ?ramp, fun hs hn => ⟨fun hstop => ?stops, fun hrun hf => ?fades⟩, fun hr hb hend hp hs hc => ?side⟩
  case feed =>
    rintro c n die i hb d rfl he hr hu hen hctx hl ht hh hc hf row rfl hg hp
    exact congrArg (settlesTo s) (Part.aesFeedArrive_takes hb he hr hu hen hctx hl ht hh hc hf hg hp)
  case ramp => exact congrArg (becomes s) (Part.aesRampEnd_plays hs hn)
  case stops => exact congrArg (becomes s) (Part.aesTaperEnd_stops hs hn hstop)
  case fades => exact congrArg (becomes s) (Part.aesTaperEnd_fades hs hn hrun hf)
  case side => exact congrArg (settlesTo s) (Part.aesSideArrive_arrives hr hb hend hp hs hc)

end Sys2Proof.Safety
end
section
/-!
Sectors and stacks (13 R293 to R301): a read or write of one sector at its stack, and what stacks do in the background.
-/

namespace Sys2Proof.Machine.Part
open Sys2Proof

section
variable {p : Part} {a : Nat}

/-- A request meets an awake stack at once. -/
theorem stackReq_awake {s : Nat} (acc : HAcc) (run : Part → Part) (hs : p.stackOn s = true) (hw : (p.stack s).asleep = false) :
    p.stackReq s acc run = run p := by
  simp only [stackReq, hs, hw, Bool.not_true, Bool.false_eq_true, if_false]

/-- A read past a Cupboard that is off delivers what its sector's controller finds (R293). -/
theorem hbmReadRun_off (line : Bool) (ecc : Ecc) (hc : p.cupEn (stackAt p.hbmMode a / 3) = false) :
    p.hbmReadRun a line ecc = (p.sectorRead a ecc).2.deliver (p.sectorRead a ecc).1 := by
  simp only [hbmReadRun, hc, Bool.not_false, if_true]
  rfl

/-- A poisoned sector comes poisoned, whatever its code finds, and nothing is logged again (R298). -/
theorem sectorRead_poisoned (ecc : Ecc) (ha : a % 32 = 0) (hp : p.mem.poisoned a = true) :
    p.sectorRead a ecc = ((p.mem.read a 32, true), p) := by
  have aligned : a / 32 * 32 = a := Nat.div_mul_cancel (Nat.dvd_of_mod_eq_zero ha)
  simp only [sectorRead, aligned, hp, if_true]

/-- A sound sector that its code cannot correct comes poisoned, and memory is as before but for its poison (R297, R298). -/
theorem sectorRead_uncorrectable (ha : a % 32 = 0) (hp : p.mem.poisoned a = false) :
    (p.sectorRead a .uncorrectable).1 = (p.mem.read a 32, true) ∧ (p.sectorRead a .uncorrectable).2.mem = p.mem.setPoison a true := by
  have aligned : a / 32 * 32 = a := Nat.div_mul_cancel (Nat.dvd_of_mod_eq_zero ha)
  have logged (q : Part) (f : FaultRec) : (q.recordFault f).mem = q.mem := congrArg Prod.fst (work_recordFault q f)
  simp only [sectorRead, aligned, hp, Bool.false_eq_true, if_false]
  refine ⟨trivial, ?_⟩
  change (recordFault _ _).mem.setPoison a true = _
  rw [logged]
  exact congrArg (·.setPoison a true) (bump_mem ..)

/-- A read whose code finds nothing changes nothing. -/
theorem sectorRead_clean_keeps (p : Part) (a : Nat) : (p.sectorRead a .clean).2 = p := by
  simp only [sectorRead]
  split <;> rfl

theorem unitOf_sector (ha : a % 32 = 0) (hend : a < hbmEnd) : Memory.unitOf a = a := by
  unfold hbmEnd at hend
  rw [Memory.unitOf, if_neg (by omega)]
  omega

/-- One whole sector is one unit of poison. -/
theorem unitsOf_sector (ha : a % 32 = 0) (hend : a < hbmEnd) : Memory.unitsOf a 32 = [a] := by
  unfold hbmEnd at hend
  have g : (if 0x100000000000 ≤ a then 512 else 32) = 32 := if_neg (by omega)
  have one : (a + 32 - 1) / 32 - a / 32 + 1 = 1 := by omega
  have start : a / 32 * 32 = a := by omega
  simp only [Memory.unitsOf, g, one]
  exact congrArg (fun x => [x]) start

theorem poisoned_setPoison (m : Memory) (v : Bool) (ha : a % 32 = 0) (hend : a < hbmEnd) : (m.setPoison a v).poisoned a = v := by
  rw [Bool.eq_iff_iff, Memory.poisoned, unitOf_sector ha hend, List.contains_iff_mem, Memory.mem_setPoison, if_pos rfl]

/-- The bytes and the poison of one whole sector are stored (R293). -/
theorem hbmPut_sector {bs : List Byte} (poison : Bool) (ha : a % 32 = 0) (hend : a < hbmEnd) (hl : bs.length = 32) :
    p.hbmPut a bs poison = p.onMem fun m => (m.write a bs).setPoison a poison := by
  simp only [hbmPut, hl, unitsOf_sector ha hend, List.foldl_cons, List.foldl_nil, Nat.le_refl, decide_true, Bool.and_self, if_true]
  cases poison <;> rfl

/-- A write of a whole sector stores it without a read (R293, R299). -/
theorem sectorWrite_whole {data : List Byte} (poison : Bool) (ecc : Ecc) (ha : a % 32 = 0) (hl : data.length = 32) :
    p.sectorWrite a data poison ecc = p.hbmStore a data poison := by
  simp only [sectorWrite, ha, hl, BEq.rfl, Bool.and_self, if_true]

theorem hbmStore_mem (p : Part) (a : Nat) (bs : List Byte) (poison : Bool) : (p.hbmStore a bs poison).mem = (p.hbmPut a bs poison).mem := by
  simp only [hbmStore]
  split <;> rfl

theorem hbmStore_regs (p : Part) (a : Nat) (bs : List Byte) (poison : Bool) : (p.hbmStore a bs poison).regs = p.regs := by
  simp only [hbmStore]
  split <;> rfl

end

section
variable {p : Part} {s : Nat}

theorem odeccPoll_counts (n : Nat) (ht : p.trained s = true) : p.odeccPoll s n = p.bumpStack s 2 n := if_pos ht

theorem selfRefreshEnter_sleeps (ht : p.trained s = true) (hr : p.rb .stackStatus (s / 3) (s % 3) 3 = false) (hw : (p.stack s).asleep = false)
    (hc : p.rf .hbmCtl (s / 3) 0 16 16 ≠ 0) : p.selfRefreshEnter s = p.setStack s { p.stack s with asleep := true } := by
  simp only [selfRefreshEnter, ht, hr, hw, bne_iff_ne.mpr hc, Bool.not_false, Bool.and_self, if_true]

/-- The scrub of a sector without an error only moves on; the last sector ends the period (R301, R302). -/
theorem hbmPatrolScrub_moves (ht : p.trained s = true) (hr : p.rb .stackStatus (s / 3) (s % 3) 3 = false) (hw : (p.stack s).asleep = false) :
    p.hbmPatrolScrub s .clean = p.setStack s { p.stack s with
      scrub := if (p.stack s).scrub + 1 = sectorsPerStack then 0 else (p.stack s).scrub + 1
      tally := if (p.stack s).scrub + 1 = sectorsPerStack then [] else (p.stack s).tally } := by
  simp only [hbmPatrolScrub, ht, hr, hw, sectorRead_clean_keeps, Bool.not_false, Bool.and_self, if_true, beq_iff_eq]

theorem stackWakeDone_wakes (hs : (p.stack s).asleep = true) (hw : (p.stack s).waking = true) :
    p.stackWakeDone s =
      (p.stack s).queue.foldl runHAcc ((p.setStack s { p.stack s with asleep := false, waking := false, queue := [] }).bumpStack s 3 1) := by
  simp only [stackWakeDone, hs, hw, Bool.and_self, if_true]

end

end Sys2Proof.Machine.Part

namespace Sys2Proof.Safety
open Sys2Proof Sys2Proof.Machine

theorem exec_hbmRead (s : State) (a : Nat) (line : Bool) (ecc : Ecc) : exec (.hbmRead a line ecc) s = becomes s (s.part.hbmRead a line ecc) := rfl

theorem exec_hbmWrite (s : State) (a : Nat) (data : List Byte) (poison : Bool) (ecc : Ecc) :
    exec (.hbmWrite a data poison ecc) s = becomes s (s.part.hbmWrite a data poison ecc) := rfl

/-- Settles O16: the sector's stack is awake and its Cupboard off, so each access meets the sector itself. That a read of a poisoned sector counts
nothing, whatever its code finds, is the model's choice (log entry 66). -/
theorem sectorsReadAndWrite : Obligations.SectorsReadAndWrite := by
  intro s a ha hend hon hawake
  refine ⟨fun line hc => ⟨fun hp => ⟨?clean, ?uncorrectable⟩, fun hp ecc => ?poisoned⟩, fun data poison hl => ?write⟩
  case clean =>
    rw [exec_hbmRead, Part.hbmRead, Part.stackReq_awake _ _ hon hawake, Part.hbmReadRun_off _ _ hc, Part.sectorRead_sound ha hp]
  case uncorrectable =>
    obtain ⟨bytes, mem⟩ := Part.sectorRead_uncorrectable ha hp
    refine ⟨(s.part.sectorRead a .uncorrectable).2.deliver (s.part.mem.read a 32, true), ?_, ?_, rfl, fun b => ?_⟩
    · rw [exec_hbmRead, Part.hbmRead, Part.stackReq_awake _ _ hon hawake, Part.hbmReadRun_off _ _ hc, bytes]
    · exact (congrArg (Memory.poisoned · a) mem).trans (Part.poisoned_setPoison _ _ ha hend)
    · exact (congrArg (Memory.get · b) mem).trans (Memory.get_setPoison ..)
  case poisoned =>
    rw [exec_hbmRead, Part.hbmRead, Part.stackReq_awake _ _ hon hawake, Part.hbmReadRun_off _ _ hc, Part.sectorRead_poisoned ecc ha hp]
  case write =>
    have mem : (s.part.hbmStore a data poison).mem = (s.part.mem.write a data).setPoison a poison := by
      rw [Part.hbmStore_mem, Part.hbmPut_sector poison ha hend hl]
      rfl
    refine ⟨s.part.hbmStore a data poison, ?_, ?_, fun b => ?_, fun u hu => ?_, ?_, Part.hbmStore_regs .., Part.hbmStore_ctrs ..⟩
    · rw [exec_hbmWrite, Part.hbmWrite, Part.stackReq_awake _ _ hon hawake, Part.sectorWrite_whole _ _ ha hl]
    · rw [mem, Part.poisoned_setPoison _ _ ha hend]
    · rw [mem, Memory.get_setPoison, Memory.get_write, hl]
    · rw [mem, Memory.mem_setPoison, if_neg hu]
      rfl
    · rw [mem]
      rfl

/-- Settles O17. That a scrub read of a poisoned sector counts nothing is the model's choice (log entry 66). -/
theorem stacksRefreshSleepAndScrub : Obligations.StacksRefreshSleepAndScrub := by
  intro s k x
  refine ⟨fun bank => rfl, fun ht => ⟨fun n => ?odecc, fun hr hw => ⟨fun hc => ?sleep, ?scrub⟩⟩, fun hs hw => ?wake⟩
  case odecc => exact congrArg (becomes s) (Part.odeccPoll_counts n ht)
  case sleep => exact congrArg (becomes s) (Part.selfRefreshEnter_sleeps ht hr hw hc)
  case scrub => exact congrArg (becomes s) (Part.hbmPatrolScrub_moves ht hr hw)
  case wake => exact congrArg (becomes s) (Part.stackWakeDone_wakes hs hw)

end Sys2Proof.Safety
end
section
/-!
Repairs, the interleave mode and the ONLINE bits of stacks (13 R290, R302 to R304).
-/

namespace Sys2Proof.Machine.Memory
open Sys2Proof

/-- A zeroed stack reads 0 where every open range was taken under the present interleave (13 R300, R303). -/
theorem get_zeroStack {m : Memory} {mode s a : Nat} (ha : a < hbmEnd) (hs : stackAt mode a = s) (ho : ∀ o ∈ m.opens, o.mode = mode) :
    (m.zeroStack mode s).get a = 0 := by
  have unlisted : Cells.get (m.zeroStack mode s).cells a = 0 := by
    rw [Cells.get, Tab.getD, Tab.find_none]
    · rfl
    · rintro e he rfl
      have kept := (List.mem_filter.mp he).2
      rw [hs, bne_self_eq_false, Bool.or_false, decide_eq_true_eq] at kept
      exact absurd ha (Nat.not_lt.mpr kept)
  have closed : (m.zeroStack mode s).base a = 0 := by
    have none : (m.zeroStack mode s).opens.find? (fun o => o.has a) = none := by
      refine List.find?_eq_none.mpr fun o h => ?_
      obtain ⟨r, hr, rfl⟩ := List.mem_map.mp h
      have zeroed : (r.zeroed ||| 2 ^ s).testBit (stackAt r.mode a) = true := by
        rw [ho r hr, hs, Nat.testBit_or, Nat.testBit_two_pow_self, Bool.or_true]
      rw [OpenRange.has]
      dsimp only
      rw [zeroed, Bool.not_true, Bool.and_false]
      exact Bool.false_ne_true
    rw [base, none]
  rw [get, unlisted, closed]
  rfl

end Sys2Proof.Machine.Memory

namespace Sys2Proof.Machine.Part
open Sys2Proof

/-- The candidates that a repair leaves: those without a spare row, and the rows that failed (R303). -/
theorem mem_candsLeft (x : Stack) (unspared failed : List Nat) (r : Nat) :
    r ∈ candsLeft x unspared failed ↔ r ∈ failed ∨ (r ∈ x.cands ∧ r ∈ unspared) := by
  have adds (l : List Nat) : r ∈ failed.foldl (fun l r => insNat r l) l ↔ r ∈ failed ∨ r ∈ l := by
    induction failed generalizing l with
    | nil => simp
    | cons f t ih => rw [List.foldl_cons, ih, mem_insNat, List.mem_cons, or_assoc, or_left_comm]
  rw [candsLeft, adds, List.mem_filter, List.contains_iff_mem]

/-- HBM_MAP stands in the global window and no HBM_STACK_STATUS does. -/
theorem hbmMap_ne_stackStatus (d i : Nat) : regOff .hbmMap 0 0 ≠ regOff .stackStatus d i := by
  simp only [regOff, instOff, regRow, winBase]
  omega

/-- The part when a repair ends, before a test that failed in too many rows fails the stack. -/
def repaired (p : Part) (k : Nat) (left : List Nat) (n : Nat) : Part :=
  let x := p.stack k
  let p := p.setStack k { x with cands := left, repaired := x.repaired + n, tally := [] }
  let p := if left.isEmpty then p else p.setRb .stackStatus (k / 3) (k % 3) 4 true
  ((p.onMem fun mem => mem.zeroStack p.hbmMode k).bumpStack k 4 n).setRb .stackStatus (k / 3) (k % 3) 3 false

section
variable (p : Part) (k : Nat) (left : List Nat) (n : Nat)

theorem repairDone_ends {p : Part} {k : Nat} (unspared failed : List Nat) (rest : Nat) (h : p.rb .stackStatus (k / 3) (k % 3) 3 = true) :
    let left := candsLeft (p.stack k) unspared failed
    let q := p.repaired k left ((p.stack k).cands.filter fun r => !left.contains r).length
    p.repairDone k unspared failed rest = if failed.eraseDups.length + rest ≤ 64 then q else q.stackFatal k 0x0850 := by
  simp only [repairDone, h, Bool.not_true, Bool.false_eq_true, if_false]
  rfl

theorem repaired_stack : (p.repaired k left n).stack k = { p.stack k with cands := left, repaired := (p.stack k).repaired + n, tally := [] } := by
  have stks : (p.repaired k left n).stks = (p.setStack k { p.stack k with
      cands := left, repaired := (p.stack k).repaired + n, tally := [] }).stks := by
    simp only [repaired, bumpStack, setRb_stacks, bump_stacks]
    split <;> rfl
  rw [stack, stks]
  exact Tab.getD_put_same ..

theorem repaired_mem : (p.repaired k left n).mem = p.mem.zeroStack p.hbmMode k := by
  simp only [repaired, bumpStack, setRb_mem, bump_mem]
  split
  · rfl
  · have mode (q : Part) : (q.setRb .stackStatus (k / 3) (k % 3) 4 true).hbmMode = q.hbmMode :=
      rf_setRf_other _ _ _ _ _ _ _ _ _ _ _ _ (hbmMap_ne_stackStatus _ _)
    exact congrArg (fun m => p.mem.zeroStack m k) (mode _)

theorem repaired_ends : (p.repaired k left n).rb .stackStatus (k / 3) (k % 3) 3 = false := rb_setRb_same _ _ _ _ _ (by decide)

/-- A stack with candidates left asks for service. -/
theorem repaired_asks (h : left ≠ []) : (p.repaired k left n).rb .stackStatus (k / 3) (k % 3) 4 = true := by
  have some : left.isEmpty = false := by rw [List.isEmpty_eq_false_iff]; exact h
  simp only [repaired, some, Bool.false_eq_true, if_false]
  rw [rb_setRb_bit _ _ _ _ _ (by decide) (by decide), rb, bumpStack, rv_bump]
  exact rb_setRb_same _ _ _ _ _ (by decide)

end

/-! ### Writes of HBM_STACK_CTL (R302, R303) -/

section
variable {p : Part} {k : Nat} (cw : List CwRead) (fails : List Nat)

theorem stack_number (k : Nat) : 3 * (k / 3) + k % 3 = k := Nat.div_add_mod k 3

/-- REPAIR of an offline stack, while no stack repairs. -/
theorem setStackCtl_repairs (hoff : p.rb .stackCtl (k / 3) (k % 3) 0 = false) (hr : ∀ j, j < 12 → p.rb .stackStatus (j / 3) (j % 3) 3 = false) :
    p.setStackCtl ⟨⟨.stackCtl, k / 3, k % 3⟩, 2 ^ 64 - 1, 2, 0, cw, fails⟩ = p.setRb .stackStatus (k / 3) (k % 3) 3 true := by
  have idle : ((List.range 12).any fun j => p.rb .stackStatus (j / 3) (j % 3) 3) = false :=
    List.any_eq_false.mpr fun j hj => by rw [hr j (List.mem_range.mp hj)]; exact Bool.false_ne_true
  have online : (2 : Nat).testBit 0 = false := by decide
  have repair : (2 : Nat).testBit 1 = true := by decide
  simp only [setStackCtl, stack_number, hoff, Safety.one_full _ _ 0 (by decide : 0 < 64), Safety.one_full _ _ 1 (by decide : 1 < 64), online,
    repair, idle, Bool.false_and, Bool.and_false, Bool.not_true, Bool.or_self, Bool.false_eq_true, if_false]

/-- ONLINE cleared on a stack that no enabled Cabinet names, while no Chest command runs. -/
theorem setStackCtl_offline (hon : p.rb .stackCtl (k / 3) (k % 3) 0 = true) (hc : p.chestBusy = false)
    (hn : ∀ b, b < 32 → p.cabEn b = true → p.rb .cabCtl 0 b (32 + k) = false) :
    p.setStackCtl ⟨⟨.stackCtl, k / 3, k % 3⟩, 2 ^ 64 - 1, 0, 0, cw, fails⟩ = (p.setRb .stackCtl (k / 3) (k % 3) 0 false).dropLines k := by
  have named : ((List.range 32).any fun b => p.cabEn b && p.rb .cabCtl 0 b (32 + k)) = false := by
    refine List.any_eq_false.mpr fun b hb => ?_
    cases he : p.cabEn b
    · exact Bool.false_ne_true
    · rw [hn b (List.mem_range.mp hb) he]
      exact Bool.false_ne_true
  have none (b : Nat) : (0 : Nat).testBit b = false := Nat.zero_testBit b
  simp only [setStackCtl, stack_number, hon, hc, named, Safety.one_full _ _ 0 (by decide : 0 < 64), Safety.one_full _ _ 1 (by decide : 1 < 64),
    Safety.zero_full _ _ 0 (by decide : 0 < 64), none, Bool.not_true, Bool.not_false, Bool.and_false, Bool.false_and, Bool.and_true, Bool.or_self,
    Bool.false_eq_true, if_false, if_true]

/-- ONLINE set on a stack that has not failed and does not repair. -/
theorem setStackCtl_online (hoff : p.rb .stackCtl (k / 3) (k % 3) 0 = false) (hr : p.rb .stackStatus (k / 3) (k % 3) 3 = false)
    (hf : p.rb .stackStatus (k / 3) (k % 3) 5 = false) :
    p.setStackCtl ⟨⟨.stackCtl, k / 3, k % 3⟩, 2 ^ 64 - 1, 1, 0, cw, fails⟩ = p.setRb .stackCtl (k / 3) (k % 3) 0 true := by
  have online : (1 : Nat).testBit 0 = true := by decide
  have repair : (1 : Nat).testBit 1 = false := by decide
  simp only [setStackCtl, stack_number, hoff, hr, hf, Safety.one_full _ _ 0 (by decide : 0 < 64), Safety.one_full _ _ 1 (by decide : 1 < 64),
    online, repair, Bool.not_false, Bool.and_self, Bool.and_false, Bool.false_and, Bool.false_eq_true, if_false, if_true]

end

/-- What a change of the interleave makes of the part that already holds it (R290). -/
def remapped (p : Part) (was : Nat) : Part :=
  { p with
    mem := { p.mem.openRange 0 hbmEnd p.fresh p.hbmMode with poison := (p.mem.poison.map (movePoison was p.hbmMode)).foldl (fun l u => insNat u l) [] }
    fresh := p.fresh + 1
    cups := Tab.mapV (fun _ (x : Cupboard) => { x with lines := [] }) p.cups }

/-- A whole write of HBM_MAP while no context is enabled. -/
theorem setHbmMap_maps {p : Part} {v : Nat} (cw : List CwRead) (fails : List Nat) (hp : Safety.Plain p ⟨.hbmMap, 0, 0⟩ v)
    (hc : (List.range 256).any p.ctxEn = false) :
    let q := p.putImage ⟨.hbmMap, 0, 0⟩ (Safety.imageOf p ⟨.hbmMap, 0, 0⟩ v)
    p.setHbmMap ⟨⟨.hbmMap, 0, 0⟩, 2 ^ 64 - 1, v, 0, cw, fails⟩ = if q.hbmMode = p.hbmMode then q else q.remapped p.hbmMode := by
  intro q
  rw [setHbmMap, if_neg (by rw [hc]; exact Bool.false_ne_true)]
  dsimp only
  rw [Safety.store_clean (Safety.clean_whole hp ..), Safety.newImage_whole hp rfl]
  rfl

end Sys2Proof.Machine.Part

namespace Sys2Proof.Safety
open Sys2Proof Sys2Proof.Machine

theorem exec_repair (s : State) (port k : Nat) : exec (.repair port k) s = becomes s (s.part.writeReg port (regOff .stackCtl (k / 3) (k % 3)) .full
    (BitVec.ofNat 64 (b2n (s.part.rb .stackCtl (k / 3) (k % 3) 0) + 2))) := rfl

theorem exec_repairDone (s : State) (k : Nat) (unspared failed : List Nat) (rest : Nat) :
    exec (.repairDone k unspared failed rest) s = becomes s (s.part.repairDone k unspared failed rest) := rfl

theorem exec_hbmMapWrite (s : State) (port : Nat) (h : Half) (v : Reg) :
    exec (.hbmMapWrite port h v) s = becomes s (s.part.writeReg port (regOff .hbmMap 0 0) h v) := rfl

theorem exec_stackOffline (s : State) (port k : Nat) :
    exec (.stackOffline port k) s = settlesTo s (s.part.writeReg port (regOff .stackCtl (k / 3) (k % 3)) .full 0) := rfl

theorem exec_stackOnline (s : State) (port k : Nat) :
    exec (.stackOnline port k) s = settlesTo s (s.part.writeReg port (regOff .stackCtl (k / 3) (k % 3)) .full 1) := rfl

/-- Settles O18. That the tallies are empty at the end of a repair is the model's choice (log entry 24). -/
theorem repairsEndWithAZeroStack : Obligations.RepairsEndWithAZeroStack := by
  intro s port k
  refine ⟨fun hs hoff hr => ?starts, fun hb unspared failed rest => ?ends⟩
  case starts =>
    rw [exec_repair, writeReg_single hs rfl, hoff]
    exact congrArg (becomes s) (Part.setStackCtl_repairs _ _ hoff hr)
  case ends =>
    intro x left
    refine ⟨s.part.repaired k left (x.cands.filter fun r => !left.contains r).length, ?_, Part.mem_candsLeft x unspared failed,
      Part.repaired_stack .., Part.repaired_mem .., Part.repaired_ends .., Part.repaired_asks _ _ _ _, fun a ha hk ho => ?_⟩
    · rw [exec_repairDone]
      exact congrArg (becomes s) (Part.repairDone_ends unspared failed rest hb)
    · rw [Part.repaired_mem]
      exact Memory.get_zeroStack ha hk ho

/-- Settles O19. That poison moves with its sector, that the Cupboards are empty and that HBM's content is open after a change of MODE is the model's
choice (log entries 24 and 8); that an offline stack's lines are dropped is R401. -/
theorem mapAndStacksAreSwitched : Obligations.MapAndStacksAreSwitched := by
  intro s port
  refine ⟨fun v hs hp hc => ⟨?mode, ?map⟩, fun k hs => ⟨fun hon hbusy hn => ?offline, fun hoff hr hf => ?online⟩⟩
  case mode => exact rf_putImage_rw s.part ⟨.hbmMap, 0, 0⟩ v.toNat 0 2 rfl
  case map =>
    rw [exec_hbmMapWrite, writeReg_single hs rfl]
    exact congrArg (becomes s) (Part.setHbmMap_maps _ _ hp hc)
  case offline =>
    rw [exec_stackOffline, writeReg_single hs rfl]
    exact congrArg (settlesTo s) (Part.setStackCtl_offline _ _ hon hbusy hn)
  case online =>
    rw [exec_stackOnline, writeReg_single hs rfl]
    exact congrArg (settlesTo s) (Part.setStackCtl_online _ _ hoff hr hf)

end Sys2Proof.Safety
end
section
/-!
Command registers (17 Table 17-3, 13 Table 13-13): the data of a write that forces GO and an operation code, and whether a GO is taken.
-/

namespace Sys2Proof.Safety
open Sys2Proof Sys2Proof.Machine

theorem setBits_toNat (v : Reg) {lo w : Nat} (x : Nat) (h : lo + w ≤ 64) :
    (BitVec.ofNat 64 (setBits v.toNat lo w x)).toNat = setBits v.toNat lo w x := by
  rw [BitVec.toNat_ofNat, Nat.mod_eq_of_lt (setBits_lt _ _ _ _ v.isLt h)]

/-- A field of a whole write's data with bit `b` forced, apart from that bit. -/
theorem bits_forceBit (v : Reg) {b lo w : Nat} (on : Bool) (hb : b < 64) (h : lo + w ≤ b ∨ b + 1 ≤ lo) :
    bits (forceBit .full v b on).toNat lo w = bits v.toNat lo w := by
  rw [forceBit, setBits_toNat _ _ (by omega), bits_setBits_other _ _ _ _ _ _ h]

theorem forceOp_full (v : Reg) (lo w op : Nat) :
    forceOp .full v lo w op = forceBit .full (BitVec.ofNat 64 (setBits v.toNat lo w op)) 63 true := rfl

section
variable (v : Reg) {lo w op : Nat} (h : lo + w ≤ 63)
include h

theorem bits_forceOp (ho : op < 2 ^ w) : bits (forceOp .full v lo w op).toNat lo w = op := by
  rw [forceOp_full, bits_forceBit _ _ (by decide) (.inl h), setBits_toNat _ _ (by omega), bits_setBits_same, Nat.mod_eq_of_lt ho]

theorem bits_forceOp_other {l n : Nat} (hl : l + n ≤ 63) (hd : l + n ≤ lo ∨ lo + w ≤ l) :
    bits (forceOp .full v lo w op).toNat l n = bits v.toNat l n := by
  rw [forceOp_full, bits_forceBit _ _ (by decide) (.inl hl), setBits_toNat _ _ (by omega), bits_setBits_other _ _ _ _ _ _ hd]

end

theorem forceOp_go (v : Reg) (lo w op : Nat) : (forceOp .full v lo w op).toNat.testBit 63 = true := force_bit _ _ _ (by decide)

/-- A whole write of a register with one checked field is plain where the field's value is in range. -/
theorem plain_of_field {p : Part} {r : RegId} {x lo w least most : Nat} (hr : fieldRanges r.name = [(lo, w, least, most)])
    (hw : bits (regRow r.name).rw lo w = 2 ^ w - 1) (hl : least ≤ bits x lo w) (hm : bits x lo w ≤ most) : Plain p r x := by
  simp only [Plain, hr, List.any_cons, List.any_nil, reservedIn, bits_imageOf _ _ _ _ _ hw, decide_eq_false (Nat.not_lt.mpr hl),
    decide_eq_false (Nat.not_lt.mpr hm), Bool.or_self, Bool.and_false]

/-- A GO that is refused leaves the register and is counted; one that is taken stores the write and goes. -/
theorem setGo_refused {p : Part} {a : Acc} (go : Part → Part) (hg : a.one 63 = true) : p.setGo a true go = p.badAccess := by
  simp only [Part.setGo, hg, Bool.and_self, if_true]

theorem setGo_taken {p : Part} {r : RegId} {x : Nat} {cw : List CwRead} {fails : List Nat} (go : Part → Part) (hx : x.testBit 63 = true)
    (hp : Plain p r x) (hw : (regRow r.name).w1c = 0) :
    p.setGo ⟨r, 2 ^ 64 - 1, x, 0, cw, fails⟩ false go = go (p.putImage r (imageOf p r x)) := by
  simp only [Part.setGo, Bool.and_false, Bool.false_eq_true, if_false, one_full _ _ 63 (by decide : 63 < 64), hx, if_true]
  rw [store_clean (clean_whole hp ..), newImage_whole hp hw]

/-- A whole write of a paired register through a port, with free outcomes. -/
theorem writeAcc_paired {p : Part} {port off : Nat} {r : RegId} (h : Served p port off r) (hp : paired r.name = true) (v : Reg)
    (cw : List CwRead) (fails : List Nat) :
    p.writeAcc port off .full v.toNat 0 cw fails = (p.unstage port off).applyWrite ⟨r, 2 ^ 64 - 1, v.toNat, 0, cw, fails⟩ := by
  simp only [Part.writeAcc, h.link, h.free, Bool.not_true, Bool.false_eq_true, if_false]
  rw [writeNow_full h hp, full_mod]

end Sys2Proof.Safety
end

section
/-!
Commands of the Chest and its channels (13 R306, R312 to R318, 17 R402, R403).
-/

namespace Sys2Proof.Machine.Part
open Sys2Proof

/-! ### Commands begin -/

/-- The register of the Chest commands and those that say whether it takes one. -/
theorem chestCmd_apart : regOff .chestStatus 0 0 ≠ regOff .chestCmd 0 0 ∧ regOff .chestCmdStatus 0 0 ≠ regOff .chestCmd 0 0 ∧
    regOff .chestCmd 0 0 ≠ regOff .chestCmdStatus 0 0 := by decide

/-- What the Chest does by OP. -/
def chestDoes (op id : Nat) (cw : List CwRead) (fails : List Nat) (p : Part) : Part :=
  if op = 1 then p.chestLoad id cw else if op = 2 then p.chestWrite id fails else if op = 3 then p.chestDelete id else p.chestList

theorem chestDoes_load (id : Nat) (cw : List CwRead) (fails : List Nat) (p : Part) : chestDoes 1 id cw fails p = p.chestLoad id cw := if_pos rfl

theorem chestDoes_write (id : Nat) (cw : List CwRead) (fails : List Nat) (p : Part) : chestDoes 2 id cw fails p = p.chestWrite id fails := by
  rw [chestDoes, if_neg (by decide), if_pos rfl]

theorem chestDoes_delete (id : Nat) (cw : List CwRead) (fails : List Nat) (p : Part) : chestDoes 3 id cw fails p = p.chestDelete id := by
  rw [chestDoes, if_neg (by decide), if_neg (by decide), if_pos rfl]

theorem chestDoes_list (id : Nat) (cw : List CwRead) (fails : List Nat) (p : Part) : chestDoes 4 id cw fails p = p.chestList := by
  rw [chestDoes, if_neg (by decide), if_neg (by decide), if_neg (by decide)]

/-- Whether the Chest refuses a GO (R314, R316). -/
def chestRefuses (p : Part) : Bool := !p.rb .chestStatus 0 0 0 || p.chestBusy

theorem chestRefuses_putImage (p : Part) (v : Nat) : (p.putImage ⟨.chestCmd, 0, 0⟩ v).chestRefuses = p.chestRefuses := by
  have kept (n : RegName) (b : Nat) (h : regOff n 0 0 ≠ regOff .chestCmd 0 0) : (p.putImage ⟨.chestCmd, 0, 0⟩ v).rb n 0 0 b = p.rb n 0 0 b := by
    rw [rb_eq_rf, Safety.rf_putImage_other _ _ _ _ _ _ _ _ h, ← rb_eq_rf]
  rw [chestRefuses, chestBusy, kept _ _ chestCmd_apart.1, kept _ _ chestCmd_apart.2.1]
  rfl

theorem chestGo_goes {p : Part} (op id : Nat) (cw : List CwRead) (fails : List Nat) (h : p.chestRefuses = false) :
    p.chestGo op id cw fails = (p.setRb .chestCmdStatus 0 0 0 true).withSpare (chestDoes op id cw fails) :=
  if_neg (by rw [show (!p.rb .chestStatus 0 0 0 || p.chestBusy) = false from h]; exact Bool.false_ne_true)

section
variable {p : Part} {v : Reg} {op : Nat} (cw : List CwRead) (fails : List Nat)

theorem chestCmd_plain (h1 : 1 ≤ op) (h4 : op ≤ 4) : Safety.Plain p ⟨.chestCmd, 0, 0⟩ (forceOp .full v 0 3 op).toNat :=
  have value := Safety.bits_forceOp v (lo := 0) (w := 3) (by decide) (Nat.lt_of_le_of_lt h4 (by decide) : op < 2 ^ 3)
  Safety.plain_of_field (lo := 0) (w := 3) (least := 1) (most := 4) rfl rfl (value.symm ▸ h1) (value.symm ▸ h4)

/-- The part once CHEST_CMD holds a command. -/
def chestAsked (p : Part) (v : Reg) (op : Nat) : Part :=
  p.putImage ⟨.chestCmd, 0, 0⟩ (Safety.imageOf p ⟨.chestCmd, 0, 0⟩ (forceOp .full v 0 3 op).toNat)

theorem chestAsked_op (p : Part) (v : Reg) (h4 : op ≤ 4) : (p.chestAsked v op).rf .chestCmd 0 0 0 3 = op :=
  (Safety.rf_putImage_rw p ⟨.chestCmd, 0, 0⟩ _ 0 3 rfl).trans (Safety.bits_forceOp v (by decide) (Nat.lt_of_le_of_lt h4 (by decide)))

theorem chestAsked_id (p : Part) (v : Reg) (op : Nat) : (p.chestAsked v op).rf .chestCmd 0 0 8 32 = bits v.toNat 8 32 :=
  (Safety.rf_putImage_rw p ⟨.chestCmd, 0, 0⟩ _ 8 32 rfl).trans (Safety.bits_forceOp_other v (by decide) (by decide) (by decide))

/-- A GO that the Chest takes (R316). -/
theorem setChestCmd_goes (h1 : 1 ≤ op) (h4 : op ≤ 4) (h : p.chestRefuses = false) :
    p.setChestCmd ⟨⟨.chestCmd, 0, 0⟩, 2 ^ 64 - 1, (forceOp .full v 0 3 op).toNat, 0, cw, fails⟩ =
      ((p.chestAsked v op).setRb .chestCmdStatus 0 0 0 true).withSpare (chestDoes op (bits v.toNat 8 32) cw fails) := by
  have given : op ≠ 0 := by omega
  have idle : (p.chestAsked v op).chestRefuses = false := (chestRefuses_putImage ..).trans h
  rw [setChestCmd, show (!p.rb .chestStatus 0 0 0 || p.chestBusy) = false from h,
    Safety.setGo_taken _ (Safety.forceOp_go ..) (chestCmd_plain h1 h4) rfl]
  change (if (p.chestAsked v op).rf .chestCmd 0 0 0 3 = 0 then p.chestAsked v op else
    (p.chestAsked v op).chestGo ((p.chestAsked v op).rf .chestCmd 0 0 0 3) ((p.chestAsked v op).rf .chestCmd 0 0 8 32) cw fails) = _
  rw [chestAsked_op p v h4, if_neg given, chestAsked_id, chestGo_goes _ _ _ _ idle]

/-- A GO before READY or while a command runs (R314, R316). -/
theorem setChestCmd_refused (h : p.chestRefuses = true) :
    p.setChestCmd ⟨⟨.chestCmd, 0, 0⟩, 2 ^ 64 - 1, (forceOp .full v 0 3 op).toNat, 0, cw, fails⟩ = p.badAccess := by
  rw [setChestCmd, show (!p.rb .chestStatus 0 0 0 || p.chestBusy) = true from h]
  exact Safety.setGo_refused _ ((Safety.one_full _ _ 63 (by decide) ..).trans (Safety.forceOp_go ..))

end

/-! ### Commands end -/

theorem chestLoad_absent {p : Part} {id : Nat} (cw : List CwRead) (h : Tab.find id p.chest.drawers = none) :
    p.chestLoad id cw = p.setCmd { op := 1, id := id, result := 1 } := by
  simp only [chestLoad, h]

theorem chestLoad_unaligned {p : Part} {id : Nat} {d : Drawer} (cw : List CwRead) (h : Tab.find id p.chest.drawers = some d)
    (ha : p.rv .chestArg0 0 0 % 64 ≠ 0) : p.chestLoad id cw = p.setCmd { op := 1, id := id, result := 5 } := by
  have bad : p.chAddrOk (p.rv .chestArg0 0 0) (Dw.size d.img) = false := by
    simp only [chAddrOk, beq_false_of_ne ha, Bool.false_and]
  simp only [chestLoad, h, bad, Bool.not_false, if_true]

/-- What the end of a command leaves before its result shows. -/
def cmdOver (p : Part) : Part := { p with chest := { p.chest with cmd := none } }

section
variable {p : Part} {c : ChCmd} (hc : p.chest.cmd = some c)
include hc

theorem chestCmdDone_fails (hr : c.result ≠ 0) :
    p.chestCmdDone = p.cmdOver.setReg .chestCmdStatus 0 0 (2 + c.result * 2 ^ 8 + c.count * 2 ^ 32) := by
  simp only [chestCmdDone, hc, ne_eq, hr, not_false_eq_true, decide_true, Bool.true_or, if_true, and_false, if_false]
  rfl

theorem chestCmdDone_deletes (hr : c.result = 0) (ho : c.op = 3) (hm : c.commit = none) (hd : c.data = []) :
    p.chestCmdDone = (p.cmdOver.withSpare fun p =>
      ({ p with chest := { p.chest with drawers := Tab.del c.id p.chest.drawers } } : Part).reclaim.wearAll).setReg .chestCmdStatus 0 0
        (2 + c.result * 2 ^ 8 + c.count * 2 ^ 32) := by
  simp only [chestCmdDone, hc, hr, ne_eq, not_true_eq_false, decide_false, hd, List.isEmpty_nil, if_true, chestCommit, hm, ho]
  rfl

theorem chestCmdDone_loads (hr : c.result = 0) (ho : c.op = 1) (hm : c.commit = none) (hd : c.data ≠ [])
    (hu : ∀ e ∈ p.mem.cells, ¬(c.addr ≤ e.1 ∧ e.1 < c.addr + c.data.length)) :
    p.chestCmdDone = (c.chans.foldl (fun p ch => p.bumpCh ch 7 1) (p.cmdOver.withSpare fun p =>
      (p.hbmStore c.addr c.data false).wearAll)).setReg .chestCmdStatus 0 0 (2 + c.result * 2 ^ 8 + c.count * 2 ^ 32) := by
  have alone : (p.mem.cells.any fun e => decide (c.addr ≤ e.1) && decide (e.1 < c.addr + c.data.length)) = false :=
    List.any_eq_false.mpr fun e he h => hu e he (by simpa only [Bool.and_eq_true, decide_eq_true_eq] using h)
  have some : c.data.isEmpty = false := by rw [List.isEmpty_eq_false_iff]; exact hd
  simp only [chestCmdDone, hc, hr, alone, Bool.and_false, ne_eq, not_true_eq_false, decide_false, Bool.or_self, Bool.false_eq_true, if_false, some, chestCommit, hm,
    ho, and_self, if_true]
  rfl

end

end Sys2Proof.Machine.Part

namespace Sys2Proof.Safety
open Sys2Proof Sys2Proof.Machine

theorem exec_chestLoad (s : State) (port : Nat) (h : Half) (v : Reg) (cw : List CwRead) : exec (.chestLoad port h v cw) s =
    becomes s (s.part.writeAcc port (regOff .chestCmd 0 0) h (forceOp h v 0 3 1).toNat 0 cw []) := rfl

theorem exec_chestWrite (s : State) (port : Nat) (h : Half) (v : Reg) (fails : List Nat) : exec (.chestWrite port h v fails) s =
    becomes s (s.part.writeAcc port (regOff .chestCmd 0 0) h (forceOp h v 0 3 2).toNat 0 [] fails) := rfl

theorem exec_delete (s : State) (port : Nat) (h : Half) (v : Reg) : exec (.delete port h v) s =
    becomes s (s.part.writeAcc port (regOff .chestCmd 0 0) h (forceOp h v 0 3 3).toNat 0 [] []) := rfl

theorem exec_list (s : State) (port : Nat) (h : Half) (v : Reg) : exec (.list port h v) s =
    becomes s (s.part.writeAcc port (regOff .chestCmd 0 0) h (forceOp h v 0 3 4).toNat 0 [] []) := rfl

theorem exec_chestCmdDone (s : State) : exec .chestCmdDone s = becomes s s.part.chestCmdDone := rfl

/-- The four commands of the Chest are writes of CHEST_CMD with their OP; each takes the free outcomes that it uses. -/
theorem exec_chestCommand {s : State} {port op : Nat} {v : Reg} (hs : Served s.part port (regOff .chestCmd 0 0) ⟨.chestCmd, 0, 0⟩)
    (ho : op ∈ [1, 2, 3, 4]) (cw : List CwRead) (fails : List Nat) :
    ∃ cw' fails', (∀ id p, Part.chestDoes op id cw' fails' p = Part.chestDoes op id cw fails p) ∧
      exec (if op = 1 then .chestLoad port .full v cw else if op = 2 then .chestWrite port .full v fails
        else if op = 3 then .delete port .full v else .list port .full v) s =
      becomes s ((s.part.unstage port (regOff .chestCmd 0 0)).setChestCmd
        ⟨⟨.chestCmd, 0, 0⟩, 2 ^ 64 - 1, (forceOp .full v 0 3 op).toNat, 0, cw', fails'⟩) := by
  have reaches (op : Nat) (cw : List CwRead) (fails : List Nat) :
      s.part.writeAcc port (regOff .chestCmd 0 0) .full (forceOp .full v 0 3 op).toNat 0 cw fails =
        (s.part.unstage port (regOff .chestCmd 0 0)).setChestCmd
          ⟨⟨.chestCmd, 0, 0⟩, 2 ^ 64 - 1, (forceOp .full v 0 3 op).toNat, 0, cw, fails⟩ := writeAcc_paired hs rfl _ _ _
  simp only [List.mem_cons, List.not_mem_nil, or_false] at ho
  rcases ho with rfl | rfl | rfl | rfl
  · refine ⟨cw, [], fun _ _ => by simp only [Part.chestDoes_load], ?_⟩
    rw [if_pos rfl, exec_chestLoad, reaches]
  · refine ⟨[], fails, fun _ _ => by simp only [Part.chestDoes_write], ?_⟩
    rw [if_neg (by decide), if_pos rfl, exec_chestWrite, reaches]
  · refine ⟨[], [], fun _ _ => by simp only [Part.chestDoes_delete], ?_⟩
    rw [if_neg (by decide), if_neg (by decide), if_pos rfl, exec_delete, reaches]
  · refine ⟨[], [], fun _ _ => by simp only [Part.chestDoes_list], ?_⟩
    rw [if_neg (by decide), if_neg (by decide), if_neg (by decide), exec_list, reaches]

/-- Settles O21. That a refused GO refuses the whole write of CHEST_CMD is the model's choice (log entry 19). -/
theorem chestCommandsBegin : Obligations.ChestCommandsBegin := by
  intro s port v hs op ho cw fails x p id c
  obtain ⟨cw', fails', same, write⟩ := exec_chestCommand (v := v) hs ho cw fails
  obtain ⟨h1, h4⟩ : 1 ≤ op ∧ op ≤ 4 := by
    simp only [List.mem_cons, List.not_mem_nil, or_false] at ho
    omega
  have kept (lo w : Nat) : p.rf .chestCmd 0 0 lo w = ((s.part.unstage port (regOff .chestCmd 0 0)).chestAsked v op).rf .chestCmd 0 0 lo w :=
    Part.rf_setRf_other _ _ _ _ _ _ _ _ _ _ _ _ Part.chestCmd_apart.2.2
  refine ⟨fun hready hbusy => ⟨?op, ?id, ?goes⟩, fun h => ?refused⟩
  case op => rw [kept, Part.chestAsked_op _ _ h4]
  case id => rw [kept, Part.chestAsked_id]
  case goes =>
    have takes : (s.part.unstage port (regOff .chestCmd 0 0)).chestRefuses = false := by
      change (!s.part.rb .chestStatus 0 0 0 || s.part.chestBusy) = false
      rw [hready, hbusy]
      rfl
    refine write.trans (congrArg (becomes s) ((Part.setChestCmd_goes cw' fails' h1 h4 takes).trans ?_))
    rw [show Part.chestDoes op (bits v.toNat 8 32) cw' fails' = Part.chestDoes op (bits v.toNat 8 32) cw fails from funext (same _)]
    rfl
  case refused =>
    have refuses : (s.part.unstage port (regOff .chestCmd 0 0)).chestRefuses = true := by
      change (!s.part.rb .chestStatus 0 0 0 || s.part.chestBusy) = true
      rcases h with h | h <;> rw [h]
      · rfl
      · exact Bool.or_true _
    exact write.trans (congrArg (becomes s) (Part.setChestCmd_refused cw' fails' refuses))

/-- Settles O22. That NOT_FOUND comes before ADDR_BAD, that a LOAD is stored at its end and that every channel read counts one CNT_CHEST_LOADS is the
model's choice (log entry 50). -/
theorem chestCommandsEnd : Obligations.ChestCommandsEnd := by
  refine ⟨fun p id h => ⟨fun cw => Part.chestLoad_absent cw h, ?absent⟩, fun p id d h => ⟨fun cw ha => Part.chestLoad_unaligned cw h ha, ?present⟩,
    fun s c hc => ⟨fun hr => ?fails, fun hr ho hm hd => ?deletes, fun hr ho hm hd hu => ?loads⟩⟩
  case absent => rw [Part.chestDelete, h]; rfl
  case present => rw [Part.chestDelete, h]; rfl
  case fails => rw [exec_chestCmdDone, Part.chestCmdDone_fails hc hr]; rfl
  case deletes => rw [exec_chestCmdDone, Part.chestCmdDone_deletes hc hr ho hm hd]; rfl
  case loads => rw [exec_chestCmdDone, Part.chestCmdDone_loads hc hr ho hm hd hu]; rfl

end Sys2Proof.Safety
end
section
/-!
Channels of the Chest leave and return (13 R306, R312, R313, 17 R402, R403, 18 R413).
-/

namespace Sys2Proof.Machine.Part
open Sys2Proof

@[simp] theorem chan_setChan (p : Part) (ch : Nat) (x : Chan) : (p.setChan ch x).chan ch = x := Tab.getD_put_same ..

@[simp] theorem chan_setReg (p : Part) (r : RegName) (d i v ch : Nat) : (p.setReg r d i v).chan ch = p.chan ch := rfl

@[simp] theorem chan_setRf (p : Part) (r : RegName) (d i lo w v ch : Nat) : (p.setRf r d i lo w v).chan ch = p.chan ch := rfl

@[simp] theorem chan_setRb (p : Part) (r : RegName) (d i b ch : Nat) (v : Bool) : (p.setRb r d i b v).chan ch = p.chan ch := rfl

theorem setChan_setChan (p : Part) (ch : Nat) (x y : Chan) : (p.setChan ch x).setChan ch y = p.setChan ch y := by
  simp only [setChan, Tab.put_put]

/-- CHEST_CH_CTL and CHEST_CH_STATUS are two registers. -/
theorem chestChCtl_ne_status (d i : Nat) : regOff .chestChCtl d i ≠ regOff .chestChStatus d i := by
  simp only [regOff, instOff, regRow, winBase]
  omega

theorem channel_number (ch : Nat) : 4 * (ch / 4) + ch % 4 = ch := Nat.div_add_mod ch 4

theorem setChestCh_offline (p : Part) (ch : Nat) (cw : List CwRead) (fails : List Nat) :
    p.setChestCh ⟨⟨.chestChCtl, ch / 4, ch % 4⟩, 2 ^ 64 - 1, 0, 0, cw, fails⟩ = p.channelOffline ch := by
  have off : (0 : Nat).testBit 0 = false := by decide
  simp only [setChestCh, channel_number, Safety.one_full _ _ 0 (by decide : 0 < 64), Safety.zero_full _ _ 0 (by decide : 0 < 64), off,
    Bool.false_eq_true, if_false, Bool.not_false, if_true]

theorem setChestCh_online (p : Part) (ch : Nat) (cw : List CwRead) (fails : List Nat) :
    p.setChestCh ⟨⟨.chestChCtl, ch / 4, ch % 4⟩, 2 ^ 64 - 1, 1, 0, cw, fails⟩ = p.channelOnline ch := by
  have on : (1 : Nat).testBit 0 = true := by decide
  simp only [setChestCh, channel_number, Safety.one_full _ _ 0 (by decide : 0 < 64), on, if_true]

theorem channelOnline_trains {p : Part} {ch : Nat} (h : p.frameUp (ch / 4) = true) :
    p.channelOnline ch = p.setChan ch { p.chan ch with training := true, leaving := false } := if_pos h

theorem channelOfflineDone_leaves {p : Part} {ch : Nat} (h : (p.chan ch).leaving = true) :
    p.channelOfflineDone ch = (p.setChan ch { p.chan ch with leaving := false }).setRb .chestChCtl (ch / 4) (ch % 4) 0 false := if_pos h

/-- A channel that has failed is offline. -/
theorem chOnline_chanFatal (p : Part) (ch code : Nat) : (p.chanFatal ch code).chOnline ch = false := by
  have off : (p.chanFatal ch code).rb .chestChCtl (ch / 4) (ch % 4) 0 = false := rb_setRb_same _ _ _ _ _ (by decide)
  simp only [chOnline, off, Bool.and_false, Bool.false_and]

/-- Media work that changes nothing takes no channel below its reserve. -/
theorem withSpare_id (p : Part) : (p.withSpare fun q => q) = p := by
  have none : ((List.range 16).any fun ch => !p.spareLow ch && p.spareLow ch) = false := by
    simp only [Bool.not_and_self, List.any_eq_false]
    exact fun _ _ => Bool.false_ne_true
  simp only [withSpare, none, Bool.false_eq_true, if_false]

/-! ### Training ends (R306, R313) -/

section
variable {p : Part} {ch : Nat} (ht : (p.chan ch).training = true)
include ht

theorem channelRetrainDone_fails (info replaced : Nat) (marked : List Nat) (cw : List CwRead) :
    p.channelRetrainDone ch false info replaced marked cw = (p.setChan ch { p.chan ch with training := false }).chanFatal ch 0x0851 := by
  simp only [channelRetrainDone, ht, Bool.not_true, Bool.false_eq_true, if_false, chanTrained, Bool.not_false, if_true, chOnline_chanFatal]

end

/-- What training found on a channel. -/
def found (p : Part) (ch info : Nat) : Chan := chanGeometry { p.chan ch with training := false } info

/-- A channel whose training ended with the devices found, none of them with factory markers to take. -/
def chanFound (p : Part) (ch info : Nat) : Part :=
  let n := (p.found ch info).targets
  let p := (((p.setChan ch (p.found ch info)).setRb .chestChStatus (ch / 4) (ch % 4) 4 false).setRf .chestChStatus (ch / 4) (ch % 4) 0 4 n).setRb
    .chestChCtl (ch / 4) (ch % 4) 0 (n != 0)
  { p with chest := { p.chest with known := Tab.put ch (Tab.getD p.chest.known ch 0 ||| (2 ^ n - 1)) p.chest.known } }

section
variable (p : Part) (ch info : Nat)

/-- The registers of such a channel. -/
theorem rv_chanFound : (p.chanFound ch info).rv =
    ((((p.setChan ch (p.found ch info)).setRb .chestChStatus (ch / 4) (ch % 4) 4 false).setRf .chestChStatus (ch / 4) (ch % 4) 0 4
      (p.found ch info).targets).setRb .chestChCtl (ch / 4) (ch % 4) 0 ((p.found ch info).targets != 0)).rv := rfl

theorem chan_chanFound : (p.chanFound ch info).chan ch = p.found ch info := chan_setChan ..

/-- Setting a channel that training found to what it found changes nothing. -/
theorem setChan_chanFound : (p.chanFound ch info).setChan ch (p.found ch info) = p.chanFound ch info := by
  have again : Tab.put ch (p.found ch info) (p.chanFound ch info).chest.chans = (p.chanFound ch info).chest.chans := Tab.put_put ..
  rw [setChan, again]

theorem chanTrained_found : p.chanTrained ch true info [] = p.chanFound ch info := by
  simp only [chanTrained, Bool.not_true, Bool.false_eq_true, if_false, chan_setChan, setChan_setChan, chan_setRf, chan_setRb, firstUse, List.filter_nil,
    List.foldl_nil]
  rfl

theorem chestCh_targets_le : (p.found ch info).targets < 2 ^ 4 := Nat.lt_of_le_of_lt (Nat.min_le_right _ 8) (by decide)

theorem rf_chanFound_targets : (p.chanFound ch info).rf .chestChStatus (ch / 4) (ch % 4) 0 4 = (p.found ch info).targets := by
  rw [rf, rv_chanFound, ← rf, setRb, rf_setRf_other _ _ _ _ _ _ _ _ _ _ _ _ (chestChCtl_ne_status _ _).symm]
  exact rf_setRf_same _ _ _ _ _ _ _ (by decide) (chestCh_targets_le ..)

theorem rb_chanFound_failed : (p.chanFound ch info).rb .chestChStatus (ch / 4) (ch % 4) 4 = false := by
  rw [rb, rv_chanFound, ← rb, rb_setRb_other _ _ _ _ _ _ _ _ _ _ (chestChCtl_ne_status _ _).symm, rb_setRf_field _ _ _ _ _ (by decide) (by decide)]
  exact rb_setRb_same _ _ _ _ _ (by decide)

theorem rb_chanFound_online : (p.chanFound ch info).rb .chestChCtl (ch / 4) (ch % 4) 0 = decide (bits info 0 4 ≠ 0) := by
  have some : ((p.found ch info).targets != 0) = decide (bits info 0 4 ≠ 0) := by
    have targets : (p.found ch info).targets = min (bits info 0 4) 8 := rfl
    rw [targets, Bool.eq_iff_iff, bne_iff_ne, decide_eq_true_eq]
    omega
  rw [rb, rv_chanFound, ← rb, ← some]
  exact rb_setRb_same _ _ _ _ _ (by decide)

end

/-- Training without replaced targets or factory markers ends with the devices found, where no page's scrub waits for the channel. -/
theorem channelRetrainDone_trains {p : Part} {ch : Nat} (ht : (p.chan ch).training = true) (info : Nat) {replaced : Nat} (cw : List CwRead)
    (hd : (p.chan ch).overdue = []) (hr : replaced &&& Tab.getD p.chest.known ch 0 = 0) :
    p.channelRetrainDone ch true info replaced [] cw = p.chanFound ch info := by
  have none : bitsSet 8 0 = [] := rfl
  have idle : (p.found ch info).overdue = [] := hd
  have same : { p.found ch info with overdue := [] } = p.found ch info := by rw [← idle]
  simp only [channelRetrainDone, ht, Bool.not_true, Bool.false_eq_true, if_false, hr, none, List.foldl_nil, chanTrained_found, chan_chanFound,
    idle, same, setChan_chanFound, withSpare_id, ite_self]

/-- The scrub of a page of a Drawer falls due: on an online channel at once, else at the channel's return. -/
theorem retentionScrub_due {p : Part} {ch page : Nat} (cw : List CwRead) (hv : p.validPages.contains (ch * 2 ^ 35 + page) = true)
    (hr : p.rb .chestStatus 0 0 0 = true) :
    p.retentionScrub ch page cw = if p.chOnline ch = true then p.withSpare fun p => p.scrubPage (ch * 2 ^ 35 + page) cw
      else p.setChan ch { p.chan ch with overdue := insNat (ch * 2 ^ 35 + page) (p.chan ch).overdue } := by
  simp only [retentionScrub, hv, hr, Bool.not_true, Bool.or_self, Bool.false_eq_true, if_false]

end Sys2Proof.Machine.Part

namespace Sys2Proof.Safety
open Sys2Proof Sys2Proof.Machine

theorem exec_channelOffline (s : State) (port ch : Nat) : exec (.channelOffline port ch) s =
    becomes s (s.part.writeReg port (regOff .chestChCtl (ch / 4) (ch % 4)) .full 0) := rfl

theorem exec_channelOnline (s : State) (port ch : Nat) : exec (.channelOnline port ch) s =
    becomes s (s.part.writeReg port (regOff .chestChCtl (ch / 4) (ch % 4)) .full 1) := rfl

theorem exec_channelOfflineDone (s : State) (ch : Nat) : exec (.channelOfflineDone ch) s = becomes s (s.part.channelOfflineDone ch) := rfl

theorem exec_channelRetrainDone (s : State) (ch : Nat) (ok : Bool) (info replaced : Nat) (marked : List Nat) (cw : List CwRead) :
    exec (.channelRetrainDone ch ok info replaced marked cw) s = becomes s (s.part.channelRetrainDone ch ok info replaced marked cw) := rfl

theorem exec_retentionScrub (s : State) (ch page : Nat) (cw : List CwRead) :
    exec (.retentionScrub ch page cw) s = becomes s (s.part.retentionScrub ch page cw) := rfl

/-- Settles O23. That an online channel may train again, and that ONLINE is clear where training finds no device, is the model's choice (log entry
50). -/
theorem channelsLeaveAndReturn : Obligations.ChannelsLeaveAndReturn := by
  intro s port ch x
  refine ⟨fun hs => ⟨?offline, fun hu => ?online⟩, fun hl => ?left, fun ht info replaced marked cw => ?fails,
    fun ht hd info replaced cw hr => ?trained, fun page cw hv hr => ?scrub⟩
  case offline =>
    rw [exec_channelOffline, writeReg_single hs rfl]
    exact congrArg (becomes s) (Part.setChestCh_offline ..)
  case online =>
    rw [exec_channelOnline, writeReg_single hs rfl]
    exact congrArg (becomes s) ((Part.setChestCh_online ..).trans (Part.channelOnline_trains hu))
  case left => rw [exec_channelOfflineDone, Part.channelOfflineDone_leaves hl]
  case fails => rw [exec_channelRetrainDone, Part.channelRetrainDone_fails ht]
  case trained =>
    refine ⟨s.part.chanFound ch info, ?_, ?_, ?_, ?_, Part.rf_chanFound_targets .., Part.rb_chanFound_failed .., Part.rb_chanFound_online .., rfl⟩
    · rw [exec_channelRetrainDone, Part.channelRetrainDone_trains ht info cw hd hr]
    all_goals
      rw [Part.chan_chanFound]
      rfl
  case scrub => rw [exec_retentionScrub, Part.retentionScrub_due cw hv hr]

end Sys2Proof.Safety
end
section
/-!
What a fault record changes (18 R416, R418): the log with its register and counters, and the messages of the host interface.
-/

namespace Sys2Proof.Machine.Part
open Sys2Proof

/-- The part without what a fault record changes: registers, counters, the host interface and the log itself. -/
def unlogged (p : Part) : Part := { p with regs := [], ctrs := [], hif := {}, flog := {} }

section
variable (p : Part)

@[simp] theorem unlogged_bump (a n : Nat) : (p.bump a n).unlogged = p.unlogged := by
  unfold bump
  split <;> rfl

@[simp] theorem unlogged_bumpFn (fn ev : Nat) : (p.bumpFn fn ev).unlogged = p.unlogged := by
  simp only [bumpFn, apply_ite unlogged, unlogged_bump, ite_self]

@[simp] theorem unlogged_setRf (r : RegName) (d i lo w v : Nat) : (p.setRf r d i lo w v).unlogged = p.unlogged := rfl

@[simp] theorem unlogged_setRb (r : RegName) (d i b : Nat) (v : Bool) : (p.setRb r d i b v).unlogged = p.unlogged := rfl

@[simp] theorem unlogged_signal (fn v : Nat) : (p.signal fn v).unlogged = p.unlogged := by
  unfold signal sendMsi
  split_ifs
  · rfl
  · rfl
  · exact unlogged_bumpFn p fn 1

@[simp] theorem unlogged_faultIrq (code : Nat) : (p.faultIrq code).unlogged = p.unlogged := by
  have spaced (q : Part) : unlogged { q with flog := { q.flog with spacing := true } } = q.unlogged := rfl
  have owes : unlogged { p with flog := { p.flog with owed := true } } = p.unlogged := rfl
  simp only [faultIrq, apply_ite unlogged, spaced, owes, unlogged_signal, ite_self]

@[simp] theorem unlogged_logFault (f : FaultRec) : (p.logFault f).unlogged = p.unlogged := by
  have logged (q : Part) (l : FaultLog) : unlogged { q with flog := l } = q.unlogged := rfl
  simp only [logFault, apply_ite unlogged, unlogged_bump, unlogged_faultIrq, unlogged_setRf, logged, ite_self]

@[simp] theorem unlogged_recordFault (f : FaultRec) : (p.recordFault f).unlogged = p.unlogged := by
  simp only [recordFault, apply_ite unlogged, unlogged_logFault, unlogged_setRb, ite_self]

/-! ### Registers -/

@[simp] theorem signal_regs (fn v : Nat) : (p.signal fn v).regs = p.regs := by
  unfold signal sendMsi
  split_ifs
  · rfl
  · rfl
  · exact bumpFn_regs p fn 1

@[simp] theorem faultIrq_regs (code : Nat) : (p.faultIrq code).regs = p.regs := by
  simp only [faultIrq, apply_ite regs, signal_regs, ite_self]

theorem logFault_regs (f : FaultRec) :
    (p.logFault f).regs = p.regs ∨ (p.logFault f).regs = (p.setRf .faultStatus 0 0 16 16 f.code).regs := by
  simp only [logFault]
  split_ifs
  · exact Or.inl (bump_regs ..)
  · exact Or.inr (faultIrq_regs ..)

/-- A fault record changes no register but FAULT_STATUS. -/
theorem rv_recordFault (f : FaultRec) {r : RegName} {d i : Nat} (h : regOff r d i ≠ regOff .faultStatus 0 0) :
    (p.recordFault f).rv r d i = p.rv r d i := by
  have flag := rv_setRb_other p .faultStatus r 0 d 0 i (classRank f.code) true h
  simp only [recordFault]
  split
  · exact flag
  · rcases logFault_regs (p.setRb .faultStatus 0 0 (classRank f.code) true) f with e | e
    · rw [congrFun (congrFun (congrFun (rv_eq_of_regs e) r) d) i, flag]
    · rw [congrFun (congrFun (congrFun (rv_eq_of_regs e) r) d) i]
      exact (rv_setReg_other _ _ _ _ _ _ _ _ h).trans flag

end

/-- No register of the frame windows is one of the global window. -/
theorem frame_ne_glob {r q : RegName} {d i j : Nat} (hr : (regRow r).win = .frame) (hq : (regRow q).win = .glob) (hj : j < (regRow q).count) :
    regOff r d i ≠ regOff q 0 j := by
  have within := instOff_lt_winSize hj
  rw [hq] at within
  simp only [winSize] at within
  simp only [regOff, hr, hq, winBase]
  omega

end Sys2Proof.Machine.Part
end

section
/-!
Links as state (15 R343 to R355): what a link reads after it is set, and what a change of its state leaves.
-/

namespace Sys2Proof.Machine.Part
open Sys2Proof

@[simp] theorem link_setLink (p : Part) (l : Nat) (x : Link) : (p.setLink l x).link l = x := Tab.getD_put_same ..

theorem link_setLink_eq (p : Part) (l k : Nat) (x : Link) : (p.setLink l x).link k = if k = l then x else p.link k := Tab.getD_put ..

theorem link_eq_of_links {p q : Part} (h : q.links = p.links) (l : Nat) : q.link l = p.link l := by rw [link, h, ← link]

@[simp] theorem link_setRf (p : Part) (r : RegName) (d i lo w v l : Nat) : (p.setRf r d i lo w v).link l = p.link l := rfl

@[simp] theorem link_setRb (p : Part) (r : RegName) (d i b l : Nat) (v : Bool) : (p.setRb r d i b v).link l = p.link l := rfl

@[simp] theorem link_bumpLink (p : Part) (l ev n k : Nat) : (p.bumpLink l ev n).link k = p.link k := link_eq_of_links (bump_links ..) k

@[simp] theorem link_recordFault (p : Part) (f : FaultRec) (l : Nat) : (p.recordFault f).link l = p.link l :=
  link_eq_of_links (congrArg links (unlogged_recordFault p f)) l

@[simp] theorem linkSt_setLink (p : Part) (l k : Nat) (x : Link) : (p.setLink l x).linkSt k = p.linkSt k := rfl

/-- A link without the messages that wait at it. -/
def held (p : Part) (l : Nat) : Link := { p.link l with wait := [] }

theorem held_unsend (p : Part) (ls : List Nat) (k : Nat) : (p.unsend ls).held k = p.held k := by
  have moved (q : Part) (j : Nat) : (q.setLink j { q.link j with wait := (q.link j).wait.filter fun m => m.cls == 3 }).held k = q.held k := by
    simp only [held, link_setLink_eq]
    split
    · rename_i h; rw [h]
    · rfl
  exact foldl_leaves (fun q => q.held k) moved ls p

/-- A bundle's change leaves every link but for what waits at it. -/
theorem held_rebundle (p q : Part) (k : Nat) : (p.rebundle q).held k = p.held k := by
  refine foldl_leaves (fun r => r.held k) (fun r j => ?_) _ p
  dsimp only
  split
  · rfl
  · exact held_unsend ..

theorem unsend_regs (p : Part) (ls : List Nat) : (p.unsend ls).regs = p.regs :=
  foldl_leaves regs (fun _ _ => setLink_regs ..) ls p

theorem rebundle_regs (p q : Part) : (p.rebundle q).regs = p.regs := by
  refine foldl_leaves regs (fun r j => ?_) _ p
  dsimp only
  split
  · rfl
  · exact unsend_regs ..

theorem held_setLinkSt (p : Part) (l st k : Nat) : (p.setLinkSt l st).held k = p.held k := held_rebundle ..

/-- The registers after a change of a link's state. -/
theorem rv_setLinkSt (p : Part) (l st : Nat) : (p.setLinkSt l st).rv = (p.setRf .dtLinkStatus (l / 16) (l % 16) 0 3 st).rv :=
  rv_eq_of_regs (rebundle_regs ..)

theorem linkSt_setLinkSt (p : Part) (l : Nat) {st : Nat} (h : st < 8) : (p.setLinkSt l st).linkSt l = st := by
  rw [linkSt, rf, rv_setLinkSt, ← rf]
  exact rf_setRf_same _ _ _ _ _ _ _ (by decide) h

/-- DT_LINK_CTL and DT_LINK_STATUS are two registers. -/
theorem dtLinkStatus_ne_ctl (d i : Nat) : regOff .dtLinkStatus d i ≠ regOff .dtLinkCtl d i := by
  simp only [regOff, instOff, regRow, winBase]
  omega

theorem dtLinkStatus_ne_faultStatus (d i : Nat) : regOff .dtLinkStatus d i ≠ regOff .faultStatus 0 0 := frame_ne_glob rfl rfl (by decide)

/-! ### Retrains (15 R349) -/

section
variable (p : Part) (l : Nat)

theorem linkSt_startRetrain : (p.startRetrain l).linkSt l = 6 := by
  rw [linkSt, rf, startRetrain, rv_recordFault _ _ (dtLinkStatus_ne_faultStatus _ _), bumpLink, rv_bump, ← rf]
  exact linkSt_setLinkSt _ _ (by decide)

theorem held_startRetrain :
    (p.startRetrain l).held l = { p.held l with back := p.linkSt l, retrains := (p.link l).retrains + 1 } := by
  have same : (p.startRetrain l).held l =
      ((p.setLink l { p.link l with back := p.linkSt l, retrains := (p.link l).retrains + 1 }).setLinkSt l 6).held l := by
    simp only [held, startRetrain, link_recordFault, link_bumpLink]
  rw [same, held_setLinkSt, held, link_setLink]
  rfl

end

section
variable {p : Part} {l : Nat}

theorem retrain_starts (hr : p.linkRuns l = true) (h : (p.link l).resent.any (16 ≤ ·) = true) : p.retrain l = p.startRetrain l := by
  simp only [retrain, hr, h, Bool.and_self, if_true]

theorem retrainDone_ends (h : p.linkSt l = 6) (lanes : Nat) :
    p.retrainDone l lanes = if lanes = 0 ∨ 3 ≤ (p.link l).retrains then p.linkDown l else
      let q := ((p.setLinkSt l (p.link l).back).lanesUp l lanes).replayAll l
      ((q.setLink l { q.link l with resent := (q.link l).resent.map fun _ => 0 }).pump l).reroute :=
  if_neg (not_not.mpr h)

theorem trainDone_ends (he : p.linkEn l = true) (h : p.linkSt l = 1) (lanes : Nat) :
    p.trainDone l lanes = if lanes = 0 then (p.linkDown l).setLink l { (p.linkDown l).link l with dead := true } else
      let q := ((p.freshLink l).setLinkSt l 3).lanesUp l lanes
      (q.setLink l { q.link l with rx := [], peer := none, heard := false }).sendHello l := by
  have trains : (!(p.linkEn l && (p.linkSt l == 1 || p.linkSt l == 2 || (p.linkSt l == 7 && !(p.link l).dead)))) = false := by
    rw [he, h]; rfl
  rw [trainDone]
  dsimp only
  rw [if_neg (by rw [trains]; exact Bool.false_ne_true), h]
  rfl

/-- A link that has nothing to send and no peer is OFF once it drains. -/
theorem drainEnd_off (hd : (p.link l).drain = true) (hr : (p.link l).replay = []) (hp : (p.link l).peer = none) :
    p.drainEnd l = (p.linkOff l).reroute := by
  have none : lostWriters (p.link l) = [] := by rw [lostWriters, hr]; rfl
  simp only [drainEnd, hd, Bool.not_true, Bool.false_eq_true, if_false, none, List.foldl_nil, hp]

/-! ### Writes of DT_LINK_CTL (15 R349 to R351) -/

theorem link_number (l : Nat) : 16 * (l / 16) + l % 16 = l := Nat.div_add_mod l 16

/-- The part once DT_LINK_CTL holds a write. -/
def linkWritten (p : Part) (l v : Nat) : Part :=
  p.putImage ⟨.dtLinkCtl, l / 16, l % 16⟩ (Safety.imageOf p ⟨.dtLinkCtl, l / 16, l % 16⟩ v)

theorem linkEn_linkWritten (p : Part) (l v : Nat) : (p.linkWritten l v).linkEn l = v.testBit 0 :=
  Safety.rb_putImage_rw p ⟨.dtLinkCtl, l / 16, l % 16⟩ v 0 (show (regRow .dtLinkCtl).rw.testBit 0 = true by decide)

theorem linkSt_linkWritten (p : Part) (l v : Nat) : (p.linkWritten l v).linkSt l = p.linkSt l :=
  Safety.rf_putImage_other _ _ _ _ _ _ _ _ (dtLinkStatus_ne_ctl _ _)

theorem linkRuns_linkWritten (p : Part) (l v : Nat) : (p.linkWritten l v).linkRuns l = p.linkRuns l := by
  rw [linkRuns, linkSt_linkWritten, linkRuns]

theorem link_linkWritten (p : Part) (l v : Nat) : (p.linkWritten l v).link l = p.link l := by
  unfold linkWritten putImage
  split <;> rfl

/-- A whole write of DT_LINK_CTL stores EN, then does what a change of EN and RETRAIN ask for. -/
theorem setDtLink_full (p : Part) (l v : Nat) (cw : List CwRead) (fails : List Nat) :
    p.setDtLink ⟨⟨.dtLinkCtl, l / 16, l % 16⟩, 2 ^ 64 - 1, v, 0, cw, fails⟩ =
      let q := p.linkWritten l v
      let q := if !p.linkEn l && v.testBit 0 then q.linkEnable l else if p.linkEn l && !v.testBit 0 then q.linkDisable l else q
      if v.testBit 1 && q.linkRuns l then q.startRetrain l else q := by
  have plain : Safety.Plain p ⟨.dtLinkCtl, l / 16, l % 16⟩ v := rfl
  rw [setDtLink, Safety.store_clean (Safety.clean_whole plain ..), Safety.newImage_whole plain rfl]
  simp only [link_number, Safety.one_full _ _ 1 (by decide : 1 < 64)]
  rw [← linkEn_linkWritten p l v]
  rfl

end

end Sys2Proof.Machine.Part

namespace Sys2Proof.Safety
open Sys2Proof Sys2Proof.Machine

theorem exec_dtLinkEnable (s : State) (port l : Nat) :
    exec (.dtLinkEnable port l) s = settlesTo s (s.part.writeReg port (regOff .dtLinkCtl (l / 16) (l % 16)) .full 1) := rfl

theorem exec_dtLinkDisable (s : State) (port l : Nat) :
    exec (.dtLinkDisable port l) s = settlesTo s (s.part.writeReg port (regOff .dtLinkCtl (l / 16) (l % 16)) .full 0) := rfl

theorem exec_dtRetrainForce (s : State) (port l : Nat) : exec (.dtRetrainForce port l) s =
    settlesTo s (s.part.writeReg port (regOff .dtLinkCtl (l / 16) (l % 16)) .full (BitVec.ofNat 64 (b2n (s.part.linkEn l) + 2))) := rfl

theorem exec_dtRetrain (s : State) (l : Nat) : exec (.dtRetrain l) s = becomes s (s.part.retrain l) := rfl

theorem exec_dtRetrainDone (s : State) (l lanes : Nat) : exec (.dtRetrainDone l lanes) s = settlesTo s (s.part.retrainDone l lanes) := rfl

theorem exec_dtTrainDone (s : State) (l lanes : Nat) : exec (.dtTrainDone l lanes) s = settlesTo s (s.part.trainDone l lanes) := rfl

theorem exec_dtDisableDrainEnd (s : State) (l : Nat) : exec (.dtDisableDrainEnd l) s = settlesTo s (s.part.drainEnd l) := rfl

section
variable {p : Part} {port l : Nat} (hs : Served p port (regOff .dtLinkCtl (l / 16) (l % 16)) ⟨.dtLinkCtl, l / 16, l % 16⟩)
include hs

theorem writeReg_dtLinkCtl (v : Reg) : p.writeReg port (regOff .dtLinkCtl (l / 16) (l % 16)) .full v =
    p.setDtLink ⟨⟨.dtLinkCtl, l / 16, l % 16⟩, 2 ^ 64 - 1, v.toNat, 0, [], []⟩ := writeReg_single hs rfl v

/-- EN set on a link that is OFF or DOWN trains it. -/
theorem writeReg_dtLink_enables (he : p.linkEn l = false) (h : p.linkSt l = 0 ∨ p.linkSt l = 7) :
    p.writeReg port (regOff .dtLinkCtl (l / 16) (l % 16)) .full 1 = ((p.linkWritten l 1).setLink l {}).setLinkSt l 1 := by
  have en : Nat.testBit (BitVec.toNat (1 : Reg)) 0 = true := by decide
  have retrain : Nat.testBit (BitVec.toNat (1 : Reg)) 1 = false := by decide
  have idle : (p.linkWritten l 1).linkSt l = 0 ∨ (p.linkWritten l 1).linkSt l = 7 := by rw [Part.linkSt_linkWritten]; exact h
  rw [writeReg_dtLinkCtl hs, Part.setDtLink_full]
  simp only [he, en, retrain, Bool.not_false, Bool.and_self, if_true, Bool.false_and, Bool.false_eq_true, if_false]
  exact if_pos idle

/-- EN cleared drains a link that carries flits and turns any other OFF. -/
theorem writeReg_dtLink_disables (he : p.linkEn l = true) :
    p.writeReg port (regOff .dtLinkCtl (l / 16) (l % 16)) .full 0 =
      if p.linkRuns l = true ∨ p.linkSt l = 6 then (p.linkWritten l 0).setLink l { p.link l with drain := true }
      else (p.linkWritten l 0).linkOff l := by
  have none (b : Nat) : Nat.testBit (BitVec.toNat (0 : Reg)) b = false := Nat.zero_testBit b
  rw [writeReg_dtLinkCtl hs, Part.setDtLink_full]
  simp only [he, none, Bool.not_true, Bool.not_false, Bool.and_self, Bool.false_and, Bool.false_eq_true, if_true, if_false]
  change (p.linkWritten l 0).linkDisable l = _
  simp only [Part.linkDisable, Part.linkRuns_linkWritten, Part.linkSt_linkWritten, Part.link_linkWritten, Bool.or_eq_true, beq_iff_eq]

/-- RETRAIN of a running link. -/
theorem writeReg_dtLink_retrains (hr : p.linkRuns l = true) :
    p.writeReg port (regOff .dtLinkCtl (l / 16) (l % 16)) .full (BitVec.ofNat 64 (b2n (p.linkEn l) + 2)) =
      (p.linkWritten l (b2n (p.linkEn l) + 2)).startRetrain l := by
  have value : (BitVec.ofNat 64 (b2n (p.linkEn l) + 2)).toNat = b2n (p.linkEn l) + 2 := by cases p.linkEn l <;> rfl
  have en : (b2n (p.linkEn l) + 2).testBit 0 = p.linkEn l := by cases p.linkEn l <;> rfl
  have retrain : (b2n (p.linkEn l) + 2).testBit 1 = true := by cases p.linkEn l <;> rfl
  rw [writeReg_dtLinkCtl hs, Part.setDtLink_full, value]
  simp only [en, retrain, Bool.not_and_self, Bool.and_not_self, Bool.false_eq_true, if_false, Part.linkRuns_linkWritten, hr, Bool.and_self, if_true]

end

/-- Settles O33. That a link is DOWN at the end of the third retrain in a row without an accepted flit is the model's choice (log entry 59). -/
theorem linksTrainRetrainAndStop : Obligations.LinksTrainRetrainAndStop := by
  intro s port l
  refine ⟨fun hs => ⟨fun he h => ?enable, fun he => ?disable, fun hr => ?force⟩, fun hr h => ?retrain, fun h lanes => ?retrained,
    fun he h lanes => ?trained, fun hd _ hr hp => ?drained⟩
  case enable => rw [exec_dtLinkEnable, writeReg_dtLink_enables hs he h]; rfl
  case disable => rw [exec_dtLinkDisable, writeReg_dtLink_disables hs he]; rfl
  case force => rw [exec_dtRetrainForce, writeReg_dtLink_retrains hs hr]; rfl
  case retrain =>
    have held := Part.held_startRetrain s.part l
    exact ⟨_, (exec_dtRetrain s l).trans (congrArg (becomes s) (Part.retrain_starts hr h)), Part.linkSt_startRetrain .., congrArg Link.back held,
      congrArg Link.retrains held, (congrArg Link.replay held :)⟩
  case retrained => rw [exec_dtRetrainDone, Part.retrainDone_ends h]
  case trained => rw [exec_dtTrainDone, Part.trainDone_ends he h]
  case drained => rw [exec_dtDisableDrainEnd, Part.drainEnd_off hd hr hp]

end Sys2Proof.Safety
end
section
/-!
Flits that arrive on a link (15 R344, R347, R348): what an ACK, the credits and a DATA flit change of the link.
-/

namespace Sys2Proof.Machine.Link
open Sys2Proof

/-- A link once its peer's ACK covers every flit up to `ack`. -/
def acked (x : Link) (ack : Nat) : Link :=
  if x.replay.any (fun f => f.1 == ack) then
    let rest := (x.replay.dropWhile fun f => f.1 != ack).drop 1
    { x with replay := rest, resent := x.resent.drop (x.replay.length - rest.length), retrains := 0 }
  else x

/-- A link once a DATA flit that passed its checks has come. -/
def takes (x : Link) (f : Flit) : Link :=
  if f.seq = x.expect then
    (f.msgs.filter fun m => !DtMsg.known m).foldl frees
      { x with expect := (x.expect + 1) % 65536, nak := false, retrains := 0, rx := x.rx ++ f.msgs.filter DtMsg.known }
  else if 1 ≤ (x.expect + 65536 - f.seq) % 65536 ∧ (x.expect + 65536 - f.seq) % 65536 ≤ 4096 then x
  else { x with nak := true }

/-- Freed buffers change the credits that the peer has been given, and nothing else. -/
theorem foldl_frees (ms : List DtMsg) (x : Link) : ∃ g, ms.foldl frees x = { x with given := g } := by
  induction ms generalizing x with
  | nil => exact ⟨x.given, rfl⟩
  | cons m ms ih => exact ih (x.frees m)

theorem acked_replay (x : Link) (ack : Nat) : (x.acked ack).replay =
    if x.replay.any (fun f => f.1 == ack) = true then (x.replay.dropWhile fun f => f.1 != ack).drop 1 else x.replay := by
  unfold acked
  split <;> rfl

/-- An ACK changes what waits for it only. -/
theorem acked_keeps (x : Link) (ack : Nat) :
    (x.acked ack).credits = x.credits ∧ (x.acked ack).expect = x.expect ∧ (x.acked ack).rx = x.rx := by
  unfold acked
  split <;> exact ⟨rfl, rfl, rfl⟩

theorem takes_keeps (x : Link) (f : Flit) : (x.takes f).credits = x.credits ∧ (x.takes f).replay = x.replay := by
  unfold takes
  split
  case isTrue =>
    obtain ⟨g, freed⟩ := foldl_frees (f.msgs.filter fun m => !DtMsg.known m)
      { x with expect := (x.expect + 1) % 65536, nak := false, retrains := 0, rx := x.rx ++ f.msgs.filter DtMsg.known }
    rw [freed]
    exact ⟨rfl, rfl⟩
  case isFalse => split <;> exact ⟨rfl, rfl⟩

/-- A DATA flit in its order. -/
theorem takes_inOrder {x : Link} {f : Flit} (h : f.seq = x.expect) :
    (x.takes f).expect = (x.expect + 1) % 65536 ∧ (x.takes f).rx = x.rx ++ f.msgs.filter DtMsg.known ∧ (x.takes f).nak = false := by
  obtain ⟨g, freed⟩ := foldl_frees (f.msgs.filter fun m => !DtMsg.known m)
    { x with expect := (x.expect + 1) % 65536, nak := false, retrains := 0, rx := x.rx ++ f.msgs.filter DtMsg.known }
  rw [takes, if_pos h, freed]
  exact ⟨rfl, rfl, rfl⟩

theorem takes_outOfOrder {x : Link} {f : Flit} (h : f.seq ≠ x.expect) : (x.takes f).expect = x.expect ∧ (x.takes f).rx = x.rx := by
  rw [takes, if_neg h]
  split <;> exact ⟨rfl, rfl⟩

end Sys2Proof.Machine.Link

namespace Sys2Proof.Machine.Part
open Sys2Proof

section
variable (p : Part) (l : Nat) (f : Flit)

theorem link_ackFlits (ack : Nat) : (p.ackFlits l ack).link l = (p.link l).acked ack := by
  simp only [ackFlits, Link.acked]
  split
  · exact link_setLink ..
  · rfl

theorem link_dataFlit : (p.dataFlit l f).link l = (p.link l).takes f := by
  simp only [dataFlit, Link.takes]
  split_ifs
  · rw [link_bumpLink, link_bumpLink, link_setLink]
  · exact link_bumpLink ..
  · exact link_setLink ..

/-- The part once a flit has been checked and counted. -/
def flitSeen : Part := ((p.bumpLink l 2 f.fecCorr).bumpLink l 3 f.fecUe).bumpLink l 4 (b2n (!f.crcOk))

/-- The part once a flit's ACK and credits act. -/
def flitAcked : Part :=
  let q := (p.flitSeen l f).ackFlits l f.ack
  q.setLink l { q.link l with credits := modAt (q.link l).credits f.crClass (· + f.crCount) }

/-- The part once a good flit has been taken, before what waits is sent. -/
def flitTaken : Part := if f.kind = 1 then (p.flitAcked l f).dataFlit l f else p.flitAcked l f

theorem link_flitSeen (k : Nat) : (p.flitSeen l f).link k = p.link k := by
  simp only [flitSeen, link_bumpLink]

theorem link_flitAcked : (p.flitAcked l f).link l =
    { (p.link l).acked f.ack with credits := modAt (p.link l).credits f.crClass (· + f.crCount) } := by
  simp only [flitAcked, link_setLink, link_ackFlits, link_flitSeen, (Link.acked_keeps ..).1]

theorem link_flitTaken : (p.flitTaken l f).link l =
    if f.kind = 1 then ((p.flitAcked l f).link l).takes f else (p.flitAcked l f).link l := by
  rw [flitTaken, apply_ite (link · l), link_dataFlit]

variable {p l f} (hr : p.linkRuns l = true)
include hr

theorem flitReceive_running : p.flitReceive l f =
    if f.fecUe ≠ 0 ∨ (!f.crcOk) = true ∨ 2 ≤ f.kind then (p.flitSeen l f).setLink l { (p.flitSeen l f).link l with nak := true }
    else
      let q := (p.flitSeen l f).ackFlits l f.ack
      let q := if f.nak then q.replayAll l else q
      let q := q.setLink l { q.link l with credits := modAt (q.link l).credits f.crClass (· + f.crCount) }
      (((if f.kind = 1 then q.dataFlit l f else q).pump l).reroute).ackNow :=
  if_neg (by rw [show [3, 4, 5].contains (p.linkSt l) = true from hr]; decide)

/-- A flit that fails its checks is answered with NAK (R348). -/
theorem flitReceive_bad (h : f.fecUe ≠ 0 ∨ f.crcOk = false) :
    p.flitReceive l f = (p.flitSeen l f).setLink l { p.link l with nak := true } := by
  have bad : f.fecUe ≠ 0 ∨ (!f.crcOk) = true ∨ 2 ≤ f.kind := h.imp_right fun crc => .inl (by rw [crc]; rfl)
  rw [flitReceive_running hr, if_pos bad, link_flitSeen]

/-- A good flit is taken, then what waits is sent. -/
theorem flitReceive_good (he : f.fecUe = 0) (hc : f.crcOk = true) (hn : f.nak = false) (hk : f.kind ≤ 1) :
    p.flitReceive l f = (((p.flitTaken l f).pump l).reroute).ackNow := by
  have good : ¬(f.fecUe ≠ 0 ∨ (!f.crcOk) = true ∨ 2 ≤ f.kind) := by
    rw [hc]
    rintro (h | h | h)
    · exact h he
    · exact Bool.false_ne_true h
    · omega
  rw [flitReceive_running hr, if_neg good, hn]
  rfl

end

/-- An UP link without a message that waits or is unacknowledged narrows (R353). -/
theorem narrow_idle {p : Part} {l : Nat} (hs : p.linkSt l = 4) (ht : p.rf .dtCtl (l / 16) 0 0 16 ≠ 0) (hw : p.linkWidth l ≠ 1)
    (hq : (p.link l).wait = []) (hr : (p.link l).replay = []) : p.narrow l = (p.setLinkWidth l 1).bumpLink l 10 1 :=
  if_pos ⟨hs, ht, hw, by rw [hq]; rfl, by rw [hr]; rfl⟩

theorem widenDone_widens {p : Part} {l : Nat} (h : (p.link l).widening = true) :
    p.widenDone l = (p.setLinkWidth l (p.link l).full).setLink l { p.link l with widening := false } := if_pos h

theorem helloTimer_runs {p : Part} {l : Nat} (h : p.linkRuns l = true) : p.helloTimer l = p.sendHello l := if_pos h

end Sys2Proof.Machine.Part

namespace Sys2Proof.Safety
open Sys2Proof Sys2Proof.Machine

theorem exec_dtFlitReceive (s : State) (l : Nat) (f : Flit) : exec (.dtFlitReceive l f) s = settlesTo s (s.part.flitReceive l f) := rfl

theorem exec_dtHelloTimer (s : State) (l : Nat) : exec (.dtHelloTimer l) s = becomes s (s.part.helloTimer l) := rfl

theorem exec_dtNarrow (s : State) (l : Nat) : exec (.dtNarrow l) s = becomes s (s.part.narrow l) := rfl

theorem exec_dtWidenDone (s : State) (l : Nat) : exec (.dtWidenDone l) s = becomes s (s.part.widenDone l) := rfl

/-- Settles O34. The timer of HELLO is R352, narrowing and widening are R353, and R359 says what a HELLO carries. -/
theorem flitsAreTakenInOrder : Obligations.FlitsAreTakenInOrder := by
  intro s l hr
  have acked := Part.link_flitAcked s.part l
  refine ⟨fun f => ⟨fun h => ?bad, fun he hc hn hk => ⟨s.part.flitTaken l f, ?good, ?credits, ?replay, fun h1 hq => ?inOrder, fun h => ?other⟩⟩,
    ?hello, fun hs ht hw hq hp => ?narrow, fun h => ?widen⟩
  case bad => rw [exec_dtFlitReceive, Part.flitReceive_bad hr h]; rfl
  case good => rw [exec_dtFlitReceive, Part.flitReceive_good hr he hc hn hk]
  case credits =>
    rw [Part.link_flitTaken, acked]
    split
    · exact (Link.takes_keeps ..).1
    · rfl
  case replay =>
    rw [← Link.acked_replay, Part.link_flitTaken, acked]
    split
    · exact (Link.takes_keeps ..).2
    · rfl
  case inOrder =>
    obtain ⟨_, expect, rx⟩ := Link.acked_keeps (s.part.link l) f.ack
    rw [Part.link_flitTaken, if_pos h1, acked, ← expect, ← rx]
    exact Link.takes_inOrder (hq.trans expect.symm)
  case other =>
    obtain ⟨_, expect, rx⟩ := Link.acked_keeps (s.part.link l) f.ack
    rw [Part.link_flitTaken, acked, ← expect, ← rx]
    split
    case isTrue h1 =>
      have order : f.seq ≠ (s.part.link l).expect := h.resolve_left (by rw [h1]; decide)
      exact Link.takes_outOfOrder (expect.symm ▸ order)
    case isFalse => exact ⟨rfl, rfl⟩
  case hello => rw [exec_dtHelloTimer, Part.helloTimer_runs hr]
  case narrow => rw [exec_dtNarrow, Part.narrow_idle hs ht hw hq hp]
  case widen => rw [exec_dtWidenDone, Part.widenDone_widens h]

end Sys2Proof.Safety
end
section
/-!
Messages of the join (15 R352, R359 to R363): a message taken from its link, and what each operation makes of the part.
-/

namespace Sys2Proof.Machine.Part
open Sys2Proof

/-! ### A message is taken -/

/-- The part once message `m` has left the buffer of link `l`, in which `rest` is left. -/
def took (p : Part) (l : Nat) (m : DtMsg) (rest : List DtMsg) : Part := p.setLink l (Link.frees { p.link l with rx := rest } m)

section
variable {p : Part} {l : Nat} {m : DtMsg} {rest : List DtMsg}

/-- The message at the front of a link's buffer is the first of its operation. -/
theorem takeMsg_head {cls op : Nat} (hx : (p.link l).rx = m :: rest) (hc : m.cls = cls) (ho : m.op = op)
    (hf : ¬(p.joinSt = 2 ∧ p.epoch < m.epoch)) (f : Part → DtMsg → Part) : p.takeMsg l cls op f = f (p.took l m rest) m := by
  have first : (m :: rest).find? (fun x => x.cls == cls && x.op == op) = some m :=
    List.find?_cons_of_pos (by simp only [hc, ho, beq_self_eq_true, Bool.and_self])
  simp only [takeMsg, hx, first, List.erase_cons_head]
  exact congrArg (fun q => f q m) (if_neg hf)

/-- A message taken changes neither the peer of a link nor whether it is heard. -/
theorem link_took (k : Nat) : ((p.took l m rest).link k).peer = (p.link k).peer ∧ ((p.took l m rest).link k).heard = (p.link k).heard := by
  rw [took, link_setLink_eq]
  split
  case isTrue h => rw [h]; exact ⟨rfl, rfl⟩
  case isFalse => exact ⟨rfl, rfl⟩

theorem elect_took : (p.took l m rest).elect = p.elect := by
  have peers : (p.took l m rest).peers = p.peers := by
    simp only [Part.peers, link_took]
    rfl
  have dup : (p.took l m rest).dupHere = p.dupHere := by
    simp only [dupHere, link_took]
    rfl
  have agree : (p.took l m rest).agrees = p.agrees := by
    funext h
    simp only [agrees, dup]
    rfl
  simp only [elect, agreeing, peers, agree]
  rfl

theorem isMaster_took : (p.took l m rest).isMaster = p.isMaster := by
  rw [isMaster, elect_took, isMaster]
  rfl

end

/-! ### What waits and what is sent leaves the registers -/

section
variable (p : Part)

theorem bumpLink_regs (l ev n : Nat) : (p.bumpLink l ev n).regs = p.regs := bump_regs ..

theorem pump_regs (l : Nat) : (p.pump l).regs = p.regs := by
  have sent (a : Part × List Nat) (m : DtMsg) : ((if !a.2.contains m.cls && a.1.canSend l m then
      ((a.1.setLink l { a.1.link l with wait := (a.1.link l).wait.erase m }).putFlits l m, a.2) else (a.1, m.cls :: a.2)) :
      Part × List Nat).1.regs = a.1.regs := by
    split
    · exact bumpLink_regs ..
    · rfl
  exact List.foldlRecOn (motive := fun a : Part × List Nat => a.1.regs = p.regs) _ _ rfl fun a h m _ => (sent a m).trans h

theorem sendOn_regs (l : Nat) (m : DtMsg) : (p.sendOn l m).regs = p.regs := pump_regs ..

theorem route_regs (m : DtMsg) : (p.route m).regs = p.regs := by
  simp only [route]
  split
  · split
    · exact sendOn_regs ..
    · rfl
  · rfl

theorem reroute_regs : p.reroute.regs = p.regs := foldl_leaves regs (fun _ _ => route_regs ..) _ _

end

/-! ### HELLO (15 R352, R359) -/

section
variable (p : Part) (l : Nat) (h : Hello)

/-- The part once a HELLO's sender is the peer of its link. -/
def meets : Part :=
  (((p.setLink l { p.link l with peer := some h, heard := true }).setRf .dtLinkStatus (l / 16) (l % 16) 8 5 h.member).setRf
    .dtLinkStatus (l / 16) (l % 16) 16 6 h.link).setRf .dtLinkStatus (l / 16) (l % 16) 32 8 h.fwMajor

/-- The part with bit `b` of JOIN_STATUS set unless `c` holds. -/
def flagUnless (b : Nat) (c : Prop) [Decidable c] : Part := if c then p else p.setRb .joinStatus 0 0 b true

/-- The part once a HELLO has been compared with the part's own identity. -/
def judges : Part :=
  let p := p.flagUnless 9 (h.digest = p.digest)
  let p := p.flagUnless 10 (h.fwMajor = p.fwMajor)
  if p.dupHere then p.setRb .joinStatus 0 0 11 true else p

/-- The part once a link in HELLO has entered UP or MGMT_ONLY. -/
def enters : Part :=
  if p.linkSt l = 3 then if h.fwMajor = p.fwMajor then (p.freshLink l).setLinkSt l 4 else p.setLinkSt l 5 else p

/-- The part once a HELLO has acted, before what waits is sent. -/
def greets : Part := ((p.meets l h).judges h).enters l h

variable (b : Nat) (c : Prop) [Decidable c]

theorem link_flagUnless (k : Nat) : (p.flagUnless b c).link k = p.link k := by
  unfold flagUnless
  split <;> rfl

theorem rv_flagUnless {r : RegName} {d i : Nat} (hr : regOff r d i ≠ regOff .joinStatus 0 0) : (p.flagUnless b c).rv r d i = p.rv r d i := by
  unfold flagUnless
  split
  · rfl
  · exact rv_setRb_other _ _ _ _ _ _ _ _ _ hr

theorem rf_flagUnless {lo w : Nat} (hb : b < 64) (hd : lo + w ≤ b) : (p.flagUnless b c).rf .joinStatus 0 0 lo w = p.rf .joinStatus 0 0 lo w := by
  unfold flagUnless
  split
  · rfl
  · exact rf_setRf_field _ _ _ _ _ _ _ _ _ (by omega) (by omega)

theorem rb_flagUnless {a : Nat} (hb : b < 64) (ha : a < b) : (p.flagUnless b c).rb .joinStatus 0 0 a = p.rb .joinStatus 0 0 a := by
  rw [rb_eq_rf, rf_flagUnless _ _ _ hb ha, ← rb_eq_rf]

theorem rb_flagUnless_not (hb : b < 64) (hc : ¬c) : (p.flagUnless b c).rb .joinStatus 0 0 b = true := by
  rw [flagUnless, if_neg hc]
  exact rb_setRb_same _ _ _ _ _ hb

end

section
variable (p : Part) (l : Nat) (h : Hello)

theorem judges_flags : p.judges h =
    let q := p.flagUnless 9 (h.digest = p.digest)
    let q := q.flagUnless 10 (h.fwMajor = q.fwMajor)
    q.flagUnless 11 ¬q.dupHere = true := (ite_not ..).symm

theorem link_judges (k : Nat) : (p.judges h).link k = p.link k := by
  simp only [judges_flags, link_flagUnless]

/-- A comparison sets flags of JOIN_STATUS only. -/
theorem rv_judges {r : RegName} {d i : Nat} (hr : regOff r d i ≠ regOff .joinStatus 0 0) : (p.judges h).rv r d i = p.rv r d i := by
  simp only [judges_flags, rv_flagUnless _ _ _ hr]

theorem joinSt_judges : (p.judges h).joinSt = p.joinSt := by
  rw [joinSt, judges_flags, rf_flagUnless _ _ _ (by decide) (by decide), rf_flagUnless _ _ _ (by decide) (by decide),
    rf_flagUnless _ _ _ (by decide) (by decide), ← joinSt]

theorem fwMajor_eq_of_rv {p q : Part} (e : q.rv .pkgIdent 0 0 = p.rv .pkgIdent 0 0) : q.fwMajor = p.fwMajor := by
  rw [fwMajor, rf, e, ← rf, ← fwMajor]

theorem fwMajor_flagUnless (b : Nat) (c : Prop) [Decidable c] : (p.flagUnless b c).fwMajor = p.fwMajor :=
  fwMajor_eq_of_rv (rv_flagUnless _ _ _ (by decide))

theorem fwMajor_judges : (p.judges h).fwMajor = p.fwMajor := fwMajor_eq_of_rv (rv_judges _ _ (by decide))

theorem judges_differs (hd : h.fwMajor ≠ p.fwMajor) : (p.judges h).rb .joinStatus 0 0 10 = true := by
  rw [judges_flags, rb_flagUnless _ _ _ (by decide) (by decide)]
  have differs : h.fwMajor ≠ (p.flagUnless 9 (h.digest = p.digest)).fwMajor := by rw [fwMajor_flagUnless]; exact hd
  exact rb_flagUnless_not _ _ _ (by decide) differs

/-! The link's own fields -/

theorem dtLinkStatus_ne_joinStatus (d i : Nat) : regOff .dtLinkStatus d i ≠ regOff .joinStatus 0 0 := frame_ne_glob rfl rfl (by decide)

theorem dtLinkStatus_ne_pkgIdent (d i : Nat) : regOff .pkgIdent 0 0 ≠ regOff .dtLinkStatus d i := (frame_ne_glob rfl rfl (by decide)).symm

theorem rf_meets_member (hm : h.member < 32) : (p.meets l h).rf .dtLinkStatus (l / 16) (l % 16) 8 5 = h.member := by
  rw [meets, rf_setRf_field _ _ _ _ _ _ _ _ _ (by decide) (by decide), rf_setRf_field _ _ _ _ _ _ _ _ _ (by decide) (by decide)]
  exact rf_setRf_same _ _ _ _ _ _ _ (by decide) hm

theorem rf_meets_link (hl : h.link < 64) : (p.meets l h).rf .dtLinkStatus (l / 16) (l % 16) 16 6 = h.link := by
  rw [meets, rf_setRf_field _ _ _ _ _ _ _ _ _ (by decide) (by decide)]
  exact rf_setRf_same _ _ _ _ _ _ _ (by decide) hl

theorem rf_meets_fwMajor (hf : h.fwMajor < 256) : (p.meets l h).rf .dtLinkStatus (l / 16) (l % 16) 32 8 = h.fwMajor :=
  rf_setRf_same _ _ _ _ _ _ _ (by decide) hf

theorem linkSt_meets : (p.meets l h).linkSt l = p.linkSt l := by
  have field (q : Part) (lo w v : Nat) (hd : 3 ≤ lo) (hw : lo + w ≤ 64) :
      (q.setRf .dtLinkStatus (l / 16) (l % 16) lo w v).linkSt l = q.linkSt l := rf_setRf_field _ _ _ _ _ _ _ _ _ hw (.inl hd)
  rw [meets, field _ _ _ _ (by decide) (by decide), field _ _ _ _ (by decide) (by decide), field _ _ _ _ (by decide) (by decide)]
  rfl

/-- A HELLO's peer changes no register but the link's status. -/
theorem rv_meets {r : RegName} {d i : Nat} (hr : regOff r d i ≠ regOff .dtLinkStatus (l / 16) (l % 16)) : (p.meets l h).rv r d i = p.rv r d i := by
  simp only [meets, setRf, rv_setReg_other _ _ _ _ _ _ _ _ hr]
  rfl

theorem link_meets : (p.meets l h).link l = { p.link l with peer := some h, heard := true } := link_setLink ..

variable {p l h}

theorem enters_hello (hs : p.linkSt l = 3) :
    p.enters l h = if h.fwMajor = p.fwMajor then (p.freshLink l).setLinkSt l 4 else p.setLinkSt l 5 := if_pos hs

/-- The registers of a link that enters UP or MGMT_ONLY. -/
theorem rv_enters (hs : p.linkSt l = 3) : (p.enters l h).rv =
    (p.setRf .dtLinkStatus (l / 16) (l % 16) 0 3 (if h.fwMajor = p.fwMajor then 4 else 5)).rv := by
  rw [enters_hello hs]
  split
  · exact (rv_setLinkSt ..).trans rfl
  · exact rv_setLinkSt ..

theorem link_enters (hs : p.linkSt l = 3) :
    ((p.enters l h).link l).peer = (p.link l).peer ∧ ((p.enters l h).link l).heard = (p.link l).heard := by
  have held : ((p.enters l h).held l).peer = (p.link l).peer ∧ ((p.enters l h).held l).heard = (p.link l).heard := by
    rw [enters_hello hs]
    split
    · rw [held_setLinkSt, held, freshLink, link_setLink]
      exact ⟨rfl, rfl⟩
    · rw [held_setLinkSt]
      exact ⟨rfl, rfl⟩
  exact held

theorem linkSt_judged : ((p.meets l h).judges h).linkSt l = p.linkSt l := by
  rw [linkSt, rf, rv_judges _ _ (dtLinkStatus_ne_joinStatus _ _), ← rf]
  exact linkSt_meets ..

theorem fwMajor_judged : ((p.meets l h).judges h).fwMajor = p.fwMajor :=
  (fwMajor_judges ..).trans (fwMajor_eq_of_rv (rv_meets _ _ _ (dtLinkStatus_ne_pkgIdent _ _)))

/-- The registers of JOIN_STATUS and of the links after a HELLO on a link in HELLO. -/
theorem rf_greets (hs : p.linkSt l = 3) {lo w : Nat} (hd : 3 ≤ lo) :
    (p.greets l h).rf .dtLinkStatus (l / 16) (l % 16) lo w = (p.meets l h).rf .dtLinkStatus (l / 16) (l % 16) lo w := by
  rw [greets, rf, rv_enters (linkSt_judged.trans hs), ← rf, rf_setRf_field _ _ _ _ _ _ _ _ _ (by decide) (.inr hd), rf,
    rv_judges _ _ (dtLinkStatus_ne_joinStatus _ _), ← rf]

theorem linkSt_greets (hs : p.linkSt l = 3) : (p.greets l h).linkSt l = if h.fwMajor = p.fwMajor then 4 else 5 := by
  rw [linkSt, greets, rf, rv_enters (linkSt_judged.trans hs), ← rf, fwMajor_judged]
  exact rf_setRf_same _ _ _ _ _ _ _ (by decide) (by split <;> decide)

theorem rv_greets_joinStatus (hs : p.linkSt l = 3) : (p.greets l h).rv .joinStatus 0 0 = ((p.meets l h).judges h).rv .joinStatus 0 0 := by
  rw [greets, rv_enters (linkSt_judged.trans hs)]
  exact rv_setReg_other _ _ _ _ _ _ _ _ (dtLinkStatus_ne_joinStatus _ _).symm

theorem joinSt_greets (hs : p.linkSt l = 3) : (p.greets l h).joinSt = p.joinSt := by
  rw [joinSt, rf, rv_greets_joinStatus hs, ← rf, ← joinSt, joinSt_judges, joinSt, rf, rv_meets _ _ _ (dtLinkStatus_ne_joinStatus _ _).symm, ← rf,
    ← joinSt]

theorem greets_differs (hs : p.linkSt l = 3) (hd : h.fwMajor ≠ p.fwMajor) : (p.greets l h).rb .joinStatus 0 0 10 = true := by
  rw [rb, rv_greets_joinStatus hs, ← rb]
  exact judges_differs _ _ ((fwMajor_eq_of_rv (rv_meets _ _ _ (dtLinkStatus_ne_pkgIdent _ _))).symm ▸ hd)

theorem link_greets (hs : p.linkSt l = 3) : ((p.greets l h).link l).peer = some h ∧ ((p.greets l h).link l).heard = true := by
  have entered := link_enters (h := h) (linkSt_judged (h := h) |>.trans hs)
  rw [link_judges, link_meets] at entered
  exact entered

end

/-! ### Each operation -/

section
variable {p : Part} {l : Nat} {m : DtMsg} {rest : List DtMsg} (hx : (p.link l).rx = m :: rest)
  (hf : ¬(p.joinSt = 2 ∧ p.epoch < m.epoch)) (hc : m.cls = 3)
include hx hf hc

/-- A HELLO while the package is SOLO. -/
theorem msgHello_solo {h : Hello} (ho : m.op = 0) (hm : m.mgmt = .hello h) (hs : p.linkSt l = 3) (hj : p.joinSt = 0) :
    p.msgHello l = (((p.took l m rest).greets l h).pump l).reroute := by
  have solo : ((((p.took l m rest).greets l h).pump l).reroute).joinSt = 0 := by
    rw [joinSt, rf, rv_eq_of_regs (reroute_regs _), rv_eq_of_regs (pump_regs _ _), ← rf, ← joinSt]
    exact (joinSt_greets (p := p.took l m rest) hs).trans hj
  rw [msgHello, takeMsg_head hx hc ho hf, hm]
  exact if_pos solo

theorem msgPrepare_answers {e mask : Nat} (ho : m.op = 1) (hm : m.mgmt = .mask e mask) (hj : p.joinSt ≠ 0) (hs : m.src = (p.took l m rest).elect)
    (hn : m.src ≠ p.member) (he : p.epoch < e) : p.msgPrepare l = ((({ p.took l m rest with join :=
      { (p.took l m rest).join with answer := some (e, mask, m.src), acked := false } } : Part).setJoinSt 1).electNow).ackNow := by
  rw [msgPrepare, takeMsg_head hx hc ho hf, hm]
  exact if_pos ⟨hj, hs, hn, he⟩

theorem msgAck_counts {e mask mask' : Nat} (ho : m.op = 2) (hm : m.mgmt = .mask e mask) (hp : p.join.prep = some (e, mask')) :
    p.msgAck l =
      let q : Part := { p.took l m rest with join := { (p.took l m rest).join with acks := (p.took l m rest).join.acks ||| 2 ^ m.src } }
      if q.allAcked = true then q.commitNow else q := by
  have asked : (p.took l m rest).join.prep = some (e, mask') := hp
  rw [msgAck, takeMsg_head hx hc ho hf, hm, asked]
  exact if_pos rfl

theorem msgCommit_adopts {e mask : Nat} (ho : m.op = 3) (hm : m.mgmt = .mask e mask) (hj : p.joinSt = 1 ∨ p.joinSt = 3)
    (hn : mask.testBit p.member = true) (he : p.epoch < e) : p.msgCommit l = (p.took l m rest).adopt e mask := by
  rw [msgCommit, takeMsg_head hx hc ho hf, hm]
  exact if_pos ⟨hj, hn, he⟩

theorem msgNotice_acts {code : Nat} (ho : m.op = 6) (hm : m.mgmt = .notice code) : p.msgNotice l =
    if code = noticeFence then (p.took l m rest).fenceSelf else if code = noticeLeave then (p.took l m rest).memberLost m.src
    else (p.took l m rest).ctxFault m.ctx ⟨0x0402, .none, 0, none, remoteAddr m.src m⟩ := by
  rw [msgNotice, takeMsg_head hx hc ho hf, hm]

theorem msgTimeReq_answers {t1 t2 t3 : Nat} (ho : m.op = 4) (hm : m.mgmt = .time t1 t2 t3) : p.msgTimeReq l =
    (p.took l m rest).sendOn (((p.took l m rest).mgmtLink m.src).getD l)
      { (p.took l m rest).header 3 5 m.src with mgmt := .time t1 p.time p.time } := by
  rw [msgTimeReq, takeMsg_head hx hc ho hf, hm]
  rfl

/-- A TIME_RESP of the request that waits, at a member that is not the master (R363). -/
theorem msgTimeResp_measures {t1 t2 t3 : Nat} (ho : m.op = 5) (hm : m.mgmt = .time t1 t2 t3) (ht : p.join.t1 = some t1) (hs : p.isMaster = false) :
    p.msgTimeResp l =
      let o := timeOffset t1 t2 t3 p.time
      let q : Part := { (p.took l m rest).setRf .joinOffset 0 0 0 32 (unsigned 32 o) with join := { (p.took l m rest).join with t1 := none } }
      if o.natAbs ≤ 1000 then { q.setRb .joinStatus 0 0 8 true with join := { q.join with half := false, slew := o } }
      else
        let late := (q.setRb .joinStatus 0 0 8 false).bump (pkgCtr 0 1 2) 1
        if 0 < o then { late with time := (late.time + o.toNat) % 2 ^ 64, join := { late.join with half := false, slew := 0 } }
        else { late with join := { late.join with half := true, slew := o } } := by
  have asked : (p.took l m rest).join.t1 = some t1 := ht
  have other : ¬(t1 ≠ t1 ∨ (p.took l m rest).isMaster = true) := by
    simp only [isMaster_took, hs, ne_eq, not_true_eq_false, Bool.false_eq_true, or_self, not_false_eq_true]
  rw [msgTimeResp, takeMsg_head hx hc ho hf, hm, asked]
  exact if_neg other

end

/-- A member asks its master for the time. -/
theorem timeTimer_asks {p : Part} (hj : p.joinSt ≠ 0) (he : p.elect ≠ p.member) :
    p.timeTimer = ({ p with join := { p.join with t1 := some p.time } } : Part).sendMgmt p.elect 4 0 (.time p.time 0 0) := if_pos ⟨hj, he⟩

end Sys2Proof.Machine.Part

namespace Sys2Proof.Safety
open Sys2Proof Sys2Proof.Machine

theorem exec_hello (s : State) (l : Nat) : exec (.hello l) s = settlesTo s (s.part.msgHello l) := rfl

theorem exec_prepare (s : State) (l : Nat) : exec (.prepare l) s = becomes s (s.part.msgPrepare l) := rfl

theorem exec_ack (s : State) (l : Nat) : exec (.ack l) s = settlesTo s (s.part.msgAck l) := rfl

theorem exec_commit (s : State) (l : Nat) : exec (.commit l) s = settlesTo s (s.part.msgCommit l) := rfl

theorem exec_notice (s : State) (l : Nat) : exec (.notice l) s = settlesTo s (s.part.msgNotice l) := rfl

theorem exec_timeReq (s : State) (l : Nat) : exec (.timeReq l) s = becomes s (s.part.msgTimeReq l) := rfl

theorem exec_timeResp (s : State) (l : Nat) : exec (.timeResp l) s = becomes s (s.part.msgTimeResp l) := rfl

theorem exec_timeMeasureTimer (s : State) : exec .timeMeasureTimer s = becomes s s.part.timeTimer := rfl

/-- Settles O36. That a PREPARE is taken in every state but SOLO is the model's choice (log entry 60). -/
theorem joinMessagesAct : Obligations.JoinMessagesAct := by
  intro s l m rest hx hf hc p
  refine ⟨fun h ho hm hs hj hmember hlink hfw => ⟨p.greets l h, ?hello, ?greeted⟩, fun e mask hm => ⟨fun ho hj hsrc hn he => ?prepare,
    fun ho mask' hp => ?ack, fun ho hj hn he => ?commit⟩, fun code ho hm => ⟨fun hfence hj => ?fence, fun hleave => ?leave, fun hn hl => ?access⟩⟩
  case hello => rw [exec_hello, Part.msgHello_solo hx hf hc ho hm hs hj]; rfl
  case greeted =>
    have inHello : p.linkSt l = 3 := hs
    have fields {lo w : Nat} (hd : 3 ≤ lo) := Part.rf_greets (h := h) (w := w) inHello hd
    obtain ⟨peer, heard⟩ := Part.link_greets (h := h) inHello
    exact ⟨peer, heard, Part.linkSt_greets inHello, (fields (by decide)).trans (Part.rf_meets_member p l h hmember),
      (fields (by decide)).trans (Part.rf_meets_link p l h hlink), (fields (by decide)).trans (Part.rf_meets_fwMajor p l h hfw),
      fun hd => Part.greets_differs inHello hd⟩
  case prepare => rw [exec_prepare, Part.msgPrepare_answers hx hf hc ho hm hj hsrc hn he]; rfl
  case ack => rw [exec_ack, Part.msgAck_counts hx hf hc ho hm hp]; rfl
  case commit => rw [exec_commit, Part.msgCommit_adopts hx hf hc ho hm hj hn he]; rfl
  case fence =>
    have fences : p.fenceSelf = p.setJoinSt 3 := if_pos hj
    rw [exec_notice, Part.msgNotice_acts hx hf hc ho hm, if_pos hfence, ← fences]
    rfl
  case leave =>
    have other : code ≠ noticeFence := by rw [hleave]; decide
    rw [exec_notice, Part.msgNotice_acts hx hf hc ho hm, if_neg other, if_pos hleave]
    rfl
  case access => rw [exec_notice, Part.msgNotice_acts hx hf hc ho hm, if_neg hn, if_neg hl]; rfl

/-- Settles O37. R363 steps device time forward and R382 says that it only advances at its rate: the step is the model's choice between the two
(log entry 60). -/
theorem joinTimeIsMeasured : Obligations.JoinTimeIsMeasured := by
  intro s l m rest t1 t2 t3 hx hf hc hm p o q late
  refine ⟨fun ho => ?request, fun ho ht hs => ⟨fun hsmall => ?near, fun hlarge => ?forward, fun hback => ?half⟩, fun hj he => ?timer⟩
  case request => rw [exec_timeReq, Part.msgTimeReq_answers hx hf hc ho hm]; rfl
  case near =>
    rw [exec_timeResp, Part.msgTimeResp_measures hx hf hc ho hm ht hs]
    exact congrArg (becomes s) (if_pos hsmall)
  case forward =>
    have far : ¬o.natAbs ≤ 1000 := by omega
    have ahead : 0 < o := by omega
    have time : late.time = s.part.time := Part.bump_time ..
    have join : late.join = q.join := Part.bump_join ..
    rw [exec_timeResp, Part.msgTimeResp_measures hx hf hc ho hm ht hs, ← time, ← join]
    exact congrArg (becomes s) ((if_neg far).trans (if_pos ahead))
  case half =>
    have far : ¬o.natAbs ≤ 1000 := by omega
    have behind : ¬0 < o := by omega
    have join : late.join = q.join := Part.bump_join ..
    rw [exec_timeResp, Part.msgTimeResp_measures hx hf hc ho hm ht hs, ← join]
    exact congrArg (becomes s) ((if_neg far).trans (if_neg behind))
  case timer => rw [exec_timeMeasureTimer, Part.timeTimer_asks hj he]

end Sys2Proof.Safety
end
section
/-!
The join begins and ends (15 R359, R360, Tables 15-7 and 15-8).
-/

namespace Sys2Proof.Machine.Part
open Sys2Proof

/-- Whether an enabled Cabinet names a remote member. -/
def namesRemote (p : Part) : Bool := (List.range 32).any fun b => p.cabEn b && p.rf .cabRemote 0 b 0 32 != 0

section
variable {p : Part} {v : Reg} {cw : List CwRead} {fails : List Nat}

/-- A whole write of JOIN_CTL that sets EN starts the join. -/
theorem setJoin_starts (h : p.rb .joinCtl 0 0 63 = false) :
    p.setJoin ⟨⟨.joinCtl, 0, 0⟩, 2 ^ 64 - 1, (forceBit .full v 63 true).toNat, 0, cw, fails⟩ =
      (p.putImage ⟨.joinCtl, 0, 0⟩ (Safety.imageOf p ⟨.joinCtl, 0, 0⟩ (forceBit .full v 63 true).toNat)).joinStart := by
  have plain : Safety.Plain p ⟨.joinCtl, 0, 0⟩ (forceBit .full v 63 true).toNat := rfl
  have en : (p.putImage ⟨.joinCtl, 0, 0⟩ (Safety.imageOf p ⟨.joinCtl, 0, 0⟩ (forceBit .full v 63 true).toNat)).rb .joinCtl 0 0 63 = true :=
    (Safety.rb_putImage_rw p ⟨.joinCtl, 0, 0⟩ _ 63 (show (regRow .joinCtl).rw.testBit 63 = true by decide)).trans (Safety.force_bit _ _ _ (by decide))
  rw [setJoin, h, if_neg Bool.false_ne_true, Safety.store_clean (Safety.clean_whole plain ..), Safety.newImage_whole plain rfl]
  exact if_pos en

/-- A whole write of JOIN_CTL that clears EN ends the join, unless an enabled Cabinet names a remote member. -/
theorem setJoin_stops (h : p.rb .joinCtl 0 0 63 = true) :
    p.setJoin ⟨⟨.joinCtl, 0, 0⟩, 2 ^ 64 - 1, (forceBit .full v 63 false).toNat, 0, cw, fails⟩ =
      if p.namesRemote = true then p.badAccess else p.joinStop.setRb .joinCtl 0 0 63 false := by
  have zero : (⟨⟨.joinCtl, 0, 0⟩, 2 ^ 64 - 1, (forceBit .full v 63 false).toNat, 0, cw, fails⟩ : Acc).zero 63 = true :=
    (Safety.zero_full _ _ 63 (by decide) ..).trans (by rw [Safety.force_bit _ _ _ (by decide)]; rfl)
  rw [setJoin, h, if_pos rfl, zero]
  rfl

end

theorem quietExpire_prepares {p : Part} (hj : p.joinSt = 1) (hm : p.isMaster = true) (hp : p.join.prep = none) :
    p.quietExpire = p.electNow.prepareNow := if_pos ⟨hj, hm, hp⟩

theorem commitNow_adopts {p : Part} {e mask : Nat} (h : p.join.prep = some (e, mask)) :
    p.commitNow =
      let got := (p.join.acks &&& mask) ||| 2 ^ p.member
      ((bitsSet 32 got).foldl (fun q j => if j = q.member then q else q.sendMgmt j 3 0 (.mask e got)) p).adopt e got := by
  simp only [commitNow, h]

theorem commitTimeout_elects {p : Part} (hj : p.joinSt = 1) (ha : p.join.acked = true) :
    p.commitTimeout = ({ p with join := { p.join with answer := none, acked := false } } : Part).electNow := if_pos ⟨hj, ha⟩

theorem helloLoss_loses {p : Part} (hj : p.joinSt ≠ 0) (j : Nat) : p.helloLoss j = p.memberLost j := if_neg hj

end Sys2Proof.Machine.Part

namespace Sys2Proof.Safety
open Sys2Proof Sys2Proof.Machine

theorem exec_joinEnable (s : State) (port : Nat) (v : Reg) : exec (.joinEnable port .full v) s =
    becomes s (s.part.writeReg port (regOff .joinCtl 0 0) .full (forceBit .full v 63 true)) := rfl

theorem exec_joinDisable (s : State) (port : Nat) (v : Reg) : exec (.joinDisable port .full v) s =
    becomes s (s.part.writeReg port (regOff .joinCtl 0 0) .full (forceBit .full v 63 false)) := rfl

theorem exec_joinQuietExpire (s : State) : exec .joinQuietExpire s = settlesTo s s.part.quietExpire := rfl

theorem exec_joinAckTimeout (s : State) : exec .joinAckTimeout s = settlesTo s s.part.commitNow := rfl

theorem exec_joinCommitTimeout (s : State) : exec .joinCommitTimeout s = becomes s s.part.commitTimeout := rfl

theorem exec_joinHelloLoss (s : State) (j : Nat) : exec (.joinHelloLoss j) s = settlesTo s (s.part.helloLoss j) := rfl

/-- Settles O38. That clearing EN changes no other field of JOIN_CTL is the model's choice (log entry 60). -/
theorem joinsBeginAndEnd : Obligations.JoinsBeginAndEnd := by
  intro s port v
  refine ⟨fun hs => ?ctl, fun hj hm hp => ?quiet, fun e mask hp => ?timeout, fun hj ha => ?acked, fun hj j => ?lost⟩
  case ctl =>
    intro u p
    refine ⟨fun h => ?_, fun h => ?_⟩
    · have off : u.rb .joinCtl 0 0 63 = false := h
      rw [exec_joinEnable, writeReg_paired hs rfl]
      exact congrArg (becomes s) (Part.setJoin_starts off)
    · have on : u.rb .joinCtl 0 0 63 = true := h
      rw [exec_joinDisable, writeReg_paired hs rfl]
      exact congrArg (becomes s) (Part.setJoin_stops on)
  case quiet => rw [exec_joinQuietExpire, Part.quietExpire_prepares hj hm hp]
  case timeout => rw [exec_joinAckTimeout, Part.commitNow_adopts hp]
  case acked => rw [exec_joinCommitTimeout, Part.commitTimeout_elects hj ha]
  case lost => rw [exec_joinHelloLoss, Part.helloLoss_loses hj]

end Sys2Proof.Safety
end
section
/-!
Write-1-to-clear registers (18 R419).
-/

namespace Sys2Proof.Machine.Part
open Sys2Proof

/-- The status registers: no field of them is RW or has reserved encodings, and their write triggers nothing. -/
def statusRegs : List RegName :=
  [.thermStatus, .svcDieStatus, .fwSlotStatus, .hallmarkStatus, .joinStatus, .faultStatus, .gangFeedStatus, .benchStatus, .stackStatus,
    .chestStatus, .chestCmdStatus, .aesPortStatus, .aesRefStatus, .cupboardStatus, .dtLinkStatus]

theorem paired_of_status : ∀ n ∈ statusRegs, paired n = false := by decide

theorem rw_of_status : ∀ n ∈ statusRegs, (regRow n).rw = 0 := by decide

theorem fieldRanges_of_status : ∀ n ∈ statusRegs, fieldRanges n = [] := by decide

theorem applyWrite_status (p : Part) (a : Acc) (h : a.r.name ∈ statusRegs) : p.applyWrite a = p.store a fun p => p := by
  obtain ⟨⟨n, d, i⟩, m, v, ev, cw, fails⟩ := a
  simp only [statusRegs, List.mem_cons, List.not_mem_nil, or_false] at h
  rcases h with rfl | rfl | rfl | rfl | rfl | rfl | rfl | rfl | rfl | rfl | rfl | rfl | rfl | rfl | rfl
  all_goals rfl

/-- A write of a status register clears the W1C bits written 1 but for those whose event comes. -/
theorem store_status (p : Part) {a : Acc} (h : a.r.name ∈ statusRegs) : (p.store a fun p => p) =
    p.putImage a.r ((p.old a.r - (p.old a.r &&& (a.mask &&& a.val &&& (regRow a.r.name).w1c))) ||| (a.ev &&& (regRow a.r.name).w1c)) := by
  have clean : p.carriesReserved a = false := by rw [carriesReserved, fieldRanges_of_status _ h]; rfl
  have raw : p.raw a = p.old a.r := by simp only [Part.raw, rw_of_status _ h, Nat.and_zero, Nat.sub_zero, Nat.add_zero]
  rw [Safety.store_clean clean, Safety.newImage_clean clean, raw]

end Sys2Proof.Machine.Part

namespace Sys2Proof.Safety
open Sys2Proof Sys2Proof.Machine

theorem exec_w1cClear (s : State) (port off : Nat) (h : Half) (v ev : Reg) :
    exec (.w1cClear port off h v ev) s = settlesTo s (s.part.writeAcc port off h v.toNat ev.toNat [] []) := rfl

/-- Settles O5: a status register has no RW field and no reserved encoding, so its new image is what the W1C mask makes of the old one. -/
theorem writeOneClearsUnlessItsEventComes : Obligations.WriteOneClearsUnlessItsEventComes := by
  intro s port off h v ev r hs hr
  have reaches : s.part.writeAcc port off h v.toNat ev.toNat [] [] = s.part.applyWrite ⟨r, halfMask h, halfData h v.toNat, ev.toNat, [], []⟩ := by
    simp only [Part.writeAcc, hs.link, hs.free, Bool.not_true, Bool.false_eq_true, if_false]
    exact writeNow_single hs (Part.paired_of_status _ hr) ..
  rw [exec_w1cClear, reaches, Part.applyWrite_status _ _ hr, Part.store_status _ hr]
  rfl

end Sys2Proof.Safety
end

section
/-!
The Hallmark area (17 R406, R407).
-/

namespace Sys2Proof.Machine.Part
open Sys2Proof

theorem leBytes_take (n m x : Nat) : (leBytes (n + m) x).take n = leBytes n x := by
  induction n generalizing x with
  | zero => rfl
  | succ n ih => rw [Nat.add_right_comm, leBytes, List.take_succ_cons, ih, leBytes]

theorem leBytes_drop (n m x : Nat) : (leBytes (n + m) x).drop n = leBytes m (x / 256 ^ n) := by
  induction n generalizing x with
  | zero => rw [Nat.zero_add, Nat.pow_zero, Nat.div_one]; rfl
  | succ n ih => rw [Nat.add_right_comm, leBytes, List.drop_succ_cons, ih, Nat.div_div_eq_div_mul, Nat.pow_succ']

theorem leBytes_mod (n x : Nat) : leBytes n (x % 256 ^ n) = leBytes n x := by
  induction n generalizing x with
  | zero => rfl
  | succ n ih =>
    have low : BitVec.ofNat 8 (x % 256 ^ (n + 1)) = BitVec.ofNat 8 x := by
      apply BitVec.eq_of_toNat_eq
      rw [BitVec.toNat_ofNat, BitVec.toNat_ofNat]
      exact Nat.mod_mod_of_dvd _ (Dvd.intro_left (256 ^ n) rfl)
    have high : x % 256 ^ (n + 1) / 256 = x / 256 % 256 ^ n := by rw [Nat.pow_succ', Nat.mod_mul_right_div_self]
    rw [leBytes, leBytes, low, high, ih]

theorem leBytes_mod32 (x : Nat) : leBytes 4 (x % 2 ^ 32) = leBytes 4 x := leBytes_mod 4 x

/-- Where the bytes of a write of register `i` of the window stand, and what they are. -/
def shadowBytes (i : Nat) (h : Half) (v : Nat) : Nat × List Byte :=
  match h with
  | .full => (8 * i, leBytes 8 v)
  | .lo => (8 * i, leBytes 4 v)
  | .hi => (8 * i + 4, leBytes 4 v)

theorem setShadow_writes (p : Part) (i : Nat) (h : Half) (v : Reg) :
    p.setShadow ⟨⟨.hallmarkShadow, 0, i⟩, halfMask h, halfData h v.toNat, 0, [], []⟩ =
      p.markWrite (shadowBytes i h v.toNat).1 (shadowBytes i h v.toNat).2 := by
  have low (x : Nat) : (leBytes 8 x).take 4 = leBytes 4 x := leBytes_take 4 4 x
  have high (x : Nat) : (leBytes 8 (x * 2 ^ 32)).drop 4 = leBytes 4 x :=
    (leBytes_drop 4 4 _).trans (congrArg (leBytes 4) (Nat.mul_div_cancel x (by decide : 0 < 2 ^ 32)))
  cases h with
  | full =>
    have neither : bits (halfMask .full) 0 32 ≠ 0 ∧ bits (halfMask .full) 32 32 ≠ 0 := by decide
    simp only [setShadow, if_neg neither.1, if_neg neither.2, shadowBytes, halfData, Safety.full_mod]
  | lo =>
    have lower : bits (halfMask .lo) 0 32 ≠ 0 ∧ bits (halfMask .lo) 32 32 = 0 := by decide
    simp only [setShadow, if_neg lower.1, if_pos lower.2, shadowBytes, halfData, low, leBytes_mod32]
  | hi =>
    have upper : bits (halfMask .hi) 0 32 = 0 := by decide
    simp only [setShadow, if_pos upper, shadowBytes, halfData, high, leBytes_mod32]

/-- A write of the window reaches the shadow unless LOCK is set or its page is being committed. -/
theorem markWrite_eq (p : Part) (o : Nat) (bs : List Byte) : p.markWrite o bs =
    if p.mark.lock = true ∨ p.mark.busy = some (o / 256) then p.badAccess
    else { p with mark := { p.mark with shadow := Cells.write p.mark.shadow o bs } } := by
  simp only [markWrite, Bool.or_eq_true, beq_iff_eq]

theorem shadowBytes_page (i : Nat) (h : Half) (v : Nat) : (shadowBytes i h v).1 / 256 = i / 32 := by
  cases h <;> simp only [shadowBytes] <;> omega

section
variable {p : Part} {x : Nat}

/-- A write of HALLMARK_CTL whose PAGE can be taken stores it, then commits and locks as it asks. -/
theorem setHallmark_plain (hp : Safety.Plain p ⟨.hallmarkCtl, 0, 0⟩ x) :
    p.setHallmark ⟨⟨.hallmarkCtl, 0, 0⟩, 2 ^ 64 - 1, x, 0, [], []⟩ =
      let q := p.putImage ⟨.hallmarkCtl, 0, 0⟩ (Safety.imageOf p ⟨.hallmarkCtl, 0, 0⟩ x)
      let q := if x.testBit 8 then q.markCommit else q
      if x.testBit 16 then q.markLock else q := by
  rw [setHallmark, Safety.store_clean (Safety.clean_whole hp ..), Safety.newImage_whole hp rfl]
  simp only [Safety.one_full _ _ 8 (by decide : 8 < 64), Safety.one_full _ _ 16 (by decide : 16 < 64)]

theorem putImage_mark (r : RegId) (v : Nat) : (p.putImage r v).mark = p.mark := by
  unfold putImage
  split <;> rfl

theorem markCommit_starts (hl : p.mark.lock = false) (hb : p.mark.busy = none) :
    p.markCommit = { p.setRb .hallmarkStatus 0 0 0 true with mark := { p.mark with busy := some (p.rf .hallmarkCtl 0 0 0 5) } } := by
  simp only [markCommit, hl, hb, Option.isSome_none, Bool.or_self, Bool.false_eq_true, if_false]
  rfl

/-- A write that carries PAGE as it stands leaves HALLMARK_CTL. -/
theorem imageOf_samePage (p : Part) {x : Nat} (h : x % 2 ^ 5 = p.rf .hallmarkCtl 0 0 0 5) :
    Safety.imageOf p ⟨.hallmarkCtl, 0, 0⟩ x = p.old ⟨.hallmarkCtl, 0, 0⟩ := by
  have page : (regRow .hallmarkCtl).rw = 2 ^ 5 - 1 := rfl
  have stored : p.rf .hallmarkCtl 0 0 0 5 = p.old ⟨.hallmarkCtl, 0, 0⟩ % 2 ^ 5 := by rw [rf, bits_eq, Nat.pow_zero, Nat.div_one]; rfl
  rw [Safety.imageOf, page, Nat.and_two_pow_sub_one_eq_mod, Nat.and_two_pow_sub_one_eq_mod, h, stored]
  exact Nat.sub_add_cancel (Nat.mod_le ..)

end

theorem markDone_stores {p : Part} {g : Nat} (h : p.mark.busy = some g) : p.markDone =
    let n := Tab.getD p.mark.wear g 0 + 1
    let nv := Cells.write p.mark.nv (256 * g) (Cells.read p.mark.shadow (256 * g) 256)
    let q : Part := { p with mark := { p.mark with nv := nv, wear := Tab.put g n p.mark.wear, busy := none } }
    let q := (q.setRb .hallmarkStatus 0 0 0 false).setRb .hallmarkStatus 0 0 1 true
    (if 100000 < n then q.setRb .hallmarkStatus 0 0 2 true else q).bump (pkgCtr 0 1 5) 1 := by
  simp only [markDone, h]

end Sys2Proof.Machine.Part

namespace Sys2Proof.Safety
open Sys2Proof Sys2Proof.Machine

theorem exec_hallmarkShadowWrite (s : State) (port i : Nat) (h : Half) (v : Reg) (hi : i < 768) :
    exec (.hallmarkShadowWrite port (regOff .hallmarkShadow 0 i) h v) s =
      becomes s (s.part.writeReg port (regOff .hallmarkShadow 0 i) h v) := by
  have stands : regAt (regOff .hallmarkShadow 0 i) = some ⟨.hallmarkShadow, 0, i⟩ := regAt_eq_some.mpr ⟨rfl, hi, by decide⟩
  exact congrArg (becomes s) (if_pos (by rw [stands]; rfl))

theorem exec_hallmarkCommit (s : State) (port : Nat) (v : Reg) : exec (.hallmarkCommit port .full v) s =
    becomes s (s.part.writeReg port (regOff .hallmarkCtl 0 0) .full (forceBit .full v 8 true)) := rfl

theorem exec_hallmarkLock (s : State) (port : Nat) : exec (.hallmarkLock port) s =
    becomes s (s.part.writeReg port (regOff .hallmarkCtl 0 0) .full (BitVec.ofNat 64 (s.part.rf .hallmarkCtl 0 0 0 5 + 2 ^ 16))) := rfl

theorem exec_hallmarkCommitDone (s : State) : exec .hallmarkCommitDone s = becomes s s.part.markDone := rfl

/-- The data of HALLMARK_LOCK: PAGE as it stands, no COMMIT, and LOCK. -/
theorem lockData : ∀ g < 24, (g + 2 ^ 16).testBit 8 = false ∧ (g + 2 ^ 16).testBit 16 = true ∧ bits (g + 2 ^ 16) 0 5 = g ∧
    (g + 2 ^ 16) % 2 ^ 5 = g := by decide

/-- Settles O8: LOCK is written with PAGE as it stands, so the register keeps its image. -/
theorem hallmarkCommitsItsShadow : Obligations.HallmarkCommitsItsShadow := by
  intro s port
  refine ⟨fun i h v hi hs => ?shadow, fun hs => ⟨?commit, fun hpage => ?lock⟩, fun g hg => ?done⟩
  case shadow =>
    rw [exec_hallmarkShadowWrite s port i h v hi, writeReg_served hs, writeNow_single hs rfl]
    change becomes s (s.part.setShadow _) = _
    rw [Part.setShadow_writes, Part.markWrite_eq, Part.shadowBytes_page]
    cases h <;> rfl
  case commit =>
    intro v x hp hlock hl hb
    have commits : x.testBit 8 = true := force_bit _ _ _ (by decide)
    have page := rf_putImage_rw s.part ⟨.hallmarkCtl, 0, 0⟩ x 0 5 rfl
    rw [exec_hallmarkCommit, writeReg_single hs rfl]
    refine congrArg (becomes s) ((Part.setHallmark_plain hp).trans ?_)
    simp only [commits, hlock, if_true, Bool.false_eq_true, if_false]
    rw [Part.markCommit_starts (by rw [Part.putImage_mark]; exact hl) (by rw [Part.putImage_mark]; exact hb), page, Part.putImage_mark]
  case lock =>
    have small : s.part.rf .hallmarkCtl 0 0 0 5 + 2 ^ 16 < 2 ^ 64 := by omega
    have value : (BitVec.ofNat 64 (s.part.rf .hallmarkCtl 0 0 0 5 + 2 ^ 16)).toNat = s.part.rf .hallmarkCtl 0 0 0 5 + 2 ^ 16 := by
      rw [BitVec.toNat_ofNat, Nat.mod_eq_of_lt small]
    obtain ⟨commit, lock, page, low⟩ := lockData _ hpage
    have plain : Plain s.part ⟨.hallmarkCtl, 0, 0⟩ (s.part.rf .hallmarkCtl 0 0 0 5 + 2 ^ 16) :=
      plain_of_field (lo := 0) (w := 5) rfl rfl (Nat.zero_le _) (page.symm ▸ Nat.le_of_lt_succ hpage)
    have kept : s.part.putImage ⟨.hallmarkCtl, 0, 0⟩ (imageOf s.part ⟨.hallmarkCtl, 0, 0⟩ (s.part.rf .hallmarkCtl 0 0 0 5 + 2 ^ 16)) = s.part :=
      if_pos (Part.imageOf_samePage _ low)
    rw [exec_hallmarkLock, writeReg_single hs rfl, value]
    refine congrArg (becomes s) ((Part.setHallmark_plain plain).trans ?_)
    simp only [kept, commit, lock, if_true, Bool.false_eq_true, if_false]
    rfl
  case done => rw [exec_hallmarkCommitDone, Part.markDone_stores hg]; rfl

end Sys2Proof.Safety
end
section
/-!
Firmware images by SVC_FW_ADDR and by DMA (17 R405, 16 R386).
-/

namespace Sys2Proof.Machine.Part
open Sys2Proof

theorem putImage_svc (p : Part) (r : RegId) (v : Nat) : (p.putImage r v).svc = p.svc := by
  unfold putImage
  split <;> rfl

theorem putImage_power (p : Part) (r : RegId) (v : Nat) : (p.putImage r v).power = p.power := by
  unfold putImage
  split <;> rfl

section
variable {p : Part} {x : Nat}

/-- FW_SLOT_CTL.GO takes the image at SVC_FW_ADDR. -/
theorem setFwSlot_goes (hx : x.testBit 63 = true) (h : p.svc.slotGo = none) :
    p.setFwSlot ⟨⟨.fwSlotCtl, 0, 0⟩, 2 ^ 64 - 1, x, 0, [], []⟩ =
      let q := p.putImage ⟨.fwSlotCtl, 0, 0⟩ (Safety.imageOf p ⟨.fwSlotCtl, 0, 0⟩ x)
      let bs := q.svcImage
      let code := if q.rf .bootStatus 0 0 16 2 = q.rf .fwSlotCtl 0 0 0 1 + 1 then 7 else if imageGood bs then 0 else 5
      { q.setRb .fwSlotStatus 0 0 0 true with svc := { q.svc with slotGo := some (q.rf .fwSlotCtl 0 0 0 1, code, imgMajor bs, imgMinor bs) } } := by
  have plain : Safety.Plain p ⟨.fwSlotCtl, 0, 0⟩ x := rfl
  have idle : ¬(p.putImage ⟨.fwSlotCtl, 0, 0⟩ (Safety.imageOf p ⟨.fwSlotCtl, 0, 0⟩ x)).svc.slotGo.isSome = true := by
    rw [putImage_svc, h]
    exact Bool.false_ne_true
  rw [setFwSlot, h, Option.isSome_none, Safety.setGo_taken _ hx plain rfl]
  exact if_neg idle

theorem fwSlotDone_ends {k code major minor : Nat} (h : p.svc.slotGo = some (k, code, major, minor)) (ok : Bool) : p.fwSlotDone ok =
    let slots := if code = 0 then setAt p.svc.slots k { head := true, crc := ok, major := major, minor := minor } else p.svc.slots
    ({ p with svc := { p.svc with slotGo := none, slots := slots } } : Part).setReg .fwSlotStatus 0 0
      (2 + (if code = 0 ∧ ok = false then 8 else code) * 2 ^ 8) := by
  simp only [fwSlotDone, h, Bool.not_eq_true']

/-- BOOT_HOST_CTL.GO asks for an image while no firmware runs and the straps boot from the host. -/
theorem setBootHost_goes (hx : x.testBit 63 = true) (hf : p.rf .pkgIdent 0 0 32 8 = 0) (hs : p.power.straps % 4 ≠ 0) :
    p.setBootHost ⟨⟨.bootHostCtl, 0, 0⟩, 2 ^ 64 - 1, x, 0, [], []⟩ =
      let q := p.putImage ⟨.bootHostCtl, 0, 0⟩ (Safety.imageOf p ⟨.bootHostCtl, 0, 0⟩ x)
      { q with svc := { q.svc with hostLoad := true } } := by
  have plain : Safety.Plain p ⟨.bootHostCtl, 0, 0⟩ x := rfl
  have takes (q : Part) (hq : q.rf .pkgIdent 0 0 32 8 = 0) (hp : q.power = p.power) : (q.fwRuns || q.power.straps % 4 == 0) = false := by
    rw [fwRuns, hq, hp, beq_false_of_ne hs]
    rfl
  rw [setBootHost, takes p hf rfl, Safety.setGo_taken _ hx plain rfl]
  exact if_neg (by rw [takes _ ((Safety.rf_putImage_other _ _ _ _ _ _ _ _ (by decide)).trans hf) (putImage_power ..)]; exact Bool.false_ne_true)

/-- The part once an image has come by DMA, and the image. -/
def hostImaged (p : Part) (hw : Cells) : Part := ({ p with svc := { p.svc with hostLoad := false } } : Part).hostSees hw

def hostImage (p : Part) (hw : Cells) : List Byte :=
  (p.hostImaged hw).mem.hostRead ((p.hostImaged hw).rv .bootHostAddr 0 0 / 4096 * 4096) ((p.hostImaged hw).rf .bootHostCtl 0 0 0 24)

section
variable (h : p.svc.hostLoad = true) (hw : Cells)
include h

/-- A load that may not master the bus. -/
theorem bootHostDone_noMaster (hm : p.masters 0 = false) (st : RdStat) :
    p.bootHostDone st hw = ((p.hostImaged hw).bumpFn 0 1).setRf .bootStatus 0 0 24 8 2 := by
  have off : (({ p with svc := { p.svc with hostLoad := false } } : Part).hostSees hw).masters 0 = false := hm
  simp only [bootHostDone, h, off, Bool.not_true, Bool.not_false, Bool.or_true, Bool.false_eq_true, if_false, if_true]
  rfl

theorem bootHostDone_readFails (hm : p.masters 0 = true) {st : RdStat} (hst : st ≠ .ok) :
    p.bootHostDone st hw = ((p.hostImaged hw).hostReadErr 0 st).setRf .bootStatus 0 0 24 8 2 := by
  have on : (({ p with svc := { p.svc with hostLoad := false } } : Part).hostSees hw).masters 0 = true := hm
  have bad : (st != .ok) = true := bne_iff_ne.mpr hst
  simp only [bootHostDone, h, on, bad, Bool.true_or, Bool.not_true, Bool.false_eq_true, if_false, if_true]
  rfl

/-- A load whose read succeeds starts the firmware or reports what is wrong with the image. -/
theorem bootHostDone_reads (hm : p.masters 0 = true) : p.bootHostDone .ok hw =
    let bs := p.hostImage hw
    let err : Nat := if imgHead bs ((p.hostImaged hw).rf .bootHostCtl 0 0 0 24) = false ∨ imgMajor bs = 0 then 3 else if imgCrc bs = false then 4 else 0
    if err = 0 then (p.hostImaged hw).fwStart 3 (imgMajor bs) (imgMinor bs) false else (p.hostImaged hw).setRf .bootStatus 0 0 24 8 err := by
  have on : (({ p with svc := { p.svc with hostLoad := false } } : Part).hostSees hw).masters 0 = true := hm
  simp only [bootHostDone, h, on, bne_self_eq_false, Bool.not_true, Bool.or_self, Bool.false_eq_true, if_false, Bool.or_eq_true,
    Bool.not_eq_true', beq_iff_eq]
  rfl

end

end

end Sys2Proof.Machine.Part

namespace Sys2Proof.Safety
open Sys2Proof Sys2Proof.Machine

theorem exec_fwSlotGo (s : State) (port : Nat) (v : Reg) : exec (.fwSlotGo port .full v) s =
    becomes s (s.part.writeReg port (regOff .fwSlotCtl 0 0) .full (forceBit .full v 63 true)) := rfl

theorem exec_fwSlotDone (s : State) (ok : Bool) : exec (.fwSlotDone ok) s = becomes s (s.part.fwSlotDone ok) := rfl

theorem exec_bootHostGo (s : State) (port : Nat) (v : Reg) : exec (.bootHostGo port .full v) s =
    becomes s (s.part.writeReg port (regOff .bootHostCtl 0 0) .full (forceBit .full v 63 true)) := rfl

theorem exec_bootHostLoadDone (s : State) (st : RdStat) (hw : Cells) : exec (.bootHostLoadDone st hw) s = becomes s (s.part.bootHostDone st hw) := rfl

/-- Settles O9. That an image of major version 0 reports ERR 3 is the model's choice, and so is the check of an image's LENGTH against LEN
(log entry 57). -/
theorem firmwareImagesAreTakenOrReported : Obligations.FirmwareImagesAreTakenOrReported := by
  intro s port
  refine ⟨fun v hs hg => ?go, fun k code major minor ok hg => ?done, fun v hs hf hstraps => ?host, fun st hw hl => ?loaded⟩
  case go =>
    rw [exec_fwSlotGo, writeReg_single hs rfl]
    exact congrArg (becomes s) (Part.setFwSlot_goes (force_bit _ _ _ (by decide)) hg)
  case done => rw [exec_fwSlotDone, Part.fwSlotDone_ends hg]; rfl
  case host =>
    rw [exec_bootHostGo, writeReg_paired hs rfl]
    exact congrArg (becomes s) (Part.setBootHost_goes (p := s.part.unstage port (regOff .bootHostCtl 0 0)) (force_bit _ _ _ (by decide)) hf hstraps)
  case loaded =>
    intro p bs
    refine ⟨fun hm => ?_, fun hm hst => ?_, fun hm hst => ?_⟩
    · rw [exec_bootHostLoadDone, Part.bootHostDone_noMaster hl hw hm]; rfl
    · rw [exec_bootHostLoadDone, Part.bootHostDone_readFails hl hw hm hst]; rfl
    · rw [hst, exec_bootHostLoadDone, Part.bootHostDone_reads hl hw hm]; rfl

end Sys2Proof.Safety
end
section
/-!
Service commands of bench dies (17 R395 to R399, R426).
-/

namespace Sys2Proof.Machine.Part
open Sys2Proof

/-! ### Commands begin -/

section
variable {p : Part} {v : Reg} {op : Nat}

/-- The part once SVC_DIE_CTL holds a command. -/
def svcAsked (p : Part) (v : Reg) (op : Nat) : Part :=
  p.putImage ⟨.svcDieCtl, 0, 0⟩ (Safety.imageOf p ⟨.svcDieCtl, 0, 0⟩ (forceOp .full v 8 4 op).toNat)

theorem svcDieCtl_plain (h1 : 1 ≤ op) (h4 : op ≤ 4) : Safety.Plain p ⟨.svcDieCtl, 0, 0⟩ (forceOp .full v 8 4 op).toNat :=
  have value := Safety.bits_forceOp v (lo := 8) (w := 4) (by decide) (Nat.lt_of_le_of_lt h4 (by decide) : op < 2 ^ 4)
  Safety.plain_of_field (lo := 8) (w := 4) (least := 1) (most := 4) rfl rfl (value.symm ▸ h1) (value.symm ▸ h4)

theorem svcAsked_op (p : Part) (v : Reg) (h4 : op ≤ 4) : (p.svcAsked v op).rf .svcDieCtl 0 0 8 4 = op :=
  (Safety.rf_putImage_rw p ⟨.svcDieCtl, 0, 0⟩ _ 8 4 rfl).trans (Safety.bits_forceOp v (by decide) (Nat.lt_of_le_of_lt h4 (by decide)))

theorem svcBusy_svcAsked (p : Part) (v : Reg) (op : Nat) : (p.svcAsked v op).svcBusy = p.svcBusy := by
  rw [svcBusy, rb_eq_rf, svcAsked, Safety.rf_putImage_other _ _ _ _ _ _ _ _ (by decide), ← rb_eq_rf, ← svcBusy]

theorem logi_setRb_svcDieStatus (p : Part) (b k : Nat) (v : Bool) : (p.setRb .svcDieStatus 0 0 b v).logi k = p.logi k := by
  have phys (n : Nat) : (p.setRb .svcDieStatus 0 0 b v).phys n = p.phys n := rf_setRf_other _ _ _ _ _ _ _ _ _ _ _ _ (by decide)
  simp only [logi, phys]

/-- The part once a command that may run has begun: BUSY, what the command is, and for a LEAVE the window that it holds. -/
def svcBegun (p : Part) (op : Nat) : Part :=
  let k := p.rf .svcDieCtl 0 0 0 3
  { p.setRb .svcDieStatus 0 0 0 true with svc := { p.svc with
    cmd := some ⟨op, k, p.rf .svcDieCtl 0 0 4 3, 0⟩
    holding := if op = 1 then some (p.logi k) else none } }

theorem svcGo_begins (hb : p.svcBusy = false) (ho : p.rf .svcDieCtl 0 0 8 4 = op)
    (hr : p.svcResult op (p.rf .svcDieCtl 0 0 0 3) (p.rf .svcDieCtl 0 0 4 3) = 0) :
    p.svcGo =
      let q := (p.svcBegun op).setSvcState (p.rf .svcDieCtl 0 0 0 3) (if op = 1 then 1 else if op = 2 then 3 else if op = 3 then 4 else 5)
      if op = 2 then q.railsUp (p.rf .svcDieCtl 0 0 0 3) else q := by
  simp only [svcGo, hb, Bool.false_eq_true, if_false, ho, hr, ne_eq, not_true_eq_false, and_true, logi_setRb_svcDieStatus]
  rfl

/-- A GO that may run (R395). -/
theorem setSvcDie_begins (h1 : 1 ≤ op) (h4 : op ≤ 4) (hb : p.svcBusy = false)
    (hr : (p.svcAsked v op).svcResult op ((p.svcAsked v op).rf .svcDieCtl 0 0 0 3) ((p.svcAsked v op).rf .svcDieCtl 0 0 4 3) = 0) :
    p.setSvcDie ⟨⟨.svcDieCtl, 0, 0⟩, 2 ^ 64 - 1, (forceOp .full v 8 4 op).toNat, 0, [], []⟩ =
      let a := p.svcAsked v op
      let q := (a.svcBegun op).setSvcState (a.rf .svcDieCtl 0 0 0 3) (if op = 1 then 1 else if op = 2 then 3 else if op = 3 then 4 else 5)
      if op = 2 then q.railsUp (a.rf .svcDieCtl 0 0 0 3) else q := by
  have given : (p.svcAsked v op).rf .svcDieCtl 0 0 8 4 ≠ 0 := by rw [svcAsked_op p v h4]; omega
  rw [setSvcDie, hb, Safety.setGo_taken _ (Safety.forceOp_go ..) (svcDieCtl_plain h1 h4) rfl]
  exact (if_neg given).trans (svcGo_begins ((svcBusy_svcAsked ..).trans hb) (svcAsked_op p v h4) hr)

end

/-! ### Commands end -/

/-- What a service command holds beyond the die itself: the service state without what TEST found, and the host interface. -/
def svcHeld (p : Part) : Svc × Hif := ({ p.svc with passed := [], minors := [] }, p.hif)

section
variable (p : Part)

theorem svcHeld_setReg (r : RegName) (d i v : Nat) : (p.setReg r d i v).svcHeld = p.svcHeld := rfl

theorem svcHeld_copyWindow (a b : Nat) : (p.copyWindow a b).svcHeld = p.svcHeld := by
  refine foldl_leaves svcHeld (fun q r => foldl_leaves svcHeld (fun t i => ?_) _ q) _ p
  dsimp only
  split <;> rfl

theorem svcHeld_copyCounts (a b : Nat) : (p.copyCounts a b).svcHeld = p.svcHeld := by
  have counters (q : Part) (i : Nat) : svcHeld (if q.rv .arrivalValue a i = q.rv .arrivalValue b i then q else
      q.setReg .arrivalValue b i (q.rv .arrivalValue a i)) = q.svcHeld := by
    split <;> rfl
  have redirected (q : Part) (b : Bench) : svcHeld { q with bench := b } = q.svcHeld := rfl
  rw [copyCounts, redirected, foldl_leaves svcHeld counters]
  refine foldl_leaves svcHeld (fun q i => ?_) _ p
  dsimp only
  split <;> rfl

theorem svcHeld_bump (a n : Nat) : (p.bump a n).svcHeld = p.svcHeld := by
  unfold bump
  split <;> rfl

theorem svcHeld_leaveSwap (k m : Nat) : (p.leaveSwap k m).svcHeld = p.svcHeld := by
  have passed (q : Part) (l : List Nat) : svcHeld { q with svc := { q.svc with passed := l } } = q.svcHeld := rfl
  have out (q : Part) (k : Nat) : svcHeld (if q.svcState k = 6 then q else q.setSvcState k 2) = q.svcHeld := by split <;> rfl
  have swapped (q : Part) (n m : Nat) : (q.swapCtrs n m).svcHeld = q.svcHeld := rfl
  have moved (q : Part) (a b : Nat) : (q.moveDie a b).svcHeld = q.svcHeld := rfl
  have mapped (q : Part) (r : RegName) (d i lo w v : Nat) : (q.setRf r d i lo w v).svcHeld = q.svcHeld := rfl
  simp only [leaveSwap, passed, out, svcHeld_bump, swapped, mapped, moved, svcHeld_copyCounts, svcHeld_copyWindow]

theorem svcHeld_updateEnd (k : Nat) : (p.updateEnd k).2.svcHeld = p.svcHeld := by
  simp only [updateEnd]
  split_ifs <;> rfl

end

/-- The part once the engine that runs service commands is idle again. -/
def svcIdle (p : Part) : Part :=
  { p with svc := { p.svc with cmd := none, holding := none }, hif := { p.hif with held := [] } }

/-- No command runs and no access is held. -/
def SvcFree (p : Part) : Prop := p.svc.cmd = none ∧ p.hif.held = []

theorem svcFree_of_svcHeld {p q : Part} (e : q.svcHeld = p.svcHeld) (h : p.SvcFree) : q.SvcFree :=
  ⟨(congrArg (fun x => x.1.cmd) e).trans h.1, (congrArg (fun x => x.2.held) e).trans h.2⟩

theorem svcFree_svcIdle (p : Part) : p.svcIdle.SvcFree := ⟨rfl, rfl⟩

/-- How a service command ends where no access is held: by its result and the part that it leaves. -/
def svcShown (q : Part) (code : Nat) : Part := q.setReg .svcDieStatus 0 0 (2 + code * 2 ^ 8)

section
variable {p : Part} {x : SvcCmd} (hx : p.svc.cmd = some x) (hh : p.hif.held = [])
include hx hh

/-- The end of a service command while no access is held. -/
theorem svcCmdDone_of_svcDone {rows : List Nat} {e g : Bool} {q : Part} {code : Nat} (hd : p.svcDone rows e g = q.svcShown code) (hq : q.SvcFree) :
    p.svcCmdDone rows e g = q.svcShown code := by
  have running : ¬p.svc.cmd.isNone = true := by rw [hx]; exact Bool.false_ne_true
  have ended : ¬(q.svcShown code).svc.cmd.isSome = true := by
    rw [show (q.svcShown code).svc.cmd = none from hq.1]
    exact Bool.false_ne_true
  have same : ({ q.svcShown code with hif := { (q.svcShown code).hif with held := [] } } : Part) = q.svcShown code := by
    rw [← show (q.svcShown code).hif.held = [] from hq.2]
  rw [svcCmdDone, if_neg running]
  simp only [hh, List.foldl_nil, hd, if_neg ended, same]

/-- What a service command that is not a LEAVE with writes in flight does at its end. -/
theorem svcDone_ends (hw : ¬(x.op = 1 ∧ x.result = 0 ∧ p.writesAt x.die = true)) (hs : p.svcState x.die ≠ 6) (rows : List Nat) (e g : Bool) :
    p.svcDone rows e g =
      let r : Nat × Part :=
        if x.result ≠ 0 then (x.result, if x.op = 1 ∧ p.svcState x.die = 1 then p.svcIdle.setSvcState x.die 0 else p.svcIdle)
        else if x.op = 1 then (0, p.svcIdle.leaveSwap x.die x.standin)
        else if x.op = 2 then p.svcIdle.testEnd x.die rows e g
        else if x.op = 3 then p.svcIdle.updateEnd x.die
        else p.svcIdle.rejoinEnd x.die g
      r.2.svcShown r.1 := by
  have idle : ({ p with svc := { p.svc with cmd := none, holding := none } } : Part) = p.svcIdle := by rw [svcIdle, ← hh]
  simp only [svcDone, hx, if_neg hw, idle]
  have serving : ¬p.svcIdle.svcState x.die = 6 := hs
  simp only [if_neg serving]
  rfl

end

/-- A TEST that finds no fault zeroes the die's store. -/
theorem testEnd_passes {p : Part} {k : Nat} (hs : p.svcState k ≠ 6) : p.testEnd k [] true true =
    (0, { (p.zeroBench k).setSvcState k 2 with svc := { p.svc with passed := insNat k p.svc.passed } }) := by
  simp only [testEnd, List.foldl_nil, if_neg hs, Bool.not_true, Bool.false_eq_true, if_false]
  rfl

theorem rejoinEnd_passes (p : Part) (k : Nat) : p.rejoinEnd k true =
    let n := p.logi k
    let q : Part := { p with ctrs := Tab.keep (fun a _ => decide (a < 0x3000000 + n * 0x100000) || decide (0x3000000 + (n + 1) * 0x100000 ≤ a)) p.ctrs }
    (0, (q.setSvcState k 0).setRb .bringupStatus 0 0 (8 + k) true) := rfl

end Sys2Proof.Machine.Part

namespace Sys2Proof.Safety
open Sys2Proof Sys2Proof.Machine

theorem exec_leave (s : State) (port : Nat) (v : Reg) : exec (.leave port .full v) s =
    becomes s (s.part.writeReg port (regOff .svcDieCtl 0 0) .full (forceOp .full v 8 4 1)) := rfl

theorem exec_test (s : State) (port : Nat) (v : Reg) : exec (.test port .full v) s =
    becomes s (s.part.writeReg port (regOff .svcDieCtl 0 0) .full (forceOp .full v 8 4 2)) := rfl

theorem exec_update (s : State) (port : Nat) (v : Reg) : exec (.update port .full v) s =
    becomes s (s.part.writeReg port (regOff .svcDieCtl 0 0) .full (forceOp .full v 8 4 3)) := rfl

theorem exec_rejoin (s : State) (port : Nat) (v : Reg) : exec (.rejoin port .full v) s =
    becomes s (s.part.writeReg port (regOff .svcDieCtl 0 0) .full (forceOp .full v 8 4 4)) := rfl

/-- The four service commands are writes of SVC_DIE_CTL with their OP. -/
theorem exec_service (s : State) (port : Nat) (v : Reg) {op : Nat} (ho : op ∈ [1, 2, 3, 4]) :
    exec (if op = 1 then .leave port .full v else if op = 2 then .test port .full v else if op = 3 then .update port .full v
      else .rejoin port .full v) s = becomes s (s.part.writeReg port (regOff .svcDieCtl 0 0) .full (forceOp .full v 8 4 op)) := by
  simp only [List.mem_cons, List.not_mem_nil, or_false] at ho
  rcases ho with rfl | rfl | rfl | rfl
  · exact exec_leave ..
  · exact exec_test ..
  · exact exec_update ..
  · exact exec_rejoin ..

theorem exec_svcCmdDone (s : State) (rows : List Nat) (e g : Bool) :
    exec (.svcCmdDone rows e g) s = settlesTo s (s.part.svcCmdDone rows e g) := rfl

/-- Settles O10: the four commands are one write of SVC_DIE_CTL with their OP. -/
theorem serviceCommandsBegin : Obligations.ServiceCommandsBegin := by
  intro s port v hs hb op ho x u p k m hold q c
  obtain ⟨h1, h4⟩ : 1 ≤ op ∧ op ≤ 4 := by
    simp only [List.mem_cons, List.not_mem_nil, or_false] at ho
    omega
  refine ⟨Part.svcAsked_op u v h4, fun hr => ?_⟩
  have run : exec c s = becomes s (u.setSvcDie ⟨⟨.svcDieCtl, 0, 0⟩, 2 ^ 64 - 1, x, 0, [], []⟩) := by
    rw [exec_service s port v ho, writeReg_paired hs rfl]
    rfl
  have idle : u.svcBusy = false := hb
  have begun := run.trans (congrArg (becomes s) (Part.setSvcDie_begins h1 h4 idle hr))
  refine ⟨fun hn => begun.trans ?_, fun htest => begun.trans ?_⟩
  · simp only [if_neg hn]
    rfl
  · have other : ¬op = 1 := by omega
    simp only [if_pos htest, if_neg other]
    rfl

/-- Settles O11: whatever a command does at its end, it leaves no command running and no access held. -/
theorem serviceCommandsEnd : Obligations.ServiceCommandsEnd := by
  intro s x hx hh hs p done
  have free : p.SvcFree := ⟨rfl, rfl⟩
  have ends (code : Nat) (q : Part) (rows : List Nat) (e g : Bool) (hd : s.part.svcDone rows e g = q.svcShown code) (hq : q.SvcFree) :
      exec (.svcCmdDone rows e g) s = .next { s with part := done q code } := by
    rw [exec_svcCmdDone, Part.svcCmdDone_of_svcDone hx hh hd hq]
    rfl
  have serving : s.part.svcIdle.svcState x.die ≠ 6 := hs
  refine ⟨fun hr ho rows e g => ends _ _ rows e g ?fails free, fun hr ho hw rows e g => ends _ _ rows e g ?left ?leftFree,
    fun hr ho => ends _ _ [] true true ?tested ?testedFree, fun hr ho rows e g => ends _ _ rows e g ?updated ?updatedFree,
    fun hr ho rows e => ends _ _ rows e true ?rejoined ?rejoinedFree⟩
  case fails =>
    rw [Part.svcDone_ends hx hh (fun h => ho h.1) hs]
    simp only [ne_eq, hr, not_false_eq_true, if_true, ho, false_and, if_false]
    rfl
  case left =>
    rw [Part.svcDone_ends hx hh (fun h => Bool.false_ne_true (hw.symm.trans h.2.2)) hs]
    simp only [ne_eq, hr, not_true_eq_false, if_false, ho, if_true]
    rfl
  case leftFree => exact Part.svcFree_of_svcHeld (Part.svcHeld_leaveSwap ..) free
  case tested =>
    rw [Part.svcDone_ends hx hh (fun h => absurd (ho.symm.trans h.1) (by decide)) hs]
    simp only [ne_eq, hr, not_true_eq_false, if_false, ho, OfNat.ofNat_ne_one, if_true]
    rw [Part.testEnd_passes serving]
    rfl
  case testedFree => exact free
  case updated =>
    rw [Part.svcDone_ends hx hh (fun h => absurd (ho.symm.trans h.1) (by decide)) hs]
    simp only [ne_eq, hr, not_true_eq_false, if_false, ho, OfNat.ofNat_ne_one, Nat.reduceEqDiff, if_true]
    rfl
  case updatedFree => exact Part.svcFree_of_svcHeld (Part.svcHeld_updateEnd ..) free
  case rejoined =>
    rw [Part.svcDone_ends hx hh (fun h => absurd (ho.symm.trans h.1) (by decide)) hs]
    simp only [ne_eq, hr, not_true_eq_false, if_false, ho, OfNat.ofNat_ne_one, Nat.reduceEqDiff, Part.rejoinEnd_passes]
    rfl
  case rejoinedFree => exact free

end Sys2Proof.Safety
end
section
/-!
Supply and reset (16 R367 to R370, R383, R384, R388, 18 R414).
-/

namespace Sys2Proof.Machine.Part
open Sys2Proof

/-- What a reset of `p` leaves: no set-up register holds a value of its own, no counter, job, context or hold stands, no byte of device memory is
set, and host memory, the Hallmark area's wear, the Chest's content and the repair log are as they were. -/
def Cleared (p q : Part) : Prop :=
  q.regs = [] ∧ q.ctrs = [] ∧ q.jig = {} ∧ q.ctxs = [] ∧ q.holds = [] ∧ q.mem.cells = [] ∧ q.mem.host = p.mem.host ∧ q.mark.wear = p.mark.wear ∧
    q.chest.drawers = p.chest.drawers ∧ q.bench.repairLog = p.bench.repairLog

/-- An interrupted commit changes what a page reads, and no page's wear. -/
theorem markReset_wear (p : Part) : p.markReset.1.wear = p.mark.wear := by
  dsimp only [markReset]
  split <;> rfl

theorem cleared_clears (p : Part) : p.Cleared p.cleared := ⟨rfl, rfl, rfl, rfl, rfl, rfl, rfl, markReset_wear p, rfl, rfl⟩

theorem packageOff_clears (p : Part) (cause : Nat) : p.Cleared (p.packageOff cause) := cleared_clears p

/-- The part in reset while RST_N is low: it has power again, and what a restart will log. -/
def poweredHeld (p : Part) (cause : Nat) (fatal : Option Nat) : Part :=
  let q := p.cleared
  let q : Part := { q with power := { q.power with
    rails := true, pwrOk := true, aon := true, trip := none, armed := false, released := false, cause := cause } }
  match fatal with
  | some code => { q with flog := { q.flog with packageFatal := some code } }
  | none => q

theorem restart_held {p : Part} (h : p.power.held = true) (cause : Nat) (fatal : Option Nat) (straps : Nat) :
    p.restart cause fatal straps = p.poweredHeld cause fatal := by
  have held : (p.poweredHeld cause fatal).power.held = true := by cases fatal <;> exact h
  exact if_pos held

theorem poweredHeld_clears (p : Part) (cause : Nat) (fatal : Option Nat) : p.Cleared (p.poweredHeld cause fatal) := by
  cases fatal <;> exact cleared_clears p

section
variable {p : Part}

/-- RST_N asserted on a part with power. -/
theorem rstAssert_resets {ns : Nat} (hn : 1000 ≤ ns) (hh : p.power.held = false) (hr : p.power.rails = true) : p.rstAssert ns =
    { p.cleared with power := { p.cleared.power with cause := 1, held := true, armed := p.cleared.power.trip.isSome, released := false } } := by
  have runs : ¬(ns < 1000 ∨ p.power.held = true) := by
    rw [hh]
    rintro (h | h)
    · exact absurd hn (Nat.not_le_of_lt h)
    · exact Bool.false_ne_true h
  simp only [rstAssert, if_neg runs, hr, if_true]

/-- RST_N released on a part with power that has nothing to log. -/
theorem rstRelease_releases {straps : Nat} (hh : p.power.held = true) (ht : p.power.trip = none) (hr : p.power.rails = true)
    (ho : p.power.pwrOk = true) (hf : p.flog.packageFatal = none) :
    p.rstRelease straps = ({ p with power := { p.power with held := false } } : Part).release straps := by
  have nothing : (({ p with power := { p.power with held := false } } : Part).release straps).flog.packageFatal = none := hf
  have untripped : ¬p.power.trip = some 4 := by rw [ht]; exact nofun
  have powered : (p.power.rails && p.power.pwrOk) = true := by rw [hr, ho]; rfl
  simp only [rstRelease, hh, Bool.not_true, Bool.false_eq_true, if_false, if_neg untripped, powered, if_true]
  rw [nothing]

theorem brownOut_off (hr : p.power.rails = true) : p.brownOut = p.packageOff 2 := if_pos hr

theorem overVoltage_off {mv : Nat} (hv : 62000 < mv) (hr : p.power.rails = true) : p.overVoltage mv = p.packageOff 3 := if_pos ⟨hv, hr⟩

theorem ovRecovery_restarts (ht : p.power.trip = some 3) (straps : Nat) : p.ovRecovery straps = p.restart 3 (some (tripCode 3)) straps := if_pos ht

/-- The supply returns after it was lost without a trip. -/
theorem powerOn_restarts {mv straps : Nat} (hv : 38000 ≤ mv) (ht : p.power.trip = none) :
    p.powerOn mv true straps = ({ p with power := { p.power with clkMode := some (bits straps 2 2) } } : Part).restart 0 none straps := by
  simp only [powerOn, if_neg (Nat.not_lt.mpr hv), ht, reduceCtorEq, if_true, if_false]

end

end Sys2Proof.Machine.Part

namespace Sys2Proof.Safety
open Sys2Proof Sys2Proof.Machine

theorem exec_rstNAssert (s : State) (ns : Nat) : exec (.rstNAssert ns) s = becomes s (s.part.rstAssert ns) := rfl

theorem exec_rstNRelease (s : State) (straps : Nat) : exec (.rstNRelease straps) s = becomes s (s.part.rstRelease straps) := rfl

theorem exec_brownOut (s : State) : exec .brownOut s = becomes s s.part.brownOut := rfl

theorem exec_overVoltage (s : State) {mv : Nat} (h : mv ≤ 66000) : exec (.overVoltage mv) s = becomes s (s.part.overVoltage mv) :=
  if_neg (Nat.not_lt.mpr h)

theorem exec_ovRecovery (s : State) (straps : Nat) : exec (.ovRecovery straps) s = becomes s (s.part.ovRecovery straps) := rfl

theorem exec_powerOnReset (s : State) {mv : Nat} (h : mv ≤ 66000) (aonLost : Bool) (straps : Nat) :
    exec (.powerOnReset mv aonLost straps) s = becomes s (s.part.powerOn mv aonLost straps) := if_neg (Nat.not_lt.mpr h)

/-- Settles O39. That host memory is kept through a reset is the model's choice (log entry 54). Of the Hallmark area the statement shows the wear of
its pages, and it does not show device time. -/
theorem resetClearsThePart : Obligations.ResetClearsThePart := by
  intro s blank
  refine ⟨fun ns hn hh hr => ?assert, fun straps hh ht hr ho hf => ?release, fun hr => ⟨?brownOut, fun mv hv hm => ?tooHigh⟩,
    fun straps ht hh => ?recovery, fun mv straps hv hm hh ht => ?powerOn⟩
  case assert =>
    exact ⟨_, (exec_rstNAssert s ns).trans (congrArg (becomes s) (Part.rstAssert_resets hn hh hr)), Part.cleared_clears s.part, rfl, rfl⟩
  case release => rw [exec_rstNRelease, Part.rstRelease_releases hh ht hr ho hf]
  case brownOut =>
    exact ⟨_, (exec_brownOut s).trans (congrArg (becomes s) (Part.brownOut_off hr)), Part.packageOff_clears s.part 2, rfl, rfl, rfl⟩
  case tooHigh =>
    exact ⟨_, (exec_overVoltage s hm).trans (congrArg (becomes s) (Part.overVoltage_off hv hr)), Part.packageOff_clears s.part 3, rfl, rfl⟩
  case recovery =>
    have restarted := (Part.ovRecovery_restarts ht straps).trans (Part.restart_held hh 3 (some (tripCode 3)) straps)
    exact ⟨_, (exec_ovRecovery s straps).trans (congrArg (becomes s) restarted), Part.poweredHeld_clears s.part 3 _, rfl, rfl, rfl, rfl⟩
  case powerOn =>
    have sampled := Part.restart_held (p := { s.part with power := { s.part.power with clkMode := some (bits straps 2 2) } }) hh 0 none straps
    have restarted := (Part.powerOn_restarts hv ht).trans sampled
    exact ⟨_, (exec_powerOnReset s hm true straps).trans (congrArg (becomes s) restarted), Part.poweredHeld_clears _ 0 none, rfl, rfl, rfl⟩

end Sys2Proof.Safety
end

section
/-!
Block clocks (16 R373, R374, R381, Table 16-3).
-/

namespace Sys2Proof.Machine.Part
open Sys2Proof

section
variable {p : Part}

/-- A Planer without a task whose wake nobody waits for. -/
theorem blockOff_planer {e : Nat} (hi : Tab.find (engKey .planer e) p.jig.eng = none) (hw : p.clocks.waking.contains (engKey .planer e) = false) :
    p.blockOff .planer e = ({ p with clocks := { p.clocks with off := insNat (engKey .planer e) p.clocks.off } } : Part).jigOffNow (e / 8) := by
  simp only [blockOff, hi, hw, Option.isSome_none, reduceCtorEq, false_and, Bool.false_eq_true, or_self, if_false]
  rfl

theorem pllOff_stops {n : Nat} (he : p.enginesOff n = true) (hj : p.clocks.jigOff.contains n = true) (hw : p.clocks.waking = []) :
    p.pllOff n = { p with clocks := { p.clocks with pllOff := insNat n p.clocks.pllOff } } := by
  have quiet : ((clockKeys n).all fun k => !p.clocks.waking.contains k) = true := by
    rw [hw]
    exact List.all_eq_true.mpr fun _ _ => rfl
  exact if_pos (by rw [he, hj, quiet]; rfl)

theorem chestClockOff_stops {ch : Nat} (ho : p.chOnline ch = true) (hb : p.chestBusy = false) (hl : (p.chan ch).leaving = false)
    (ht : (p.chan ch).training = false) : p.chestClockOff ch = p.setChan ch { p.chan ch with clockOff := true } :=
  if_pos (by rw [ho, hb, hl, ht]; rfl)

/-- A Gang without a slot that does not step. -/
theorem gangClockRelease_stops {g : Nat} (hc : (p.gang g).clock = true) (hs : (p.gang g).stepping = false) (he : p.gangSlots g = []) :
    p.gangClockRelease g = p.setGang g { p.gang g with clock := false, feed := {} } := if_pos (by rw [hc, hs, he]; rfl)

/-- A die whose PLL and Jig run starts a block at once. -/
theorem dieClock_running {n : Nat} (hp : p.clocks.pllOff.contains n = false) (hj : p.clocks.jigOff.contains n = false) (fail : Bool) :
    p.dieClock n fail = p := by
  simp only [dieClock, hp, hj, Bool.false_eq_true, if_false]

theorem blockStart_planer {e : Nat} (hw : p.clocks.waking.contains (engKey .planer e) = true) (hu : p.benchUp (p.phys (e / 8)) = true)
    (hp : p.clocks.pllOff.contains (e / 8) = false) (hj : p.clocks.jigOff.contains (e / 8) = false) (fail : Bool) :
    p.blockStart .planer e fail = ({ p with clocks := { p.clocks with
      off := p.clocks.off.filter (· != engKey .planer e)
      waking := p.clocks.waking.filter (· != engKey .planer e) } } : Part).bump (benchCtr (e / 8) 0 3 8) 1 := by
  have running : p.dieClock (engDie .planer e) fail = p := dieClock_running hp hj fail
  have up : p.benchUp (p.phys (engDie .planer e)) = true := hu
  simp only [blockStart, hw, running, up, Bool.not_true, Bool.false_eq_true, if_false]
  rfl

end

end Sys2Proof.Machine.Part

namespace Sys2Proof.Safety
open Sys2Proof Sys2Proof.Machine

theorem exec_blockClockOff (s : State) (cls : Cls) (e : Nat) : exec (.blockClockOff cls e) s = becomes s (s.part.blockOff cls e) := rfl

theorem exec_pllOff (s : State) (n : Nat) : exec (.pllOff n) s = becomes s (s.part.pllOff n) := rfl

theorem exec_chestClockOff (s : State) (ch : Nat) : exec (.chestClockOff ch) s = becomes s (s.part.chestClockOff ch) := rfl

theorem exec_gangClockRelease (s : State) (g : Nat) : exec (.gangClockRelease g) s = becomes s (s.part.gangClockRelease g) := rfl

theorem exec_blockClockStart (s : State) (cls : Cls) (e : Nat) (fail : Bool) :
    exec (.blockClockStart cls e fail) s = settlesTo s (s.part.blockStart cls e fail) := rfl

/-- Settles O42: each clock's guard is met by the hypotheses. -/
theorem clocksStopAndStart : Obligations.ClocksStopAndStart := by
  intro s
  refine ⟨fun e hi hw => ?engine, fun n he hj hw => ?pll, fun ch ho hb hl ht => ?chest, fun g hc hs he => ?gang, fun e hw hu hp hj fail => ?start⟩
  case engine => rw [exec_blockClockOff, Part.blockOff_planer hi hw]
  case pll => rw [exec_pllOff, Part.pllOff_stops he hj hw]
  case chest => rw [exec_chestClockOff, Part.chestClockOff_stops ho hb hl ht]
  case gang => rw [exec_gangClockRelease, Part.gangClockRelease_stops hc hs he]
  case start => rw [exec_blockClockStart, Part.blockStart_planer hw hu hp hj]

end Sys2Proof.Safety
end

section
/-!
Bring-up (16 R387, R389, Table 16-7).
-/

namespace Sys2Proof.Machine.Part
open Sys2Proof

section
variable {p : Part} (hs : p.power.started = true) (hk : p.power.stuck = false) (hr : p.power.rails = true)
include hs hk hr

theorem stageEnd_running : (!p.power.started || p.power.stuck || !p.power.rails) = false := by rw [hs, hk, hr]; rfl

/-- Stage 2 ends: the main frame die is up, or bring-up stops. -/
theorem stageEnd_frame (hf : p.frameUp 0 = false) (unit info : Nat) (marked : List Nat) (ok : Bool) : p.stageEnd 2 unit ok info marked =
    if ok then ((p.railsLit 8).setRb .bringupStatus 0 0 0 true).portsDetect
    else { p.setRb .bringupStatus 0 0 4 true with power := { p.power with stuck := true } } := by
  simp only [stageEnd, stageEnd_running hs hk hr, hf, Bool.false_eq_true, if_false, if_true]

theorem stageEnd_bench {k : Nat} (hu : k < 8) (hb : p.rb .bringupStatus 0 0 24 = true) (ok : Bool) (info : Nat) (marked : List Nat) :
    p.stageEnd 7 k ok info marked = (p.benchStage k ok info).pairRails := by
  have exists8 : decide (8 ≤ k) = false := decide_eq_false (Nat.not_le.mpr hu)
  simp only [stageEnd, stageEnd_running hs hk hr, hb, exists8, Bool.not_true, Bool.or_self, Bool.false_eq_true, if_false,
    Nat.reduceEqDiff, if_true]

/-- The Chest scan ends. -/
theorem stageEnd_scan (he : p.benchesEnded = true) (hc : p.rb .bringupStatus 0 0 25 = false) (ok : Bool) (info : Nat) (marked : List Nat) :
    p.stageEnd 8 16 ok info marked =
      ((p.reclaim.setRb .chestStatus 0 0 0 true).setRb .bringupStatus 0 0 25 true).setRb .bringupStatus 0 0 26 true := by
  simp only [stageEnd, stageEnd_running hs hk hr, he, hc, Bool.not_true, Bool.or_self, Bool.false_eq_true, if_false, Nat.reduceEqDiff, if_true,
    Nat.lt_irrefl]

end

/-- A pair of bench dies whose rails turn on changes neither registers nor memory. -/
theorem pairRails_keeps (p : Part) : p.pairRails.regs = p.regs ∧ p.pairRails.mem = p.mem := by
  have rails (l : List Nat) : (l.foldl (fun (q : Part) k => if q.dieEnded (8 + k) (16 + k) || q.svcState k == 6 then q else q.railsUp k) p).regs = p.regs ∧
      (l.foldl (fun (q : Part) k => if q.dieEnded (8 + k) (16 + k) || q.svcState k == 6 then q else q.railsUp k) p).mem = p.mem :=
    ⟨foldl_leaves regs (fun _ _ => by split <;> rfl) l p, foldl_leaves mem (fun _ _ => by split <;> rfl) l p⟩
  unfold pairRails
  split
  · exact ⟨rfl, rfl⟩
  · split
    · exact rails _
    · exact ⟨rfl, rfl⟩

/-- Repairs are applied to spare rows, not to memory. -/
theorem applyRepairs_mem (p : Part) (k : Nat) : (p.applyRepairs k).mem = p.mem := by
  refine foldl_leaves mem (fun q r => ?_) _ p
  dsimp only
  split <;> rfl

/-- A bench die that passes stage 7 (08 R182, R184). -/
theorem benchStage_passes {p : Part} {k : Nat} (he : p.dieEnded (8 + k) (16 + k) = false) (hs : p.svcState k ≠ 6) (info : Nat) :
    p.benchStage k true info = (((p.applyRepairs k).railsLit k).zeroBench k).setRb .bringupStatus 0 0 (8 + k) true := by
  simp only [benchStage, he, if_neg hs, Bool.false_eq_true, if_false, if_true]

/-- The store of a bench die that passed stage 7 reads zero. -/
theorem get_zeroBench {p : Part} {k a : Nat} (ho : p.mem.opens = []) (hl : benchAt k 0 ≤ a) (hu : a < benchAt k 0 + 0x8000000) :
    (p.zeroBench k).mem.get a = 0 := by
  have cell : Cells.get (Cells.clear p.mem.cells (benchAt k 0) 0x8000000) a = 0 := Cells.get_clear_in _ _ _ _ ⟨hl, hu⟩
  have base : (p.zeroBench k).mem.base a = 0 := by
    have closed : (p.zeroBench k).mem.opens = [] := congrArg (List.filter _) ho
    rw [Memory.base, closed]
    rfl
  rw [Memory.get, base]
  exact congrArg (· ^^^ 0) cell

end Sys2Proof.Machine.Part

namespace Sys2Proof.Safety
open Sys2Proof Sys2Proof.Machine

theorem exec_bringupStageEnd (s : State) (stage unit : Nat) (ok : Bool) (info : Nat) (marked : List Nat) :
    exec (.bringupStageEnd stage unit ok info marked) s = settlesTo s (s.part.stageEnd stage unit ok info marked) := rfl

/-- Settles O43. That unit 16 names the Chest scan is the model's choice (log entry 55). -/
theorem bringUpAdvances : Obligations.BringUpAdvances := by
  intro s info marked hs hk hr
  refine ⟨fun hf unit => ⟨?frame, ?frameFails⟩, fun k hu hb he hv ho => ?bench, fun he hc => ?scan⟩
  case frame =>
    refine ⟨_, (exec_bringupStageEnd ..).trans (congrArg (settlesTo s) (Part.stageEnd_frame hs hk hr hf unit info marked true)), ?_⟩
    exact Part.rb_setRb_same (s.part.railsLit 8) _ _ _ _ (by decide)
  case frameFails =>
    refine ⟨_, (exec_bringupStageEnd ..).trans (congrArg (settlesTo s) (Part.stageEnd_frame hs hk hr hf unit info marked false)), ?_, rfl⟩
    exact Part.rb_setRb_same s.part _ _ _ _ (by decide)
  case bench =>
    have ends := (Part.stageEnd_bench hs hk hr hu hb true info marked).trans (congrArg Part.pairRails (Part.benchStage_passes he hv info))
    obtain ⟨regs, mem⟩ := Part.pairRails_keeps ((((s.part.applyRepairs k).railsLit k).zeroBench k).setRb .bringupStatus 0 0 (8 + k) true)
    refine ⟨_, (exec_bringupStageEnd ..).trans (congrArg (settlesTo s) ends), ?_, fun a hl hu => ?_⟩
    · rw [Part.rb, Part.rv_eq_of_regs regs, ← Part.rb]
      exact Part.rb_setRb_same _ _ _ _ _ (by omega)
    · rw [mem]
      exact Part.get_zeroBench (p := (s.part.applyRepairs k).railsLit k) ((congrArg Memory.opens (Part.applyRepairs_mem ..)).trans ho) hl hu
  case scan =>
    refine ⟨_, (exec_bringupStageEnd ..).trans (congrArg (settlesTo s) (Part.stageEnd_scan hs hk hr he hc true info marked)), ?_, ?_, ?_⟩
    · rw [Part.rb_setRb_other _ _ _ _ _ _ _ _ _ _ (by decide), Part.rb_setRb_other _ _ _ _ _ _ _ _ _ _ (by decide)]
      exact Part.rb_setRb_same _ _ _ _ _ (by decide)
    · rw [Part.rb_setRb_bit _ _ _ _ _ (by decide) (by decide)]
      exact Part.rb_setRb_same _ _ _ _ _ (by decide)
    · exact Part.rb_setRb_same _ _ _ _ _ (by decide)

end Sys2Proof.Safety
end
section
/-!
Readings that arrive as a list, one for each register of a name.
-/

namespace Sys2Proof.Machine.Part
open Sys2Proof

/-- Folds whose steps agree while an invariant holds end alike. -/
theorem foldl_eq_of_invariant {α : Type} {f g : Part → α → Part} (inv : Part → Prop) {l : List α} (agree : ∀ q, inv q → ∀ a ∈ l, f q a = g q a)
    (kept : ∀ q, inv q → ∀ a ∈ l, inv (g q a)) {p : Part} (h : inv p) : l.foldl f p = l.foldl g p := by
  induction l generalizing p with
  | nil => rfl
  | cons a l ih =>
    rw [List.foldl_cons, List.foldl_cons, agree p h a List.mem_cons_self]
    exact ih (fun q hq b hb => agree q hq b (List.mem_cons_of_mem _ hb)) (fun q hq b hb => kept q hq b (List.mem_cons_of_mem _ hb))
      (kept p h a List.mem_cons_self)

/-- Reading `t` is stored in register `r` number `k`, by its old value. -/
def putReading (r : RegName) (die idx : Nat → Nat) (f : Nat → Nat → Nat) (q : Part) (x : Nat × Nat) : Part :=
  q.setReg r (die x.2) (idx x.2) (f x.1 (q.rv r (die x.2) (idx x.2)))

section
variable {r : RegName} {die idx : Nat → Nat} (f : Nat → Nat → Nat)

/-- Registers other than those that take a reading keep their values. -/
theorem rv_putReadings_other {l : List Nat} {n : Nat} {r' : RegName} {d i : Nat}
    (apart : ∀ k, n ≤ k → k < n + l.length → regOff r' d i ≠ regOff r (die k) (idx k)) (p : Part) :
    ((l.zipIdx n).foldl (putReading r die idx f) p).rv r' d i = p.rv r' d i := by
  refine List.foldlRecOn (motive := fun q : Part => q.rv r' d i = p.rv r' d i) _ _ rfl fun q hq x hx => ?_
  have range := List.snd_lt_add_of_mem_zipIdx hx
  exact (rv_setReg_other _ _ _ _ _ _ _ _ (apart x.2 (List.le_snd_of_mem_zipIdx hx) (by omega))).trans hq

/-- Each register holds its own reading. -/
theorem rv_putReadings {l : List Nat} {n k : Nat} (apart : ∀ j k, j < n + l.length → k < n + l.length → j ≠ k →
      regOff r (die j) (idx j) ≠ regOff r (die k) (idx k)) (hl : n ≤ k) (hu : k < n + l.length) (p : Part) :
    ((l.zipIdx n).foldl (putReading r die idx f) p).rv r (die k) (idx k) =
      (putReading r die idx f p (l.getD (k - n) 0, k)).rv r (die k) (idx k) := by
  induction l generalizing n p with
  | nil => exact absurd hu (Nat.not_lt.mpr hl)
  | cons t l ih =>
    rw [List.length_cons] at hu apart
    rw [List.zipIdx_cons, List.foldl_cons]
    by_cases h : k = n
    · subst h
      rw [rv_putReadings_other, Nat.sub_self, List.getD_cons_zero]
      intro j hj hm
      exact apart k j (by omega) (by omega) (by omega)
    · have next : k - n = k - (n + 1) + 1 := by omega
      have own : (putReading r die idx f p (t, n)).rv r (die k) (idx k) = p.rv r (die k) (idx k) :=
        rv_setReg_other _ _ _ _ _ _ _ _ (apart k n hu (by omega) h)
      rw [ih (fun i j hi hj => apart i j (by omega) (by omega)) (by omega) (by omega), next, List.getD_cons_succ]
      simp only [putReading, rv_setReg_same]
      rw [show p.setReg r (die n) (idx n) (f t (p.rv r (die n) (idx n))) = putReading r die idx f p (t, n) from rfl, own]

end

end Sys2Proof.Machine.Part
end

section
/-!
Regulators, sensors and power meters (16 R372, R375 to R379).
-/

namespace Sys2Proof.Machine.Part
open Sys2Proof

/-! ### Regulators -/

theorem regulatorFault_bench {p : Part} {die : Nat} (hr : p.power.rails = true) (hd : die < 8) (hu : p.benchUp die = true) :
    p.regulatorFault die 0 = p.benchDieFatal die 0x0860 := by
  obtain ⟨up, state⟩ : p.rb .bringupStatus 0 0 (8 + die) = true ∧ p.svcState die ≤ 1 := by
    simpa only [benchUp, Bool.and_eq_true, decide_eq_true_eq] using hu
  have serving : (p.svcState die != 6) = true := bne_iff_ne.mpr (by omega)
  simp only [regulatorFault, hr, hd, up, serving, Bool.not_true, Bool.false_eq_true, if_false, if_true, Bool.or_true, Bool.true_or, Bool.true_and,
    Nat.zero_ne_one]

theorem regulatorFault_frame {p : Part} {m : Nat} (hr : p.power.rails = true) (hm : m < 4) (hu : p.frameUp m = true) :
    p.regulatorFault (8 + m) 0 = p.frameDieFatal m 0x0860 := by
  have notBench : ¬8 + m < 8 := by omega
  have frame : 8 + m < 12 := by omega
  simp only [regulatorFault, hr, notBench, frame, Nat.add_sub_cancel_left, hu, Bool.not_true, Bool.false_eq_true, if_false, if_true, Nat.zero_ne_one]

/-! ### Sensors -/

/-- THERM_STATUS stands at no die's TEMP and at no stack's status. -/
theorem temp_ne_thermStatus (k : Nat) : regOff .temp 0 k ≠ regOff .thermStatus 0 0 := by
  simp only [regOff, instOff, regRow, winBase]
  omega

theorem stackStatus_ne_thermStatus (d i : Nat) : regOff .stackStatus d i ≠ regOff .thermStatus 0 0 := frame_ne_glob rfl rfl (by decide)

theorem stackStatus_ne_temp {k : Nat} (hk : k < 12) (d i : Nat) : regOff .stackStatus d i ≠ regOff .temp 0 k := frame_ne_glob rfl rfl hk

/-- TEMP of a die: its reading, and the highest one. -/
def tempImage (t old : Nat) : Nat := t + max t (bits old 8 8) * 2 ^ 8

/-- A stack's status with its reading. -/
def stackImage (t old : Nat) : Nat := setBits old 24 8 t

/-- No die throttles. -/
def DiesCool (p : Part) : Prop := ∀ k, k < 12 → p.rb .thermStatus 0 0 (8 + k) = false

/-- The sensor of a die below 100 C that does not throttle. -/
theorem dieTemp_cool {p : Part} {k t : Nat} (ht : t < 100) (h : p.rb .thermStatus 0 0 (8 + k) = false) :
    p.dieTemp k t = putReading .temp (fun _ => 0) id tempImage p (t, k) := by
  have cool : decide (100 ≤ t) = false := decide_eq_false (Nat.not_le.mpr ht)
  have off : (p.setReg .temp 0 k (tempImage t (p.rv .temp 0 k))).rb .thermStatus 0 0 (8 + k) = false := by
    rw [rb, rv_setReg_other _ _ _ _ _ _ _ _ (temp_ne_thermStatus k).symm]
    exact h
  have unfolded : p.dieTemp k t =
      let q := p.setReg .temp 0 k (tempImage t (p.rv .temp 0 k))
      let on := q.rb .thermStatus 0 0 (8 + k)
      if !on && decide (100 ≤ t) then (q.setRb .thermStatus 0 0 (8 + k) true).setRb .thermStatus 0 0 2 true
      else if on && decide (t ≤ 97) then q.setRb .thermStatus 0 0 (8 + k) false
      else q := rfl
  rw [unfolded]
  simp only [off, cool, Bool.and_false, Bool.false_and, Bool.false_eq_true, if_false]
  rfl

/-- The sensor of a stack below 95 C while no stack throttles. -/
theorem stackTemp_cool {p : Part} {k t : Nat} (ht : t < 95) (h : p.power.heat = []) :
    p.stackTemp k t = putReading .stackStatus (· / 3) (· % 3) stackImage p (t, k) := by
  have cool : decide (95 ≤ t) = false := decide_eq_false (Nat.not_le.mpr ht)
  have off : (p.setRf .stackStatus (k / 3) (k % 3) 24 8 t).power.heat.contains k = false := by
    rw [setRf_power, h]
    rfl
  simp only [stackTemp, off, cool, Bool.and_false, Bool.false_and, Bool.false_eq_true, if_false]
  rfl

/-- The alert changes its own two bits of THERM_STATUS, and the counters. -/
theorem thermAlert_regs (p : Part) (dies stks : List Nat) :
    (p.thermAlert dies stks).regs = ((p.setRb .thermStatus 0 0 0 true).setRb .thermStatus 0 0 1 true).regs ∨
    (p.thermAlert dies stks).regs = (p.setRb .thermStatus 0 0 0 false).regs ∨ (p.thermAlert dies stks).regs = p.regs := by
  simp only [thermAlert]
  split
  · exact .inl (bump_regs ..)
  · split
    · exact .inr (.inl rfl)
    · exact .inr (.inr rfl)

theorem rv_thermAlert_other (p : Part) (dies stks : List Nat) {r : RegName} {d i : Nat} (h : regOff r d i ≠ regOff .thermStatus 0 0) :
    (p.thermAlert dies stks).rv r d i = p.rv r d i := by
  rcases thermAlert_regs p dies stks with e | e | e <;> rw [rv_eq_of_regs e]
  · rw [rv_setRb_other _ _ _ _ _ _ _ _ _ h, rv_setRb_other _ _ _ _ _ _ _ _ _ h]
  · exact rv_setRb_other _ _ _ _ _ _ _ _ _ h

theorem rf_thermAlert (p : Part) (dies stks : List Nat) {lo w : Nat} (h : 2 ≤ lo) :
    (p.thermAlert dies stks).rf .thermStatus 0 0 lo w = p.rf .thermStatus 0 0 lo w := by
  have bit (q : Part) (b : Nat) (v : Bool) (hb : b < 2) : (q.setRb .thermStatus 0 0 b v).rf .thermStatus 0 0 lo w = q.rf .thermStatus 0 0 lo w :=
    rf_setRf_field _ _ _ _ _ _ _ _ _ (by omega) (by omega)
  rcases thermAlert_regs p dies stks with e | e | e <;> rw [rf, rv_eq_of_regs e, ← rf]
  · rw [bit _ _ _ (by decide), bit _ _ _ (by decide)]
  · exact bit _ _ _ (by decide)

/-- The part once cool dies and stacks have been read. -/
def readings (p : Part) (dies stks : List Nat) : Part :=
  (stks.zipIdx).foldl (putReading .stackStatus (· / 3) (· % 3) stackImage) ((dies.zipIdx).foldl (putReading .temp (fun _ => 0) id tempImage) p)

section
variable {p : Part} {dies stks : List Nat}

theorem readings_of_cool (hn : dies.length = 12) (hd : ∀ t ∈ dies, t < 100) (hs : ∀ t ∈ stks, t < 95) (hc : p.DiesCool) (hh : p.power.heat = []) :
    (stks.zipIdx).foldl (fun p x => p.stackTemp x.2 x.1) ((dies.zipIdx).foldl (fun p x => p.dieTemp x.2 x.1) p) = p.readings dies stks := by
  have read : (dies.zipIdx).foldl (fun p x => p.dieTemp x.2 x.1) p = (dies.zipIdx).foldl (putReading .temp (fun _ => 0) id tempImage) p := by
    refine foldl_eq_of_invariant DiesCool (fun q hq x hx => ?_) (fun q hq x _ k hk => ?_) hc
    · exact dieTemp_cool (hd _ (List.fst_mem_of_mem_zipIdx hx)) (hq x.2 (by have := List.snd_lt_of_mem_zipIdx hx; omega))
    · rw [rb, putReading, rv_setReg_other _ _ _ _ _ _ _ _ (temp_ne_thermStatus _).symm]
      exact hq k hk
  have heat : ((dies.zipIdx).foldl (putReading .temp (fun _ => 0) id tempImage) p).power.heat = [] :=
    (congrArg Power.heat (foldl_leaves power (f := putReading .temp (fun _ => 0) id tempImage) (fun _ _ => rfl) _ p)).trans hh
  rw [read, readings]
  exact foldl_eq_of_invariant (fun q => q.power.heat = []) (fun q hq x hx => stackTemp_cool (hs _ (List.fst_mem_of_mem_zipIdx hx)) hq)
    (fun q hq x _ => hq) heat

/-- A poll below every threshold. -/
theorem sensorPoll_cool (hr : p.power.rails = true) (ho : p.power.started = true) (hn : dies.length = 12) (hd : ∀ t ∈ dies, t < 100)
    (hs : ∀ t ∈ stks, t < 95) (hc : p.DiesCool) (hh : p.power.heat = []) : p.sensorPoll dies stks =
      let q := ({ p with power := { p.power with hot := (dies ++ stks).any fun t => decide (85 ≤ t) } } : Part).readings dies stks
      ((q.setRf .thermStatus 0 0 32 8 (dies.foldl max 0)).setRf .thermStatus 0 0 40 8 (stks.foldl max 0)).thermAlert dies stks := by
  have below (l : List Nat) (b : Nat) (h : ∀ t ∈ l, t < b) : (l.any fun t => decide (b ≤ t)) = false :=
    List.any_eq_false.mpr fun t ht hb => absurd (h t ht) (Nat.not_lt.mpr (of_decide_eq_true hb))
  have noDie := below dies 110 fun t ht => Nat.lt_trans (hd t ht) (by decide)
  have noStack := below stks 105 fun t ht => Nat.lt_trans (hs t ht) (by decide)
  rw [← readings_of_cool (p := { p with power := { p.power with hot := (dies ++ stks).any fun t => decide (85 ≤ t) } }) hn hd hs hc hh]
  simp only [sensorPoll, hr, ho, noDie, noStack, Bool.not_true, Bool.or_self, Bool.false_eq_true, if_false]

/-- The highest readings and the alert change THERM_STATUS only. -/
theorem rv_poll {q : Part} {a b : Nat} {r : RegName} {d i : Nat} (h : regOff r d i ≠ regOff .thermStatus 0 0) :
    (((q.setRf .thermStatus 0 0 32 8 a).setRf .thermStatus 0 0 40 8 b).thermAlert dies stks).rv r d i = q.rv r d i := by
  rw [rv_thermAlert_other _ _ _ h, setRf, rv_setReg_other _ _ _ _ _ _ _ _ h, setRf, rv_setReg_other _ _ _ _ _ _ _ _ h]

/-- A poll that finds a die at 110 C or a stack at 105 C (R377). -/
theorem sensorPoll_trips (hr : p.power.rails = true) (h : (∃ t ∈ dies, 110 ≤ t) ∨ ∃ t ∈ stks, 105 ≤ t) : p.sensorPoll dies stks =
    (({ p with power := { p.power with hot := (dies ++ stks).any fun t => decide (85 ≤ t) } } : Part).packageOff 4).setRb .thermStatus 0 0 0 true := by
  have hot : (dies.any (fun t => decide (110 ≤ t)) || stks.any fun t => decide (105 ≤ t)) = true := by
    simpa only [Bool.or_eq_true, List.any_eq_true, decide_eq_true_eq] using h
  simp only [sensorPoll, hr, hot, Bool.not_true, Bool.false_eq_true, if_false, if_true]

theorem rv_readings_temp (hn : dies.length = 12) {k : Nat} (hk : k < 12) :
    (p.readings dies stks).rv .temp 0 k = tempImage (dies.getD k 0) (p.rv .temp 0 k) % 2 ^ 64 := by
  have apart (i j : Nat) (h : i ≠ j) : regOff .temp 0 (id i) ≠ regOff .temp 0 (id j) := by
    simp only [regOff, instOff, regRow, winBase, id]
    omega
  have own := rv_putReadings (r := .temp) (die := fun _ => 0) (idx := id) tempImage (l := dies) (n := 0) (k := k)
    (fun i j _ _ h => apart i j h) (Nat.zero_le k) (by omega) p
  rw [readings, rv_putReadings_other _ fun j _ hj => (stackStatus_ne_temp hk _ _).symm]
  exact own.trans (rv_setReg_same ..)

theorem rf_readings_stack (hm : stks.length = 12) {k : Nat} (hk : k < 12) (ht : stks.getD k 0 < 2 ^ 8) :
    (p.readings dies stks).rf .stackStatus (k / 3) (k % 3) 24 8 = stks.getD k 0 := by
  have apart (i j : Nat) (h : i ≠ j) : regOff .stackStatus (i / 3) (i % 3) ≠ regOff .stackStatus (j / 3) (j % 3) := by
    simp only [regOff, instOff, regRow, winBase]
    omega
  have own := rv_putReadings (r := .stackStatus) (die := (· / 3)) (idx := (· % 3)) stackImage (l := stks) (n := 0) (k := k)
    (fun i j _ _ h => apart i j h) (Nat.zero_le k) (by omega) ((dies.zipIdx).foldl (putReading .temp (fun _ => 0) id tempImage) p)
  rw [rf, readings, own, Nat.sub_zero]
  exact rf_setRf_same _ _ _ _ _ _ _ (by decide) ht

end

/-- A list's highest reading lies below any bound of its readings. -/
theorem foldl_max_lt {l : List Nat} {b : Nat} (hb : 0 < b) (h : ∀ t ∈ l, t < b) : l.foldl max 0 < b :=
  List.foldlRecOn (motive := fun m => m < b) l max hb fun _ hm t ht => Nat.max_lt.mpr ⟨hm, h t ht⟩

/-- TEMP's two fields. -/
theorem bits_tempImage {t : Nat} (ht : t < 2 ^ 8) (old : Nat) :
    bits (tempImage t old % 2 ^ 64) 0 8 = t ∧ bits (tempImage t old % 2 ^ 64) 8 8 = max t (bits old 8 8) := by
  have highest : max t (bits old 8 8) < 2 ^ 8 := Nat.max_lt.mpr ⟨ht, bits_lt ..⟩
  rw [bits_eq, bits_eq, tempImage]
  omega

/-! ### Measured power (R379) -/

/-- PWR_MEAS and PWR_ENERGY after a measurement. -/
theorem pwrUpdate_measures {p : Part} (hr : p.power.rails = true) (ho : p.power.started = true) (power vin iin : Nat) :
    p.pwrUpdate power vin iin =
      let q := p.setReg .pwrMeas 0 0 (power + vin * 2 ^ 16 + iin * 2 ^ 32 + max power (p.rf .pwrMeas 0 0 48 16) * 2 ^ 48)
      let q : Part := { q with power := { q.power with eighths := (p.power.eighths + power) % 8 } }
      q.setReg .pwrEnergy 0 0 ((q.rv .pwrEnergy 0 0 + (p.power.eighths + power) / 8) % 2 ^ 64) := by
  simp only [pwrUpdate, hr, ho, Bool.not_true, Bool.or_self, Bool.false_eq_true, if_false]
  rfl

/-- What PWR_MEAS and PWR_ENERGY read after a measurement. -/
theorem pwrUpdate_reads {p : Part} (hr : p.power.rails = true) (ho : p.power.started = true) (power vin iin : Nat) :
    (p.pwrUpdate power vin iin).rv .pwrMeas 0 0 =
      (power + vin * 2 ^ 16 + iin * 2 ^ 32 + max power (p.rf .pwrMeas 0 0 48 16) * 2 ^ 48) % 2 ^ 64 ∧
    (p.pwrUpdate power vin iin).rv .pwrEnergy 0 0 = (p.rv .pwrEnergy 0 0 + (p.power.eighths + power) / 8) % 2 ^ 64 ∧
    (p.pwrUpdate power vin iin).power.eighths = (p.power.eighths + power) % 8 := by
  have apart : regOff .pwrMeas 0 0 ≠ regOff .pwrEnergy 0 0 := by decide
  rw [pwrUpdate_measures hr ho]
  refine ⟨?_, ?_, rfl⟩
  · rw [rv_setReg_other _ _ _ _ _ _ _ _ apart]
    exact rv_setReg_same ..
  · rw [rv_setReg_same, Nat.mod_mod]
    exact congrArg (fun x => (x + (p.power.eighths + power) / 8) % 2 ^ 64) (rv_setReg_other _ _ _ _ _ _ _ _ apart.symm)

/-- PWR_MEAS's four fields. -/
theorem bits_measurement {a b c d : Nat} (ha : a < 2 ^ 16) (hb : b < 2 ^ 16) (hc : c < 2 ^ 16) (hd : d < 2 ^ 16) :
    let v := (a + b * 2 ^ 16 + c * 2 ^ 32 + d * 2 ^ 48) % 2 ^ 64
    bits v 0 16 = a ∧ bits v 16 16 = b ∧ bits v 32 16 = c ∧ bits v 48 16 = d := by
  simp only [bits_eq]
  omega

end Sys2Proof.Machine.Part

namespace Sys2Proof.Safety
open Sys2Proof Sys2Proof.Machine

theorem exec_regulatorFault (s : State) (die sect : Nat) : exec (.regulatorFault die sect) s = settlesTo s (s.part.regulatorFault die sect) := rfl

theorem exec_sensorPoll (s : State) (dies stks : List Nat) : exec (.sensorPoll dies stks) s = becomes s (s.part.sensorPoll dies stks) := rfl

theorem exec_pwrMeasUpdate (s : State) (power vin iin : Nat) :
    exec (.pwrMeasUpdate power vin iin) s = becomes s (s.part.pwrUpdate power vin iin) := rfl

/-- Settles O41: readings below every threshold are plain stores, each in the register of its own die or stack. -/
theorem sensorsAndRegulatorsReport : Obligations.SensorsAndRegulatorsReport := by
  intro s hr
  refine ⟨fun die hd hu => ?bench, fun m hm hu => ?frame, fun dies stks h => ?trip, fun ho dies stks hn hm hd hs hc hh => ?cool,
    fun ho power vin iin hp hv hi => ?measured⟩
  case bench => rw [exec_regulatorFault, Part.regulatorFault_bench hr hd hu]
  case frame => rw [exec_regulatorFault, Part.regulatorFault_frame hr hm hu]
  case trip =>
    exact ⟨_, (exec_sensorPoll s dies stks).trans (congrArg (becomes s) (Part.sensorPoll_trips hr h)), rfl, rfl,
      Part.rb_setRb_same _ _ _ _ _ (by decide)⟩
  case cool =>
    have dieFits (k : Nat) (hk : k < 12) : dies.getD k 0 < 2 ^ 8 := by
      rw [List.getD_eq_getElem _ _ (hn.symm ▸ hk)]
      exact Nat.lt_trans (hd _ (List.getElem_mem _)) (by decide)
    have stackFits (k : Nat) (hk : k < 12) : stks.getD k 0 < 2 ^ 8 := by
      rw [List.getD_eq_getElem _ _ (hm.symm ▸ hk)]
      exact Nat.lt_trans (hs _ (List.getElem_mem _)) (by decide)
    refine ⟨_, (exec_sensorPoll s dies stks).trans (congrArg (becomes s) (Part.sensorPoll_cool hr ho hn hd hs hc hh)), fun k hk => ⟨?_, ?_, ?_⟩, ?_, ?_⟩
    · rw [Part.rf, Part.rv_poll (Part.temp_ne_thermStatus k), Part.rv_readings_temp hn hk]
      exact (Part.bits_tempImage (dieFits k hk) _).1
    · rw [Part.rf, Part.rv_poll (Part.temp_ne_thermStatus k), Part.rv_readings_temp hn hk]
      exact (Part.bits_tempImage (dieFits k hk) _).2
    · rw [Part.rf, Part.rv_poll (Part.stackStatus_ne_thermStatus _ _), ← Part.rf]
      exact Part.rf_readings_stack hm hk (stackFits k hk)
    · rw [Part.rf_thermAlert _ _ _ (by decide), Part.rf_setRf_field _ _ _ _ _ _ _ _ _ (by decide) (by decide)]
      exact Part.rf_setRf_same _ _ _ _ _ _ _ (by decide) (Nat.lt_trans (Part.foldl_max_lt (by decide) hd) (by decide))
    · rw [Part.rf_thermAlert _ _ _ (by decide)]
      exact Part.rf_setRf_same _ _ _ _ _ _ _ (by decide) (Nat.lt_trans (Part.foldl_max_lt (by decide) hs) (by decide))
  case measured =>
    have peak : max power (s.part.rf .pwrMeas 0 0 48 16) < 2 ^ 16 := Nat.max_lt.mpr ⟨hp, bits_lt ..⟩
    have image := Part.bits_measurement hp hv hi peak
    obtain ⟨meas, energy, eighths⟩ := Part.pwrUpdate_reads hr ho power vin iin
    rw [← meas] at image
    obtain ⟨watts, volts, amps, highest⟩ := image
    exact ⟨_, exec_pwrMeasUpdate s power vin iin, watts, volts, amps, highest, energy, eighths⟩

end Sys2Proof.Safety
end
